-- ==== Sys2Proof/Word.lean ====
section
/-!
DEFINITION. The word types of the Rufalar (R7, R15, R92, R235) and their plainest arithmetic.
-/
namespace Sys2Proof

/-- One byte of memory. -/
abbrev Byte := BitVec 8
/-- One 32-bit lane of a vector register (R7). -/
abbrev Lane := BitVec 32
/-- One 64-bit word: an instruction word, an integer operand, an address. -/
abbrev Word := BitVec 64
/-- The 128 bits of a general register or of a 16-byte granule (R15, R178). -/
abbrev Quad := BitVec 128
/-- A mask register: bit `l` enables lane `l` (R7). -/
abbrev Mask := BitVec 16
/-- A vector register: lanes 0 to 15 (R7). -/
abbrev Vec := Vector Lane 16

/-- A general register or a granule: 128 bits and one tag bit (R92, R178). -/
structure TReg where
  val : Quad := 0
  tag : Bool := false
  deriving DecidableEq, Repr

/-- The integer operand a register gives: bits 63:0, tagged or not (R94). -/
def TReg.int (r : TReg) : Word := r.val.setWidth 64

/-- An integer result: zero in bits 127:64, the tag clear (R94). -/
def TReg.ofInt (x : Word) : TReg := ⟨x.setWidth 128, false⟩

/-- `sext(x, n)` of R8 as an integer. -/
def sextInt (x n : Nat) : Int :=
  let y := x % 2 ^ n
  if n = 0 then 0 else if y < 2 ^ (n - 1) then (y : Int) else (y : Int) - 2 ^ n

/-- An integer reduced mod 2^w (R6). -/
def wrap (w : Nat) (x : Int) : BitVec w := BitVec.ofInt w x

/-- `sat(v, lo, hi)` of R8. -/
def satInt (v lo hi : Int) : Int := if v < lo then lo else if v > hi then hi else v

/-- `popcount(x)` of R8, over the low `n` bits. -/
def popcountNat : Nat → Nat → Nat
  | 0, _ => 0
  | n + 1, x => x % 2 + popcountNat n (x / 2)

/-- Bits `h:l` of a natural number (R6). -/
def bitsOf (x h l : Nat) : Nat := x / 2 ^ l % 2 ^ (h + 1 - l)

/-- Bit `i` of a natural number. -/
def bitOf (x i : Nat) : Bool := x / 2 ^ i % 2 = 1

end Sys2Proof
end

