-- ==== Sys2Proof/Config.lean ====
section
/-!
DEFINITION. What the manual leaves open (free values, with no body, so that nothing can be proved of what they are),
and what one unit of stepping A1 fixes for itself. The first argument of a free value is the step counter `State.tick`,
the second tells apart the choices made within one step.
-/
namespace Sys2Proof.Config

/-- A choice the manual leaves to the device (log entry 3): which cached entry is replaced (R101), old or new
translation (R176), old or new word at fetch (R185), the progress of an engine between two events (R365). -/
opaque freeNat : Nat → Nat → Nat
/-- A 64-bit value the manual does not state (log entry 4). -/
opaque freeWord : Nat → Nat → BitVec 64
/-- A byte the manual does not state, of an address or an offset (log entry 4). -/
opaque freeByte : Nat → Nat → BitVec 8
/-- How many cycles a blocking access adds (R170: representative figures, not architected; log entry 5). -/
opaque blockCycles : Nat → Nat → Nat
/-- A byte of the host's memory, behind a bound host window, at the moment it is read (R504; log entry 6). -/
opaque hostByte : Nat → Nat → BitVec 8
/-- Whether the host answers an operation on a window with a NAK (R505; log entry 6). -/
opaque hostNak : Nat → Nat → Bool
/-- What the serial number is made of. -/
opaque serialSeed : Nat
/-- The unit's serial number (R477: fixed at manufacture, and not zero). -/
def serial : BitVec 128 := BitVec.ofNat 128 (serialSeed % (2 ^ 128 - 1) + 1)
/-- The sequence of a record the device sends of its own (R506, R507: nothing says which; log entry 85). -/
opaque recordSeq : Nat → Nat → Nat
/-- Junction temperatures, power and supply voltage (R518), as the sensors give them at a step. -/
opaque sensor : Nat → Nat → BitVec 64
/-- The certificate words IDCERT returns (R514, R518). -/
opaque idCert : Nat → BitVec 64
/-- The signature halves r and s that the device identity key makes over a digest (R512, R514). -/
opaque identitySign : List (BitVec 8) → Nat × Nat
/-- Whether firmware slot 0 or 1 is signed by a key whose hash is fused (R513): the slots' contents are outside the
manual. -/
opaque firmwareSigned : Nat → Bool
/-- The version of the image in a firmware slot, and the fuse counter it is held to (R513). -/
opaque firmwareVersion : Nat → Nat
opaque firmwareCounter : Nat
/-- The part and the stepping the image in a firmware slot names (R513). -/
opaque firmwarePart : Nat → Nat × Nat
/-- The three conditions of R513 on a firmware slot. -/
def firmwareOk (slot : Nat) : Bool :=
  firmwareSigned slot && decide (firmwareCounter ≤ firmwareVersion slot) && firmwarePart slot == (0x0004, 0xA1)
/-- The SHA-512 digest of the running firmware (R512). -/
opaque firmwareDigest : List (BitVec 8)
/-- The vendor public key that the accepted firmware slot carries (R541), 133 bytes. -/
opaque vendorKey : List (BitVec 8)
/-- The husk images the flash holds, by kind and generation (R493, R497); empty for none. -/
opaque flashImage : Nat → Nat → List (BitVec 8)
/-- The generation of the vendor image in flash (R493), 0 for none. -/
opaque flashVendorGen : Nat
/-- The vendor fuse counter at manufacture (R492). -/
opaque vendorCounter : Nat
/-- Recovery code MSTAT shows when both firmware slots fail (R513, R518). -/
opaque recoveryCode : BitVec 8
/-- The stepping-specific bytes of save records (R466): promised to nobody, named by what they stand for. -/
opaque blobByte : Nat → Nat → BitVec 8

end Sys2Proof.Config
end

