-- ==== Sys2Proof/Syntax.lean ====
section
/-!
DEFINITION. The instruction set: one constructor of `Instr` per row of spec/opcode_table.json. Rows 0 to 279 are the
words and pair halves of R38, R62 and R63; rows 280 to 374 are the steps the machine's agents take on their own
(events), whose operands name the agent, and every choice the manual leaves to timing.
-/
namespace Sys2Proof

/-- A general register number g0..g63 (R32). -/
abbrev GReg := Fin 64
/-- A vector register number v0..v383 (R32). -/
abbrev VReg := Fin 384
/-- A mask register number k0..k15 (R32). -/
abbrev KReg := Fin 16

/-- Scopes of R203, in the codes of every scope field. -/
inductive Scope | core | cluster | die | pkg | sys
  deriving DecidableEq, Repr

/-- The order-scope codes of R211. -/
inductive Order | rlx | acq (s : Scope) | rel (s : Scope) | ar (s : Scope)
  deriving DecidableEq, Repr

/-- Type codes of LD, ST and LDA (R189). -/
inductive LdType | z8 | s8 | z16 | s16 | z32 | s32 | z64 | q
  deriving DecidableEq, Repr

/-- The size bit of the atomics (R214): 4 or 8 bytes. -/
inductive AtSize | z32 | z64
  deriving DecidableEq, Repr

/-- The integer atomic operations (R214). -/
inductive AmoOp | add | swap | and | or | xor | mins | maxs | maxz
  deriving DecidableEq, Repr

/-- The FP32 atomic operations (R215). -/
inductive AmofOp | add | min | max
  deriving DecidableEq, Repr

/-- FENCE kinds (R210). -/
inductive FenceKind | acq | rel | ar | seq
  deriving DecidableEq, Repr

/-- TLBINV kinds (R197). -/
inductive TlbKind | page | ctx | all
  deriving DecidableEq, Repr

/-- Divergence policies (R136, R154). -/
inductive Policy | dormant | detach | trap
  deriving DecidableEq, Repr

/-- CGET field codes (R113). -/
inductive CapField | addr | gid | perm | gen | tag | base | length
  deriving DecidableEq, Repr

/-- VINT types (R250). -/
inductive VType | z8 | s8 | z16 | s16 | z32 | s32
  deriving DecidableEq, Repr

/-- The second source of a vector word: a vector register, or a g register broadcast (SB, R250). -/
inductive VSrc | v (r : VReg) | g (r : GReg)
  deriving DecidableEq, Repr

/-- VCMP conditions (R252). -/
inductive VCond | eq | lt | le | ne | ge | gt
  deriving DecidableEq, Repr

/-- VFCMP conditions (R256). -/
inductive FCond | eq | lt | le | un | ne | ge | gt | ord
  deriving DecidableEq, Repr

/-- Rounding modes of VFP and VCVT words (R253, R277). -/
inductive Rm | rne | rtz | rdn | rup
  deriving DecidableEq, Repr

/-- Format codes 0x01..0x0E of R269. -/
inductive Fmt | f32 | bf16 | f16 | e4m3 | e5m2 | e2m1 | t4 | s8 | s4 | z8 | e8m0 | s32 | rank | z4
  deriving DecidableEq, Repr

/-- Types of VPACK and VUNPK (R279). -/
inductive PackType | z8 | s8 | z4 | s4
  deriving DecidableEq, Repr

/-- Types of VLDS, VSTS, VGATH, VSCAT (R296). -/
inductive MType | z8 | s8 | z16 | s16 | w32
  deriving DecidableEq, Repr

/-- Shuffle forms (R301). -/
inductive Shuf | xor (d : BitVec 4) | ziplo (b : VReg) | ziphi (b : VReg) | unzipe (b : VReg) | unzipo (b : VReg)
  deriving DecidableEq, Repr

/-- A lane number given as an immediate or by a g register (VROT, R301). -/
inductive LaneSrc | imm (n : BitVec 4) | g (r : GReg)
  deriving DecidableEq, Repr

/-- The source of VBCST (R301): lane n of a vector register, or a g register. -/
inductive BcSrc | lane (a : VReg) (n : BitVec 4) | g (r : GReg)
  deriving DecidableEq, Repr

/-- Scan and reduction operations (R304). -/
inductive ScanOp | add | min | max | and | or | xor
  deriving DecidableEq, Repr

/-- Scan and reduction types (R304). -/
inductive ScanType | f32 | s32 | z32
  deriving DecidableEq, Repr

/-- VCHAIN forms (R310). -/
inductive ChainForm | incl | excl | bc
  deriving DecidableEq, Repr

/-- KMOV forms (R112). -/
inductive KMov | kk (d a : KReg) | kg (d : KReg) (a : GReg) | gk (d : GReg) (a : KReg)
  deriving DecidableEq, Repr

/-- VBSCALE targets (R282). -/
inductive BsTarget | e4m3 | e5m2 | e2m1
  deriving DecidableEq, Repr

/-- MQRY values (R342). -/
inductive MqWhat | free | skip | done | out | busy
  deriving DecidableEq, Repr

/-- RKFLR fields (R361). -/
inductive RkWhat | flr | cnt | k | nan
  deriving DecidableEq, Repr

/-- SDOM facts (R447). -/
inductive SdWhat | size | first | stride | rank | pend | arr | w | recd
  deriving DecidableEq, Repr

/-- HPQRY values (R499). -/
inductive HpWhat | gen | pend | stage | digest
  deriving DecidableEq, Repr

/-- IDENT values (R477). -/
inductive IdWhat | part | stepping | counts | serialLo | serialHi
  deriving DecidableEq, Repr

/-- ECHK forms (R475). -/
inductive EchkForm | read (d : GReg) (a : GReg) (hi : Bool) | mark (a b : GReg)
  deriving DecidableEq, Repr

/-- HPLOAD forms (R497). -/
inductive HpSrc | mem (b : GReg) | fetch (a : GReg)
  deriving DecidableEq, Repr

/-- HPQRY operand use (R499). -/
inductive HpQuery | gen | pend | stage | digest (a : GReg)
  deriving DecidableEq, Repr

/-- RKBND forms (R363). -/
inductive BndForm | put (a : GReg) | clr
  deriving DecidableEq, Repr

/-- SCLK forms (R448). -/
inductive SclkForm | read | wait (a : GReg)
  deriving DecidableEq, Repr

/-- QDEQ forms (R425). -/
inductive DeqForm | plain (a : GReg) | block
  deriving DecidableEq, Repr

/-- One word or one pair half (rows 0-279), or one step of the machine's other agents (rows 280-374). -/
inductive Instr where
  -- SYS (0x00)
  | nop
  | trap (n : BitVec 16)
  | bkpt (n : BitVec 16)
  | eret (rpl kill : Bool)
  | mfsr (d : GReg) (sr : BitVec 12)
  | mtsr (sr : BitVec 12) (a : GReg)
  | isync
  | idle
  | tlbinv (kind : TlbKind) (scope : Scope) (a b : GReg)
  | echk (form : EchkForm)
  | csave (d b : GReg) (spad : Bool)
  | crest (d b : GReg) (spad : Bool)
  | hpload (d : GReg) (src : HpSrc)
  | hpact (d a : GReg)
  | hpqry (d : GReg) (what : HpQuery)
  | ident (d : GReg) (what : IdWhat)
  -- CTL (0x01)
  | br (off : BitVec 17)
  | bcc (a b : GReg) (off : BitVec 17)
  | bk (a b : KReg) (off : BitVec 17)
  | call (off : BitVec 17)
  | callr (a : GReg)
  | ret
  | jmpr (a : GReg)
  | loop (a : GReg) (off : BitVec 17)
  | enter (n : BitVec 10)
  | leave
  -- STRM (0x02)
  | subStream (policy : Policy) (d a b : GReg)
  | unsub (a b : GReg) (off : BitVec 17)
  | resub (d a b : GReg)
  | rdv (tag : BitVec 4)
  | rdvh (tag : BitVec 4) (n : BitVec 13)
  | brw (a : GReg) (j : BitVec 9) (off : BitVec 17)
  | wvote (all : Bool) (d a : GReg)
  | puboff
  | pubon
  -- INT (0x03)
  | add (d a b : GReg) (sh : BitVec 6)
  | addi (d a : GReg) (imm : BitVec 17)
  | sub (d a b : GReg) (sh : BitVec 6)
  | subi (d a : GReg) (imm : BitVec 17)
  | mul (d a b : GReg)
  | muli (d a : GReg) (imm : BitVec 17)
  | mulhS (d a b : GReg)
  | mulhiS (d a : GReg) (imm : BitVec 17)
  | mulhZ (d a b : GReg)
  | mulhiZ (d a : GReg) (imm : BitVec 17)
  | divS (d a b : GReg)
  | diviS (d a : GReg) (imm : BitVec 17)
  | divZ (d a b : GReg)
  | diviZ (d a : GReg) (imm : BitVec 17)
  | remS (d a b : GReg)
  | remiS (d a : GReg) (imm : BitVec 17)
  | remZ (d a b : GReg)
  | remiZ (d a : GReg) (imm : BitVec 17)
  | and (d a b : GReg) (sh : BitVec 6)
  | andi (d a : GReg) (imm : BitVec 17)
  | or (d a b : GReg) (sh : BitVec 6)
  | ori (d a : GReg) (imm : BitVec 17)
  | xor (d a b : GReg) (sh : BitVec 6)
  | xori (d a : GReg) (imm : BitVec 17)
  | andn (d a b : GReg) (sh : BitVec 6)
  | andni (d a : GReg) (imm : BitVec 17)
  | shl (d a b : GReg)
  | shli (d a : GReg) (n : BitVec 6)
  | shr (d a b : GReg)
  | shri (d a : GReg) (n : BitVec 6)
  | sar (d a b : GReg)
  | sari (d a : GReg) (n : BitVec 6)
  | rol (d a b : GReg)
  | roli (d a : GReg) (n : BitVec 6)
  | minS (d a b : GReg)
  | miniS (d a : GReg) (imm : BitVec 17)
  | minZ (d a b : GReg)
  | miniZ (d a : GReg) (imm : BitVec 17)
  | maxS (d a b : GReg)
  | maxiS (d a : GReg) (imm : BitVec 17)
  | maxZ (d a b : GReg)
  | maxiZ (d a : GReg) (imm : BitVec 17)
  | sltS (d a b : GReg)
  | sltiS (d a : GReg) (imm : BitVec 17)
  | sltZ (d a b : GReg)
  | sltiZ (d a : GReg) (imm : BitVec 17)
  | seq (d a b : GReg)
  | seqi (d a : GReg) (imm : BitVec 17)
  | clz (d a : GReg)
  | clzi (d : GReg) (imm : BitVec 17)
  | ctz (d a : GReg)
  | ctzi (d : GReg) (imm : BitVec 17)
  | popc (d a : GReg)
  | popci (d : GReg) (imm : BitVec 17)
  | brev (d a : GReg)
  | brevi (d : GReg) (imm : BitVec 17)
  | bfx (d a b : GReg) (w : BitVec 7) (sx : Bool)
  | bfxi (d a : GReg) (pos wm1 : BitVec 6) (sx : Bool)
  | bfi (d a b : GReg) (w : BitVec 7)
  | bfii (d a : GReg) (pos wm1 : BitVec 6)
  | mad (d a b : GReg)
  | madi (d a : GReg) (imm : BitVec 17)
  | mov (d a : GReg)
  | li (d : GReg) (imm : BitVec 29)
  -- CAP (0x04)
  | cget (d a : GReg) (field : CapField)
  | cseta (d a b : GReg)
  | cadd (d a : GReg) (imm : BitVec 17)
  | candp (d a : GReg) (perms : BitVec 12)
  | cfrom (d a b : GReg)
  | cclr (d a : GReg)
  | cchk (d a b : GReg)
  | gnew (d a b : GReg)
  | grev (d a : GReg)
  -- LDS (0x05)
  | ld (d a : GReg) (ty : LdType) (off : BitVec 14)
  | st (d a : GReg) (ty : LdType) (off : BitVec 14)
  | ldc (d a : GReg) (off : BitVec 17)
  | stc (d a : GReg) (off : BitVec 17)
  | lda (d a : GReg) (ty : LdType) (off : BitVec 14)
  | waitld (n : BitVec 6)
  | pref (a : GReg) (off : BitVec 17)
  -- ATM (0x06)
  | amo (op : AmoOp) (size : AtSize) (order : Order) (d a b : GReg)
  | amof (op : AmofOp) (order : Order) (d a b : GReg)
  | cas (size : AtSize) (order : Order) (d a b : GReg)
  | ldaq (size : AtSize) (scope : Scope) (d b : GReg)
  | strl (size : AtSize) (scope : Scope) (a b : GReg)
  | amonr (op : AmoOp) (size : AtSize) (order : Order) (a b : GReg)
  -- SYN (0x07)
  | fence (kind : FenceKind) (scope : Scope)
  | binit (a : GReg) (bar : BitVec 8)
  | bexp (a : GReg) (bar : BitVec 8)
  | barr (d : GReg) (bar : BitVec 8)
  | bwait (a : GReg) (bar : BitVec 8)
  | waitm (size : AtSize) (scope : Scope) (d a b : GReg)
  | msend (async core : Bool) (port : BitVec 3) (a b : GReg)
  | pget (d : GReg) (port : BitVec 3)
  -- MSK (0x08)
  | kand (d a b : KReg)
  | kor (d a b : KReg)
  | kxor (d a b : KReg)
  | kandn (d a b : KReg)
  | knot (d a : KReg)
  | kmov (form : KMov)
  | kpopc (d : GReg) (a : KReg)
  | kff (d : GReg) (a : KReg)
  | kset (d : KReg) (imm : BitVec 16)
  -- VINT (0x09)
  | vadd (k : KReg) (d a : VReg) (b : VSrc) (ty : VType)
  | vsub (k : KReg) (d a : VReg) (b : VSrc) (ty : VType)
  | vmul (k : KReg) (d a : VReg) (b : VSrc) (ty : VType)
  | vmulh (k : KReg) (d a : VReg) (b : VSrc) (ty : VType)
  | vmad (k : KReg) (d a : VReg) (b : VSrc) (ty : VType)
  | vand (k : KReg) (d a : VReg) (b : VSrc) (ty : VType)
  | vor (k : KReg) (d a : VReg) (b : VSrc) (ty : VType)
  | vxor (k : KReg) (d a : VReg) (b : VSrc) (ty : VType)
  | vshl (k : KReg) (d a : VReg) (b : VSrc) (ty : VType)
  | vshr (k : KReg) (d a : VReg) (b : VSrc) (ty : VType)
  | vsar (k : KReg) (d a : VReg) (b : VSrc) (ty : VType)
  | vmin (k : KReg) (d a : VReg) (b : VSrc) (ty : VType)
  | vmax (k : KReg) (d a : VReg) (b : VSrc) (ty : VType)
  | vabs (k : KReg) (d a : VReg) (ty : VType)
  | vcmp (k : KReg) (d : KReg) (a : VReg) (b : VSrc) (cond : VCond) (signed : Bool)
  | vsel (k : KReg) (d a : VReg) (b : VSrc) (ty : VType)
  | vpopc (k : KReg) (d a : VReg) (ty : VType)
  | vclz (k : KReg) (d a : VReg) (ty : VType)
  | vadds (k : KReg) (d a : VReg) (b : VSrc) (ty : VType)
  | vsubs (k : KReg) (d a : VReg) (b : VSrc) (ty : VType)
  | vmovs (k : KReg) (d a : VReg) (ty : VType)
  | vext (k : KReg) (d a : VReg) (n : BitVec 2) (ty : VType)
  -- VFP (0x0A)
  | vfadd (k : KReg) (d a : VReg) (b : VSrc) (rm : Rm)
  | vfsub (k : KReg) (d a : VReg) (b : VSrc) (rm : Rm)
  | vfmul (k : KReg) (d a : VReg) (b : VSrc) (rm : Rm)
  | vfma (k : KReg) (d a : VReg) (b : VSrc) (rm : Rm)
  | vfms (k : KReg) (d a : VReg) (b : VSrc) (rm : Rm)
  | vfmin (k : KReg) (d a : VReg) (b : VSrc) (num : Bool)
  | vfmax (k : KReg) (d a : VReg) (b : VSrc) (num : Bool)
  | vfabs (k : KReg) (d a : VReg)
  | vfneg (k : KReg) (d a : VReg)
  | vfcmp (k : KReg) (d : KReg) (a : VReg) (b : VSrc) (cond : FCond)
  | vfclass (k : KReg) (d : KReg) (a : VReg) (classes : BitVec 9)
  | vfdiv (k : KReg) (d a : VReg) (b : VSrc)
  | vfsqrt (k : KReg) (d a : VReg)
  -- VSFU (0x0B)
  | vrcp (k : KReg) (d a : VReg)
  | vrsq (k : KReg) (d a : VReg)
  | vexp2 (k : KReg) (d a : VReg)
  | vlog2 (k : KReg) (d a : VReg)
  | vsinpi (k : KReg) (d a : VReg)
  | vcospi (k : KReg) (d a : VReg)
  | vtanh (k : KReg) (d a : VReg)
  | vsigm (k : KReg) (d a : VReg)
  | verf (k : KReg) (d a : VReg)
  | vrng (k : KReg) (d a : VReg) (b : GReg)
  | vgumb (k : KReg) (d a : VReg)
  -- VCVT (0x0C)
  | vcvt (k : KReg) (d a : VReg) (src dst : Fmt) (rm : Rm) (sat : Bool) (slot : BitVec 3) (tbl : BitVec 2)
  | vcvtsr (k : KReg) (d a b : VReg) (dst : Fmt) (sat : Bool) (slot : BitVec 3)
  | vpack (k : KReg) (d a : VReg) (ty : PackType) (sat : Bool)
  | vunpk (k : KReg) (d a : VReg) (ty : PackType)
  | vscale (k : KReg) (d a : VReg) (b : VSrc) (inv : Bool) (e8 : Option (BitVec 2))
  | vrint (k : KReg) (d a : VReg) (rm : Rm) (x : Bool)
  | vbscale (k : KReg) (d : GReg) (a : VReg) (target : BsTarget) (b32 : Bool)
  -- VMEM (0x0D)
  | vld (k : KReg) (d : VReg) (a b : GReg)
  | vst (k : KReg) (d : VReg) (a b : GReg)
  | vlds (k : KReg) (d : VReg) (a b : GReg) (ty : MType)
  | vsts (k : KReg) (d : VReg) (a b : GReg) (ty : MType)
  | vgath (k : KReg) (d a : VReg) (b : GReg) (ty : MType) (si : Bool) (scale : BitVec 2)
  | vscat (k : KReg) (d a : VReg) (b : GReg) (ty : MType) (si : Bool) (scale : BitVec 2)
  | vcmpst (k : KReg) (d : VReg) (a b : GReg)
  | vexpld (k : KReg) (d : VReg) (a b : GReg)
  | vlda (k : KReg) (d : VReg) (a b : GReg)
  -- VPERM (0x0E)
  | vperm (k : KReg) (d a b : VReg) (two : Bool)
  | vshuf (k : KReg) (d a : VReg) (form : Shuf)
  | vrot (k : KReg) (d a : VReg) (n : LaneSrc)
  | vbcst (k : KReg) (d : VReg) (src : BcSrc)
  | vscan (k : KReg) (d a : VReg) (op : ScanOp) (ty : ScanType) (ex brk : Bool)
  | vsscan (k : KReg) (d a : VReg) (b : KReg) (op : ScanOp) (ty : ScanType) (ex brk : Bool)
  | vred (k : KReg) (d : GReg) (a : VReg) (op : ScanOp) (ty : ScanType)
  | vxchg (d a : VReg) (n : BitVec 2)
  | vchain (k : KReg) (d a : VReg) (op : ScanOp) (ty : ScanType) (form : ChainForm)
  | vcprs (k : KReg) (d a : VReg) (z : Bool)
  | vexpd (k : KReg) (d a : VReg) (z : Bool)
  | vballot (k : KReg) (d : GReg) (a : VReg)
  | vgetx (d : VReg) (a : GReg)
  | vputx (d : GReg) (a : VReg)
  -- VDOT (0x0F)
  | vdot4 (k : KReg) (d a : VReg) (b : VSrc) (as bs : Bool)
  | vdot8 (k : KReg) (d a : VReg) (b : VSrc) (as bs : Bool)
  | vdoth (k : KReg) (d a : VReg) (b : VSrc) (f16 : Bool)
  | vdott (k : KReg) (d a : VReg) (b : VSrc) (tbl : BitVec 2) (half : Bool)
  | vtblw (tbl : BitVec 2) (a : VReg)
  -- MTX (0x10)
  | mfmt (b : GReg)
  | mgang (d a b : GReg) (n : BitVec 3)
  | mpass (d a b : GReg) (gang : Bool)
  | mlist (d a b : GReg)
  | mzero (tile cm1 : BitVec 6) (me : BitVec 3)
  | mldc (d b : GReg)
  | mstc (d a b : GReg)
  | mwait (n : BitVec 6)
  | mtbl (me tbl : BitVec 3) (b : GReg)
  | mqry (d a : GReg) (what : MqWhat) (clr : Bool)
  -- RANK (0x11)
  | rkinit (acc : Bool) (a b : GReg)
  | rkins (k : KReg) (d : VReg) (b : GReg)
  | rkmrg (a b : GReg)
  | rkchain (bc : Bool) (b : GReg)
  | rkflr (d b : GReg) (what : RkWhat)
  | rkget (k : KReg) (d : VReg) (a b : GReg)
  | rkbnd (form : BndForm)
  -- ENG (0x12)
  | epost (d a b : GReg)
  | ewait (d a : GReg)
  | ecan (d a : GReg)
  | estat (d a : GReg)
  -- TASK (0x13)
  | tend
  | ttick (d : GReg)
  | tspawn (d a b : GReg)
  | tsig (d : GReg) (e : BitVec 6)
  | fopen (d a b : GReg)
  | fclose (d a : GReg)
  | fwait (d a : GReg)
  | fcan (d a : GReg)
  | qenq (d a b : GReg) (s : BitVec 4) (w : Bool)
  | qdeq (d b : GReg) (form : DeqForm)
  | qres (d b : GReg) (s : BitVec 4) (claim : Bool)
  | qcmt (d a b : GReg)
  | qflush (d b : GReg)
  | tyield (d : GReg)
  -- STEP (0x14)
  | ssend (d a b : GReg)
  | ssenda (d a b : GReg)
  | sbar (d a : GReg) (dom : BitVec 5)
  | sdom (d a : GReg) (what : SdWhat)
  | sclk (d : GReg) (form : SclkForm)
  -- pair halves (R38)
  | hnop
  | hadd (d a : GReg)
  | hsub (d a : GReg)
  | hand (d a : GReg)
  | hor (d a : GReg)
  | hxor (d a : GReg)
  | hshl (d a : GReg)
  | hshr (d a : GReg)
  | hmov (d a : GReg)
  | haddi (d a : GReg) (imm : BitVec 13)
  | handi (d a : GReg) (imm : BitVec 13)
  | hshli (d a : GReg) (n : BitVec 6)
  | hshri (d a : GReg) (n : BitVec 6)
  | hli (d : GReg) (imm : BitVec 13)
  | hvfadd (d a : Fin 64)
  | hvfmul (d a : Fin 64)
  | hvmov (d a : Fin 64)
  | hkand (d a : KReg)
  | hkor (d a : KReg)
  | hld (d a : GReg) (imm : BitVec 13)
  | hst (d a : GReg) (imm : BitVec 13)
  -- events of the cores (rows 280-298)
  | resultWrite (core idx : Nat)
  | loadSectorArrival (core idx sector : Nat)
  | storeQueueDrain (core idx : Nat)
  | stackSpill (core : Nat)
  | walkComplete (core va : Nat)
  | scrub (die : Nat)
  | impreciseTrapDelivery (core : Nat)
  | item (core : Nat)
  | weaveHold (core : Nat)
  | weaveRelease (core : Nat)
  | registrationArrival (core : Nat)
  | rdvTimeout (core : Nat)
  | collectiveArrival (core : Nat)
  | depositArrival (core : Nat)
  | asyncDepositApply (core port : Nat)
  | waitmWake (core : Nat)
  | waitmPoll (core : Nat)
  | waitmYield (core : Nat)
  | savedTaskRestore (idx : Nat) (cores : List Nat)
  -- events of the matrix engines (rows 299-304)
  | postAccept (core : Nat)
  | passGrant (me : Nat)
  | gangStart (cluster : Nat)
  | gangLatchTimeout (me id : Nat)
  | passComplete (me : Nat)
  | mtblArrive (me : Nat)
  -- events of the engines (rows 305-321)
  | combineWindowExpiry (idx : Nat)
  | postAcceptance (core : Nat)
  | copy (idx : Nat)
  | gather (idx : Nat)
  | scatter (idx : Nat)
  | fill (idx : Nat)
  | iload (idx : Nat)
  | convert (idx : Nat)
  | resume (idx : Nat)
  | route (idx : Nat)
  | jobStart (eng : Nat)
  | jobComplete (eng : Nat)
  | routeToken (die : Nat)
  | sieveDeadlock (die : Nat)
  | ctxset
  | save (die : Nat)
  | restore (die : Nat)
  -- events of the Hamper (rows 322-338)
  | launchTake (ctx queue : Nat)
  | launchDispatch (lid : Nat)
  | agePromotion (lid : Nat)
  | taskStart (lid : Nat) (cores : List Nat)
  | rangeSteal (lid die : Nat)
  | cancelDeadline (tid : Nat)
  | spawnWindowExpiry (die idx : Nat)
  | flushTimerExpiry (queue block : Nat)
  | commitTimeout (queue block : Nat)
  | queueDeadlock (ctx : Nat)
  | budgetPeriod (ctx : Nat)
  | saveDeadline (ctx : Nat)
  | secondDeadline (ctx : Nat)
  | stepRelease (tid dom : Nat)
  | stepTimeout (core : Nat)
  | sendLanding (idx : Nat)
  | sclkWaitExpiry (core : Nat)
  | huskSwitch (core : Nat)
  | delayExpiry (core : Nat)
  -- register writes that are rows of their own (rows 341-348)
  | modeWrite (x : Word)
  | grantbaseWrite (x : Word)
  | xbaseWrite (x : Word)
  | dutyWrite (x : Word)
  | fpflagsWrite (sr : BitVec 12) (x : Word)
  | portfullWrite (x : Word)
  | ecccClear (x : Word)
  | registerWrite (sr : BitVec 12) (x : Word)
  -- the host link (rows 349-368)
  | rdmaWrite (qp : Nat) (rkey : BitVec 32) (va : Nat) (data : List Byte)
  | rdmaRead (qp : Nat) (rkey : BitVec 32) (va len : Nat)
  | compareAndSwap (qp : Nat) (rkey : BitVec 32) (va : Nat) (cmp new : Word)
  | fetchAndAdd (qp : Nat) (rkey : BitVec 32) (va : Nat) (x : Word)
  | mread (src : Nat) (ctx : Nat) (seqn : Nat) (reg : BitVec 16)
  | mwrite (src : Nat) (ctx : Nat) (seqn : Nat) (reg : BitVec 16) (x : Word)
  | window (src : Nat) (ctx : Nat) (seqn : Nat) (idx qp : Nat) (raddr : Word) (rkey : BitVec 32) (len : Nat)
  | ringset (src : Nat) (ctx : Nat) (seqn : Nat) (addr : Word) (cap : Nat) (head : Word)
  | enrol (src : Nat) (ctx : Nat) (seqn : Nat) (key : List Byte)
  | preempt (src : Nat) (ctx : Nat) (seqn : Nat)
  | release (src : Nat) (ctx : Nat) (seqn : Nat)
  | attest (src : Nat) (ctx : Nat) (seqn : Nat) (nonce : List Byte)
  | dreply (src : Nat) (ctx : Nat) (seqn : Nat) (act : Nat) (answer : Nat)
  | huskdata (src : Nat) (ctx : Nat) (seqn : Nat) (off total : Nat) (data : List Byte)
  | dutyRecordRepeat (act : Nat)
  | smbusAccess (wr : Bool) (reg : BitVec 16) (x : Word) (owners : Option (List Nat))
  | jtagUnlock (token key sig : List Byte)
  | powerGood
  | throttleStep
  | thermalTrip
  -- rows 369-374
  | unassignedEncoding (w : Word)
  | budgetExhausted (ctx which : Nat)
  | parkedActivityTimeout (act : Nat)
  | placementClaim (lid : Nat) (cores : List Nat)
  | hostWindowNak (ctx : Nat) (addr : Nat)
  | eccError (addr : Nat) (uncorrectable : Bool)
  deriving DecidableEq, Repr

end Sys2Proof
end

