-- ==== Sys2Proof/WellFormed.lean ====
section
/-!
DEFINITION. Which terms of `Instr` are instructions: the operand ranges the manual gives beside the sizes that the
operand types already carry. A term that fails here has no encoding (R59).
-/
namespace Sys2Proof

/-- The system register numbers MFSR and MTSR accept (R449). -/
def srNumberOk (sr : BitVec 12) : Bool :=
  sr.toNat < 0x20 || (0x100 ≤ sr.toNat && sr.toNat < 0x180)

/-- The width in bits of a format of R269; RANK has none. -/
def Fmt.width : Fmt → Nat
  | .f32 | .s32 => 32
  | .bf16 | .f16 => 16
  | .e4m3 | .e5m2 | .s8 | .z8 | .e8m0 => 8
  | .e2m1 | .t4 | .s4 | .z4 => 4
  | .rank => 0

/-- Source formats VCVT accepts (R277). -/
def Fmt.vcvtSrc : Fmt → Bool
  | .rank => false
  | _ => true

/-- Destination formats VCVT accepts (R277). -/
def Fmt.vcvtDst : Fmt → Bool
  | .t4 | .e8m0 | .rank => false
  | _ => true

/-- The slots VCVT accepts for a pair of widths (R277). -/
def vcvtSlots (src dst : Fmt) : Nat :=
  if src.width < dst.width then dst.width / src.width else src.width / dst.width

/-- Destination formats of VCVTSR (R278). -/
def Fmt.srDst : Fmt → Bool
  | .bf16 | .f16 | .e4m3 | .e5m2 | .e2m1 => true
  | _ => false

/-- Registers VPACK reads and VUNPK writes (R279). -/
def PackType.count : PackType → Nat
  | .z8 | .s8 => 4
  | .z4 | .s4 => 8

/-- VINT types of 32 bits. -/
def VType.is32 : VType → Bool
  | .z32 | .s32 => true
  | _ => false

/-- VINT types of 16 bits. -/
def VType.is16 : VType → Bool
  | .z16 | .s16 => true
  | _ => false

/-- Store types of R296: 1 and 3 are ILLEGAL. -/
def MType.storeOk : MType → Bool
  | .s8 | .s16 => false
  | _ => true

/-- Store types of R189: 1, 3 and 5 are ILLEGAL. -/
def LdType.storeOk : LdType → Bool
  | .s8 | .s16 | .s32 => false
  | _ => true

/-- Bitwise scan operations, which have no FP32 form (R304). -/
def ScanOp.bitwise : ScanOp → Bool
  | .and | .or | .xor => true
  | _ => false

/-- An operation and type that R304 allows together. -/
def scanOk (op : ScanOp) (ty : ScanType) : Bool :=
  !(op.bitwise && ty == .f32)

/-- Order codes AMONR accepts: nothing returns to acquire (R218). -/
def Order.noAcquire : Order → Bool
  | .rlx | .rel _ => true
  | _ => false

/-- The instructions of the manual among the terms of `Instr`. -/
def Instr.wf : Instr → Bool
  | .mfsr _ sr => srNumberOk sr
  | .mtsr sr _ => srNumberOk sr
  | .tlbinv .all _ a b => a = 0 && b = 0
  | .hpload _ (.mem b) => b ≠ 0
  | .enter n => 1 ≤ n.toNat && n.toNat ≤ 512
  | .rdvh _ n => n.toNat ≤ 4607
  | .bfx _ _ _ w _ => 1 ≤ w.toNat && w.toNat ≤ 64
  | .bfi _ _ _ w => 1 ≤ w.toNat && w.toNat ≤ 64
  | .st _ _ ty _ => ty.storeOk
  | .amonr _ _ o _ _ => o.noAcquire
  | .vext _ _ _ n ty => !ty.is32 && (!ty.is16 || n.toNat ≤ 1)
  | .vrng _ d a _ => d.val % 4 = 0 && a.val % 4 = 0
  | .vcvt _ _ _ src dst _ _ slot tbl =>
      src.vcvtSrc && dst.vcvtDst && slot.toNat < vcvtSlots src dst && (src == .t4 || tbl = 0)
  | .vcvtsr _ _ _ _ dst _ slot => dst.srDst && slot.toNat < 32 / dst.width
  | .vpack _ _ a ty _ => a.val % ty.count = 0 && a.val + ty.count ≤ 384
  | .vunpk _ d _ ty => d.val % ty.count = 0 && d.val + ty.count ≤ 384
  | .vbscale _ _ a _ b32 => !b32 || (a.val % 2 = 0 && a.val ≤ 382)
  | .vsts _ _ _ _ ty => ty.storeOk
  | .vscat _ _ _ _ ty _ _ => ty.storeOk
  | .vperm _ _ a _ two => !two || a.val ≤ 382
  | .vshuf _ _ _ (.xor d) => d ≠ 0
  | .vscan _ _ _ op ty _ _ => scanOk op ty
  | .vsscan _ _ _ _ op ty _ _ => scanOk op ty
  | .vred _ _ _ op ty => scanOk op ty
  | .vchain _ _ _ op ty _ => scanOk op ty
  | .mgang _ a b n => n ≠ 1 && n ≠ 7 && (n ≠ 0 || (a = 0 && b = 0))
  | .mzero tile cm1 me => tile.toNat + cm1.toNat ≤ 63 && me.toNat ≤ 5
  | .mtbl me _ _ => me.toNat ≤ 5
  | .mqry _ _ what clr => !clr || what == .skip || what == .done
  | .rkins _ d _ => d.val ≤ 382
  | .rkget _ d _ _ => d.val ≤ 382
  | _ => true

end Sys2Proof
end

