-- ==== Sys2Proof/Decode.lean ====
section
/-!
DEFINITION. The decoder, total on any word and rejecting by name, and after it the encoder, both from the encoding
tables of R30 to R40, R62, R63 and the instruction entries.
-/
namespace Sys2Proof

/-- Why a word is no instruction (R59). -/
inductive Reject
  | reservedGroup      -- G in 0x15..0x1E
  | extensionGroup     -- G = 0x1F
  | unassignedMinor    -- F at or beyond the group's first unassigned code
  | reservedField      -- a reserved field, reserved M bit or unused register field is nonzero
  | registerRange      -- a register field out of range (R32)
  | operandValue       -- an operand value the entry calls ILLEGAL
  | illegalPair        -- a pair that breaks R40
  deriving DecidableEq, Repr

/-- The scheduling fields of a word (R30): STALL, SBSET, SBWAIT. For a pair, STALL1 alone (R42). -/
structure Sched where
  stall : BitVec 3 := 0
  sbset : BitVec 3 := 0
  sbwait : BitVec 7 := 0
  deriving DecidableEq, Repr

/-- A decoded word: one instruction, or the two halves of a pair (R29). -/
inductive Decoded
  | full (s : Sched) (i : Instr)
  | pair (stall1 : BitVec 1) (h1 h0 : Instr)
  deriving DecidableEq, Repr

/-- The fields of a full-form word (R30). -/
structure Raw where
  g : BitVec 5
  f : BitVec 6
  stall : BitVec 3
  sbset : BitVec 3
  sbwait : BitVec 7
  k : BitVec 4
  area : BitVec 35
  deriving DecidableEq, Repr

/-- The fields of a full-form word, cut from its 64 bits (R30). -/
def Raw.ofWord (w : Word) : Raw where
  g := w.extractLsb' 58 5
  f := w.extractLsb' 52 6
  stall := w.extractLsb' 49 3
  sbset := w.extractLsb' 46 3
  sbwait := w.extractLsb' 39 7
  k := w.extractLsb' 35 4
  area := w.extractLsb' 0 35

/-- The 64 bits of a full-form word (R30). -/
def Raw.toWord (r : Raw) : Word :=
  (0#1 ++ (r.g ++ (r.f ++ (r.stall ++ (r.sbset ++ (r.sbwait ++ (r.k ++ r.area))))))).cast (by decide)

/-- Field D of formats A, I and E; field A of format B (R33). -/
def Raw.d (r : Raw) : BitVec 9 := r.area.extractLsb' 26 9
/-- Field A of formats A, I and E; field B of format B (R33). -/
def Raw.a (r : Raw) : BitVec 9 := r.area.extractLsb' 17 9
/-- Field B of formats A and E (R33). -/
def Raw.b (r : Raw) : BitVec 9 := r.area.extractLsb' 8 9
/-- The modifier byte M (R33, R35). -/
def Raw.m (r : Raw) : BitVec 8 := r.area.extractLsb' 0 8
/-- imm17 of format I, the offset of format B (R33). -/
def Raw.imm (r : Raw) : BitVec 17 := r.area.extractLsb' 0 17

/-- The operand area of formats A and E. -/
def areaA (d a b : BitVec 9) (m : BitVec 8) : BitVec 35 := (d ++ (a ++ (b ++ m))).cast (by decide)
/-- The operand area of formats I and B. -/
def areaI (d a : BitVec 9) (imm : BitVec 17) : BitVec 35 := (d ++ (a ++ imm)).cast (by decide)
/-- The operand area of format L (R34). -/
def areaL (d : BitVec 6) (imm : BitVec 29) : BitVec 35 := (d ++ imm).cast (by decide)

/-- A condition whose failure rejects the word. -/
def need (r : Reject) (c : Bool) : Except Reject Unit := if c then .ok () else .error r

/-- A reserved field must be zero (R59). -/
def zero {n : Nat} (x : BitVec n) : Except Reject Unit := need .reservedField (x == 0)

/-- A g register field (R32). -/
def gOf (x : BitVec 9) : Except Reject GReg :=
  if h : x.toNat < 64 then .ok ⟨x.toNat, h⟩ else .error .registerRange
/-- A v register field (R32). -/
def vOf (x : BitVec 9) : Except Reject VReg :=
  if h : x.toNat < 384 then .ok ⟨x.toNat, h⟩ else .error .registerRange
/-- A k register field (R32). -/
def kOf (x : BitVec 9) : Except Reject KReg :=
  if h : x.toNat < 16 then .ok ⟨x.toNat, h⟩ else .error .registerRange
/-- The guard field K (R31): every value names a mask register. -/
def guardOf (x : BitVec 4) : KReg := ⟨x.toNat, x.isLt⟩
/-- A value a code table does not assign. -/
def code {α : Type} (x : Option α) : Except Reject α :=
  match x with
  | some y => .ok y
  | none => .error .operandValue
/-- An instruction whose operand values the entry allows. -/
def checked (i : Instr) : Except Reject Instr := if i.wf then .ok i else .error .operandValue

/-- A register number as a 9-bit field. -/
def fld {n : Nat} (x : Fin n) : BitVec 9 := BitVec.ofNat 9 x.val
/-- A flag as one bit. -/
def bit1 (b : Bool) : BitVec 1 := BitVec.ofBool b

/-! The code tables of the operand types: what each code means, and each meaning's code. -/

def scopeOf (x : Nat) : Option Scope :=
  match x with
  | 0 => some .core | 1 => some .cluster | 2 => some .die | 3 => some .pkg | 4 => some .sys | _ => none
def Scope.code : Scope → Nat
  | .core => 0 | .cluster => 1 | .die => 2 | .pkg => 3 | .sys => 4

def orderOf (x : Nat) : Order :=
  match x with
  | 0 => .rlx
  | 1 => .acq .core | 2 => .acq .cluster | 3 => .acq .die | 4 => .acq .pkg | 5 => .acq .sys
  | 6 => .rel .core | 7 => .rel .cluster | 8 => .rel .die | 9 => .rel .pkg | 10 => .rel .sys
  | 11 => .ar .core | 12 => .ar .cluster | 13 => .ar .die | 14 => .ar .pkg | _ => .ar .sys
def Order.code : Order → Nat
  | .rlx => 0 | .acq s => 1 + s.code | .rel s => 6 + s.code | .ar s => 11 + s.code

def ldTypeOf (x : Nat) : LdType :=
  match x with
  | 0 => .z8 | 1 => .s8 | 2 => .z16 | 3 => .s16 | 4 => .z32 | 5 => .s32 | 6 => .z64 | _ => .q
def LdType.code : LdType → Nat
  | .z8 => 0 | .s8 => 1 | .z16 => 2 | .s16 => 3 | .z32 => 4 | .s32 => 5 | .z64 => 6 | .q => 7

def atSizeOf (b : Bool) : AtSize := if b then .z64 else .z32
def AtSize.bit : AtSize → Bool
  | .z32 => false | .z64 => true

def amoOpOf (x : Nat) : AmoOp :=
  match x with
  | 0 => .add | 1 => .swap | 2 => .and | 3 => .or | 4 => .xor | 5 => .mins | 6 => .maxs | _ => .maxz
def AmoOp.code : AmoOp → Nat
  | .add => 0 | .swap => 1 | .and => 2 | .or => 3 | .xor => 4 | .mins => 5 | .maxs => 6 | .maxz => 7

def amofOpOf (x : Nat) : Option AmofOp :=
  match x with
  | 0 => some .add | 1 => some .min | 2 => some .max | _ => none
def AmofOp.code : AmofOp → Nat
  | .add => 0 | .min => 1 | .max => 2

def fenceKindOf (x : Nat) : FenceKind :=
  match x with
  | 0 => .acq | 1 => .rel | 2 => .ar | _ => .seq
def FenceKind.code : FenceKind → Nat
  | .acq => 0 | .rel => 1 | .ar => 2 | .seq => 3

def tlbKindOf (x : Nat) : Option TlbKind :=
  match x with
  | 0 => some .page | 1 => some .ctx | 2 => some .all | _ => none
def TlbKind.code : TlbKind → Nat
  | .page => 0 | .ctx => 1 | .all => 2

def policyOf (x : Nat) : Option Policy :=
  match x with
  | 0 => some .dormant | 1 => some .detach | 2 => some .trap | _ => none
def Policy.code : Policy → Nat
  | .dormant => 0 | .detach => 1 | .trap => 2

def capFieldOf (x : Nat) : Option CapField :=
  match x with
  | 0 => some .addr | 1 => some .gid | 2 => some .perm | 3 => some .gen | 4 => some .tag | 5 => some .base
  | 6 => some .length | _ => none
def CapField.code : CapField → Nat
  | .addr => 0 | .gid => 1 | .perm => 2 | .gen => 3 | .tag => 4 | .base => 5 | .length => 6

def vTypeOf (x : Nat) : Option VType :=
  match x with
  | 0 => some .z8 | 1 => some .s8 | 2 => some .z16 | 3 => some .s16 | 4 => some .z32 | 5 => some .s32 | _ => none
def VType.code : VType → Nat
  | .z8 => 0 | .s8 => 1 | .z16 => 2 | .s16 => 3 | .z32 => 4 | .s32 => 5

def vCondOf (x : Nat) : Option VCond :=
  match x with
  | 0 => some .eq | 1 => some .lt | 2 => some .le | 4 => some .ne | 5 => some .ge | 6 => some .gt | _ => none
def VCond.code : VCond → Nat
  | .eq => 0 | .lt => 1 | .le => 2 | .ne => 4 | .ge => 5 | .gt => 6

def fCondOf (x : Nat) : FCond :=
  match x with
  | 0 => .eq | 1 => .lt | 2 => .le | 3 => .un | 4 => .ne | 5 => .ge | 6 => .gt | _ => .ord
def FCond.code : FCond → Nat
  | .eq => 0 | .lt => 1 | .le => 2 | .un => 3 | .ne => 4 | .ge => 5 | .gt => 6 | .ord => 7

def rmOf (x : Nat) : Option Rm :=
  match x with
  | 0 => some .rne | 1 => some .rtz | 2 => some .rdn | 3 => some .rup | _ => none
def Rm.code : Rm → Nat
  | .rne => 0 | .rtz => 1 | .rdn => 2 | .rup => 3

def fmtOf (x : Nat) : Option Fmt :=
  match x with
  | 0x1 => some .f32 | 0x2 => some .bf16 | 0x3 => some .f16 | 0x4 => some .e4m3 | 0x5 => some .e5m2
  | 0x6 => some .e2m1 | 0x7 => some .t4 | 0x8 => some .s8 | 0x9 => some .s4 | 0xA => some .z8 | 0xB => some .e8m0
  | 0xC => some .s32 | 0xD => some .rank | 0xE => some .z4 | _ => none
def Fmt.code : Fmt → Nat
  | .f32 => 0x1 | .bf16 => 0x2 | .f16 => 0x3 | .e4m3 => 0x4 | .e5m2 => 0x5 | .e2m1 => 0x6 | .t4 => 0x7 | .s8 => 0x8
  | .s4 => 0x9 | .z8 => 0xA | .e8m0 => 0xB | .s32 => 0xC | .rank => 0xD | .z4 => 0xE

def packTypeOf (x : Nat) : PackType :=
  match x with
  | 0 => .z8 | 1 => .s8 | 2 => .z4 | _ => .s4
def PackType.code : PackType → Nat
  | .z8 => 0 | .s8 => 1 | .z4 => 2 | .s4 => 3

def mTypeOf (x : Nat) : Option MType :=
  match x with
  | 0 => some .z8 | 1 => some .s8 | 2 => some .z16 | 3 => some .s16 | 4 => some .w32 | _ => none
def MType.code : MType → Nat
  | .z8 => 0 | .s8 => 1 | .z16 => 2 | .s16 => 3 | .w32 => 4

def scanOpOf (x : Nat) : Option ScanOp :=
  match x with
  | 0 => some .add | 1 => some .min | 2 => some .max | 3 => some .and | 4 => some .or | 5 => some .xor | _ => none
def ScanOp.code : ScanOp → Nat
  | .add => 0 | .min => 1 | .max => 2 | .and => 3 | .or => 4 | .xor => 5

def scanTypeOf (x : Nat) : Option ScanType :=
  match x with
  | 0 => some .f32 | 1 => some .s32 | 2 => some .z32 | _ => none
def ScanType.code : ScanType → Nat
  | .f32 => 0 | .s32 => 1 | .z32 => 2

def bsTargetOf (x : Nat) : Option BsTarget :=
  match x with
  | 4 => some .e4m3 | 5 => some .e5m2 | 6 => some .e2m1 | _ => none
def BsTarget.code : BsTarget → Nat
  | .e4m3 => 4 | .e5m2 => 5 | .e2m1 => 6

def mqWhatOf (x : Nat) : Option MqWhat :=
  match x with
  | 0 => some .free | 1 => some .skip | 2 => some .done | 3 => some .out | 4 => some .busy | _ => none
def MqWhat.code : MqWhat → Nat
  | .free => 0 | .skip => 1 | .done => 2 | .out => 3 | .busy => 4

def rkWhatOf (x : Nat) : RkWhat :=
  match x with
  | 0 => .flr | 1 => .cnt | 2 => .k | _ => .nan
def RkWhat.code : RkWhat → Nat
  | .flr => 0 | .cnt => 1 | .k => 2 | .nan => 3

def sdWhatOf (x : Nat) : SdWhat :=
  match x with
  | 0 => .size | 1 => .first | 2 => .stride | 3 => .rank | 4 => .pend | 5 => .arr | 6 => .w | _ => .recd
def SdWhat.code : SdWhat → Nat
  | .size => 0 | .first => 1 | .stride => 2 | .rank => 3 | .pend => 4 | .arr => 5 | .w => 6 | .recd => 7

def idWhatOf (x : Nat) : Option IdWhat :=
  match x with
  | 0 => some .part | 1 => some .stepping | 2 => some .counts | 3 => some .serialLo | 4 => some .serialHi | _ => none
def IdWhat.code : IdWhat → Nat
  | .part => 0 | .stepping => 1 | .counts => 2 | .serialLo => 3 | .serialHi => 4

/-! Operand shapes shared by many entries. Each cuts its registers from the fields and checks what the shape
reserves. -/

/-- Every field of the area is reserved. -/
def noOps (i : Instr) (r : Raw) : Except Reject Instr := do
  zero r.k; zero r.area; return i
/-- `op gD, gA, gB`, M reserved. -/
def ggg (c : GReg → GReg → GReg → Instr) (r : Raw) : Except Reject Instr := do
  zero r.k; zero r.m; return c (← gOf r.d) (← gOf r.a) (← gOf r.b)
/-- `op gD, gA, gB, shl n` (R106). -/
def gggSh (c : GReg → GReg → GReg → BitVec 6 → Instr) (r : Raw) : Except Reject Instr := do
  zero r.k; zero (r.m.extractLsb' 6 2); return c (← gOf r.d) (← gOf r.a) (← gOf r.b) (r.m.extractLsb' 0 6)
/-- `op gD, gA, imm17`. -/
def ggi (c : GReg → GReg → BitVec 17 → Instr) (r : Raw) : Except Reject Instr := do
  zero r.k; return c (← gOf r.d) (← gOf r.a) r.imm
/-- `op gD, gA, n` with a 6-bit immediate, imm17[16:6] reserved (R107). -/
def gg6 (c : GReg → GReg → BitVec 6 → Instr) (r : Raw) : Except Reject Instr := do
  zero r.k; zero (r.imm.extractLsb' 6 11); return c (← gOf r.d) (← gOf r.a) (r.imm.extractLsb' 0 6)
/-- `op gD, gA`, B and M reserved. -/
def gg (c : GReg → GReg → Instr) (r : Raw) : Except Reject Instr := do
  zero r.k; zero r.b; zero r.m; return c (← gOf r.d) (← gOf r.a)
/-- `op gD, gB` of format E, A and M reserved. -/
def gxg (c : GReg → GReg → Instr) (r : Raw) : Except Reject Instr := do
  zero r.k; zero r.a; zero r.m; return c (← gOf r.d) (← gOf r.b)
/-- `opi gD, imm17`, A reserved (R107). -/
def gi (c : GReg → BitVec 17 → Instr) (r : Raw) : Except Reject Instr := do
  zero r.k; zero r.a; return c (← gOf r.d) r.imm
/-- `op kD, kA, kB` (R111). -/
def kkk (c : KReg → KReg → KReg → Instr) (r : Raw) : Except Reject Instr := do
  zero r.k; zero r.m; return c (← kOf r.d) (← kOf r.a) (← kOf r.b)
/-- The B operand of a vector word: SB selects a g register (R250). -/
def vsrcOf (sb : BitVec 1) (b : BitVec 9) : Except Reject VSrc :=
  if sb = 1 then do return .g (← gOf b) else do return .v (← vOf b)
/-- A binary VINT word (R250). -/
def vint2 (c : KReg → VReg → VReg → VSrc → VType → Instr) (r : Raw) : Except Reject Instr := do
  zero (r.m.extractLsb' 4 4)
  return c (guardOf r.k) (← vOf r.d) (← vOf r.a) (← vsrcOf (r.m.extractLsb' 3 1) r.b)
    (← code (vTypeOf (r.m.extractLsb' 0 3).toNat))
/-- A unary VINT word: B and SB reserved (R250). -/
def vint1 (c : KReg → VReg → VReg → VType → Instr) (r : Raw) : Except Reject Instr := do
  zero (r.m.extractLsb' 3 5); zero r.b
  return c (guardOf r.k) (← vOf r.d) (← vOf r.a) (← code (vTypeOf (r.m.extractLsb' 0 3).toNat))
/-- A VFP word with a rounding mode (R253). -/
def vfpRm (c : KReg → VReg → VReg → VSrc → Rm → Instr) (r : Raw) : Except Reject Instr := do
  zero (r.m.extractLsb' 4 4)
  return c (guardOf r.k) (← vOf r.d) (← vOf r.a) (← vsrcOf (r.m.extractLsb' 3 1) r.b)
    (← code (rmOf (r.m.extractLsb' 0 3).toNat))
/-- VFMIN and VFMAX: NUM in bit 4 (R253, R255). -/
def vfpNum (c : KReg → VReg → VReg → VSrc → Bool → Instr) (r : Raw) : Except Reject Instr := do
  zero (r.m.extractLsb' 5 3); zero (r.m.extractLsb' 0 3)
  return c (guardOf r.k) (← vOf r.d) (← vOf r.a) (← vsrcOf (r.m.extractLsb' 3 1) r.b) (r.m.extractLsb' 4 1 == 1)
/-- `op vD, vA` guarded, B and M reserved. -/
def kvv (c : KReg → VReg → VReg → Instr) (r : Raw) : Except Reject Instr := do
  zero r.b; zero r.m; return c (guardOf r.k) (← vOf r.d) (← vOf r.a)
/-- `op vD, gA, gB` guarded, M reserved (R296). -/
def kvgg (c : KReg → VReg → GReg → GReg → Instr) (r : Raw) : Except Reject Instr := do
  zero r.m; return c (guardOf r.k) (← vOf r.d) (← gOf r.a) (← gOf r.b)
/-- `op.type vD, gA, gB` guarded (R296). -/
def kvggT (c : KReg → VReg → GReg → GReg → MType → Instr) (r : Raw) : Except Reject Instr := do
  zero (r.m.extractLsb' 3 5)
  checked (c (guardOf r.k) (← vOf r.d) (← gOf r.a) (← gOf r.b) (← code (mTypeOf (r.m.extractLsb' 0 3).toNat)))
/-- VGATH and VSCAT (R296). -/
def kvvgT (c : KReg → VReg → VReg → GReg → MType → Bool → BitVec 2 → Instr) (r : Raw) : Except Reject Instr := do
  zero (r.m.extractLsb' 6 2)
  checked (c (guardOf r.k) (← vOf r.d) (← vOf r.a) (← gOf r.b) (← code (mTypeOf (r.m.extractLsb' 0 3).toNat))
    (r.m.extractLsb' 5 1 == 1) (r.m.extractLsb' 3 2))
/-- Atomics with an operation in M[6:4] and an order-scope code in M[3:0] (R211, R214). -/
def amoM (m : BitVec 8) : AmoOp × AtSize × Order :=
  (amoOpOf (m.extractLsb' 4 3).toNat, atSizeOf (m.extractLsb' 7 1 == 1), orderOf (m.extractLsb' 0 4).toNat)
/-- Size in M[7], M[6:3] reserved, scope in M[2:0] (R217, R227). -/
def sizeScope (m : BitVec 8) : Except Reject (AtSize × Scope) := do
  zero (m.extractLsb' 3 4)
  return (atSizeOf (m.extractLsb' 7 1 == 1), ← code (scopeOf (m.extractLsb' 0 3).toNat))

/-! One decoder per group: what each minor code of R62 and R63 means. -/

def decSYS (r : Raw) : Except Reject Instr :=
  match r.f.toNat with
  | 0x00 => noOps .nop r
  | 0x01 => do zero r.k; zero r.d; zero r.a; zero (r.imm.extractLsb' 16 1); return .trap (r.imm.extractLsb' 0 16)
  | 0x02 => do zero r.k; zero r.d; zero r.a; zero (r.imm.extractLsb' 16 1); return .bkpt (r.imm.extractLsb' 0 16)
  | 0x03 => do
    zero r.k; zero r.d; zero r.a; zero r.b; zero (r.m.extractLsb' 2 6)
    return .eret (r.m.extractLsb' 0 1 == 1) (r.m.extractLsb' 1 1 == 1)
  | 0x04 => do
    zero r.k; zero r.a; zero (r.imm.extractLsb' 12 5); checked (.mfsr (← gOf r.d) (r.imm.extractLsb' 0 12))
  | 0x05 => do
    zero r.k; zero r.d; zero (r.imm.extractLsb' 12 5); checked (.mtsr (r.imm.extractLsb' 0 12) (← gOf r.a))
  | 0x06 => noOps .isync r
  | 0x07 => noOps .idle r
  | 0x08 => do
    zero r.k; zero r.d; zero (r.m.extractLsb' 5 3)
    let kind ← code (tlbKindOf (r.m.extractLsb' 3 2).toNat)
    let scope ← code (scopeOf (r.m.extractLsb' 0 3).toNat)
    checked (.tlbinv kind scope (← gOf r.a) (← gOf r.b))
  | 0x09 => do
    zero r.k; zero (r.m.extractLsb' 2 6)
    if r.m.extractLsb' 1 1 = 1 then
      zero r.d; zero (r.m.extractLsb' 0 1); return .echk (.mark (← gOf r.a) (← gOf r.b))
    else
      zero r.b; return .echk (.read (← gOf r.d) (← gOf r.a) (r.m.extractLsb' 0 1 == 1))
  | 0x0A => do
    zero r.k; zero r.a; zero (r.m.extractLsb' 1 7); return .csave (← gOf r.d) (← gOf r.b) (r.m.extractLsb' 0 1 == 1)
  | 0x0B => do
    zero r.k; zero r.a; zero (r.m.extractLsb' 1 7); return .crest (← gOf r.d) (← gOf r.b) (r.m.extractLsb' 0 1 == 1)
  | 0x0C => do
    zero r.k; zero r.m
    let d ← gOf r.d
    let b ← gOf r.b
    if b = 0 then return .hpload d (.fetch (← gOf r.a)) else zero r.a; return .hpload d (.mem b)
  | 0x0D => gg .hpact r
  | 0x0E => do
    zero r.k; zero r.b; zero (r.m.extractLsb' 2 6)
    let d ← gOf r.d
    match (r.m.extractLsb' 0 2).toNat with
    | 0 => zero r.a; return .hpqry d .gen
    | 1 => zero r.a; return .hpqry d .pend
    | 2 => zero r.a; return .hpqry d .stage
    | _ => return .hpqry d (.digest (← gOf r.a))
  | 0x0F => do
    zero r.k; zero r.a; zero r.b; zero (r.m.extractLsb' 3 5)
    return .ident (← gOf r.d) (← code (idWhatOf (r.m.extractLsb' 0 3).toNat))
  | _ => .error .unassignedMinor

def decCTL (r : Raw) : Except Reject Instr :=
  match r.f.toNat with
  | 0x00 => do zero r.k; zero r.d; zero r.a; return .br r.imm
  | 0x01 => do zero r.k; return .bcc (← gOf r.d) (← gOf r.a) r.imm
  | 0x02 => do zero r.k; return .bk (← kOf r.d) (← kOf r.a) r.imm
  | 0x03 => do zero r.k; zero r.d; zero r.a; return .call r.imm
  | 0x04 => do zero r.k; zero r.d; zero r.b; zero r.m; return .callr (← gOf r.a)
  | 0x05 => noOps .ret r
  | 0x06 => do zero r.k; zero r.d; zero r.b; zero r.m; return .jmpr (← gOf r.a)
  | 0x07 => do zero r.k; zero r.a; return .loop (← gOf r.d) r.imm
  | 0x08 => do
    zero r.k; zero r.d; zero r.a; zero (r.imm.extractLsb' 10 7); checked (.enter (r.imm.extractLsb' 0 10))
  | 0x09 => noOps .leave r
  | _ => .error .unassignedMinor

def decSTRM (r : Raw) : Except Reject Instr :=
  match r.f.toNat with
  | 0x00 => do
    zero r.k; zero (r.m.extractLsb' 2 6)
    return .subStream (← code (policyOf (r.m.extractLsb' 0 2).toNat)) (← gOf r.d) (← gOf r.a) (← gOf r.b)
  | 0x01 => do zero r.k; return .unsub (← gOf r.d) (← gOf r.a) r.imm
  | 0x02 => ggg .resub r
  | 0x03 => do zero r.k; zero r.d; zero r.a; zero (r.imm.extractLsb' 4 13); return .rdv (r.imm.extractLsb' 0 4)
  | 0x04 => do
    zero r.k; zero r.d; zero r.a; checked (.rdvh (r.imm.extractLsb' 0 4) (r.imm.extractLsb' 4 13))
  | 0x05 => do zero r.k; return .brw (← gOf r.d) r.a r.imm
  | 0x06 => do
    zero r.k; zero r.b; zero (r.m.extractLsb' 1 7)
    return .wvote (r.m.extractLsb' 0 1 == 1) (← gOf r.d) (← gOf r.a)
  | 0x07 => noOps .puboff r
  | 0x08 => noOps .pubon r
  | _ => .error .unassignedMinor

/-- A two-register-form INT entry with B and M reserved (unary operations, MOV; R110). -/
def intUn (c : GReg → GReg → Instr) (r : Raw) : Except Reject Instr := gg c r

def decINT (r : Raw) : Except Reject Instr :=
  match r.f.toNat with
  | 0x00 => gggSh .add r
  | 0x01 => gggSh .sub r
  | 0x02 => ggg .mul r
  | 0x03 => ggg .mulhS r
  | 0x04 => ggg .mulhZ r
  | 0x05 => ggg .divS r
  | 0x06 => ggg .divZ r
  | 0x07 => ggg .remS r
  | 0x08 => ggg .remZ r
  | 0x09 => gggSh .and r
  | 0x0A => gggSh .or r
  | 0x0B => gggSh .xor r
  | 0x0C => gggSh .andn r
  | 0x0D => ggg .shl r
  | 0x0E => ggg .shr r
  | 0x0F => ggg .sar r
  | 0x10 => ggg .rol r
  | 0x11 => ggg .minS r
  | 0x12 => ggg .minZ r
  | 0x13 => ggg .maxS r
  | 0x14 => ggg .maxZ r
  | 0x15 => ggg .sltS r
  | 0x16 => ggg .sltZ r
  | 0x17 => ggg .seq r
  | 0x18 => intUn .clz r
  | 0x19 => intUn .ctz r
  | 0x1A => intUn .popc r
  | 0x1B => intUn .brev r
  | 0x1C => do
    zero r.k
    checked (.bfx (← gOf r.d) (← gOf r.a) (← gOf r.b) (r.m.extractLsb' 0 7) (r.m.extractLsb' 7 1 == 1))
  | 0x1D => do
    zero r.k; zero (r.m.extractLsb' 7 1)
    checked (.bfi (← gOf r.d) (← gOf r.a) (← gOf r.b) (r.m.extractLsb' 0 7))
  | 0x1E => ggg .mad r
  | 0x1F => intUn .mov r
  | 0x20 => ggi .addi r
  | 0x21 => ggi .subi r
  | 0x22 => ggi .muli r
  | 0x23 => ggi .mulhiS r
  | 0x24 => ggi .mulhiZ r
  | 0x25 => ggi .diviS r
  | 0x26 => ggi .diviZ r
  | 0x27 => ggi .remiS r
  | 0x28 => ggi .remiZ r
  | 0x29 => ggi .andi r
  | 0x2A => ggi .ori r
  | 0x2B => ggi .xori r
  | 0x2C => ggi .andni r
  | 0x2D => gg6 .shli r
  | 0x2E => gg6 .shri r
  | 0x2F => gg6 .sari r
  | 0x30 => gg6 .roli r
  | 0x31 => ggi .miniS r
  | 0x32 => ggi .miniZ r
  | 0x33 => ggi .maxiS r
  | 0x34 => ggi .maxiZ r
  | 0x35 => ggi .sltiS r
  | 0x36 => ggi .sltiZ r
  | 0x37 => ggi .seqi r
  | 0x38 => gi .clzi r
  | 0x39 => gi .ctzi r
  | 0x3A => gi .popci r
  | 0x3B => gi .brevi r
  | 0x3C => do
    zero r.k; zero (r.imm.extractLsb' 13 4)
    return .bfxi (← gOf r.d) (← gOf r.a) (r.imm.extractLsb' 0 6) (r.imm.extractLsb' 6 6)
      (r.imm.extractLsb' 12 1 == 1)
  | 0x3D => do
    zero r.k; zero (r.imm.extractLsb' 12 5)
    return .bfii (← gOf r.d) (← gOf r.a) (r.imm.extractLsb' 0 6) (r.imm.extractLsb' 6 6)
  | 0x3E => ggi .madi r
  | 0x3F => do
    zero r.k
    return .li ⟨(r.area.extractLsb' 29 6).toNat, (r.area.extractLsb' 29 6).isLt⟩ (r.area.extractLsb' 0 29)
  | _ => .error .unassignedMinor

def decCAP (r : Raw) : Except Reject Instr :=
  match r.f.toNat with
  | 0x00 => do
    zero r.k; zero r.b; zero (r.m.extractLsb' 3 5)
    return .cget (← gOf r.d) (← gOf r.a) (← code (capFieldOf (r.m.extractLsb' 0 3).toNat))
  | 0x01 => ggg .cseta r
  | 0x02 => ggi .cadd r
  | 0x03 => do
    zero r.k; zero (r.imm.extractLsb' 12 5); return .candp (← gOf r.d) (← gOf r.a) (r.imm.extractLsb' 0 12)
  | 0x04 => ggg .cfrom r
  | 0x05 => gg .cclr r
  | 0x06 => ggg .cchk r
  | 0x07 => ggg .gnew r
  | 0x08 => gg .grev r
  | _ => .error .unassignedMinor

def decLDS (r : Raw) : Except Reject Instr :=
  match r.f.toNat with
  | 0x00 => do
    zero r.k
    return .ld (← gOf r.d) (← gOf r.a) (ldTypeOf (r.imm.extractLsb' 14 3).toNat) (r.imm.extractLsb' 0 14)
  | 0x01 => do
    zero r.k
    checked (.st (← gOf r.d) (← gOf r.a) (ldTypeOf (r.imm.extractLsb' 14 3).toNat) (r.imm.extractLsb' 0 14))
  | 0x02 => ggi .ldc r
  | 0x03 => ggi .stc r
  | 0x04 => do
    zero r.k
    return .lda (← gOf r.d) (← gOf r.a) (ldTypeOf (r.imm.extractLsb' 14 3).toNat) (r.imm.extractLsb' 0 14)
  | 0x05 => do zero r.k; zero r.d; zero r.a; zero (r.imm.extractLsb' 6 11); return .waitld (r.imm.extractLsb' 0 6)
  | 0x06 => do zero r.k; zero r.d; return .pref (← gOf r.a) r.imm
  | _ => .error .unassignedMinor

def decATM (r : Raw) : Except Reject Instr :=
  match r.f.toNat with
  | 0x00 => do
    zero r.k
    return .amo (amoM r.m).1 (amoM r.m).2.1 (amoM r.m).2.2 (← gOf r.d) (← gOf r.a) (← gOf r.b)
  | 0x01 => do
    zero r.k; zero (r.m.extractLsb' 7 1)
    return .amof (← code (amofOpOf (r.m.extractLsb' 4 3).toNat)) (orderOf (r.m.extractLsb' 0 4).toNat)
      (← gOf r.d) (← gOf r.a) (← gOf r.b)
  | 0x02 => do
    zero r.k; zero (r.m.extractLsb' 4 3)
    return .cas (amoM r.m).2.1 (amoM r.m).2.2 (← gOf r.d) (← gOf r.a) (← gOf r.b)
  | 0x03 => do
    zero r.k; zero r.a
    let ss ← sizeScope r.m
    return .ldaq ss.1 ss.2 (← gOf r.d) (← gOf r.b)
  | 0x04 => do
    zero r.k; zero r.d
    let ss ← sizeScope r.m
    return .strl ss.1 ss.2 (← gOf r.a) (← gOf r.b)
  | 0x05 => do
    zero r.k; zero r.d
    checked (.amonr (amoM r.m).1 (amoM r.m).2.1 (amoM r.m).2.2 (← gOf r.a) (← gOf r.b))
  | _ => .error .unassignedMinor

def decSYN (r : Raw) : Except Reject Instr :=
  match r.f.toNat with
  | 0x00 => do
    zero r.k; zero r.d; zero r.a; zero r.b; zero (r.m.extractLsb' 5 3)
    return .fence (fenceKindOf (r.m.extractLsb' 3 2).toNat) (← code (scopeOf (r.m.extractLsb' 0 3).toNat))
  | 0x01 => do zero r.k; zero r.d; zero (r.imm.extractLsb' 8 9); return .binit (← gOf r.a) (r.imm.extractLsb' 0 8)
  | 0x02 => do zero r.k; zero r.d; zero r.b; return .bexp (← gOf r.a) r.m
  | 0x03 => do zero r.k; zero r.a; zero (r.imm.extractLsb' 8 9); return .barr (← gOf r.d) (r.imm.extractLsb' 0 8)
  | 0x04 => do zero r.k; zero r.d; zero (r.imm.extractLsb' 8 9); return .bwait (← gOf r.a) (r.imm.extractLsb' 0 8)
  | 0x05 => do
    zero r.k
    let ss ← sizeScope r.m
    return .waitm ss.1 ss.2 (← gOf r.d) (← gOf r.a) (← gOf r.b)
  | 0x06 => do
    zero r.k; zero r.d; zero (r.m.extractLsb' 5 3)
    return .msend (r.m.extractLsb' 3 1 == 1) (r.m.extractLsb' 4 1 == 1) (r.m.extractLsb' 0 3) (← gOf r.a) (← gOf r.b)
  | 0x07 => do
    zero r.k; zero r.a; zero r.b; zero (r.m.extractLsb' 3 5); return .pget (← gOf r.d) (r.m.extractLsb' 0 3)
  | _ => .error .unassignedMinor

def decMSK (r : Raw) : Except Reject Instr :=
  match r.f.toNat with
  | 0x00 => kkk .kand r
  | 0x01 => kkk .kor r
  | 0x02 => kkk .kxor r
  | 0x03 => kkk .kandn r
  | 0x04 => do zero r.k; zero r.b; zero r.m; return .knot (← kOf r.d) (← kOf r.a)
  | 0x05 => do
    zero r.k; zero r.b; zero (r.m.extractLsb' 2 6)
    match (r.m.extractLsb' 0 2).toNat with
    | 0 => return .kmov (.kk (← kOf r.d) (← kOf r.a))
    | 1 => return .kmov (.kg (← kOf r.d) (← gOf r.a))
    | 2 => return .kmov (.gk (← gOf r.d) (← kOf r.a))
    | _ => .error .operandValue
  | 0x06 => do zero r.k; zero r.b; zero r.m; return .kpopc (← gOf r.d) (← kOf r.a)
  | 0x07 => do zero r.k; zero r.b; zero r.m; return .kff (← gOf r.d) (← kOf r.a)
  | 0x08 => do
    zero r.k; zero r.a; zero (r.imm.extractLsb' 16 1); return .kset (← kOf r.d) (r.imm.extractLsb' 0 16)
  | _ => .error .unassignedMinor

def decVINT (r : Raw) : Except Reject Instr :=
  match r.f.toNat with
  | 0x00 => vint2 .vadd r
  | 0x01 => vint2 .vsub r
  | 0x02 => vint2 .vmul r
  | 0x03 => vint2 .vmulh r
  | 0x04 => vint2 .vmad r
  | 0x05 => vint2 .vand r
  | 0x06 => vint2 .vor r
  | 0x07 => vint2 .vxor r
  | 0x08 => vint2 .vshl r
  | 0x09 => vint2 .vshr r
  | 0x0A => vint2 .vsar r
  | 0x0B => vint2 .vmin r
  | 0x0C => vint2 .vmax r
  | 0x0D => vint1 .vabs r
  | 0x0E => do
    zero (r.m.extractLsb' 7 1)
    let ty ← code (vTypeOf (r.m.extractLsb' 0 3).toNat)
    need .operandValue ty.is32
    return .vcmp (guardOf r.k) (← kOf r.d) (← vOf r.a) (← vsrcOf (r.m.extractLsb' 3 1) r.b)
      (← code (vCondOf (r.m.extractLsb' 4 3).toNat)) (ty == .s32)
  | 0x0F => vint2 .vsel r
  | 0x10 => vint1 .vpopc r
  | 0x11 => vint1 .vclz r
  | 0x12 => vint2 .vadds r
  | 0x13 => vint2 .vsubs r
  | 0x14 => vint1 .vmovs r
  | 0x15 => do
    zero (r.m.extractLsb' 4 4)
    need .operandValue (r.m.extractLsb' 3 1 == 0)
    need .operandValue (r.b.toNat < 4)
    checked (.vext (guardOf r.k) (← vOf r.d) (← vOf r.a) (r.b.extractLsb' 0 2)
      (← code (vTypeOf (r.m.extractLsb' 0 3).toNat)))
  | _ => .error .unassignedMinor

def decVFP (r : Raw) : Except Reject Instr :=
  match r.f.toNat with
  | 0x00 => vfpRm .vfadd r
  | 0x01 => vfpRm .vfsub r
  | 0x02 => vfpRm .vfmul r
  | 0x03 => vfpRm .vfma r
  | 0x04 => vfpRm .vfms r
  | 0x05 => vfpNum .vfmin r
  | 0x06 => vfpNum .vfmax r
  | 0x07 => kvv .vfabs r
  | 0x08 => kvv .vfneg r
  | 0x09 => do
    zero (r.m.extractLsb' 7 1); zero (r.m.extractLsb' 0 3)
    return .vfcmp (guardOf r.k) (← kOf r.d) (← vOf r.a) (← vsrcOf (r.m.extractLsb' 3 1) r.b)
      (fCondOf (r.m.extractLsb' 4 3).toNat)
  | 0x0A => do zero r.m; return .vfclass (guardOf r.k) (← kOf r.d) (← vOf r.a) r.b
  | 0x0B => do
    zero (r.m.extractLsb' 4 4); zero (r.m.extractLsb' 0 3)
    return .vfdiv (guardOf r.k) (← vOf r.d) (← vOf r.a) (← vsrcOf (r.m.extractLsb' 3 1) r.b)
  | 0x0C => kvv .vfsqrt r
  | _ => .error .unassignedMinor

def decVSFU (r : Raw) : Except Reject Instr :=
  match r.f.toNat with
  | 0x00 => kvv .vrcp r
  | 0x01 => kvv .vrsq r
  | 0x02 => kvv .vexp2 r
  | 0x03 => kvv .vlog2 r
  | 0x04 => kvv .vsinpi r
  | 0x05 => kvv .vcospi r
  | 0x06 => kvv .vtanh r
  | 0x07 => kvv .vsigm r
  | 0x08 => kvv .verf r
  | 0x09 => do zero r.m; checked (.vrng (guardOf r.k) (← vOf r.d) (← vOf r.a) (← gOf r.b))
  | 0x0A => kvv .vgumb r
  | _ => .error .unassignedMinor

def decVCVT (r : Raw) : Except Reject Instr :=
  match r.f.toNat with
  | 0x00 => do
    let dst ← code (fmtOf (r.m.extractLsb' 4 4).toNat)
    let src ← code (fmtOf (r.m.extractLsb' 0 4).toNat)
    let rm ← code (rmOf (r.b.extractLsb' 0 3).toNat)
    checked (.vcvt (guardOf r.k) (← vOf r.d) (← vOf r.a) src dst rm (r.b.extractLsb' 3 1 == 1)
      (r.b.extractLsb' 4 3) (r.b.extractLsb' 7 2))
  | 0x01 => do
    let dst ← code (fmtOf (r.m.extractLsb' 0 4).toNat)
    checked (.vcvtsr (guardOf r.k) (← vOf r.d) (← vOf r.a) (← vOf r.b) dst (r.m.extractLsb' 7 1 == 1)
      (r.m.extractLsb' 4 3))
  | 0x02 => do
    zero r.b; zero (r.m.extractLsb' 3 5)
    checked (.vpack (guardOf r.k) (← vOf r.d) (← vOf r.a) (packTypeOf (r.m.extractLsb' 0 2).toNat)
      (r.m.extractLsb' 2 1 == 1))
  | 0x03 => do
    zero r.b; zero (r.m.extractLsb' 2 6)
    checked (.vunpk (guardOf r.k) (← vOf r.d) (← vOf r.a) (packTypeOf (r.m.extractLsb' 0 2).toNat))
  | 0x04 => do
    zero (r.m.extractLsb' 5 3)
    let b ← vsrcOf (r.m.extractLsb' 4 1) r.b
    if r.m.extractLsb' 0 1 = 1 then
      return .vscale (guardOf r.k) (← vOf r.d) (← vOf r.a) b (r.m.extractLsb' 3 1 == 1) (some (r.m.extractLsb' 1 2))
    else
      zero (r.m.extractLsb' 1 2)
      return .vscale (guardOf r.k) (← vOf r.d) (← vOf r.a) b (r.m.extractLsb' 3 1 == 1) none
  | 0x05 => do
    zero r.b; zero (r.m.extractLsb' 4 4)
    return .vrint (guardOf r.k) (← vOf r.d) (← vOf r.a) (← code (rmOf (r.m.extractLsb' 0 3).toNat))
      (r.m.extractLsb' 3 1 == 1)
  | 0x06 => do
    zero r.b; zero (r.m.extractLsb' 1 3)
    let t ← code (bsTargetOf (r.m.extractLsb' 4 4).toNat)
    checked (.vbscale (guardOf r.k) (← gOf r.d) (← vOf r.a) t (r.m.extractLsb' 0 1 == 1))
  | _ => .error .unassignedMinor

def decVMEM (r : Raw) : Except Reject Instr :=
  match r.f.toNat with
  | 0x00 => kvgg .vld r
  | 0x01 => kvgg .vst r
  | 0x02 => kvggT .vlds r
  | 0x03 => kvggT .vsts r
  | 0x04 => kvvgT .vgath r
  | 0x05 => kvvgT .vscat r
  | 0x06 => kvgg .vcmpst r
  | 0x07 => kvgg .vexpld r
  | 0x08 => kvgg .vlda r
  | _ => .error .unassignedMinor

/-- The OP and TYPE fields of R304. -/
def scanM (m : BitVec 8) : Except Reject (ScanOp × ScanType) := do
  zero (m.extractLsb' 7 1)
  return (← code (scanOpOf (m.extractLsb' 0 3).toNat), ← code (scanTypeOf (m.extractLsb' 3 2).toNat))

def decVPERM (r : Raw) : Except Reject Instr :=
  match r.f.toNat with
  | 0x00 => do
    zero (r.m.extractLsb' 1 7)
    checked (.vperm (guardOf r.k) (← vOf r.d) (← vOf r.a) (← vOf r.b) (r.m.extractLsb' 0 1 == 1))
  | 0x01 => do
    zero (r.m.extractLsb' 3 5)
    let d ← vOf r.d
    let a ← vOf r.a
    match (r.m.extractLsb' 0 3).toNat with
    | 0 => need .operandValue (r.b.toNat < 16); checked (.vshuf (guardOf r.k) d a (.xor (r.b.extractLsb' 0 4)))
    | 1 => return .vshuf (guardOf r.k) d a (.ziplo (← vOf r.b))
    | 2 => return .vshuf (guardOf r.k) d a (.ziphi (← vOf r.b))
    | 3 => return .vshuf (guardOf r.k) d a (.unzipe (← vOf r.b))
    | 4 => return .vshuf (guardOf r.k) d a (.unzipo (← vOf r.b))
    | _ => .error .operandValue
  | 0x02 => do
    zero (r.m.extractLsb' 1 7)
    let d ← vOf r.d
    let a ← vOf r.a
    if r.m.extractLsb' 0 1 = 1 then return .vrot (guardOf r.k) d a (.g (← gOf r.b))
    else need .operandValue (r.b.toNat < 16); return .vrot (guardOf r.k) d a (.imm (r.b.extractLsb' 0 4))
  | 0x03 => do
    zero (r.m.extractLsb' 1 7)
    let d ← vOf r.d
    if r.m.extractLsb' 0 1 = 1 then zero r.a; return .vbcst (guardOf r.k) d (.g (← gOf r.b))
    else
      need .operandValue (r.b.toNat < 16)
      return .vbcst (guardOf r.k) d (.lane (← vOf r.a) (r.b.extractLsb' 0 4))
  | 0x04 => do
    zero r.b
    let ot ← scanM r.m
    checked (.vscan (guardOf r.k) (← vOf r.d) (← vOf r.a) ot.1 ot.2 (r.m.extractLsb' 5 1 == 1)
      (r.m.extractLsb' 6 1 == 1))
  | 0x05 => do
    let ot ← scanM r.m
    checked (.vsscan (guardOf r.k) (← vOf r.d) (← vOf r.a) (← kOf r.b) ot.1 ot.2 (r.m.extractLsb' 5 1 == 1)
      (r.m.extractLsb' 6 1 == 1))
  | 0x06 => do
    zero r.b; zero (r.m.extractLsb' 5 2)
    let ot ← scanM r.m
    checked (.vred (guardOf r.k) (← gOf r.d) (← vOf r.a) ot.1 ot.2)
  | 0x07 => do
    zero r.k; zero r.b; zero (r.m.extractLsb' 2 6); return .vxchg (← vOf r.d) (← vOf r.a) (r.m.extractLsb' 0 2)
  | 0x08 => do
    zero r.b
    let ot ← scanM r.m
    let d ← vOf r.d
    let a ← vOf r.a
    match (r.m.extractLsb' 5 2).toNat with
    | 0 => checked (.vchain (guardOf r.k) d a ot.1 ot.2 .incl)
    | 1 => checked (.vchain (guardOf r.k) d a ot.1 ot.2 .excl)
    | 2 => checked (.vchain (guardOf r.k) d a ot.1 ot.2 .bc)
    | _ => .error .operandValue
  | 0x09 => do
    zero r.b; zero (r.m.extractLsb' 1 7)
    return .vcprs (guardOf r.k) (← vOf r.d) (← vOf r.a) (r.m.extractLsb' 0 1 == 1)
  | 0x0A => do
    zero r.b; zero (r.m.extractLsb' 1 7)
    return .vexpd (guardOf r.k) (← vOf r.d) (← vOf r.a) (r.m.extractLsb' 0 1 == 1)
  | 0x0B => do zero r.b; zero r.m; return .vballot (guardOf r.k) (← gOf r.d) (← vOf r.a)
  | 0x0C => do zero r.k; zero r.b; zero r.m; return .vgetx (← vOf r.d) (← gOf r.a)
  | 0x0D => do zero r.k; zero r.b; zero r.m; return .vputx (← gOf r.d) (← vOf r.a)
  | _ => .error .unassignedMinor

def decVDOT (r : Raw) : Except Reject Instr :=
  match r.f.toNat with
  | 0x00 => do
    zero (r.m.extractLsb' 3 5)
    return .vdot4 (guardOf r.k) (← vOf r.d) (← vOf r.a) (← vsrcOf (r.m.extractLsb' 2 1) r.b)
      (r.m.extractLsb' 0 1 == 1) (r.m.extractLsb' 1 1 == 1)
  | 0x01 => do
    zero (r.m.extractLsb' 3 5)
    return .vdot8 (guardOf r.k) (← vOf r.d) (← vOf r.a) (← vsrcOf (r.m.extractLsb' 2 1) r.b)
      (r.m.extractLsb' 0 1 == 1) (r.m.extractLsb' 1 1 == 1)
  | 0x02 => do
    zero (r.m.extractLsb' 2 6)
    return .vdoth (guardOf r.k) (← vOf r.d) (← vOf r.a) (← vsrcOf (r.m.extractLsb' 1 1) r.b)
      (r.m.extractLsb' 0 1 == 1)
  | 0x03 => do
    zero (r.m.extractLsb' 4 4)
    return .vdott (guardOf r.k) (← vOf r.d) (← vOf r.a) (← vsrcOf (r.m.extractLsb' 3 1) r.b)
      (r.m.extractLsb' 0 2) (r.m.extractLsb' 2 1 == 1)
  | 0x04 => do
    zero r.k; zero r.d; zero r.b; zero (r.m.extractLsb' 2 6); return .vtblw (r.m.extractLsb' 0 2) (← vOf r.a)
  | _ => .error .unassignedMinor

def decMTX (r : Raw) : Except Reject Instr :=
  match r.f.toNat with
  | 0x00 => do zero r.k; zero r.d; zero r.a; zero r.m; return .mfmt (← gOf r.b)
  | 0x01 => do
    zero r.k; zero (r.m.extractLsb' 3 5)
    let a ← gOf r.a
    let b ← gOf r.b
    checked (.mgang (← gOf r.d) a b (r.m.extractLsb' 0 3))
  | 0x02 => do
    zero r.k; zero (r.m.extractLsb' 1 7)
    return .mpass (← gOf r.d) (← gOf r.a) (← gOf r.b) (r.m.extractLsb' 0 1 == 1)
  | 0x03 => ggg .mlist r
  | 0x04 => do
    zero r.k; zero r.d; zero r.a; zero (r.imm.extractLsb' 15 2)
    checked (.mzero (r.imm.extractLsb' 0 6) (r.imm.extractLsb' 6 6) (r.imm.extractLsb' 12 3))
  | 0x05 => gxg .mldc r
  | 0x06 => ggg .mstc r
  | 0x07 => do zero r.k; zero r.d; zero r.a; zero (r.imm.extractLsb' 6 11); return .mwait (r.imm.extractLsb' 0 6)
  | 0x08 => do
    zero r.k; zero r.d; zero r.a; zero (r.m.extractLsb' 6 2)
    checked (.mtbl (r.m.extractLsb' 3 3) (r.m.extractLsb' 0 3) (← gOf r.b))
  | 0x09 => do
    zero r.k; zero r.b; zero (r.m.extractLsb' 4 4)
    let w ← code (mqWhatOf (r.m.extractLsb' 0 3).toNat)
    checked (.mqry (← gOf r.d) (← gOf r.a) w (r.m.extractLsb' 3 1 == 1))
  | _ => .error .unassignedMinor

def decRANK (r : Raw) : Except Reject Instr :=
  match r.f.toNat with
  | 0x00 => do
    zero r.k; zero r.d; zero (r.m.extractLsb' 1 7)
    return .rkinit (r.m.extractLsb' 0 1 == 1) (← gOf r.a) (← gOf r.b)
  | 0x01 => do zero r.a; zero r.m; checked (.rkins (guardOf r.k) (← vOf r.d) (← gOf r.b))
  | 0x02 => do zero r.k; zero r.d; zero r.m; return .rkmrg (← gOf r.a) (← gOf r.b)
  | 0x03 => do
    zero r.k; zero r.d; zero r.a; zero (r.m.extractLsb' 1 7); return .rkchain (r.m.extractLsb' 0 1 == 1) (← gOf r.b)
  | 0x04 => do
    zero r.k; zero r.a; zero (r.m.extractLsb' 2 6)
    return .rkflr (← gOf r.d) (← gOf r.b) (rkWhatOf (r.m.extractLsb' 0 2).toNat)
  | 0x05 => do zero r.m; checked (.rkget (guardOf r.k) (← vOf r.d) (← gOf r.a) (← gOf r.b))
  | 0x06 => do
    zero r.k; zero r.d; zero r.b; zero (r.m.extractLsb' 1 7)
    if r.m.extractLsb' 0 1 = 1 then zero r.a; return .rkbnd .clr else return .rkbnd (.put (← gOf r.a))
  | _ => .error .unassignedMinor

def decENG (r : Raw) : Except Reject Instr :=
  match r.f.toNat with
  | 0x00 => ggg .epost r
  | 0x01 => gg .ewait r
  | 0x02 => gg .ecan r
  | 0x03 => gg .estat r
  | _ => .error .unassignedMinor

noncomputable def decTASK (r : Raw) : Except Reject Instr :=
  match r.f.toNat with
  | 0x00 => noOps .tend r
  | 0x01 => do zero r.k; zero r.a; zero r.b; zero r.m; return .ttick (← gOf r.d)
  | 0x02 => ggg .tspawn r
  | 0x03 => do
    zero r.k; zero r.a; zero r.b; zero (r.m.extractLsb' 6 2); return .tsig (← gOf r.d) (r.m.extractLsb' 0 6)
  | 0x04 => ggg .fopen r
  | 0x05 => gg .fclose r
  | 0x06 => gg .fwait r
  | 0x07 => gg .fcan r
  | 0x08 => do
    zero r.k; zero (r.m.extractLsb' 5 3)
    return .qenq (← gOf r.d) (← gOf r.a) (← gOf r.b) (r.m.extractLsb' 1 4) (r.m.extractLsb' 0 1 == 1)
  | 0x09 => do
    zero r.k; zero (r.m.extractLsb' 1 7)
    let d ← gOf r.d
    let b ← gOf r.b
    if r.m.extractLsb' 0 1 = 1 then zero r.a; return .qdeq d b .block else return .qdeq d b (.plain (← gOf r.a))
  | 0x0A => do
    zero r.k; zero r.a; zero (r.m.extractLsb' 5 3)
    return .qres (← gOf r.d) (← gOf r.b) (r.m.extractLsb' 1 4) (r.m.extractLsb' 0 1 == 1)
  | 0x0B => ggg .qcmt r
  | 0x0C => gxg .qflush r
  | 0x0D => do zero r.k; zero r.a; zero r.b; zero r.m; return .tyield (← gOf r.d)
  | _ => .error .unassignedMinor

noncomputable def decSTEP (r : Raw) : Except Reject Instr :=
  match r.f.toNat with
  | 0x00 => ggg .ssend r
  | 0x01 => ggg .ssenda r
  | 0x02 => do zero r.k; zero (r.imm.extractLsb' 5 12); return .sbar (← gOf r.d) (← gOf r.a) (r.imm.extractLsb' 0 5)
  | 0x03 => do
    zero r.k; zero r.b; zero (r.m.extractLsb' 3 5)
    return .sdom (← gOf r.d) (← gOf r.a) (sdWhatOf (r.m.extractLsb' 0 3).toNat)
  | 0x04 => do
    zero r.k; zero r.b; zero (r.m.extractLsb' 1 7)
    let d ← gOf r.d
    if r.m.extractLsb' 0 1 = 1 then return .sclk d (.wait (← gOf r.a)) else zero r.a; return .sclk d .read
  | _ => .error .unassignedMinor

/-- The instruction of a full-form word (R59, R62). -/
noncomputable def decodeFull (r : Raw) : Except Reject Instr :=
  match r.g.toNat with
  | 0x00 => decSYS r
  | 0x01 => decCTL r
  | 0x02 => decSTRM r
  | 0x03 => decINT r
  | 0x04 => decCAP r
  | 0x05 => decLDS r
  | 0x06 => decATM r
  | 0x07 => decSYN r
  | 0x08 => decMSK r
  | 0x09 => decVINT r
  | 0x0A => decVFP r
  | 0x0B => decVSFU r
  | 0x0C => decVCVT r
  | 0x0D => decVMEM r
  | 0x0E => decVPERM r
  | 0x0F => decVDOT r
  | 0x10 => decMTX r
  | 0x11 => decRANK r
  | 0x12 => decENG r
  | 0x13 => decTASK r
  | 0x14 => decSTEP r
  | 0x1F => .error .extensionGroup
  | _ => .error .reservedGroup

/-- A pair requirement of R40. -/
def pairNeed (c : Bool) : Except Reject Unit := need .illegalPair c

/-- A k register of a half: above k15 is ILLEGAL (R40). -/
def halfK (x : BitVec 6) : Except Reject KReg :=
  if h : x.toNat < 16 then .ok ⟨x.toNat, h⟩ else .error .illegalPair
/-- A g or low v register of a half: every 6-bit value names one (R37). -/
def half6 (x : BitVec 6) : Fin 64 := ⟨x.toNat, x.isLt⟩

/-- The instruction of one pair half (R37, R38, R40). -/
noncomputable def decodeHalf (h : BitVec 31) : Except Reject Instr :=
  let d := h.extractLsb' 19 6
  let a := h.extractLsb' 13 6
  let imm := h.extractLsb' 0 13
  let reg (c : GReg → GReg → Instr) : Except Reject Instr := do
    pairNeed (imm == 0); return c (half6 d) (half6 a)
  match (h.extractLsb' 25 6).toNat with
  | 0x00 => do pairNeed (d == 0 && a == 0 && imm == 0); return .hnop
  | 0x01 => reg .hadd
  | 0x02 => reg .hsub
  | 0x03 => reg .hand
  | 0x04 => reg .hor
  | 0x05 => reg .hxor
  | 0x06 => reg .hshl
  | 0x07 => reg .hshr
  | 0x08 => reg .hmov
  | 0x09 => .ok (.haddi (half6 d) (half6 a) imm)
  | 0x0A => .ok (.handi (half6 d) (half6 a) imm)
  | 0x0B => do pairNeed (imm.extractLsb' 6 7 == 0); return .hshli (half6 d) (half6 a) (imm.extractLsb' 0 6)
  | 0x0C => do pairNeed (imm.extractLsb' 6 7 == 0); return .hshri (half6 d) (half6 a) (imm.extractLsb' 0 6)
  | 0x0D => do pairNeed (a == 0); return .hli (half6 d) imm
  | 0x0E => reg .hvfadd
  | 0x0F => reg .hvfmul
  | 0x10 => reg .hvmov
  | 0x11 => do pairNeed (imm == 0); return .hkand (← halfK d) (← halfK a)
  | 0x12 => do pairNeed (imm == 0); return .hkor (← halfK d) (← halfK a)
  | 0x13 => .ok (.hld (half6 d) (half6 a) imm)
  | 0x14 => .ok (.hst (half6 d) (half6 a) imm)
  | _ => .error .illegalPair

/-- The g register a half writes (R40, R41): HST writes none. -/
def Instr.halfG : Instr → Option GReg
  | .hadd d _ | .hsub d _ | .hand d _ | .hor d _ | .hxor d _ | .hshl d _ | .hshr d _ | .hmov d _ => some d
  | .haddi d _ _ | .handi d _ _ | .hshli d _ _ | .hshri d _ _ | .hli d _ | .hld d _ _ => some d
  | _ => none
/-- The k register a half writes. -/
def Instr.halfKDest : Instr → Option KReg
  | .hkand d _ | .hkor d _ => some d
  | _ => none
/-- Vector halves (R40). -/
def Instr.isVecHalf : Instr → Bool
  | .hvfadd _ _ | .hvfmul _ _ | .hvmov _ _ => true
  | _ => false
/-- Memory halves (R40). -/
def Instr.isMemHalf : Instr → Bool
  | .hld _ _ _ | .hst _ _ _ => true
  | _ => false

/-- The relations between the halves of a pair (R40). -/
def pairOk (h1 h0 : Instr) : Bool :=
  (match h1.halfG, h0.halfG with
    | some x, some y => x.val % 2 ≠ y.val % 2
    | _, _ => true) &&
  (match h1.halfKDest, h0.halfKDest with
    | some x, some y => x ≠ y
    | _, _ => true) &&
  !(h1.isVecHalf && h0.isVecHalf) && !(h1.isMemHalf && h0.isMemHalf)

/-- The decoder: every 64-bit word is one instruction, one pair, or rejected by name (R29, R59). -/
noncomputable def decode (w : Word) : Except Reject Decoded :=
  if w.getLsbD 63 then do
    let h1 ← decodeHalf (w.extractLsb' 32 31)
    let h0 ← decodeHalf (w.extractLsb' 0 31)
    pairNeed (pairOk h1 h0)
    return .pair (w.extractLsb' 31 1) h1 h0
  else do
    let r := Raw.ofWord w
    let i ← decodeFull r
    return .full ⟨r.stall, r.sbset, r.sbwait⟩ i

/-! The encoder. -/

/-- Group, minor code, guard field and operand area of an instruction. -/
structure Enc where
  g : Nat
  f : Nat
  k : BitVec 4 := 0
  area : BitVec 35
  deriving DecidableEq, Repr

/-- The guard field of a guarded instruction. -/
def kfld (k : KReg) : BitVec 4 := BitVec.ofNat 4 k.val
/-- Format A or E. -/
def encA (g f : Nat) (d a b : BitVec 9) (m : Nat) : Option Enc := some ⟨g, f, 0, areaA d a b (BitVec.ofNat 8 m)⟩
/-- Format A or E with a guard. -/
def encK (g f : Nat) (k : KReg) (d a b : BitVec 9) (m : Nat) : Option Enc :=
  some ⟨g, f, kfld k, areaA d a b (BitVec.ofNat 8 m)⟩
/-- Format I or B. -/
def encI (g f : Nat) (d a : BitVec 9) (imm : BitVec 17) : Option Enc := some ⟨g, f, 0, areaI d a imm⟩
/-- The B field of a vector source. -/
def VSrc.fld : VSrc → BitVec 9
  | .v r => Sys2Proof.fld r
  | .g r => Sys2Proof.fld r
/-- The SB bit of a vector source. -/
def VSrc.sb : VSrc → Nat
  | .v _ => 0
  | .g _ => 1
/-- A binary VINT word. -/
def encV2 (f : Nat) (k : KReg) (d a : VReg) (b : VSrc) (ty : VType) : Option Enc :=
  encK 0x09 f k (fld d) (fld a) b.fld (8 * b.sb + ty.code)
/-- A unary VINT word. -/
def encV1 (f : Nat) (k : KReg) (d a : VReg) (ty : VType) : Option Enc := encK 0x09 f k (fld d) (fld a) 0 ty.code
/-- A VFP word. -/
def encF2 (f : Nat) (k : KReg) (d : BitVec 9) (a : VReg) (b : VSrc) (m : Nat) : Option Enc :=
  encK 0x0A f k d (fld a) b.fld (8 * b.sb + m)
/-- A bit of the modifier byte. -/
def mb (b : Bool) (n : Nat) : Nat := if b then 2 ^ n else 0
/-- imm17 from a narrower field. -/
def imm17 (x : Nat) : BitVec 17 := BitVec.ofNat 17 x

/-- The fields of an instruction's full-form word; none for pair halves and events. -/
def Instr.enc : Instr → Option Enc
  | .nop => encA 0 0x00 0 0 0 0
  | .trap n => encI 0 0x01 0 0 (imm17 n.toNat)
  | .bkpt n => encI 0 0x02 0 0 (imm17 n.toNat)
  | .eret rpl kill => encA 0 0x03 0 0 0 (mb rpl 0 + mb kill 1)
  | .mfsr d sr => encI 0 0x04 (fld d) 0 (imm17 sr.toNat)
  | .mtsr sr a => encI 0 0x05 0 (fld a) (imm17 sr.toNat)
  | .isync => encA 0 0x06 0 0 0 0
  | .idle => encA 0 0x07 0 0 0 0
  | .tlbinv kind scope a b => encA 0 0x08 0 (fld a) (fld b) (8 * kind.code + scope.code)
  | .echk (.read d a hi) => encA 0 0x09 (fld d) (fld a) 0 (mb hi 0)
  | .echk (.mark a b) => encA 0 0x09 0 (fld a) (fld b) 2
  | .csave d b spad => encA 0 0x0A (fld d) 0 (fld b) (mb spad 0)
  | .crest d b spad => encA 0 0x0B (fld d) 0 (fld b) (mb spad 0)
  | .hpload d (.mem b) => if b = 0 then none else encA 0 0x0C (fld d) 0 (fld b) 0
  | .hpload d (.fetch a) => encA 0 0x0C (fld d) (fld a) 0 0
  | .hpact d a => encA 0 0x0D (fld d) (fld a) 0 0
  | .hpqry d .gen => encA 0 0x0E (fld d) 0 0 0
  | .hpqry d .pend => encA 0 0x0E (fld d) 0 0 1
  | .hpqry d .stage => encA 0 0x0E (fld d) 0 0 2
  | .hpqry d (.digest a) => encA 0 0x0E (fld d) (fld a) 0 3
  | .ident d w => encA 0 0x0F (fld d) 0 0 w.code
  | .br off => encI 1 0x00 0 0 off
  | .bcc a b off => encI 1 0x01 (fld a) (fld b) off
  | .bk a b off => encI 1 0x02 (fld a) (fld b) off
  | .call off => encI 1 0x03 0 0 off
  | .callr a => encA 1 0x04 0 (fld a) 0 0
  | .ret => encA 1 0x05 0 0 0 0
  | .jmpr a => encA 1 0x06 0 (fld a) 0 0
  | .loop a off => encI 1 0x07 (fld a) 0 off
  | .enter n => encI 1 0x08 0 0 (imm17 n.toNat)
  | .leave => encA 1 0x09 0 0 0 0
  | .subStream p d a b => encA 2 0x00 (fld d) (fld a) (fld b) p.code
  | .unsub a b off => encI 2 0x01 (fld a) (fld b) off
  | .resub d a b => encA 2 0x02 (fld d) (fld a) (fld b) 0
  | .rdv tag => encI 2 0x03 0 0 (imm17 tag.toNat)
  | .rdvh tag n => encI 2 0x04 0 0 (imm17 (tag.toNat + 16 * n.toNat))
  | .brw a j off => encI 2 0x05 (fld a) j off
  | .wvote all d a => encA 2 0x06 (fld d) (fld a) 0 (mb all 0)
  | .puboff => encA 2 0x07 0 0 0 0
  | .pubon => encA 2 0x08 0 0 0 0
  | .add d a b sh => encA 3 0x00 (fld d) (fld a) (fld b) sh.toNat
  | .sub d a b sh => encA 3 0x01 (fld d) (fld a) (fld b) sh.toNat
  | .mul d a b => encA 3 0x02 (fld d) (fld a) (fld b) 0
  | .mulhS d a b => encA 3 0x03 (fld d) (fld a) (fld b) 0
  | .mulhZ d a b => encA 3 0x04 (fld d) (fld a) (fld b) 0
  | .divS d a b => encA 3 0x05 (fld d) (fld a) (fld b) 0
  | .divZ d a b => encA 3 0x06 (fld d) (fld a) (fld b) 0
  | .remS d a b => encA 3 0x07 (fld d) (fld a) (fld b) 0
  | .remZ d a b => encA 3 0x08 (fld d) (fld a) (fld b) 0
  | .and d a b sh => encA 3 0x09 (fld d) (fld a) (fld b) sh.toNat
  | .or d a b sh => encA 3 0x0A (fld d) (fld a) (fld b) sh.toNat
  | .xor d a b sh => encA 3 0x0B (fld d) (fld a) (fld b) sh.toNat
  | .andn d a b sh => encA 3 0x0C (fld d) (fld a) (fld b) sh.toNat
  | .shl d a b => encA 3 0x0D (fld d) (fld a) (fld b) 0
  | .shr d a b => encA 3 0x0E (fld d) (fld a) (fld b) 0
  | .sar d a b => encA 3 0x0F (fld d) (fld a) (fld b) 0
  | .rol d a b => encA 3 0x10 (fld d) (fld a) (fld b) 0
  | .minS d a b => encA 3 0x11 (fld d) (fld a) (fld b) 0
  | .minZ d a b => encA 3 0x12 (fld d) (fld a) (fld b) 0
  | .maxS d a b => encA 3 0x13 (fld d) (fld a) (fld b) 0
  | .maxZ d a b => encA 3 0x14 (fld d) (fld a) (fld b) 0
  | .sltS d a b => encA 3 0x15 (fld d) (fld a) (fld b) 0
  | .sltZ d a b => encA 3 0x16 (fld d) (fld a) (fld b) 0
  | .seq d a b => encA 3 0x17 (fld d) (fld a) (fld b) 0
  | .clz d a => encA 3 0x18 (fld d) (fld a) 0 0
  | .ctz d a => encA 3 0x19 (fld d) (fld a) 0 0
  | .popc d a => encA 3 0x1A (fld d) (fld a) 0 0
  | .brev d a => encA 3 0x1B (fld d) (fld a) 0 0
  | .bfx d a b w sx => encA 3 0x1C (fld d) (fld a) (fld b) (w.toNat + mb sx 7)
  | .bfi d a b w => encA 3 0x1D (fld d) (fld a) (fld b) w.toNat
  | .mad d a b => encA 3 0x1E (fld d) (fld a) (fld b) 0
  | .mov d a => encA 3 0x1F (fld d) (fld a) 0 0
  | .addi d a i => encI 3 0x20 (fld d) (fld a) i
  | .subi d a i => encI 3 0x21 (fld d) (fld a) i
  | .muli d a i => encI 3 0x22 (fld d) (fld a) i
  | .mulhiS d a i => encI 3 0x23 (fld d) (fld a) i
  | .mulhiZ d a i => encI 3 0x24 (fld d) (fld a) i
  | .diviS d a i => encI 3 0x25 (fld d) (fld a) i
  | .diviZ d a i => encI 3 0x26 (fld d) (fld a) i
  | .remiS d a i => encI 3 0x27 (fld d) (fld a) i
  | .remiZ d a i => encI 3 0x28 (fld d) (fld a) i
  | .andi d a i => encI 3 0x29 (fld d) (fld a) i
  | .ori d a i => encI 3 0x2A (fld d) (fld a) i
  | .xori d a i => encI 3 0x2B (fld d) (fld a) i
  | .andni d a i => encI 3 0x2C (fld d) (fld a) i
  | .shli d a n => encI 3 0x2D (fld d) (fld a) (imm17 n.toNat)
  | .shri d a n => encI 3 0x2E (fld d) (fld a) (imm17 n.toNat)
  | .sari d a n => encI 3 0x2F (fld d) (fld a) (imm17 n.toNat)
  | .roli d a n => encI 3 0x30 (fld d) (fld a) (imm17 n.toNat)
  | .miniS d a i => encI 3 0x31 (fld d) (fld a) i
  | .miniZ d a i => encI 3 0x32 (fld d) (fld a) i
  | .maxiS d a i => encI 3 0x33 (fld d) (fld a) i
  | .maxiZ d a i => encI 3 0x34 (fld d) (fld a) i
  | .sltiS d a i => encI 3 0x35 (fld d) (fld a) i
  | .sltiZ d a i => encI 3 0x36 (fld d) (fld a) i
  | .seqi d a i => encI 3 0x37 (fld d) (fld a) i
  | .clzi d i => encI 3 0x38 (fld d) 0 i
  | .ctzi d i => encI 3 0x39 (fld d) 0 i
  | .popci d i => encI 3 0x3A (fld d) 0 i
  | .brevi d i => encI 3 0x3B (fld d) 0 i
  | .bfxi d a pos wm1 sx => encI 3 0x3C (fld d) (fld a) (imm17 (pos.toNat + 64 * wm1.toNat + mb sx 12))
  | .bfii d a pos wm1 => encI 3 0x3D (fld d) (fld a) (imm17 (pos.toNat + 64 * wm1.toNat))
  | .madi d a i => encI 3 0x3E (fld d) (fld a) i
  | .li d i => some ⟨3, 0x3F, 0, areaL (BitVec.ofNat 6 d.val) i⟩
  | .cget d a fd => encA 4 0x00 (fld d) (fld a) 0 fd.code
  | .cseta d a b => encA 4 0x01 (fld d) (fld a) (fld b) 0
  | .cadd d a i => encI 4 0x02 (fld d) (fld a) i
  | .candp d a p => encI 4 0x03 (fld d) (fld a) (imm17 p.toNat)
  | .cfrom d a b => encA 4 0x04 (fld d) (fld a) (fld b) 0
  | .cclr d a => encA 4 0x05 (fld d) (fld a) 0 0
  | .cchk d a b => encA 4 0x06 (fld d) (fld a) (fld b) 0
  | .gnew d a b => encA 4 0x07 (fld d) (fld a) (fld b) 0
  | .grev d a => encA 4 0x08 (fld d) (fld a) 0 0
  | .ld d a ty off => encI 5 0x00 (fld d) (fld a) (imm17 (off.toNat + 2 ^ 14 * ty.code))
  | .st d a ty off => encI 5 0x01 (fld d) (fld a) (imm17 (off.toNat + 2 ^ 14 * ty.code))
  | .ldc d a off => encI 5 0x02 (fld d) (fld a) off
  | .stc d a off => encI 5 0x03 (fld d) (fld a) off
  | .lda d a ty off => encI 5 0x04 (fld d) (fld a) (imm17 (off.toNat + 2 ^ 14 * ty.code))
  | .waitld n => encI 5 0x05 0 0 (imm17 n.toNat)
  | .pref a off => encI 5 0x06 0 (fld a) off
  | .amo op sz o d a b => encA 6 0x00 (fld d) (fld a) (fld b) (mb sz.bit 7 + 16 * op.code + o.code)
  | .amof op o d a b => encA 6 0x01 (fld d) (fld a) (fld b) (16 * op.code + o.code)
  | .cas sz o d a b => encA 6 0x02 (fld d) (fld a) (fld b) (mb sz.bit 7 + o.code)
  | .ldaq sz s d b => encA 6 0x03 (fld d) 0 (fld b) (mb sz.bit 7 + s.code)
  | .strl sz s a b => encA 6 0x04 0 (fld a) (fld b) (mb sz.bit 7 + s.code)
  | .amonr op sz o a b => encA 6 0x05 0 (fld a) (fld b) (mb sz.bit 7 + 16 * op.code + o.code)
  | .fence kind s => encA 7 0x00 0 0 0 (8 * kind.code + s.code)
  | .binit a bar => encI 7 0x01 0 (fld a) (imm17 bar.toNat)
  | .bexp a bar => encA 7 0x02 0 (fld a) 0 bar.toNat
  | .barr d bar => encI 7 0x03 (fld d) 0 (imm17 bar.toNat)
  | .bwait a bar => encI 7 0x04 0 (fld a) (imm17 bar.toNat)
  | .waitm sz s d a b => encA 7 0x05 (fld d) (fld a) (fld b) (mb sz.bit 7 + s.code)
  | .msend async core port a b => encA 7 0x06 0 (fld a) (fld b) (port.toNat + mb async 3 + mb core 4)
  | .pget d port => encA 7 0x07 (fld d) 0 0 port.toNat
  | .kand d a b => encA 8 0x00 (fld d) (fld a) (fld b) 0
  | .kor d a b => encA 8 0x01 (fld d) (fld a) (fld b) 0
  | .kxor d a b => encA 8 0x02 (fld d) (fld a) (fld b) 0
  | .kandn d a b => encA 8 0x03 (fld d) (fld a) (fld b) 0
  | .knot d a => encA 8 0x04 (fld d) (fld a) 0 0
  | .kmov (.kk d a) => encA 8 0x05 (fld d) (fld a) 0 0
  | .kmov (.kg d a) => encA 8 0x05 (fld d) (fld a) 0 1
  | .kmov (.gk d a) => encA 8 0x05 (fld d) (fld a) 0 2
  | .kpopc d a => encA 8 0x06 (fld d) (fld a) 0 0
  | .kff d a => encA 8 0x07 (fld d) (fld a) 0 0
  | .kset d i => encI 8 0x08 (fld d) 0 (imm17 i.toNat)
  | .vadd k d a b ty => encV2 0x00 k d a b ty
  | .vsub k d a b ty => encV2 0x01 k d a b ty
  | .vmul k d a b ty => encV2 0x02 k d a b ty
  | .vmulh k d a b ty => encV2 0x03 k d a b ty
  | .vmad k d a b ty => encV2 0x04 k d a b ty
  | .vand k d a b ty => encV2 0x05 k d a b ty
  | .vor k d a b ty => encV2 0x06 k d a b ty
  | .vxor k d a b ty => encV2 0x07 k d a b ty
  | .vshl k d a b ty => encV2 0x08 k d a b ty
  | .vshr k d a b ty => encV2 0x09 k d a b ty
  | .vsar k d a b ty => encV2 0x0A k d a b ty
  | .vmin k d a b ty => encV2 0x0B k d a b ty
  | .vmax k d a b ty => encV2 0x0C k d a b ty
  | .vabs k d a ty => encV1 0x0D k d a ty
  | .vcmp k d a b c s => encK 0x09 0x0E k (fld d) (fld a) b.fld (16 * c.code + 8 * b.sb + (if s then 5 else 4))
  | .vsel k d a b ty => encV2 0x0F k d a b ty
  | .vpopc k d a ty => encV1 0x10 k d a ty
  | .vclz k d a ty => encV1 0x11 k d a ty
  | .vadds k d a b ty => encV2 0x12 k d a b ty
  | .vsubs k d a b ty => encV2 0x13 k d a b ty
  | .vmovs k d a ty => encV1 0x14 k d a ty
  | .vext k d a n ty => encK 0x09 0x15 k (fld d) (fld a) (n.setWidth 9) ty.code
  | .vfadd k d a b rm => encF2 0x00 k (fld d) a b rm.code
  | .vfsub k d a b rm => encF2 0x01 k (fld d) a b rm.code
  | .vfmul k d a b rm => encF2 0x02 k (fld d) a b rm.code
  | .vfma k d a b rm => encF2 0x03 k (fld d) a b rm.code
  | .vfms k d a b rm => encF2 0x04 k (fld d) a b rm.code
  | .vfmin k d a b num => encF2 0x05 k (fld d) a b (mb num 4)
  | .vfmax k d a b num => encF2 0x06 k (fld d) a b (mb num 4)
  | .vfabs k d a => encK 0x0A 0x07 k (fld d) (fld a) 0 0
  | .vfneg k d a => encK 0x0A 0x08 k (fld d) (fld a) 0 0
  | .vfcmp k d a b c => encF2 0x09 k (fld d) a b (16 * c.code)
  | .vfclass k d a cls => encK 0x0A 0x0A k (fld d) (fld a) cls 0
  | .vfdiv k d a b => encF2 0x0B k (fld d) a b 0
  | .vfsqrt k d a => encK 0x0A 0x0C k (fld d) (fld a) 0 0
  | .vrcp k d a => encK 0x0B 0x00 k (fld d) (fld a) 0 0
  | .vrsq k d a => encK 0x0B 0x01 k (fld d) (fld a) 0 0
  | .vexp2 k d a => encK 0x0B 0x02 k (fld d) (fld a) 0 0
  | .vlog2 k d a => encK 0x0B 0x03 k (fld d) (fld a) 0 0
  | .vsinpi k d a => encK 0x0B 0x04 k (fld d) (fld a) 0 0
  | .vcospi k d a => encK 0x0B 0x05 k (fld d) (fld a) 0 0
  | .vtanh k d a => encK 0x0B 0x06 k (fld d) (fld a) 0 0
  | .vsigm k d a => encK 0x0B 0x07 k (fld d) (fld a) 0 0
  | .verf k d a => encK 0x0B 0x08 k (fld d) (fld a) 0 0
  | .vrng k d a b => encK 0x0B 0x09 k (fld d) (fld a) (fld b) 0
  | .vgumb k d a => encK 0x0B 0x0A k (fld d) (fld a) 0 0
  | .vcvt k d a src dst rm sat slot tbl =>
    encK 0x0C 0x00 k (fld d) (fld a) (BitVec.ofNat 9 (rm.code + mb sat 3 + 16 * slot.toNat + 128 * tbl.toNat))
      (16 * dst.code + src.code)
  | .vcvtsr k d a b dst sat slot => encK 0x0C 0x01 k (fld d) (fld a) (fld b) (dst.code + 16 * slot.toNat + mb sat 7)
  | .vpack k d a ty sat => encK 0x0C 0x02 k (fld d) (fld a) 0 (ty.code + mb sat 2)
  | .vunpk k d a ty => encK 0x0C 0x03 k (fld d) (fld a) 0 ty.code
  | .vscale k d a b inv none => encK 0x0C 0x04 k (fld d) (fld a) b.fld (16 * b.sb + mb inv 3)
  | .vscale k d a b inv (some slot) =>
    encK 0x0C 0x04 k (fld d) (fld a) b.fld (16 * b.sb + mb inv 3 + 2 * slot.toNat + 1)
  | .vrint k d a rm x => encK 0x0C 0x05 k (fld d) (fld a) 0 (rm.code + mb x 3)
  | .vbscale k d a t b32 => encK 0x0C 0x06 k (fld d) (fld a) 0 (16 * t.code + mb b32 0)
  | .vld k d a b => encK 0x0D 0x00 k (fld d) (fld a) (fld b) 0
  | .vst k d a b => encK 0x0D 0x01 k (fld d) (fld a) (fld b) 0
  | .vlds k d a b ty => encK 0x0D 0x02 k (fld d) (fld a) (fld b) ty.code
  | .vsts k d a b ty => encK 0x0D 0x03 k (fld d) (fld a) (fld b) ty.code
  | .vgath k d a b ty si sc => encK 0x0D 0x04 k (fld d) (fld a) (fld b) (ty.code + 8 * sc.toNat + mb si 5)
  | .vscat k d a b ty si sc => encK 0x0D 0x05 k (fld d) (fld a) (fld b) (ty.code + 8 * sc.toNat + mb si 5)
  | .vcmpst k d a b => encK 0x0D 0x06 k (fld d) (fld a) (fld b) 0
  | .vexpld k d a b => encK 0x0D 0x07 k (fld d) (fld a) (fld b) 0
  | .vlda k d a b => encK 0x0D 0x08 k (fld d) (fld a) (fld b) 0
  | .vperm k d a b two => encK 0x0E 0x00 k (fld d) (fld a) (fld b) (mb two 0)
  | .vshuf k d a (.xor x) => encK 0x0E 0x01 k (fld d) (fld a) (x.setWidth 9) 0
  | .vshuf k d a (.ziplo b) => encK 0x0E 0x01 k (fld d) (fld a) (fld b) 1
  | .vshuf k d a (.ziphi b) => encK 0x0E 0x01 k (fld d) (fld a) (fld b) 2
  | .vshuf k d a (.unzipe b) => encK 0x0E 0x01 k (fld d) (fld a) (fld b) 3
  | .vshuf k d a (.unzipo b) => encK 0x0E 0x01 k (fld d) (fld a) (fld b) 4
  | .vrot k d a (.imm n) => encK 0x0E 0x02 k (fld d) (fld a) (n.setWidth 9) 0
  | .vrot k d a (.g b) => encK 0x0E 0x02 k (fld d) (fld a) (fld b) 1
  | .vbcst k d (.lane a n) => encK 0x0E 0x03 k (fld d) (fld a) (n.setWidth 9) 0
  | .vbcst k d (.g b) => encK 0x0E 0x03 k (fld d) 0 (fld b) 1
  | .vscan k d a op ty ex brk => encK 0x0E 0x04 k (fld d) (fld a) 0 (op.code + 8 * ty.code + mb ex 5 + mb brk 6)
  | .vsscan k d a b op ty ex brk =>
    encK 0x0E 0x05 k (fld d) (fld a) (fld b) (op.code + 8 * ty.code + mb ex 5 + mb brk 6)
  | .vred k d a op ty => encK 0x0E 0x06 k (fld d) (fld a) 0 (op.code + 8 * ty.code)
  | .vxchg d a n => encA 0x0E 0x07 (fld d) (fld a) 0 n.toNat
  | .vchain k d a op ty .incl => encK 0x0E 0x08 k (fld d) (fld a) 0 (op.code + 8 * ty.code)
  | .vchain k d a op ty .excl => encK 0x0E 0x08 k (fld d) (fld a) 0 (op.code + 8 * ty.code + 32)
  | .vchain k d a op ty .bc => encK 0x0E 0x08 k (fld d) (fld a) 0 (op.code + 8 * ty.code + 64)
  | .vcprs k d a z => encK 0x0E 0x09 k (fld d) (fld a) 0 (mb z 0)
  | .vexpd k d a z => encK 0x0E 0x0A k (fld d) (fld a) 0 (mb z 0)
  | .vballot k d a => encK 0x0E 0x0B k (fld d) (fld a) 0 0
  | .vgetx d a => encA 0x0E 0x0C (fld d) (fld a) 0 0
  | .vputx d a => encA 0x0E 0x0D (fld d) (fld a) 0 0
  | .vdot4 k d a b as bs => encK 0x0F 0x00 k (fld d) (fld a) b.fld (mb as 0 + mb bs 1 + 4 * b.sb)
  | .vdot8 k d a b as bs => encK 0x0F 0x01 k (fld d) (fld a) b.fld (mb as 0 + mb bs 1 + 4 * b.sb)
  | .vdoth k d a b f16 => encK 0x0F 0x02 k (fld d) (fld a) b.fld (mb f16 0 + 2 * b.sb)
  | .vdott k d a b tbl half => encK 0x0F 0x03 k (fld d) (fld a) b.fld (tbl.toNat + mb half 2 + 8 * b.sb)
  | .vtblw tbl a => encA 0x0F 0x04 0 (fld a) 0 tbl.toNat
  | .mfmt b => encA 0x10 0x00 0 0 (fld b) 0
  | .mgang d a b n => encA 0x10 0x01 (fld d) (fld a) (fld b) n.toNat
  | .mpass d a b gang => encA 0x10 0x02 (fld d) (fld a) (fld b) (mb gang 0)
  | .mlist d a b => encA 0x10 0x03 (fld d) (fld a) (fld b) 0
  | .mzero tile cm1 me => encI 0x10 0x04 0 0 (imm17 (tile.toNat + 64 * cm1.toNat + 4096 * me.toNat))
  | .mldc d b => encA 0x10 0x05 (fld d) 0 (fld b) 0
  | .mstc d a b => encA 0x10 0x06 (fld d) (fld a) (fld b) 0
  | .mwait n => encI 0x10 0x07 0 0 (imm17 n.toNat)
  | .mtbl me tbl b => encA 0x10 0x08 0 0 (fld b) (tbl.toNat + 8 * me.toNat)
  | .mqry d a w clr => encA 0x10 0x09 (fld d) (fld a) 0 (w.code + mb clr 3)
  | .rkinit acc a b => encA 0x11 0x00 0 (fld a) (fld b) (mb acc 0)
  | .rkins k d b => encK 0x11 0x01 k (fld d) 0 (fld b) 0
  | .rkmrg a b => encA 0x11 0x02 0 (fld a) (fld b) 0
  | .rkchain bc b => encA 0x11 0x03 0 0 (fld b) (mb bc 0)
  | .rkflr d b w => encA 0x11 0x04 (fld d) 0 (fld b) w.code
  | .rkget k d a b => encK 0x11 0x05 k (fld d) (fld a) (fld b) 0
  | .rkbnd (.put a) => encA 0x11 0x06 0 (fld a) 0 0
  | .rkbnd .clr => encA 0x11 0x06 0 0 0 1
  | .epost d a b => encA 0x12 0x00 (fld d) (fld a) (fld b) 0
  | .ewait d a => encA 0x12 0x01 (fld d) (fld a) 0 0
  | .ecan d a => encA 0x12 0x02 (fld d) (fld a) 0 0
  | .estat d a => encA 0x12 0x03 (fld d) (fld a) 0 0
  | .tend => encA 0x13 0x00 0 0 0 0
  | .ttick d => encA 0x13 0x01 (fld d) 0 0 0
  | .tspawn d a b => encA 0x13 0x02 (fld d) (fld a) (fld b) 0
  | .tsig d e => encA 0x13 0x03 (fld d) 0 0 e.toNat
  | .fopen d a b => encA 0x13 0x04 (fld d) (fld a) (fld b) 0
  | .fclose d a => encA 0x13 0x05 (fld d) (fld a) 0 0
  | .fwait d a => encA 0x13 0x06 (fld d) (fld a) 0 0
  | .fcan d a => encA 0x13 0x07 (fld d) (fld a) 0 0
  | .qenq d a b s w => encA 0x13 0x08 (fld d) (fld a) (fld b) (mb w 0 + 2 * s.toNat)
  | .qdeq d b (.plain a) => encA 0x13 0x09 (fld d) (fld a) (fld b) 0
  | .qdeq d b .block => encA 0x13 0x09 (fld d) 0 (fld b) 1
  | .qres d b s n => encA 0x13 0x0A (fld d) 0 (fld b) (mb n 0 + 2 * s.toNat)
  | .qcmt d a b => encA 0x13 0x0B (fld d) (fld a) (fld b) 0
  | .qflush d b => encA 0x13 0x0C (fld d) 0 (fld b) 0
  | .tyield d => encA 0x13 0x0D (fld d) 0 0 0
  | .ssend d a b => encA 0x14 0x00 (fld d) (fld a) (fld b) 0
  | .ssenda d a b => encA 0x14 0x01 (fld d) (fld a) (fld b) 0
  | .sbar d a dom => encI 0x14 0x02 (fld d) (fld a) (imm17 dom.toNat)
  | .sdom d a what => encA 0x14 0x03 (fld d) (fld a) 0 what.code
  | .sclk d .read => encA 0x14 0x04 (fld d) 0 0 0
  | .sclk d (.wait a) => encA 0x14 0x04 (fld d) (fld a) 0 1
  | _ => none

/-- The word of a full-form instruction under given scheduling fields (R30). -/
def encode (s : Sched) (i : Instr) : Option Word :=
  i.enc.map fun e =>
    Raw.toWord ⟨BitVec.ofNat 5 e.g, BitVec.ofNat 6 e.f, s.stall, s.sbset, s.sbwait, e.k, e.area⟩

/-- A half's 31 bits (R37). -/
def halfBits (op : Nat) (d a : Nat) (imm : BitVec 13) : BitVec 31 :=
  (BitVec.ofNat 6 op ++ (BitVec.ofNat 6 d ++ (BitVec.ofNat 6 a ++ imm))).cast (by decide)

/-- The 31 bits of a pair half (R38). -/
def Instr.encHalf : Instr → Option (BitVec 31)
  | .hnop => some (halfBits 0x00 0 0 0)
  | .hadd d a => some (halfBits 0x01 d.val a.val 0)
  | .hsub d a => some (halfBits 0x02 d.val a.val 0)
  | .hand d a => some (halfBits 0x03 d.val a.val 0)
  | .hor d a => some (halfBits 0x04 d.val a.val 0)
  | .hxor d a => some (halfBits 0x05 d.val a.val 0)
  | .hshl d a => some (halfBits 0x06 d.val a.val 0)
  | .hshr d a => some (halfBits 0x07 d.val a.val 0)
  | .hmov d a => some (halfBits 0x08 d.val a.val 0)
  | .haddi d a i => some (halfBits 0x09 d.val a.val i)
  | .handi d a i => some (halfBits 0x0A d.val a.val i)
  | .hshli d a n => some (halfBits 0x0B d.val a.val (n.setWidth 13))
  | .hshri d a n => some (halfBits 0x0C d.val a.val (n.setWidth 13))
  | .hli d i => some (halfBits 0x0D d.val 0 i)
  | .hvfadd d a => some (halfBits 0x0E d.val a.val 0)
  | .hvfmul d a => some (halfBits 0x0F d.val a.val 0)
  | .hvmov d a => some (halfBits 0x10 d.val a.val 0)
  | .hkand d a => some (halfBits 0x11 d.val a.val 0)
  | .hkor d a => some (halfBits 0x12 d.val a.val 0)
  | .hld d a i => some (halfBits 0x13 d.val a.val i)
  | .hst d a i => some (halfBits 0x14 d.val a.val i)
  | _ => none

/-- The word of a pair (R37). -/
def encodePair (stall1 : BitVec 1) (h1 h0 : Instr) : Option Word :=
  match h1.encHalf, h0.encHalf with
  | some x, some y => some ((1#1 ++ (x ++ (stall1 ++ y))).cast (by decide))
  | _, _ => none

/-- The instruction the decoder reads from the bits `w` of one instruction: one 64-bit word. A pair word gives its
first half, or the other half where one is HNOP. -/
noncomputable def decodeTableWord (_nbits w : Nat) : Option Instr :=
  match decode (BitVec.ofNat 64 w) with
  | .ok (.full _ i) => some i
  | .ok (.pair _ h1 h0) => some (if h1 = .hnop then h0 else h1)
  | .error _ => none

end Sys2Proof
end

