-- ==== Sys2Proof/Machine/SMap.lean ====
section
/-!
DEFINITION. Sparse maps from numbers, as plain data in one canonical form: keys strictly rising, and no entry equal to
what an unlisted key reads as. Register files, tables and unit state are held this way.
-/
namespace Sys2Proof

/-- A sparse map: (key, value) pairs with rising keys. -/
abbrev SMap (α : Type) := List (Nat × α)

/-- The value listed under a key. -/
def mfind {α : Type} : SMap α → Nat → Option α
  | [], _ => none
  | (j, v) :: r, k => if j = k then some v else mfind r k

/-- The value under a key, `d` when unlisted. -/
def mget {α : Type} (d : α) (m : SMap α) (k : Nat) : α := (mfind m k).getD d

/-- The map without a key. -/
def merase {α : Type} : SMap α → Nat → SMap α
  | [], _ => []
  | (j, v) :: r, k => if j = k then merase r k else (j, v) :: merase r k

/-- Insertion of a key that is not listed, in order. -/
def minsert {α : Type} (k : Nat) (x : α) : SMap α → SMap α
  | [] => [(k, x)]
  | (j, v) :: r => if k < j then (k, x) :: (j, v) :: r else (j, v) :: minsert k x r

/-- Listing a key, whatever its value. -/
def mset {α : Type} (m : SMap α) (k : Nat) (x : α) : SMap α := minsert k x (merase m k)

/-- Writing a key in a map whose unlisted keys read as `d`: writing `d` removes the entry. -/
def mput {α : Type} [DecidableEq α] (d : α) (m : SMap α) (k : Nat) (x : α) : SMap α :=
  if x = d then merase m k else mset m k x

/-- Keys strictly rising from a lower bound. -/
def mrising {α : Type} : Option Nat → SMap α → Bool
  | _, [] => true
  | b, (j, _) :: r => (match b with | none => true | some i => decide (i < j)) && mrising (some j) r

/-- The canonical form of a map whose unlisted keys read as `d`. -/
def mwf {α : Type} [DecidableEq α] (d : α) (m : SMap α) : Bool :=
  mrising none m && m.all (fun e => decide (e.2 ≠ d))

/-- The values of a map, in key order. -/
def mvals {α : Type} (m : SMap α) : List α := m.map Prod.snd

/-- One more than the largest key: a fresh key. -/
def mfresh {α : Type} (m : SMap α) : Nat := m.foldl (fun n e => max n (e.1 + 1)) 0

/-- A set of numbers, sorted, with no repeats. -/
abbrev NSet := List Nat

/-- Insertion into a set. -/
def nins (k : Nat) : NSet → NSet
  | [] => [k]
  | j :: r => if k < j then k :: j :: r else if k = j then j :: r else j :: nins k r

/-- Removal from a set. -/
def ndel (k : Nat) (m : NSet) : NSet := m.filter (fun j => decide (j ≠ k))

end Sys2Proof
end

