-- ==== Sys2Proof/Machine/State.lean ====
section
/-!
DEFINITION. The state of the package: every piece of state the manual gives the machine, as plain data; how a step can
stop; and the state right after reset.
-/
namespace Sys2Proof.Machine

open Host (Cell)

/-! ## Cores -/

/-- Register files, in the order of their codes in STALLCHK's EINFO (R52). -/
inductive RFile | g | v | k
  deriving DecidableEq, Repr

/-- A register value of any file. -/
inductive RVal | g (x : TReg) | v (x : Vec) | k (x : Mask)
  deriving DecidableEq, Repr

/-- A fixed-latency producer whose result is still on its way (R44 to R46): the register file already holds the
result, `old` is what a reader sees before cycle `due`. -/
structure Producer where
  file : RFile
  reg : Nat
  old : RVal
  due : Nat
  spos : Nat
  lat : Nat
  token : Nat
  /-- The producer was half H1 of a pair (E3, R523), and its word a vector word (R244). -/
  h1 : Bool := false
  vec : Bool := false
  deriving DecidableEq, Repr

/-- One 16-byte sector of an asynchronous load (R48): destination byte offsets and the memory bytes they come from. -/
structure Sector where
  bytes : List (Nat × Nat)
  arrived : Bool
  deriving DecidableEq, Repr

/-- A fault-ring entry (R455). -/
structure RingEntry where
  seq : BitVec 32 := 0
  status : BitVec 8 := 0
  cause : BitVec 8 := 0
  cls : BitVec 8 := 0
  eword : Word := 0
  pc : BitVec 12 := 0
  half : Bool := false
  count : BitVec 32 := 0
  addr : Word := 0
  /-- A delivered trap has covered this entry (R456). -/
  told : Bool := false
  /-- Its trap reads CLASS M (E5, R525). -/
  e5 : Bool := false
  deriving DecidableEq, Repr

/-- An outstanding LDA or VLDA (R194, R300). -/
structure Load where
  file : RFile
  reg : Nat
  ty : Option LdType
  sectors : List Sector
  token : Nat := 0
  seq : Nat := 0
  ctx : Nat := 0
  /-- Static position of its word, and the effective address of destination byte 0 (R46, R182). -/
  spos : Nat := 0
  ea : Nat := 0
  /-- A VLDA's ring entry as it issued, its elements' lanes in order, and the number of the first of them (R291, R458). -/
  ring : RingEntry := {}
  lanes : List Nat := []
  elem0 : Nat := 0
  deriving DecidableEq, Repr

/-- A home (R198). -/
inductive Home | core (n : Nat) | me (n : Nat) | mem (die : Nat) | hub
  deriving DecidableEq, Repr

/-- What waits in the store queue (R201, R210, R218, R231). -/
inductive SqOp
  | write (cells : List Cell) (tags : List (Nat × Bool))
  | host (runs : List (Nat × List Byte))
  | hostAmo (addr : Nat) (op : AmoOp) (arg : Word)
  | amo (op : AmoOp) (size : AtSize) (key : Nat) (arg : Word)
  | deposit (target : Nat) (task : Option Nat) (port : Nat) (x : Word) (async : Bool) (ea : Nat)
  | release (scope : Scope)
  deriving DecidableEq, Repr

/-- An entry of the store queue: the operation, its home, its place in the core's program order. -/
structure SqEntry where
  op : SqOp
  home : Home
  seq : Nat
  ctx : Nat
  deriving DecidableEq, Repr

/-- A granule of the stack cache (R149): its data, its tag, whether memory is older, the memory behind it, and whether the
cache's own array holds an uncorrectable error there (R182). -/
structure SLine where
  val : Quad
  tag : Bool
  dirty : Bool
  key : Nat
  bad : Bool := false
  deriving DecidableEq, Repr

/-- A grant-table entry (R100). -/
structure Grant where
  base : Nat := 0
  len : Nat := 0
  perm : BitVec 12 := 0
  gen : BitVec 8 := 0
  valid : Bool := false
  deriving DecidableEq, Repr

/-- A cached grant entry (R101). -/
structure GrantLine where
  ctx : Nat
  gid : Nat
  entry : Grant
  deriving DecidableEq, Repr

/-- An item of a published stream (R130). -/
structure Item where
  gen : BitVec 16 := 0
  pc : BitVec 12 := 0
  cause : BitVec 8 := 0
  tag : BitVec 4 := 0
  depth : Nat := 0
  trapi : Bool := false
  rv : Bool := false
  hold : Bool := false
  taken : Bool := false
  path : Bool := false
  word : Word := 0
  /-- The published next PC, against which a member compares its own (R140). -/
  next : BitVec 12 := 0
  /-- EINFO and entry point of a trap item's trap (R144). -/
  einfo : Word := 0
  entry : Option (BitVec 12) := none
  /-- The cycle in which its publisher issued it (R131). -/
  at' : Nat := 0
  deriving DecidableEq, Repr

/-- Where the word a core is executing came from. -/
inductive Source | own | item | replay (seq : BitVec 32) | rewrite
  deriving DecidableEq, Repr

/-- The word in issue: its bits, its scheduling fields, its source, what a branch decided, and the half of a pair. -/
structure Latch where
  valid : Bool := false
  src : Source := .own
  word : Word := 0
  sched : Sched := {}
  item : Item := {}
  half : Bool := false
  /-- A NOP that stands for a word a slot matched: it is not published (R495). -/
  quiet : Bool := false
  deriving DecidableEq, Repr

/-- Weave states (R136). -/
inductive WState | alone | publisher | member | dormant | waiting | detached
  deriving DecidableEq, Repr

/-- A registration on its way to, or pending at, a publisher (R138). -/
structure Reg where
  core : Nat
  tag : BitVec 4
  rank : Nat
  size : Nat
  arrived : Bool
  deriving DecidableEq, Repr

/-- A BRW in progress (R147). At its publisher: which path is being published, whether the other is still to come, and
whether the publisher executes the current one. At a member: the path of the last item seen, and whether the member takes
part in it at all, on the side `cond`, or `both` sides once a fault has ended its dormancy there (R142). -/
structure Brw where
  target : BitVec 12
  join : BitVec 12
  path : Bool
  more : Bool
  mine : Bool
  cond : Bool
  both : Bool := false
  deriving DecidableEq, Repr

/-- A core's place in a weave (R130 to R161). -/
structure Weave where
  st : WState := .alone
  size : Nat := 0
  rank : Nat := 0
  chan : Nat := 0
  policy : Policy := .dormant
  /-- The publisher's core, on a member or a waiting core. -/
  pub : Nat := 0
  /-- Members of this publisher: (rank, core). -/
  followers : List (Nat × Nat) := []
  regs : List Reg := []
  stream : List Item := []
  wake : Option (BitVec 12) := none
  /-- The next PC of the JMPR item executed last and that item, until the next item comes to be compared (R140). -/
  jump : Option (BitVec 12 × Item) := none
  brw : List Brw := []
  priv : Bool := false
  waitTag : BitVec 4 := 0
  /-- Since when it has been WAITING, or held at its RDVH (R139). -/
  since : Nat := 0
  /-- Members whose hold has reached this publisher (R132). -/
  holds : NSet := []
  /-- The collective, vote or BRW this publisher has published and waits at, by its PC. -/
  coll : Option (BitVec 12) := none
  /-- Contributions gathered for it (R147, R159, R308): core, and SIZE, RANK and the words contributed. -/
  votes : List (Nat × List Nat) := []
  /-- An RDVH hold: tag and count still required. -/
  rdvh : Option (BitVec 4 × Nat) := none
  /-- A member runs its handler: for its own fault (true) or for a trap item (false). -/
  handler : Option Bool := none
  deriving DecidableEq, Repr

/-- What a core blocked at its word waits for. -/
inductive Wait
  | barrier (ctx unit bar : Nat)
  | memory (key gid : Nat)
  | port (n : Nat)
  | idle
  | job (h : BitVec 32)
  | scope (ctx n : Nat)
  | passes
  | step (dom : Nat)
  | clock (v : Nat)
  | accept
  | entry
  | queue
  | members
  | slot
  | answer (act : Nat)
  | card (slot : Nat)
  | enq
  | barArrive (ctx unit bar : Nat)
  | grant (gid : Option Nat) (result : TReg)
  | yield
  deriving DecidableEq, Repr

/-- What a core runs. -/
inductive Run | running | idle | halted
  deriving DecidableEq, Repr

/-- The trap registers (R449 to R451). -/
structure TrapRegs where
  trapvec : BitVec 12 := 0xE00
  epc : BitVec 12 := 0
  ecause : Word := 0
  eword : Word := 0
  einfo : Word := 0
  eseq : Word := 0
  exl : Bool := false
  pm : Bool := false
  ehalf : Bool := false
  pend : Bool := false
  deriving DecidableEq, Repr

/-- A slot of the core's job table (R368). -/
structure JobSlot where
  seq : Nat
  eng : Nat
  job : Option Nat
  final : Word
  /-- The scope its card named, at which EWAIT acquires (R204, R391). -/
  scope : Scope := .sys
  deriving DecidableEq, Repr

/-- A Husk decode slot (R487). -/
structure HSlot where
  mask : Word
  value : Word
  idx : Nat
  filter : BitVec 5
  action : Nat
  prio : Nat
  arg : Nat
  deriving DecidableEq, Repr

/-- A Husk fault hook (R488). -/
structure HHook where
  cause : BitVec 8
  classes : BitVec 3
  filter : BitVec 2
  action : Nat
  prio : Nat
  idx : Nat
  pcr : Bool
  lo : Nat
  hi : Nat
  arg : BitVec 32
  target : Nat
  add : Word
  deriving DecidableEq, Repr

/-- A rewrite entry (R482). -/
structure HRewrite where
  idx : Nat
  n : Nat
  rot : List Nat
  tmpl : List Word
  mask : List Word
  lut : List (List Nat × Word)
  deriving DecidableEq, Repr

/-- A verified husk image (R486), with the SHA-512 digest attestation reports. -/
structure Image where
  kind : Nat
  gen : BitVec 16
  slots : List HSlot
  hooks : List HHook
  rewrites : List HRewrite
  blobAt : Nat
  blob : List Word
  digest : List Byte
  deriving DecidableEq, Repr

/-- A husk set: an activation number and the images of both kinds (R493). -/
structure HuskSet where
  actn : BitVec 32 := 0
  vendor : Option Image := none
  owner : Option Image := none
  deriving DecidableEq, Repr

/-- A core. -/
structure Core where
  run : Run := .running
  pc : BitVec 12 := 0
  sys : Bool := true
  /-- g0-g63; keys 64 to 67 are the system copies of g60-g63 (R95). -/
  g : SMap TReg := []
  v : SMap Vec := []
  k : SMap Mask := []
  prods : List Producer := []
  tokens : SMap Nat := []
  readyAt : Nat := 0
  /-- Static position: the sum of STALL + 1 over the words executed (R44). -/
  spos : Nat := 0
  loads : List Load := []
  /-- MCHECK of a failed LDA sector, due at the next word that issues (R182): its EINFO. -/
  mchk : Option Word := none
  sq : List SqEntry := []
  /-- Numbers the core's accesses in program order. -/
  seq : Nat := 0
  stack : SMap SLine := []
  gcache : List GrantLine := []
  /-- Instruction-store words written since the last ISYNC or task start: the words before (R185, R186). -/
  istale : SMap Word := []
  latch : Latch := {}
  rewriteQ : List Word := []
  replayQ : List (BitVec 32) := []
  wait : Option Wait := none
  since : Nat := 0
  woken : Option Word := none
  tr : TrapRegs := {}
  ring : SMap RingEntry := []
  ringHead : BitVec 32 := 0
  mode : BitVec 3 := 0
  slim : Word := 0
  sbase : Word := 0
  fpctl : Word := 0
  fpflags : BitVec 5 := 0
  ctx : Nat := 0
  task : Option Nat := none
  taskid : Word := 0
  launchid : Word := 0
  fscope : Word := 0
  cancelf : Bool := false
  member : Nat := 0
  rdvto : BitVec 32 := 0x100000
  portfull : BitVec 16 := 0
  /-- `.a` deposits waiting at this core: sender, port, value, and the address the sender named (R232). -/
  asyncs : List (Nat × Nat × Word × Nat) := []
  vtab : SMap (BitVec 256) := []
  /-- The cycle from which the SFU is free (R246). -/
  sfuFree : Nat := 0
  w : Weave := {}
  fmtcap : TReg := ⟨0, false⟩
  gang : List Nat := []
  gangPosts : Nat := 0
  bound : Option Lane := none
  out : Nat := 0
  jobs : SMap JobSlot := []
  lastSlot : Nat := 31
  postSeq : Nat := 0
  husk : HuskSet := {}
  /-- Consecutive RETRY-hook retries at one PC (R485), and the word a DELAY slot has already delayed (R481). -/
  retries : Nat := 0
  retryPc : BitVec 12 := 0
  delayed : Bool := false
  /-- Step tasks: domain, slot width, record address, step count, COMM, LOOSE, the cycle SCLK counts from (R434). -/
  stepOn : Bool := false
  dom : Nat := 0
  slotW : Nat := 16
  recAddr : Word := 0
  stepNo : Nat := 0
  loose : Bool := false
  sclk0 : Nat := 0
  arrived : Bool := false
  sbarPc : BitVec 12 := 0
  /-- A release has come since the arrival at `sbarPc` (R440). -/
  released : Bool := false
  deriving DecidableEq, Repr

/-! ## Memory side -/

/-- Where a translation is held (R175, R197). -/
inductive TlbPlace | core (n : Nat) | cluster (n : Nat) | walker (die : Nat) | hub | rdma
  deriving DecidableEq, Repr

/-- A held translation: the table entry of a level for an address range, a leaf or a walker's pointer. -/
structure TlbEntry where
  place : TlbPlace
  ctx : Nat
  level : Nat
  va : Nat
  pte : Word
  deriving DecidableEq, Repr

/-- A barrier (R219). -/
structure Bar where
  pending : Int := 0
  broken : Bool := false
  phase : Bool := false
  arrived : Nat := 0
  count : Nat := 0
  /-- The cycle of the last completion: since when a list pass that waits for this phase is ready (R322, R329). -/
  toggled : Nat := 0
  /-- Excess arrivals held for the next phase, in order (R225). -/
  heldBy : List Nat := []
  deriving DecidableEq, Repr

/-- A finish scope (R405). -/
inductive ScopeSt | free | opened | closed | done | failed | cancelled
  deriving DecidableEq, Repr

/-- A finish scope: its word, and when cancellation was requested (R407). -/
structure FScope where
  parent : Nat := 0
  st : ScopeSt := .free
  fail : Bool := false
  can : Bool := false
  count : Nat := 0
  canAt : Nat := 0
  deriving DecidableEq, Repr

/-- The context controls in force (R395), as the CCB gives them. -/
structure Ccb where
  lqCount : Nat := 0
  lqAddr : Nat := 0
  shapeBase : Nat := 0
  shapeCount : Nat := 0
  yieldt : Nat := 8192
  dlcyc : Nat := 0x400000
  age : Nat := 0x10000
  cto : Nat := 4096
  cancelDl : Nat := 0x10000
  nodes : Nat := 0
  period : Nat := 400000
  saveDl : Nat := 400000
  secondDl : Nat := 4000000
  coreBud : Nat := 0
  copyBud : Nat := 0
  sieveBud : Nat := 0
  ethBud : Nat := 0
  faultQ : Nat := 0
  stackGrant : Nat := 0
  stackBytes : Nat := 0
  stackBase : Nat := 0
  deriving DecidableEq, Repr

/-- The live copy of a graph node (R408): GOT and state. -/
structure Node where
  got : Nat := 0
  st : Nat := 0
  loaded : Bool := false
  deriving DecidableEq, Repr

/-- A completion ring (R510): address, capacity, device address of the head word, records written, and those that
wait for room. -/
structure CRing where
  addr : Nat
  cap : Nat
  head : Nat
  tail : Nat
  waiting : List (List Byte)
  deriving DecidableEq, Repr

/-- A context (R26). -/
structure Ctx where
  grantbase : Word := 0
  xbase : Word := 0
  duty : Word := 0
  ccb : Ccb := {}
  scopes : SMap FScope := []
  /-- Barriers by unit x 256 + number; units 0 to 3 are the dies, 4 the hub. -/
  bars : SMap Bar := []
  nodes : SMap Node := []
  /-- Pre-emption ladder (R463): stage 0 to 2, the cycle it began, and whether the host or a Shell card asked for it. -/
  stage : Nat := 0
  stageAt : Nat := 0
  asked : Bool := false
  /-- Charges of this period (R416): core-cycles, copy, Sieve and Ethernet bytes, exhausted bits, periods, start. -/
  usedCore : Nat := 0
  usedCopy : Nat := 0
  usedSieve : Nat := 0
  usedEth : Nat := 0
  exh : BitVec 4 := 0
  periods : BitVec 32 := 0
  periodAt : Nat := 0
  chargedAt : Nat := 0
  /-- Budgets take a new CCB's values from the next period (R396). -/
  budNext : Option Ccb := none
  dropped : Nat := 0
  dropCause : BitVec 8 := 0
  noticeAt : Option Nat := none
  /-- TXC (R508): highest sequence executed and the reply sent. -/
  txcSeq : Option Nat := none
  txcReply : List Byte := []
  txcReplySt : Nat := 0
  txcReplyTy : Nat := 0
  ring : Option CRing := none
  /-- Cycle of the last dequeue or block release (R414). -/
  deqAt : Nat := 0
  deriving DecidableEq, Repr

/-! ## Matrix engines -/

/-- What a reservation entry does (R320), with the addresses it was posted with. -/
inductive MeKind
  | pass (rank : Bool) (aAddr bAddr aScale bScale : Nat)
  | list (count listAddr : Nat)
  | zero (first count : Nat)
  | ldc (addr : Nat)
  | stc (addr : Nat) (seq : BitVec 32)
  | rank (first count : Nat)
  deriving DecidableEq, Repr

/-- The operand bytes of one group (R318): rows of A, columns of B, and the scales of each. -/
structure MeOps where
  a : List (List Byte)
  b : List (List Byte)
  sa : List (List Byte)
  sb : List (List Byte)
  deriving DecidableEq, Repr

/-- An accepted entry of a reservation table (R320), with everything its post read. -/
structure MeEntry where
  id : Nat
  core : Nat
  ctx : Nat
  task : Option Nat
  sys : Bool
  /-- Its ring entry as it issued (R331, R455). -/
  ring : RingEntry := {}
  kind : MeKind
  desc : Word := 0
  fmt : List Byte := []
  capD : TReg := ⟨0, false⟩
  capA : TReg := ⟨0, false⟩
  capB : TReg := ⟨0, false⟩
  tabA : BitVec 256 := 0
  tabB : BitVec 256 := 0
  prio : Nat := 0
  /-- Arrival number, the cycle of acceptance, and the cycle since when the entry has been ready (R321, R322). -/
  arr : Nat := 0
  since : Nat := 0
  rdy : Option Nat := none
  started : Bool := false
  /-- Its place among the ME's starts (R322). -/
  startNo : Nat := 0
  /-- Operands read so far, group by group, and the failure that ended the reading: cause and address word (R331). -/
  read : Bool := false
  ops : List MeOps := []
  fail : Option (BitVec 8 × Word) := none
  /-- List entries completed, the bytes of the one in hand, and the next one read (R329). -/
  done : Nat := 0
  cur : List Byte := []
  nxt : List Byte := []
  nxtFail : Option (BitVec 8 × Word) := none
  gangId : Nat := 0
  /-- A gang post's cores, leader first, and its number since MGANG (R324). -/
  gang : List Nat := []
  nth : Nat := 0
  /-- The bound RKBND gave the poster, at post (R352). -/
  bound : Option Lane := none
  deriving DecidableEq, Repr

/-- A matrix engine (R16): reservation table in arrival order, code tables, counters per context, messages under way. -/
structure Me where
  entries : List MeEntry := []
  tabs : SMap (BitVec 256) := []
  skips : SMap (BitVec 32) := []
  dones : SMap (BitVec 32) := []
  /-- Tables under way: number, contents, sender. -/
  mtbl : List (Nat × BitVec 256 × Nat) := []
  /-- The gang that has reserved the array (R325). -/
  reserved : Option Nat := none
  nextArr : Nat := 0
  deriving DecidableEq, Repr

/-- A gang pass gathering in its home MEs' latches (R324): the cores, leader first; the posts accepted so far (core, entry);
the cycle its latch completed. -/
structure Gang where
  id : Nat
  cluster : Nat
  cores : List Nat
  nth : Nat
  posts : List (Nat × Nat)
  complete : Option Nat
  deriving DecidableEq, Repr

/-! ## Engines -/

/-- A shape (R372). -/
structure Shape where
  n : Nat
  fmt : Nat
  ext : List Nat
  str : List Int
  deriving DecidableEq, Repr

/-- Job states, in the codes of R389. -/
inductive JobSt | queued | running | parked | done | failed | cancelled
  deriving DecidableEq, Repr

/-- A registered engine job (R366 to R387). -/
structure Job where
  id : Nat
  eng : Nat
  ctx : Nat
  card : List Byte
  /-- Posters: core, slot, handle. -/
  posters : List (Nat × Nat × BitVec 32)
  task : Option Nat
  sys : Bool
  shapes : List Shape
  reads : List (Nat × Nat)
  writes : List (Nat × Nat)
  /-- Grants named: which (1 source, 2 destination, 3 index), id, recorded generation. -/
  grants : List (Nat × Nat × BitVec 8)
  st : JobSt
  cause : BitVec 8
  flags : BitVec 6
  count : Nat
  prio : Nat
  fs : Option Nat
  bar : Option (Nat × Nat)
  /-- ROUTE: E and histogram address read at post (R385), the queue table read at the start, and since when a full
  queue holds it (R387). CTXSET: the CCB read at post. -/
  eqE : Nat := 0
  eqHist : Nat := 0
  table : List Byte := []
  waits : Option Nat := none
  deriving DecidableEq, Repr

/-- A checked card waiting in a combining node's window, as the job it will be (R367). -/
structure Combine where
  cluster : Nat
  job : Job
  opened : Nat
  closed : Bool
  deriving DecidableEq, Repr

/-! ## The Hamper -/

/-- A step domain of a task (R432, R433): its members, its barrier, whether a release of it is under way or held, and the
cycle that release arrives (R436, R441). -/
structure Domain where
  first : Nat
  count : Nat
  stride : Nat
  bar : Bar := {}
  held : Bool := false
  relAt : Nat := 0
  deriving DecidableEq, Repr

/-- What the step header and tables of a launch said at dispatch (R429 to R432): STRICT, the step timeout, the domains, and
each member's domain and slot width. -/
structure StepPlan where
  strict : Bool
  timeout : Nat
  doms : SMap Domain
  recs : List (Nat × Nat)
  deriving DecidableEq, Repr

/-- States of a launch: held for its dependences, ready, being placed or running, ended. -/
inductive LaunchSt | held | ready | ended
  deriving DecidableEq, Repr

/-- A launch (R398 to R407). -/
structure Launch where
  lid : Nat
  ctx : Nat
  lpb : List Byte
  queue : Option Nat
  st : LaunchSt
  level : Nat
  since : Nat
  count : Nat
  /-- Index ranges by die: die, next, end (R403). -/
  ranges : List (Nat × Nat × Nat)
  /-- Indices to start again: index, attempts made, signals (R461). -/
  retry : List (Nat × Nat × SMap Word)
  live : Nat
  hostq : Bool
  /-- Members of a merged child launch; its parameter pointers (R410). -/
  ptrs : List Word
  children : Nat
  /-- The die whose FIFO a merged child launch stands in (R410). -/
  die : Option Nat := none
  /-- The record-queue block a consumer launch releases: queue key, block address, batch sequence (R415). -/
  block : Option (Nat × Word × Word)
  claim : List Nat
  dropped : Bool
  failed : Bool
  /-- Since when its next task has waited for a placement (R402). -/
  placeAt : Nat
  /-- What the host has been asked about placing its next task: `false` while it has not answered (R469, R470). -/
  asked : Option Bool := none
  /-- The step tables, once dispatch has read them (R429). -/
  plan : Option StepPlan := none
  deriving DecidableEq, Repr

/-- A task (R404, R409). -/
structure Task where
  tid : Nat
  lid : Nat
  ctx : Nat
  index : Nat
  width : Nat
  /-- Members: member number, core, whether it still holds its core. -/
  mem : List (Nat × Nat × Bool)
  attempt : Nat
  /-- Signal bitmaps (R409): the task's, under 0, and under member number + 1 that of a member's own record (R428). -/
  signals : SMap Word
  /-- Indices claimed with TTICK (R418): die and index. -/
  claims : List (Nat × Nat)
  doms : SMap Domain
  stepTo : Nat
  canAt : Option Nat
  killed : Bool
  deriving DecidableEq, Repr

/-- A saved task (R229, R464). Its cores, scratchpads and all that names them are kept under core numbers of their own,
from `nCores` on. -/
structure Saved where
  tid : Nat
  /-- Members and the cores they ran on (R467). -/
  was : List (Nat × Nat)
  /-- Matrix engines saved with the whole context: number, table, accumulators. -/
  mes : List (Nat × Me × List Cell)
  /-- Barriers saved with the whole context: die, number, state (R464). -/
  bars : List (Nat × Nat × Bar)
  /-- The granule a WAITM watched (R229). -/
  watch : Option Nat
  /-- Saved by the ladder or by a card, with the matrix engines (R467). -/
  whole : Bool
  ready : Bool
  /-- Where clusters and dies it shared with a task already restored have gone (R467). -/
  pins : List (Nat × Nat)
  diePins : List (Nat × Nat)
  deriving DecidableEq, Repr

/-- States of a record-queue block (R412). -/
inductive BlockSt | opened | claimed | closed
  deriving DecidableEq, Repr

/-- A block: its number, state, batch sequence, claims (slot offset, sender, committed), offsets returned to its pool,
flush-timer start, the cycle a flush began, whether a late record has entered it, whether it has been released. -/
structure Block where
  no : Nat
  st : BlockSt
  batch : BitVec 32
  claims : List (Nat × Nat × Bool)
  freed : List Nat
  timer : Option Nat
  flushAt : Option Nat
  lateIn : Bool
  released : Bool
  deriving DecidableEq, Repr

/-- The descriptor fields the Hamper owns while a queue is active (R411, offsets 16 to 55 and 64 to 127). -/
structure QLive where
  head : Nat
  tail : Nat
  timer : Nat
  senders : Nat
  reserve : Nat
  pool : Nat
  batch : BitVec 32
  ovfBase : Nat
  ovfCap : Nat
  ovfCount : Nat
  /-- Reserve headers: next offset and remaining, by sender. -/
  hdrs : List (Nat × Nat)
  deriving DecidableEq, Repr

/-- What the Hamper holds of an active record queue (R411 to R415): its descriptor's context and address, the live
fields, unreleased blocks oldest first, overflow claims (index, sender, committed) with the next index, and the number
of blocks a QFLUSH in progress has closed. -/
structure RQueue where
  ctx : Nat
  ea : Nat
  /-- Where the descriptor lies, whatever name reaches it; number and batch sequence of the next block to open. -/
  home : Nat
  nextNo : Nat
  nextBatch : BitVec 32
  live : QLive
  blocks : List Block
  ovf : List (Nat × Nat × Bool)
  ovfNext : Nat
  /-- Overflow records that are LATE (R413, R426). -/
  lateOvf : List Nat
  flushed : Nat
  /-- Claims that a close emptied: batch, slot, sender (R413). -/
  lates : List (BitVec 32 × Nat × Nat)
  deriving DecidableEq, Repr

/-- Offers of one child launch in a die's aggregator window (R410). -/
structure Offer where
  die : Nat
  lpb : List Byte
  ptrs : List Word
  opened : Nat
  deriving DecidableEq, Repr

/-- A code-load entry taken from a queue (R400): its words, and the cores that have received them. -/
structure CodeLoad where
  queue : Nat
  ctx : Nat
  order : Nat
  first : Nat
  words : List Word
  done : NSet
  deriving DecidableEq, Repr

/-- The Hamper (R395 to R427). -/
structure Hamper where
  launches : SMap Launch := []
  tasks : SMap Task := []
  saved : List Saved := []
  queues : SMap RQueue := []
  offers : List Offer := []
  loads : List CodeLoad := []
  nextLid : Nat := 0
  nextTid : Nat := 0
  /-- What stepping-specific blocks of core save records stand for, and what save areas do (R466, R468). -/
  blobs : SMap Core := []
  areas : SMap (List Saved) := []
  deriving DecidableEq, Repr

/-! ## Security processor, host link, management -/

/-- The security processor's Husk state (R491 to R496, R541). -/
structure Security where
  newest : HuskSet := {}
  stagedV : Option Image := none
  stagedO : Option Image := none
  vendorCtr : Nat := 0
  ownerCtr : Nat := 0
  ownerKey : List Byte := []
  fetched : List Byte := []
  fetchedTotal : Nat := 0
  deriving DecidableEq, Repr

/-- A bound host window (R504). -/
structure Window where
  qp : Nat
  raddr : Word
  rkey : BitVec 32
  len : Nat
  deriving DecidableEq, Repr

/-- A parked activity of the duty split (R470, R509). -/
inductive Activity | core (n : Nat) | job (id : Nat) | place (lid : Nat)
  deriving DecidableEq, Repr

/-- An activity parked under the host-assisted mode: what it is, its record, when it parked, the answer. -/
structure Parked where
  act : Activity
  ctx : Nat
  fn : Nat
  cause : BitVec 8
  addr : Word
  detail : Word
  at' : Nat
  sentAt : Nat
  answer : Option Nat
  deriving DecidableEq, Repr

/-- What the device sends: TXC replies and records, RDMA operations (queue pair, remote address, R_Key) and responses. -/
inductive HostOut
  | reply (record : List Byte)
  | record (bytes : List Byte)
  | rdmaRead (qp : Nat) (raddr : Nat) (rkey : BitVec 32) (len : Nat)
  | rdmaWrite (qp : Nat) (raddr : Nat) (rkey : BitVec 32) (bytes : List Byte)
  | rdmaAmo (qp : Nat) (raddr : Nat) (rkey : BitVec 32) (op : Nat) (arg cmp : Word)
  | response (qp : Nat) (bytes : List Byte)
  | nak (qp : Nat)
  | smbus (x : Word)
  deriving DecidableEq, Repr

/-- The host link and the management unit (R500 to R519). -/
structure HostLink where
  owners : List Nat := []
  windows : SMap Window := []
  parked : SMap Parked := []
  nextAct : Nat := 0
  answered : NSet := []
  out : List HostOut := []
  ready : Bool := false
  bootSlot : Nat := 0
  recovery : BitVec 8 := 0
  tlim : Nat := 105
  plim : Nat := 3200
  clk : Nat := 4000
  throts : BitVec 3 := 0
  /-- Milliseconds in a row of power above the limit (R519). -/
  overMs : Nat := 0
  eccc : Word := 0
  eccu : Word := 0
  idIndex : Nat := 0
  jtag : Bool := false
  /-- The Ethernet ports are down: no firmware slot was accepted (R513). -/
  down : Bool := false
  tripped : Bool := false
  deriving DecidableEq, Repr

/-! ## The package -/

/-- A granule of an SSEND or SSENDA on its way (R443, R445): sender, its context, the address the send named, the destination
core and home address, the task that held it, and the bytes; the number of the send, and whether a record of its failure
is written. -/
structure Send where
  core : Nat
  ctx : Nat
  ea : Nat
  target : Nat
  task : Option Nat
  key : Nat
  bytes : List Byte
  no : Nat
  told : Bool
  deriving DecidableEq, Repr

/-- Whose turn comes next: a core's next word, an agent's step, a datagram that reaches TXC on port 0 or (`second`)
port 1 (R506), or cycles in which nothing happens. (DESIGN CHOICE, log entry 9) -/
inductive Turn
  | core (n : Nat) | event (i : Instr) | datagram (second : Bool) (src : Nat) (bytes : List Byte) | idle (cycles : Nat)
  deriving DecidableEq, Repr

/-- The whole package. -/
structure State where
  /-- The core whose words `exec` runs. -/
  cur : Nat
  /-- Cycles since package reset (R449, CYCLE). -/
  cycle : Nat
  /-- The model's own counter: what free values are applied to. -/
  tick : Nat
  /-- Who acts next, oldest first: the interleaving of the agents, as data. -/
  turns : List Turn
  cores : SMap Core
  mem : List Cell
  tags : NSet
  poison : NSet
  tlb : List TlbEntry
  ctxs : SMap Ctx
  mes : SMap Me
  gangs : List Gang
  jobs : SMap Job
  combs : List Combine
  nextJob : Nat
  nextMe : Nat
  sends : List Send
  ham : Hamper
  sec : Security
  host : HostLink
  deriving DecidableEq, Repr

/-- Why the machine stops. -/
inductive Fault
  /-- `step`, after THERMAL_TRIP: all clocks are stopped until power is cycled (R519). Safe: the device does
  nothing either. -/
  | clocksStopped
  deriving DecidableEq, Repr

/-- Why an instruction has no meaning here. -/
inductive Refusal
  /-- `exec`, for an instruction of the table without a meaning in this model. Safe: nothing runs. -/
  | notModelled (mnemonic : String)
  deriving DecidableEq, Repr

/-- The package right after reset: every core in system mode at PC 0 under the reset values of R449, every unlisted
register and memory byte as log entries 1 and 2 say, no context set up, nothing running.
(DESIGN CHOICE, log entry 1; DEDUCED, log entry 8) -/
def State.reset : State where
  cur := 0
  cycle := 0
  tick := 0
  turns := []
  cores := []
  mem := []
  tags := []
  poison := []
  tlb := []
  ctxs := []
  mes := []
  gangs := []
  jobs := []
  combs := []
  nextJob := 0
  nextMe := 0
  sends := []
  ham := {}
  sec := {}
  host := {}

end Sys2Proof.Machine
end

