-- ==== Sys2Proof/Machine/Base.lean ====
section
/-!
DEFINITION. The named reads and updates of the state: cores, their register files with the latencies of R44 to R46,
memory bytes and their tags, free values, and the type of an instruction's effect (an exception or a hold ends it).
-/
namespace Sys2Proof.Machine

/-! ## Cores and places (R12 to R14) -/

/-- Core `n`; a core nothing has touched is as reset leaves it. -/
def State.getC (s : State) (n : Nat) : Core := mget {} s.cores n
/-- The state with core `n` replaced. -/
def State.setC (s : State) (n : Nat) (c : Core) : State := { s with cores := mset s.cores n c }
/-- The core whose word is executing. -/
def State.c (s : State) : Core := s.getC s.cur
/-- The state with the executing core changed. -/
def State.upd (s : State) (f : Core → Core) : State := s.setC s.cur (f s.c)
/-- The state with core `n` changed. -/
def State.updC (s : State) (n : Nat) (f : Core → Core) : State := s.setC n (f (s.getC n))

/-- Number of cores, clusters, dies (R12). -/
def nCores : Nat := 4608
def dieOfCore (n : Nat) : Nat := n / 1152
/-- Package-wide cluster number of a core: die x 48 + cluster (R13). -/
def clusterOfCore (n : Nat) : Nat := n / 24
/-- Package-wide quad number of a core; also its home ME's number (R13). -/
def quadOfCore (n : Nat) : Nat := n / 4
def meOfCore (n : Nat) : Nat := n / 4
def dieOfMe (n : Nat) : Nat := n / 288
def clusterOfMe (n : Nat) : Nat := n / 6
/-- The ME of a cluster index of the cluster of core `n` (R313). -/
def meOfIndex (n x : Nat) : Nat := clusterOfCore n * 6 + x
def clusterOfDieOk (die cl : Nat) : Bool := cl / 48 == die

/-- Context `n`. -/
def State.getX (s : State) (n : Nat) : Ctx := mget {} s.ctxs n
def State.updX (s : State) (n : Nat) (f : Ctx → Ctx) : State := { s with ctxs := mset s.ctxs n (f (s.getX n)) }
/-- Matrix engine `n`. -/
def State.getM (s : State) (n : Nat) : Me := mget {} s.mes n
def State.updM (s : State) (n : Nat) (f : Me → Me) : State := { s with mes := mset s.mes n (f (s.getM n)) }
def State.task? (s : State) (t : Nat) : Option Task := mfind s.ham.tasks t
def State.updT (s : State) (t : Nat) (f : Task → Task) : State :=
  match s.task? t with
  | some x => { s with ham := { s.ham with tasks := mset s.ham.tasks t (f x) } }
  | none => s
def State.launch? (s : State) (l : Nat) : Option Launch := mfind s.ham.launches l
def State.updL (s : State) (l : Nat) (f : Launch → Launch) : State :=
  match s.launch? l with
  | some x => { s with ham := { s.ham with launches := mset s.ham.launches l (f x) } }
  | none => s
def State.job? (s : State) (j : Nat) : Option Job := mfind s.jobs j
def State.updJ (s : State) (j : Nat) (f : Job → Job) : State :=
  match s.job? j with
  | some x => { s with jobs := mset s.jobs j (f x) }
  | none => s
/-- A record the device sends. -/
def State.send (s : State) (o : HostOut) : State := { s with host := { s.host with out := s.host.out ++ [o] } }

/-- A free choice below `n`; with one possibility there is nothing to choose. (DEDUCED, log entry 3) -/
def State.pick (s : State) (salt n : Nat) : Nat := if n ≤ 1 then 0 else Config.freeNat s.tick salt % n
/-- A free value of the device. (DESIGN CHOICE, log entry 4) -/
def State.free (s : State) (salt : Nat) : Word := Config.freeWord s.tick salt

/-! ## Register files (R92 to R96) -/

/-- The key a g register number has in a mode: system mode has its own g60-g63 (R95). -/
def gKey (sys : Bool) (r : Nat) : Nat := if sys && decide (60 ≤ r) then r + 4 else r

/-- An untagged zero. -/
def TReg0 : TReg := ⟨0, false⟩
/-- A vector register of zeros. -/
def vec0 : Vec := Vector.replicate 16 0

/-- What an unfinished producer leaves visible of a register: `none` when the register's own value stands (R46).
(DEDUCED, log entry 15) -/
def stale (now : Nat) (f : RFile) (r : Nat) (ps : List Producer) : Option RVal :=
  ps.foldl (fun acc p =>
    if p.file = f ∧ p.reg = r then
      if p.due ≤ now then none else some (acc.getD p.old)
    else acc) none

/-- The value of g register `r` when every producer has completed: g0 reads zero, untagged (R93). -/
def Core.g' (c : Core) (r : Nat) : TReg := if r = 0 then TReg0 else mget TReg0 c.g (gKey c.sys r)
def Core.v' (c : Core) (r : Nat) : Vec := mget vec0 c.v r
/-- k0 reads as 0xFFFF (R93). -/
def Core.k' (c : Core) (r : Nat) : Mask := if r = 0 then 0xFFFF else mget 0 c.k r

/-- What a word issued at cycle `now` reads from a g register (R46, R51). -/
def Core.readG (c : Core) (now r : Nat) : TReg :=
  match stale now .g (gKey c.sys r) c.prods with
  | some (.g x) => if r = 0 then TReg0 else x
  | _ => c.g' r
def Core.readV (c : Core) (now r : Nat) : Vec :=
  match stale now .v r c.prods with
  | some (.v x) => x
  | _ => c.v' r
def Core.readK (c : Core) (now r : Nat) : Mask :=
  match stale now .k r c.prods with
  | some (.k x) => if r = 0 then 0xFFFF else x
  | _ => c.k' r

/-- A producer whose register a younger result has overtaken keeps only its token (R46, R47). -/
def supersede (f : RFile) (r : Nat) (ps : List Producer) : List Producer :=
  ps.filterMap (fun p =>
    if p.file = f ∧ p.reg = r then (if p.token = 0 then none else some { p with reg := 1000 }) else some p)

/-- The token of the word in issue, 0 when it sets none: interlocked mode sets no token (R53). -/
def Core.tokenOf (c : Core) : Nat := if c.mode.getLsbD 0 then 0 else c.latch.sched.sbset.toNat

/-- Whether a word is a vector word: groups 0x09 to 0x0F, and pairs that hold a vector half (R455). -/
def vectorWord (w : Word) : Bool :=
  let g := bitsOf w.toNat 62 58
  if w.getLsbD 63 then
    let v := fun (op : Nat) => decide (0x0E ≤ op) && decide (op ≤ 0x10)
    v (bitsOf w.toNat 62 57) || v (bitsOf w.toNat 30 25)
  else decide (9 ≤ g) && decide (g ≤ 15)
/-- Whether a word is a matrix word: group 0x10, and RKINIT `.acc` (R455). -/
def matrixWord (w : Word) : Bool :=
  let g := bitsOf w.toNat 63 58
  g == 16 || (g == 17 && bitsOf w.toNat 57 52 == 0 && w.getLsbD 0)
/-- Whether a word takes a fault-ring entry (R455), by its encoding. -/
def ringWord (w : Word) : Bool := vectorWord w || matrixWord w

/-- An entry resolved: status 0, and with it cause 0 (R455, R458). -/
def RingEntry.done (r : RingEntry) : RingEntry := { r with status := 0, cause := 0 }

/-- The producers after a result of latency `lat` for a register whose value was `old` (R44 to R47). A result of
latency 1 is there for the next word. -/
def Core.produce (c : Core) (now : Nat) (f : RFile) (r : Nat) (old : RVal) (lat token : Nat) : List Producer :=
  if lat ≤ 1 then (if c.prods = [] then [] else supersede f r c.prods)
  else c.prods ++ [{ file := f, reg := r, old := old, due := now + lat, spos := c.spos, lat := lat, token := token
                     h1 := c.latch.half, vec := vectorWord c.latch.word }]

/-- A write of a g register with a latency; a write to g0 is discarded (R93), and no token that SBSET named for it then counts
(R47). (DESIGN CHOICE, log entry 63) -/
def Core.writeG (c : Core) (now r : Nat) (x : TReg) (lat : Nat) : Core :=
  if r = 0 then c
  else { c with
    g := mput TReg0 c.g (gKey c.sys r) x
    prods := c.produce now .g (gKey c.sys r) (.g (c.g' r)) lat (if lat ≤ 1 then 0 else c.tokenOf)
    tokens := if lat ≤ 1 ∨ c.tokenOf = 0 then c.tokens else mput 0 c.tokens c.tokenOf (mget 0 c.tokens c.tokenOf + 1) }

/-- A write of a v register. `last` marks the last of a word's registers, which carries its token (R47). -/
def Core.writeV (c : Core) (now r : Nat) (x : Vec) (lat : Nat) (last : Bool := true) : Core :=
  let t := if last && decide (1 < lat) then c.tokenOf else 0
  { c with
    v := mput vec0 c.v r x
    prods := c.produce now .v r (.v (c.v' r)) lat t
    tokens := if t = 0 then c.tokens else mput 0 c.tokens t (mget 0 c.tokens t + 1) }

/-- A write of a k register; a write to k0 is discarded (R93). -/
def Core.writeK (c : Core) (now r : Nat) (x : Mask) (lat : Nat) : Core :=
  if r = 0 then c
  else
    let t := if lat ≤ 1 then 0 else c.tokenOf
    { c with
      k := mput 0 c.k r x
      prods := c.produce now .k r (.k (c.k' r)) lat t
      tokens := if t = 0 then c.tokens else mput 0 c.tokens t (mget 0 c.tokens t + 1) }

def dropToken (ts : SMap Nat) (t : Nat) : SMap Nat := if t = 0 then ts else mput 0 ts t (mget 0 ts t - 1)

/-- Results whose cycle has come are written and their tokens drop; a producer leaves the list once no later word's
static distance can fall short of it (R44, R47, R52). -/
def Core.settle (c : Core) (now : Nat) : Core :=
  if c.prods = [] then c
  else
    let done := c.prods.filter (fun p => decide (p.due ≤ now))
    let ts := done.foldl (fun ts p => dropToken ts p.token) c.tokens
    let ps := c.prods.map (fun p => if p.due ≤ now then { p with token := 0 } else p)
    let gone := ps.filter (fun p => decide (p.due ≤ now) && decide (p.spos + p.lat ≤ c.spos))
    let rest := ps.filter (fun p => !(decide (p.due ≤ now) && decide (p.spos + p.lat ≤ c.spos)))
    { c with
      tokens := ts
      prods := gone.foldl (fun ps p => if ps.any (fun q => decide (q.due > now) && decide (q.spos < p.spos))
                                       then supersedeOlder p ps else ps) rest }
where
  supersedeOlder (p : Producer) (ps : List Producer) : List Producer :=
    ps.filterMap (fun q =>
      if q.file = p.file ∧ q.reg = p.reg ∧ q.spos < p.spos then
        (if q.token = 0 then none else some { q with reg := 1000 })
      else some q)

/-- Every fixed-latency producer completes (R54); none counts in a later check of static distance (R52).
(DESIGN CHOICE, log entry 64) -/
def Core.completeAll (c : Core) : Core :=
  { c with prods := [], tokens := c.prods.foldl (fun ts p => dropToken ts p.token) c.tokens }

/-- The cycle by which every producer of the core has completed. -/
def Core.allDue (c : Core) (now : Nat) : Nat := c.prods.foldl (fun n p => max n p.due) now

/-- What the executing word reads from a g register. -/
def State.rdG (s : State) (r : GReg) : TReg := s.c.readG s.cycle r.val
/-- An integer operand (R94). -/
def State.rdI (s : State) (r : GReg) : Word := (s.rdG r).int
def State.rdV (s : State) (r : VReg) : Vec := s.c.readV s.cycle r.val
def State.rdK (s : State) (r : KReg) : Mask := s.c.readK s.cycle r.val
/-- A register written by the executing word. -/
def State.wrG (s : State) (r : GReg) (x : TReg) (lat : Nat) : State := s.upd (·.writeG s.cycle r.val x lat)
/-- An integer result (R94). -/
def State.wrI (s : State) (r : GReg) (x : Word) (lat : Nat) : State := s.wrG r (TReg.ofInt x) lat
def State.wrV (s : State) (r : VReg) (x : Vec) (lat : Nat) : State := s.upd (·.writeV s.cycle r.val x lat)
def State.wrK (s : State) (r : KReg) (x : Mask) (lat : Nat) : State := s.upd (·.writeK s.cycle r.val x lat)

/-! ## Memory by home address

A byte of memory is listed under its home address: a physical address of R169, or the core scratchpad, core
instruction store or accumulator window address of R162, whichever window reached it. -/

def spadBase : Nat := 0x00F1000000000000
def istoreBase : Nat := 0x00F2000000000000
def accBase : Nat := 0x00F3000000000000
def spadKey (core off : Nat) : Nat := spadBase + core * 0x100000 + off
def istoreKey (core off : Nat) : Nat := istoreBase + core * 0x100000 + off
def accKey (me off : Nat) : Nat := accBase + me * 0x100000 + off

/-- What a byte nothing has written reads as: ones in an instruction store (R128), zero elsewhere (R513, log
entry 2). (DESIGN CHOICE, log entry 2) -/
def unlisted (a : Nat) : Byte := if istoreBase ≤ a ∧ a < accBase then 0xFF else 0

/-- The byte at a home address. -/
def readByte (m : List Host.Cell) (a : Nat) : Byte := mget (unlisted a) m a
/-- Memory after one byte is written; the canonical form stays. -/
def writeByte (m : List Host.Cell) (a : Nat) (b : Byte) : List Host.Cell := mput (unlisted a) m a b
/-- Memory in canonical form: addresses strictly rising, no entry equal to what an unlisted address reads as. -/
def Memory.wf (m : List Host.Cell) : Bool := mrising none m && m.all (fun e => decide (e.2 ≠ unlisted e.1))

def readBytes (m : List Host.Cell) (a : Nat) : Nat → List Byte
  | 0 => []
  | n + 1 => readByte m a :: readBytes m (a + 1) n
def writeBytes (m : List Host.Cell) (a : Nat) : List Byte → List Host.Cell
  | [] => m
  | b :: r => writeBytes (writeByte m a b) (a + 1) r
/-- Scattered bytes, in order. -/
def writeCells (m : List Host.Cell) : List Host.Cell → List Host.Cell
  | [] => m
  | (a, b) :: r => writeCells (writeByte m a b) r

/-- Bytes as a little-endian number (R4). -/
def leNat : List Byte → Nat
  | [] => 0
  | b :: r => b.toNat + 256 * leNat r
/-- The `n` low bytes of a number, little-endian (R4). -/
def leBytes (x : Nat) : Nat → List Byte
  | 0 => []
  | n + 1 => BitVec.ofNat 8 x :: leBytes (x / 256) n
/-- Big-endian numbers, for ECDSA values only (R4). -/
def beNat (bs : List Byte) : Nat := leNat bs.reverse
def beBytes (x n : Nat) : List Byte := (leBytes x n).reverse

/-- A field of a layout: `n` bytes at an offset, little-endian. -/
def field (bs : List Byte) (off n : Nat) : Nat := leNat ((bs.drop off).take n)
def byteAt (bs : List Byte) (off : Nat) : Nat := (bs.getD off 0).toNat

/-- The first nonzero byte of a range that must be zero. -/
def nonzeroIn (b : List Byte) (lo hi : Nat) : Option Nat :=
  ((List.range (hi + 1 - lo)).map (fun i => lo + i)).find? (fun i => byteAt b i ≠ 0)

/-- The word at index `i` of a core's instruction store. -/
def State.istoreWord (s : State) (core i : Nat) : Word := BitVec.ofNat 64 (leNat (readBytes s.mem (istoreKey core (8 * i)) 8))

/-- Consecutive cells. -/
def cellsAt (a : Nat) : List Byte → List Host.Cell
  | [] => []
  | b :: r => (a, b) :: cellsAt (a + 1) r

def setTag (t : NSet) (k : Nat) (b : Bool) : NSet := if b then nins k t else ndel k t
def setTags (t : NSet) : List (Nat × Bool) → NSet
  | [] => t
  | (k, b) :: r => setTags (setTag t k b) r

/-- Errors of the granules that a write of consecutive bytes covers whole are gone (R183). -/
def State.replaced (s : State) (key size : Nat) : State :=
  { s with poison := s.poison.filter (fun g => !(decide (key ≤ 16 * g) && decide (16 * g + 16 ≤ key + size))) }

/-- The home of an address (R198). -/
def homeOf (a : Nat) : Home :=
  if spadBase ≤ a then
    (if a < istoreBase then .core ((a - spadBase) / 0x100000)
     else if a < accBase then .core ((a - istoreBase) / 0x100000)
     else .me ((a - accBase) / 0x100000))
  else if 0x20000000000 ≤ a then .hub
  else if 0x10000000000 ≤ a then .mem ((a - 0x10000000000) / 0x4000000000)
  else .mem (a / 0x800000000)

/-- A home's die, none for the hub. -/
def Home.die? : Home → Option Nat
  | .core n => some (dieOfCore n)
  | .me n => some (dieOfMe n)
  | .mem d => some d
  | .hub => none

/-- Whether a home lies in the scope instance of core `n` (R203). -/
def inScope (n : Nat) (sc : Scope) (h : Home) : Bool :=
  match sc with
  | .core => h == .core n
  | .cluster => match h with
    | .core m => clusterOfCore m == clusterOfCore n
    | .me m => clusterOfMe m == clusterOfCore n
    | _ => false
  | .die => h.die? == some (dieOfCore n)
  | .pkg => h != .hub
  | .sys => true

/-! ## Effects -/

/-- The causes of R454. -/
inductive Cause
  | illegal | priv | patch | emul | stallchk | tag | bounds | perm | stalegrant | xlate | align | stack | slot
  | steplocal | fpx | vfault | mfault | weave | remote | mcheck | footprint | timeout | deadlock | swtrap | bkpt
  | cancel | format
  deriving DecidableEq, Repr

/-- The codes of R454. -/
def Cause.code : Cause → BitVec 8
  | .illegal => 0x01 | .priv => 0x02 | .patch => 0x03 | .emul => 0x04 | .stallchk => 0x05 | .tag => 0x06
  | .bounds => 0x07 | .perm => 0x08 | .stalegrant => 0x09 | .xlate => 0x0A | .align => 0x0B | .stack => 0x0C
  | .slot => 0x0D | .steplocal => 0x0E | .fpx => 0x0F | .vfault => 0x10 | .mfault => 0x11 | .weave => 0x12
  | .remote => 0x13 | .mcheck => 0x14 | .footprint => 0x15 | .timeout => 0x16 | .deadlock => 0x17 | .swtrap => 0x18
  | .bkpt => 0x19 | .cancel => 0x1A | .format => 0x1B

/-- A precise trap on its way to entry: its cause, EINFO, and where entry goes when it is not TRAPVEC (R481). -/
structure Trap where
  cause : BitVec 8
  einfo : Word := 0
  decode : Bool := false
  entry : Option (BitVec 12) := none
  deriving DecidableEq, Repr

/-- Why an effect ends before its word completes: a precise trap, a wait at the word, or an imprecise trap that is due
before the word may issue (R456). -/
inductive Stop | trap (t : Trap) | hold (w : Wait) | deliver
  deriving DecidableEq, Repr

/-- An effect of the executing core: it changes the state and gives a value, or stops. -/
abbrev M (α : Type) := ExceptT Stop (StateM State) α

/-- A precise trap. -/
def raise {α : Type} (c : Cause) (einfo : Nat) : M α := throw (.trap ⟨c.code, BitVec.ofNat 64 einfo, false, none⟩)
def raiseIf (b : Bool) (c : Cause) (einfo : Nat) : M Unit := if b then raise c einfo else pure ()
/-- A wait at the word. -/
def holdOn {α : Type} (w : Wait) : M α := throw (.hold w)
def holdIf (b : Bool) (w : Wait) : M Unit := if b then holdOn w else pure ()
/-- An effect run on a state: what it gave and the state it left. -/
def M.on {α : Type} (m : M α) (s : State) : Except Stop α × State := m s

end Sys2Proof.Machine
end

