-- ==== Sys2Proof/Machine/Flags.lean ====
section
/-!
DEFINITION. Number formats, rounding and flags (R238 to R243, R263 to R273), on exact values: a finite number is a sign, a
natural number and a power of two.
-/
namespace Sys2Proof.Machine

/-! ## Flags (R243) -/

/-- A set of flags in the bits of FPFLAGS: PE UF OF DZ NV. -/
abbrev FFlags := BitVec 5
def flNV : FFlags := 0x01
def flDZ : FFlags := 0x02
def flOF : FFlags := 0x04
def flUF : FFlags := 0x08
def flPE : FFlags := 0x10

/-! ## Values -/

/-- The value of an element: a NaN, signalling or not, an infinity, or (-1)^neg x m x 2^e. -/
inductive FVal | nan (sig : Bool) | inf (neg : Bool) | fin (neg : Bool) (m : Nat) (e : Int)
  deriving DecidableEq, Repr

/-- Parameters of a floating format (R264): fraction bits, exponent of the smallest normal, and the largest finite
value as a multiple of a power of two. -/
structure FGrid where
  fb : Nat
  emin : Int
  maxM : Nat
  maxE : Int
  deriving DecidableEq, Repr

def gF32 : FGrid := ⟨23, -126, 2 ^ 24 - 1, 104⟩
def gBF16 : FGrid := ⟨7, -126, 2 ^ 8 - 1, 120⟩
def gF16 : FGrid := ⟨10, -14, 2 ^ 11 - 1, 5⟩
def gE4M3 : FGrid := ⟨3, -6, 14, 5⟩
def gE5M2 : FGrid := ⟨2, -14, 7, 13⟩
def gE2M1 : FGrid := ⟨1, 0, 3, 1⟩

/-- The finite value of exponent field `ef` and fraction `f` (R264). -/
def finOf (fb : Nat) (emin : Int) (neg : Bool) (ef f : Nat) : FVal :=
  if ef = 0 then .fin neg f (emin - fb) else .fin neg (2 ^ fb + f) (emin - fb + (ef - 1 : Nat))

/-- A format with infinities and NaNs in its top exponent; `quiet` says whether a quiet bit tells NaNs apart (R265). -/
def ieeeVal (eb fb : Nat) (emin : Int) (quiet : Bool) (x : Nat) : FVal :=
  let f := x % 2 ^ fb
  let ef := x / 2 ^ fb % 2 ^ eb
  let neg := bitOf x (eb + fb)
  if ef = 2 ^ eb - 1 then
    (if f = 0 then .inf neg else .nan (quiet && !bitOf f (fb - 1)))
  else finOf fb emin neg ef f

def f32Val (x : Lane) : FVal := ieeeVal 8 23 (-126) true x.toNat
def bf16Val (x : Nat) : FVal := ieeeVal 8 7 (-126) true x
def f16Val (x : Nat) : FVal := ieeeVal 5 10 (-14) true x
def e5m2Val (x : Nat) : FVal := ieeeVal 5 2 (-14) false x
def e4m3Val (x : Nat) : FVal :=
  if x % 128 = 127 then .nan false else finOf 3 (-6) (bitOf x 7) (x / 8 % 16) (x % 8)
def e2m1Val (x : Nat) : FVal := finOf 1 0 (bitOf x 3) (x / 2 % 4) (x % 2)
def e8m0Val (c : Nat) : FVal := if c = 255 then .nan false else .fin false 1 ((c : Int) - 127)
/-- An integer as a value. -/
def intVal (x : Int) : FVal := .fin (decide (x < 0)) x.natAbs 0

/-- Entry `c` of a code table (R267). -/
def tableEntryOf (tab : BitVec 256) (c : Nat) : Nat := tab.toNat / 2 ^ (16 * (c % 16)) % 2 ^ 16

/-- The value of an element `x` of a format; a T4 code reads `tab` (R264 to R268). -/
def fmtVal (f : Fmt) (tab : BitVec 256) (x : Nat) : FVal :=
  match f with
  | .f32 => ieeeVal 8 23 (-126) true x
  | .bf16 => bf16Val x
  | .f16 => f16Val x
  | .e4m3 => e4m3Val x
  | .e5m2 => e5m2Val x
  | .e2m1 => e2m1Val x
  | .t4 => bf16Val (tableEntryOf tab x)
  | .s8 => intVal (sextInt x 8)
  | .s4 => intVal (sextInt x 4)
  | .z8 => intVal (x % 256)
  | .z4 => intVal (x % 16)
  | .e8m0 => e8m0Val x
  | .s32 => intVal (sextInt x 32)
  | .rank => .nan false

/-! ## Rounding -/

/-- Rounding modes of `cvt` (R270). -/
inductive Round | rne | rtz | rdn | rup | sr
  deriving DecidableEq, Repr

def roundOf : Rm → Round
  | .rne => .rne | .rtz => .rtz | .rdn => .rdn | .rup => .rup

/-- Whether the magnitude T + r x 2^-w ulp (plus something below, when `sticky`) rounds away from zero; `odd` is T's
last bit (R238, R273). -/
def roundsUp (rm : Round) (neg odd sticky : Bool) (r w rw : Nat) : Bool :=
  match rm with
  | .rne => decide (2 ^ w < 2 * r) || (decide (2 * r = 2 ^ w) && (sticky || odd))
  | .rtz => false
  | .rdn => neg && (decide (r ≠ 0) || sticky)
  | .rup => !neg && (decide (r ≠ 0) || sticky)
  | .sr =>
    let t := if 32 < w then r / 2 ^ (w - 32) else r
    let w := min w 32
    decide (r ≠ 0) && decide (2 ^ w ≤ t + rw / 2 ^ (32 - w))

/-- |m x 2^e| rounded to a multiple of 2^u: the multiple, and whether it is inexact. With `sticky` the exact value lies
strictly between m and m + 1 units of 2^e. -/
def roundAt (rm : Round) (neg sticky : Bool) (rw : Nat) (m : Nat) (e u : Int) : Nat × Bool :=
  if u ≤ e then (m * 2 ^ (e - u).toNat, sticky)
  else
    let w := (u - e).toNat
    let q := m / 2 ^ w
    let r := m % 2 ^ w
    (if roundsUp rm neg (decide (q % 2 = 1)) sticky r w rw then q + 1 else q, decide (r ≠ 0) || sticky)

/-- The spacing of a grid at a magnitude: unbounded above, the subnormal spacing below (R270). -/
def FGrid.ulp (g : FGrid) (m : Nat) (e : Int) : Int := max ((m.log2 : Int) + e) g.emin - g.fb

/-- The code, without its sign, of q x 2^u on a grid. -/
def FGrid.encode (g : FGrid) (q : Nat) (u : Int) : Nat :=
  if q = 0 then 0
  else
    let ex := (q.log2 : Int) + u
    if ex < g.emin then q
    else (ex - g.emin + 1).toNat * 2 ^ g.fb + (q * 2 ^ g.fb / 2 ^ q.log2 - 2 ^ g.fb)

/-- q x 2^u exceeds the largest finite value. -/
def FGrid.over (g : FGrid) (q : Nat) (u : Int) : Bool :=
  let d := min u g.maxE
  decide (g.maxM * 2 ^ (g.maxE - d).toNat < q * 2 ^ (u - d).toNat)

/-- Codes of a format's specials: width, infinity, canonical NaN (none where the format has none, R265). -/
def fmtInf : Fmt → Option Nat
  | .f32 => some 0x7F800000 | .bf16 => some 0x7F80 | .f16 => some 0x7C00 | .e5m2 => some 0x7C | _ => none
def fmtNan : Fmt → Option Nat
  | .f32 => some 0x7FC00000 | .bf16 => some 0x7FC0 | .f16 => some 0x7E00 | .e4m3 => some 0x7F | .e5m2 => some 0x7E | _ => none
def fmtGrid : Fmt → Option FGrid
  | .f32 => some gF32 | .bf16 => some gBF16 | .f16 => some gF16 | .e4m3 => some gE4M3 | .e5m2 => some gE5M2
  | .e2m1 => some gE2M1 | _ => none
/-- The range of an integer format (R268). -/
def fmtRange : Fmt → Int × Int
  | .s4 => (-8, 7) | .z4 => (0, 15) | .s8 => (-128, 127) | .z8 => (0, 255) | _ => (-2 ^ 31, 2 ^ 31 - 1)

/-- A code with its sign. -/
def signed (f : Fmt) (neg : Bool) (code : Nat) : Nat := if neg then code + 2 ^ (f.width - 1) else code

/-- The result of an overflow to a floating format: max or infinity by mode and SAT (R271). -/
def overflowCode (f : Fmt) (g : FGrid) (rm : Round) (sat neg : Bool) : Nat :=
  let mx := g.encode g.maxM g.maxE
  match fmtInf f with
  | none => signed f neg mx
  | some i =>
    let toMax := sat || (match rm with
      | .rtz => true | .rdn => !neg | .rup => neg | .rne | .sr => false)
    signed f neg (if toMax then mx else i)

/-- A nonzero finite value rounded onto a floating format (R270, R271). -/
def roundTo (f : Fmt) (g : FGrid) (rm : Round) (sat : Bool) (rw : Nat) (neg sticky : Bool) (m : Nat) (e : Int) :
    Nat × FFlags :=
  let u := g.ulp m e
  let r := roundAt rm neg sticky rw m e u
  if g.over r.1 u then (overflowCode f g rm sat neg, flOF ||| flPE)
  else
    let tiny := decide (r.1 ≠ 0) && decide ((r.1.log2 : Int) + u < g.emin)
    (signed f neg (g.encode r.1 u), (if r.2 then flPE else 0) ||| (if r.2 && tiny then flUF else 0))

/-- `cvt` of R270 on a source value: the element's code, and its flags. -/
def cvtVal (v : FVal) (dst : Fmt) (rm : Round) (sat : Bool) (rw : Nat) : Nat × FFlags :=
  match fmtGrid dst with
  | none =>
    let rg := fmtRange dst
    let enc := fun (x : Int) => (x % 2 ^ dst.width).toNat
    match v with
    | .nan _ => (0, flNV)
    | .inf neg => (enc (if neg then rg.1 else rg.2), flNV)
    | .fin neg m e =>
      let r := roundAt rm neg false rw m e 0
      let q : Int := if neg then -(r.1 : Int) else r.1
      if q < rg.1 then (enc rg.1, flNV)
      else if q > rg.2 then (enc rg.2, flNV)
      else (enc q, if r.2 then flPE else 0)
  | some g =>
    match v with
    | .nan sig =>
      (match fmtNan dst with
       | some c => (c, if sig then flNV else 0)
       | none => (0, flNV))
    | .inf neg =>
      (match fmtInf dst with
       | some i => if sat then (signed dst neg (g.encode g.maxM g.maxE), flOF ||| flPE) else (signed dst neg i, 0)
       | none => (signed dst neg (g.encode g.maxM g.maxE), flOF ||| flPE))
    | .fin neg m e => if m = 0 then (signed dst neg 0, 0) else roundTo dst g rm sat rw neg false m e

/-! ## FP32 results (R238 to R241) -/

/-- A lane's result and its flags. -/
abbrev FRes := Lane × FFlags

def nan32 : Lane := 0x7FC00000
def inf32 (neg : Bool) : Lane := if neg then 0xFF800000 else 0x7F800000
def zero32 (neg : Bool) : Lane := if neg then 0x80000000 else 0
/-- The canonical NaN with NV. -/
def invalid : FRes := (nan32, flNV)

/-- FTZ on a rounded result (R241). -/
def flush (ftz : Bool) (r : FRes) : FRes :=
  let x := r.1.toNat % 2 ^ 31
  if ftz && decide (x ≠ 0) && decide (x < 0x800000) then (r.1 &&& 0x80000000, r.2 ||| flUF ||| flPE) else r

/-- A finite magnitude rounded to FP32 in a mode, with FTZ. (DEDUCED, log entry 46) -/
def round32 (ftz : Bool) (rm : Round) (neg sticky : Bool) (m : Nat) (e : Int) : FRes :=
  if m = 0 ∧ !sticky then (zero32 neg, 0)
  else
    let r := roundTo .f32 gF32 rm false 0 neg sticky m e
    flush ftz (BitVec.ofNat 32 r.1, r.2)

/-- An exact signed sum m x 2^e rounded to FP32; `zneg` is the sign of an exact zero. -/
def roundInt32 (ftz : Bool) (rm : Round) (zneg : Bool) (x : Int) (e : Int) : FRes :=
  if x = 0 then (zero32 zneg, 0) else round32 ftz rm (decide (x < 0)) false x.natAbs e

def FVal.isNan : FVal → Bool
  | .nan _ => true | _ => false
def FVal.isSig : FVal → Bool
  | .nan sg => sg | _ => false
def FVal.isInf : FVal → Bool
  | .inf _ => true | _ => false
def FVal.neg : FVal → Bool
  | .nan _ => false | .inf n => n | .fin n _ _ => n
def FVal.isZero : FVal → Bool
  | .fin _ m _ => m == 0 | _ => false
def FVal.negate : FVal → FVal
  | .nan sg => .nan sg | .inf n => .inf (!n) | .fin n m e => .fin (!n) m e
/-- Magnitude and exponent of a finite value. -/
def FVal.mag : FVal → Nat × Int
  | .fin _ m e => (m, e) | _ => (0, 0)

/-- A finite value as a signed integer multiple of 2^e0, e0 at most its exponent. -/
def FVal.scaled (v : FVal) (e0 : Int) : Int :=
  match v with
  | .fin n m e => let x : Int := m * 2 ^ (e - e0).toNat; if n then -x else x
  | _ => 0

/-- The exact product of two values that are no NaN and not infinity times zero. -/
def FVal.times (a b : FVal) : FVal :=
  match a, b with
  | .fin n m e, .fin n' m' e' => .fin (n != n') (m * m') (e + e')
  | _, _ => .inf (a.neg != b.neg)

/-- The exponent of a finite value, for a common scale; zeros do not count. -/
def FVal.lowExp (v : FVal) : Option Int :=
  match v with
  | .fin _ m e => if m = 0 then none else some e
  | _ => none

/-- The sum of values that are no NaN, rounded once (R238, R285): `zneg` decides an exact zero sum. -/
def sum32 (ftz : Bool) (rm : Round) (zneg : Bool) (vs : List FVal) : FRes :=
  let pos := vs.any (fun v => v.isInf && !v.neg)
  let neg := vs.any (fun v => v.isInf && v.neg)
  if pos && neg then invalid
  else if pos then (inf32 false, 0)
  else if neg then (inf32 true, 0)
  else
    let e0 := vs.foldl (fun (b : Option Int) v => match b, v.lowExp with
      | none, x => x
      | some y, some x => some (min x y)
      | some y, none => some y) none
    match e0 with
    | none => (zero32 zneg, 0)
    | some e0 => roundInt32 ftz rm zneg (vs.foldl (fun n v => if v.isZero then n else n + v.scaled e0) 0) e0

/-- The sign of an exact zero sum of two operands: theirs when they agree, else minus under RDN only (R238). -/
def zeroSign (rm : Round) (a b : FVal) : Bool := if a.neg = b.neg then a.neg else rm == .rdn

/-- a + b. -/
def fAdd (ftz : Bool) (rm : Round) (x y : Lane) : FRes :=
  let a := f32Val x
  let b := f32Val y
  if a.isSig || b.isSig then invalid
  else if a.isNan || b.isNan then (nan32, 0)
  else sum32 ftz rm (if a.isZero && b.isZero then zeroSign rm a b else rm == .rdn) [a, b]

/-- The sign bit inverted, NaNs included (an operand of a subtraction). -/
def flip32 (x : Lane) : Lane := x ^^^ 0x80000000

/-- a - b. -/
def fSub (ftz : Bool) (rm : Round) (x y : Lane) : FRes := fAdd ftz rm x (flip32 y)

/-- a x b. -/
def fMul (ftz : Bool) (rm : Round) (x y : Lane) : FRes :=
  let a := f32Val x
  let b := f32Val y
  if a.isSig || b.isSig then invalid
  else if a.isNan || b.isNan then (nan32, 0)
  else if (a.isInf && b.isZero) || (a.isZero && b.isInf) then invalid
  else match a.times b with
  | .inf n => (inf32 n, 0)
  | v => round32 ftz rm v.neg false v.mag.1 v.mag.2

/-- a x b + x with one rounding; infinity times zero raises NV even beside a quiet NaN (R254). -/
def fFma (ftz : Bool) (rm : Round) (x y z : Lane) : FRes :=
  let a := f32Val x
  let b := f32Val y
  let c := f32Val z
  if a.isSig || b.isSig || c.isSig then invalid
  else if (a.isInf && b.isZero) || (a.isZero && b.isInf) then invalid
  else if a.isNan || b.isNan || c.isNan then (nan32, 0)
  else
    let p := a.times b
    sum32 ftz rm (if p.isZero && c.isZero then zeroSign rm p c else rm == .rdn) [p, c]

/-- x - a x b with one rounding (R254). -/
def fFms (ftz : Bool) (rm : Round) (x y z : Lane) : FRes := fFma ftz rm (flip32 x) y z

/-- The order of FP32 values that are no NaN, with -0 below +0 (R255). -/
def key32 (x : Lane) : Int :=
  if x.getLsbD 31 then -((x.toNat % 2 ^ 31 : Nat) : Int) - 1 else (x.toNat : Int)
/-- The same order with -0 equal to +0 (R256). -/
def ord32 (x : Lane) : Int := if x.getLsbD 31 then -((x.toNat % 2 ^ 31 : Nat) : Int) else (x.toNat : Int)

/-- VFMIN and VFMAX (R255). -/
def fMinMax (mx num : Bool) (x y : Lane) : FRes :=
  let a := f32Val x
  let b := f32Val y
  let nv : FFlags := if a.isSig || b.isSig then flNV else 0
  if a.isNan && b.isNan then (nan32, nv)
  else if a.isNan then (if num then y else nan32, nv)
  else if b.isNan then (if num then x else nan32, nv)
  else (if (if mx then decide (key32 y ≤ key32 x) else decide (key32 x ≤ key32 y)) then x else y, nv)

/-- VFCMP (R256). -/
def fCmp (cond : FCond) (x y : Lane) : Bool × FFlags :=
  let a := f32Val x
  let b := f32Val y
  let un := a.isNan || b.isNan
  let sg := a.isSig || b.isSig
  let quietNv := match cond with
    | .lt | .le | .ge | .gt => true
    | _ => false
  let r := match cond with
    | .eq => !un && ord32 x == ord32 y
    | .lt => !un && decide (ord32 x < ord32 y)
    | .le => !un && decide (ord32 x ≤ ord32 y)
    | .un => un
    | .ne => un || ord32 x != ord32 y
    | .ge => !un && decide (ord32 x ≥ ord32 y)
    | .gt => !un && decide (ord32 x > ord32 y)
    | .ord => !un
  (r, if sg || (un && quietNv) then flNV else 0)

/-- The class bit of a value (R257). -/
def fClass (x : Lane) : Nat :=
  let neg := x.getLsbD 31
  match f32Val x with
  | .nan _ => 8
  | .inf _ => if neg then 0 else 7
  | .fin _ m _ =>
    if m = 0 then (if neg then 3 else 4)
    else if m < 2 ^ 23 then (if neg then 2 else 5)
    else (if neg then 1 else 6)

/-! ## Division and roots (R258, R247) -/

/-- Integer square root by bits: the largest r below 2^n with r^2 at most x. -/
def isqrtGo (x : Nat) : Nat → Nat → Nat
  | 0, r => r
  | n + 1, r => isqrtGo x n (if (r + 2 ^ n) * (r + 2 ^ n) ≤ x then r + 2 ^ n else r)
def isqrt (x : Nat) : Nat := isqrtGo x (x.log2 / 2 + 1) 0

/-- |a / b| for finite nonzero magnitudes, as a number of at least 40 bits with a sticky bit. -/
def divMag (a b : Nat × Int) : Nat × Int × Bool :=
  let k := 64 + b.1.log2
  (a.1 * 2 ^ k / b.1, a.2 - b.2 - k, decide (a.1 * 2 ^ k % b.1 ≠ 0))

/-- sqrt of m x 2^e, likewise. -/
def sqrtMag (m : Nat) (e : Int) : Nat × Int × Bool :=
  let k : Nat := 128 + (e % 2).toNat
  let x := m * 2 ^ k
  let r := isqrt x
  (r, (e - k) / 2, decide (r * r ≠ x))

/-- 1 / sqrt(m x 2^e), likewise. -/
def rsqrtMag (m : Nat) (e : Int) : Nat × Int × Bool :=
  let k : Nat := 200 + (e % 2).toNat
  let x := 2 ^ k / m
  let r := isqrt x
  (r, -((e + k) / 2), decide (r * r * m ≠ 2 ^ k))

/-- VFDIV (R258). -/
def fDiv (ftz : Bool) (x y : Lane) : FRes :=
  let a := f32Val x
  let b := f32Val y
  let neg := a.neg != b.neg
  if a.isSig || b.isSig then invalid
  else if a.isNan || b.isNan then (nan32, 0)
  else if (a.isInf && b.isInf) || (a.isZero && b.isZero) then invalid
  else if a.isInf then (inf32 neg, 0)
  else if b.isInf then (zero32 neg, 0)
  else if b.isZero then (inf32 neg, flDZ)
  else if a.isZero then (zero32 neg, 0)
  else
    let q := divMag a.mag b.mag
    round32 ftz .rne neg q.2.2 q.1 q.2.1

/-- VFSQRT (R258). -/
def fSqrt (ftz : Bool) (x : Lane) : FRes :=
  let a := f32Val x
  if a.isSig then invalid
  else if a.isNan then (nan32, 0)
  else if a.isZero then (x, 0)
  else if a.neg then invalid
  else if a.isInf then (inf32 false, 0)
  else
    let q := sqrtMag a.mag.1 a.mag.2
    round32 ftz .rne false q.2.2 q.1 q.2.1

/-! ## FPCTL -/

/-- FTZ and the enables of FPCTL (R242). -/
def Core.ftz (c : Core) : Bool := c.fpctl.getLsbD 0
def Core.fpEnable (c : Core) : FFlags := c.fpctl.extractLsb' 8 5

/-! ## Sesame -/

/-- Rotations of R9. -/
def sesameRD : List Nat := [7, 19, 11, 25, 3, 14, 29, 9, 21, 5]
def sesameRB : List Nat := [13, 5, 22, 17, 27, 10, 2, 30, 8, 24]

/-- The counter generator of R9: four counter words and two key words give four output words. -/
def sesame (a b c d key0 key1 : Lane) : Lane × Lane × Lane × Lane :=
  let r := (List.range 10).foldl (fun (x : Lane × Lane × Lane × Lane) i =>
    let ks := if i % 2 = 0 then key0 else key1
    let a := x.1 + x.2.1 + ks + BitVec.ofNat 32 (i * 0x6D2B79F5)
    let d := (x.2.2.2 ^^^ a).rotateLeft (sesameRD.getD i 0)
    let c := x.2.2.1 * 0x2C1B3C6D + d
    let b := (x.2.1 ^^^ c).rotateLeft (sesameRB.getD i 0)
    (a, b, c, d)) (a, b, c, d)
  (r.1, r.2.1 ^^^ key1, r.2.2.1 ^^^ key0, r.2.2.2)

end Sys2Proof.Machine
end

