-- ==== Sys2Proof/Machine/Xlate.lean ====
section
/-!
DEFINITION. The address map and translation: regions and windows (R162 to R165), the three-level walk with what TLBs and
walkers may still hold (R171 to R177), and the fault-queue records of R382 and R460 that are written through it.
-/
namespace Sys2Proof.Machine

/-! ## Translation -/

/-- Page bits an access needs (R174). -/
structure PageNeed where
  r : Bool := false
  w : Bool := false
  x : Bool := false
  deriving DecidableEq, Repr

/-- A failed translation: KIND and LEVEL of R177. -/
structure XFail where
  kind : Nat
  level : Nat
  deriving DecidableEq, Repr

/-- EINFO of XLATE (R177): KIND, LEVEL and bits 55:0 of the address. -/
def XFail.einfo (f : XFail) (ea : Nat) : Nat := f.kind * 2 ^ 60 + f.level * 2 ^ 58 + ea % 2 ^ 56

/-- Physical addresses of R169. -/
def physOk (pa : Nat) : Bool := decide (pa < 0x2000000000) || (decide (0x10000000000 ≤ pa) && decide (pa < 0x40000000000))
/-- Near or far memory. -/
def dramOk (pa : Nat) : Bool := decide (pa < 0x2000000000) || (decide (0x10000000000 ≤ pa) && decide (pa < 0x20000000000))
def isHost (pa : Nat) : Bool := decide (0x20000000000 ≤ pa) && decide (pa < 0x40000000000)

/-- log2 of the bytes a leaf maps at a level (R171). -/
def leafLog : Nat → Nat
  | 1 => 42
  | 2 => 29
  | _ => 16

def pteV (e : Word) : Bool := e.getLsbD 0
def pteLeaf (e : Word) : Bool := e.getLsbD 1
def ptePA (e : Word) : Nat := bitsOf e.toNat 47 16 * 0x10000

/-- A malformed entry (R177): reserved bits, a level-3 pointer, a leaf with address bits below its size.
(DEDUCED, log entry 28) -/
def pteBad (level : Nat) (e : Word) : Bool :=
  decide (bitsOf e.toNat 63 48 ≠ 0) || decide (bitsOf e.toNat 15 6 ≠ 0) || (decide (level = 3) && !pteLeaf e)
    || (pteLeaf e && decide (ptePA e % 2 ^ leafLog level ≠ 0))

/-- The table entry in memory for an address at a level. R182 lists no walker among the consumers of an uncorrectable error:
the bytes are taken as they stand and nothing is reported. (DESIGN CHOICE, log entry 74) -/
def State.tableEntry (s : State) (table level va : Nat) : Word :=
  BitVec.ofNat 64 (leNat (readBytes s.mem (table + 8 * (va / 2 ^ leafLog level % 8192)) 8))

/-- An entry as an observer sees it: the one in memory, or one a structure still holds (R176). -/
def State.seenEntry (s : State) (places : List TlbPlace) (ctx level va : Nat) (now : Word) : Word :=
  match s.tlb.find? (fun e => places.contains e.place && e.ctx == ctx && e.level == level &&
      e.va / 2 ^ leafLog level == va / 2 ^ leafLog level) with
  | some e => if e.pte = now then now else if s.pick (0x100 + level) 2 = 0 then now else e.pte
  | none => now

/-- The walk from a level's table: the leaf and its level, and the pointer entries read on the way. An entry with V = 0 is
KIND 2, whatever else it holds, and a table outside near and far memory fails at the level of its own that cannot be read
(R177). (DESIGN CHOICE, log entry 68) -/
def State.walk (s : State) (places : List TlbPlace) (ctx va : Nat) :
    List Nat → Nat → Except XFail (Word × Nat × List (Nat × Word))
  | [], _ => .error ⟨6, 3⟩
  | level :: rest, table =>
    if dramOk table then
      let e := s.seenEntry places ctx level va (s.tableEntry table level va)
      if !pteV e then .error ⟨2, level⟩
      else if pteBad level e then .error ⟨6, level⟩
      else if pteLeaf e then .ok (e, level, [(level, e)])
      else match s.walk places ctx va rest (ptePA e) with
        | .ok (l, lv, es) => .ok (l, lv, (level, e) :: es)
        | .error f => .error f
    else .error ⟨6, level⟩

/-- Entries kept after a walk, within what a place holds; which one a full place drops is open (R175). -/
def State.keep (s : State) (place : TlbPlace) (cap ctx level va : Nat) (pte : Word) : State :=
  if s.tlb.any (fun e => e.place == place && e.ctx == ctx && e.level == level && e.pte == pte &&
      e.va / 2 ^ leafLog level == va / 2 ^ leafLog level) then s
  else
    let mine := s.tlb.filter (fun e => e.place == place)
    let tlb := if mine.length < cap then s.tlb
               else match mine[s.pick 0x110 mine.length]? with
                 | some v => s.tlb.erase v
                 | none => s.tlb
    { s with tlb := tlb ++ [⟨place, ctx, level, va / 2 ^ leafLog level * 2 ^ leafLog level, pte⟩] }

/-- How many entries a place holds (R175); for the hub's own the spec gives no number. (DESIGN CHOICE, log entry 67) -/
def TlbPlace.cap : TlbPlace → Nat
  | .core _ => 32
  | .cluster _ => 1024
  | .walker _ => 64
  | .hub => 64
  | .rdma => 64

/-- Keeps a walk's entries: the leaf in every place, pointers in walkers only. Engines and MEs keep no leaf, so that they
translate by the new one wherever R176 allows the old or the new. (DESIGN CHOICE, log entry 75) -/
def State.keepAll (s : State) (places : List TlbPlace) (ctx va : Nat) (es : List (Nat × Word)) : State :=
  places.foldl (fun s p => es.foldl (fun s e =>
    match p with
    | .walker _ => if pteLeaf e.2 then s else s.keep p p.cap ctx e.1 va e.2
    | _ => if pteLeaf e.2 then s.keep p p.cap ctx e.1 va e.2 else s) s) s

/-- Translation of a translated address for an observer (R171 to R177): the physical address, or KIND and LEVEL. A page that
forbids the access is KIND 3, wherever it leads. (DESIGN CHOICE, log entry 68) -/
def State.xlate (s : State) (places : List TlbPlace) (ctx va : Nat) (need : PageNeed) : Except XFail Nat × State :=
  if 2 ^ 55 ≤ va then (.error ⟨1, 0⟩, s)
  else
    match s.walk places ctx va [1, 2, 3] (bitsOf (s.getX ctx).xbase.toNat 47 16 * 0x10000) with
    | .error f => (.error f, s)
    | .ok (e, level, es) =>
      let s' := s.keepAll places ctx va es
      if (need.r && !e.getLsbD 2) || (need.w && !e.getLsbD 3) || (need.x && !e.getLsbD 4) then (.error ⟨3, level⟩, s')
      else
        let pa := ptePA e + va % 2 ^ leafLog level
        if physOk pa then (.ok pa, s') else (.error ⟨6, level⟩, s')

/-- Where a core's translations are held: its micro-TLB, its cluster's TLB, its die's walker (R175). -/
def corePlaces (n : Nat) : List TlbPlace := [.core n, .cluster (clusterOfCore n), .walker (dieOfCore n)]
/-- Where a die's engines and MEs hold theirs (R197). -/
def diePlaces (d : Nat) : List TlbPlace := [.walker d]

/-! ## Fault-queue records -/

/-- The 32 bytes of R382. -/
def record (handle : Nat) (cause : BitVec 8) (eng op st : Nat) (elem addr detail : Nat) : List Byte :=
  leBytes handle 4 ++ [cause] ++ leBytes eng 1 ++ leBytes op 1 ++ leBytes st 1 ++ leBytes elem 8 ++ leBytes addr 8
    ++ leBytes detail 8

/-- A TXC record: its header and body, every field little-endian (R4, R506). -/
def txcRecord (ty st seqn ctx : Nat) (body : List Byte) : List Byte :=
  [0x54, 0x58, 0x43, 0x01] ++ leBytes ty 2 ++ leBytes st 1 ++ [0] ++ leBytes seqn 8 ++ leBytes ctx 1 ++ [0]
    ++ leBytes body.length 2 ++ List.replicate 12 0 ++ body
/-- A record the device sends of its own: NOTICE or DUTY (R507). (DESIGN CHOICE, log entry 85) -/
def State.tell (s : State) (ty ctx : Nat) (body : List Byte) : State :=
  s.send (.record (txcRecord ty 0 (Config.recordSeq s.tick s.host.out.length) ctx body))
/-- A NOTICE (R507). -/
def State.notice (s : State) (ctx : Nat) (body : List Byte) : State := s.tell 0x42 ctx body

/-- The NOTICE of kind 5 for dropped records, at most one in 4,000,000 cycles (R460, R507). -/
def State.noticeDrops (s : State) (ctx : Nat) : State :=
  let x := s.getX ctx
  if decide (x.dropped ≠ 0) && (match x.noticeAt with | none => true | some t => decide (t + 4000000 ≤ s.cycle)) then
    (s.updX ctx (fun x => { x with dropped := 0, noticeAt := some s.cycle })).notice
      ctx ([5] ++ leBytes (min x.dropped 0xFFFF) 2 ++ [x.dropCause])
  else s
/-- Dropped records not yet told of, once the time of the last NOTICE has passed (R460). -/
def State.reportDrops (s : State) : State := (List.range 16).foldl State.noticeDrops s

/-- A record the queue could not take at all (R460). -/
def State.dropRecord (s : State) (ctx : Nat) (cause : BitVec 8) : State :=
  (s.updX ctx (fun x => { x with dropped := x.dropped + 1, dropCause := if x.dropped = 0 then cause else x.dropCause })).noticeDrops ctx

/-- A record written to a context's fault queue, counted as lost, or dropped (R460). -/
def State.faultRecord (s : State) (ctx : Nat) (rec : List Byte) : State :=
  let q := (s.getX ctx).ccb.faultQ
  let cause := rec.getD 4 0
  if q % 64 ≠ 0 then s.dropRecord ctx cause
  else match s.xlate [.hub] ctx q { r := true, w := true } with
    | (.error _, s) => s.dropRecord ctx cause
    | (.ok pa, s) =>
      if !dramOk pa then s.dropRecord ctx cause
      else
        let h := readBytes s.mem pa 16
        let cap := field h 0 4
        let tail := field h 8 4
        if cap = 0 then s.dropRecord ctx cause
        else if cap ≤ (tail + 2 ^ 32 - field h 4 4) % 2 ^ 32 then
          { s with mem := writeBytes s.mem (pa + 12) (leBytes (min (field h 12 4 + 1) 0xFFFFFFFF) 4) }
        else match s.xlate [.hub] ctx (q + 64 + 32 * (tail % cap)) { r := true, w := true } with
          | (.error _, s) => s.dropRecord ctx cause
          | (.ok at', s) =>
            if !dramOk at' then s.dropRecord ctx cause
            else { (s.replaced at' 32) with
              mem := writeBytes (writeBytes s.mem at' rec) (pa + 8) (leBytes ((tail + 1) % 2 ^ 32) 4)
              tags := setTags s.tags [(at' / 16, false), (at' / 16 + 1, false), (pa / 16, false)] }

/-! ## The duty split (R469, R470, R509) -/

/-- Whether a function of a context is in the host-assisted mode. (DESIGN CHOICE, log entry 40) -/
def State.assisted (s : State) (ctx fn : Nat) : Bool := bitsOf (s.getX ctx).duty.toNat (2 * fn + 1) (2 * fn) == 1

/-- The body of a DUTY record (R509). -/
def Parked.body (p : Parked) (id : Nat) : List Byte :=
  leBytes p.fn 1 ++ [p.cause, 0, 0] ++ leBytes id 4 ++ leBytes p.addr.toNat 8 ++ leBytes p.detail.toNat 8

/-- An activity parked until the host answers: its id, and the record sent. -/
def State.park (s : State) (act : Activity) (ctx fn : Nat) (cause : BitVec 8) (addr detail : Nat) : Nat × State :=
  let id := s.host.nextAct
  let p : Parked := {
    act := act, ctx := ctx, fn := fn, cause := cause, addr := BitVec.ofNat 64 addr, detail := BitVec.ofNat 64 detail
    at' := s.cycle, sentAt := s.cycle, answer := none }
  (id, ({ s with host := { s.host with parked := mset s.host.parked id p, nextAct := (id + 1) % 2 ^ 32 } }).tell 0x41 ctx (p.body id))

/-- XLATE kinds the translation-fault service acts on: what a table entry decides (R177). (DEDUCED, log entry 28) -/
def serviced (einfo : Nat) : Bool := einfo / 2 ^ 60 == 2 || einfo / 2 ^ 60 == 3 || einfo / 2 ^ 60 == 6

/-- The function of the duty split that serves a fault (R469): what a table decides of a translation (R177), a Shell job's
fault, a memory error, and a wait for room in a record queue. (DESIGN CHOICE, log entry 40) -/
def dutyFn (cause : BitVec 8) (einfo : Nat) (shell : Bool) : Option Nat :=
  if shell then some 2
  else if cause = Cause.xlate.code then (if serviced einfo then some 0 else none)
  else if cause = Cause.mcheck.code then some 3
  else if cause = Cause.deadlock.code then some 4
  else none
/-- That function, where the context has put it in the host-assisted mode. -/
def State.servedBy (s : State) (ctx : Nat) (cause : BitVec 8) (einfo : Nat) (shell : Bool := false) : Option Nat :=
  (dutyFn cause einfo shell).filter (s.assisted ctx)

/-! ## Regions -/

/-- The windows of R162. -/
inductive Win | near | spad | istore | acc | eng | mspad | mistore
  deriving DecidableEq, Repr

/-- What an effective address falls in (R162). -/
inductive Region | translated | window (w : Win) (unit off : Nat)
  deriving DecidableEq, Repr

def regionOf (ea : Nat) : Option Region :=
  if ea < 2 ^ 55 then some .translated
  else
    let low := ea % 2 ^ 48
    match ea / 2 ^ 48 with
    | 0xF0 => some (.window .near 0 low)
    | 0xF1 => some (.window .spad (low / 2 ^ 20) (low % 2 ^ 20))
    | 0xF2 => some (.window .istore (low / 2 ^ 20) (low % 2 ^ 20))
    | 0xF3 => some (.window .acc (low / 2 ^ 20) (low % 2 ^ 20))
    | 0xF4 => some (.window .eng (low / 2 ^ 12) (low % 2 ^ 12))
    | 0xF5 => some (.window .mspad (low / 2 ^ 20) (low % 2 ^ 20))
    | 0xF6 => some (.window .mistore (low / 2 ^ 20) (low % 2 ^ 20))
    | _ => none

/-- Loads, stores, atomics: the columns of R163 and R174. -/
inductive Acc | load | store | atomic
  deriving DecidableEq, Repr

def Acc.need : Acc → PageNeed
  | .load => { r := true }
  | .store => { w := true }
  | .atomic => { r := true, w := true }

/-- A resolved access: the home address, whether its holder is gone (REMOTE, R165), whether its unit keeps no tags
(R180), whether it is a host window. -/
structure Loc where
  key : Nat
  remote : Bool := false
  tagless : Bool := false
  host : Bool := false
  deriving DecidableEq, Repr

/-- Who makes an access: its core, mode, task and context. -/
structure Party where
  core : Nat
  sys : Bool
  task : Option Nat
  ctx : Nat
  places : List TlbPlace
  deriving DecidableEq, Repr

/-- The member's core, and whether it still holds it (R165). -/
def Task.memberCore (t : Task) (m : Nat) : Option (Nat × Bool) :=
  (t.mem.find? (fun x => x.1 == m)).map (fun x => x.2)

/-- A member window: the member's unit under the task that names it (R25, R165). -/
def State.memberLoc (s : State) (p : Party) (m : Nat) (mk : Nat → Loc) : Except XFail Loc :=
  match p.task with
  | none => .error ⟨4, 0⟩
  | some t =>
    match s.task? t with
    | none => .ok { mk 0 with remote := true }
    | some tk =>
      match tk.memberCore m with
      | none => .error ⟨4, 0⟩
      | some (core, true) => .ok (mk core)
      | some (core, false) => .ok { mk core with remote := true }

/-- Where an access of `size` bytes goes, by the windows' rules (R163 to R165) or by translation (R171 to R177).
(DEDUCED, log entry 27) -/
def State.locate (s : State) (p : Party) (a : Acc) (ea size : Nat) : Except XFail Loc × State :=
  match regionOf ea with
  | none => (.error ⟨1, 0⟩, s)
  | some .translated =>
    match s.xlate p.places p.ctx ea a.need with
    | (.error f, s) => (.error f, s)
    | (.ok pa, s) => (.ok { key := pa, tagless := isHost pa, host := isHost pa }, s)
  | some (.window w unit off) =>
    (match w with
     | .near => if off < 0x80000 then .ok { key := spadKey p.core off } else .error ⟨4, 0⟩
     | .spad =>
       if p.sys ∧ unit < nCores ∧ off < 0x80000 then
         .ok { key := spadKey unit off, remote := (s.getC unit).run == .halted }
       else .error ⟨4, 0⟩
     | .istore =>
       if p.sys ∧ unit < nCores ∧ off < 0x8000 ∧ size = 8 ∧ a ≠ .atomic then
         .ok { key := istoreKey unit off, tagless := true, remote := (s.getC unit).run == .halted }
       else .error ⟨4, 0⟩
     | .acc =>
       if unit < 1152 ∧ off < 0x40000 ∧ (size = 4 ∨ size = 8 ∨ size = 16) ∧ a ≠ .atomic
           ∧ (p.sys ∨ clusterOfMe unit = clusterOfCore p.core) then
         .ok { key := accKey unit off, tagless := true }
       else .error ⟨4, 0⟩
     | .eng => .error ⟨4, 0⟩
     | .mspad =>
       if off < 0x80000 then s.memberLoc p unit (fun c => { key := spadKey c off }) else .error ⟨4, 0⟩
     | .mistore =>
       if off < 0x8000 ∧ size = 8 ∧ a ≠ .atomic ∧ (p.sys ∨ (a = .store ∧ off < 0x7000)) then
         s.memberLoc p unit (fun c => { key := istoreKey c off, tagless := true })
       else .error ⟨4, 0⟩, s)

end Sys2Proof.Machine
end

