-- ==== Sys2Proof/Machine/Memory.lean ====
section
/-!
DEFINITION. Accesses of a core: the capability check (R102), the shared sequence of checks of R188 (`access`), loads with
store-queue forwarding (R202), the stack cache (R149), the store queue and what performing an entry does at its home
(R199 to R201), asynchronous loads (R194), and uncorrectable errors (R182, R183).
-/
namespace Sys2Proof.Machine

/-! ## The executing core as a party -/

def State.partyOf (s : State) (n : Nat) : Party :=
  let c := s.getC n
  { core := n, sys := c.sys, task := c.task, ctx := c.ctx, places := corePlaces n }
def State.party (s : State) : Party := s.partyOf s.cur

/-- The next word issues only after the blocking access has been answered (R190, R43); how long that takes is open.
(DESIGN CHOICE, log entry 5) -/
def State.block (s : State) (salt : Nat) : State :=
  s.upd (fun c => { c with readyAt := max c.readyAt (s.cycle + 1 + Config.blockCycles s.tick salt) })

/-! ## Uncorrectable errors -/

/-- SOURCE of MCHECK's EINFO (R182). Whether the memory-side cache holds a line of far memory is not architected (R170), so
which of the two arrays reports is open. (DESIGN CHOICE, log entry 55) -/
def State.mcheckSource (s : State) (key : Nat) : Nat :=
  if key < 0x2000000000 then 2 else if key < 0x20000000000 then 3 + s.pick 0x128 2 else if key < istoreBase then 1
  else if key < accBase then 7 else 6
def State.mcheckInfo (s : State) (key ea : Nat) : Nat := s.mcheckSource key * 2 ^ 60 + ea % 2 ^ 56

/-- Whether a byte range touches a granule with an uncorrectable error. -/
def State.poisoned (s : State) (key size : Nat) : Bool :=
  s.poison.any (fun g => decide (g * 16 < key + size) && decide (key < g * 16 + 16))

/-- The MCHECK record of a store to part of a granule with an uncorrectable error (R183). -/
def State.mcheckRecord (s : State) (ctx addr detail : Nat) : State :=
  s.faultRecord ctx (record 0 Cause.mcheck.code 0xFF 0 0 0 addr detail)

/-- A write's effect on errors (R183), by the bytes it writes: a whole granule replaces it, a part leaves it and is recorded.
The record names the granule by its home address, that of a store into the stack cache by its effective address.
(DESIGN CHOICE, log entry 76) -/
def State.healed (s : State) (ctx : Nat) (keys : List Nat) : State :=
  (s.poison.filter (fun g => keys.any (fun k => k / 16 == g))).foldl (fun s g =>
    if 16 ≤ (keys.filter (fun k => k / 16 == g)).length then { s with poison := ndel g s.poison }
    else s.mcheckRecord ctx (g * 16) (s.mcheckInfo (g * 16) (g * 16))) s

/-! ## Writes at their homes -/

/-- Words of an instruction store that a write touches keep their old value for fetch until the store's core makes
them visible (R185, R186). -/
def State.markStale (s : State) (key : Nat) : State :=
  if istoreBase ≤ key ∧ key < accBase then
    let core := (key - istoreBase) / 0x100000
    let w := (key - istoreBase) % 0x100000 / 8
    s.updC core (fun c => match mfind c.istale w with
      | some _ => c
      | none => { c with istale := mset c.istale w (s.istoreWord core w) })
  else s

/-- A write to a granule that a saved task watches makes it ready (R229). -/
def State.noteWrite (s : State) (cells : List Host.Cell) : State :=
  if s.ham.saved = [] then s
  else { s with ham := { s.ham with saved := s.ham.saved.map (fun (x : Saved) => { x with
      ready := x.ready || (match x.watch with | some g => cells.any (fun y => y.1 / 16 == g) | none => false) }) } }

/-- Bytes written at their home at one instant, with the tags of the granules (R178, R199, R200). -/
def State.perform (s : State) (ctx : Nat) (cells : List Host.Cell) (tags : List (Nat × Bool)) : State :=
  match cells with
  | [] => { s with tags := setTags s.tags tags }
  | (key, _) :: _ =>
    let s := if s.poison = [] then s else s.healed ctx (cells.map Prod.fst)
    let s := (s.markStale key).noteWrite cells
    { s with mem := writeCells s.mem cells, tags := setTags s.tags tags }

/-- The granules of consecutive bytes, with their tags cleared (R178). -/
def clearTags (key size : Nat) : List (Nat × Bool) :=
  (List.range ((key + size - 1) / 16 - key / 16 + 1)).map (fun i => (key / 16 + i, false))

/-- A plain write of consecutive bytes by an agent other than a core: tags cleared. -/
def State.writeAt (s : State) (ctx key : Nat) (bs : List Byte) : State :=
  if bs = [] then s else s.perform ctx (cellsAt key bs) (clearTags key bs.length)

/-- Bytes of an atomic (R214). -/
def atBytes : AtSize → Nat
  | .z32 => 4 | .z64 => 8

/-- The integer atomics of R214, on values of the operation's size. -/
def amoNew (op : AmoOp) (size : AtSize) (old arg : Word) : Word :=
  let bits := match size with | .z32 => 32 | .z64 => 64
  let o := old.toNat % 2 ^ bits
  let a := arg.toNat % 2 ^ bits
  BitVec.ofNat 64 <| match op with
  | .add => (o + a) % 2 ^ bits
  | .swap => a
  | .and => Nat.land o a
  | .or => Nat.lor o a
  | .xor => Nat.xor o a
  | .mins => if sextInt o bits ≤ sextInt a bits then o else a
  | .maxs => if sextInt o bits ≥ sextInt a bits then o else a
  | .maxz => if o ≥ a then o else a

/-- An atomic update performed at its home at one instant, with the granule's tag cleared (R212, R214). -/
def State.amoAt (s : State) (ctx : Nat) (op : AmoOp) (size : AtSize) (key : Nat) (arg : Word) : Word × State :=
  let old := BitVec.ofNat 64 (leNat (readBytes s.mem key (atBytes size)))
  (old, s.writeAt ctx key (leBytes (amoNew op size old arg).toNat (atBytes size)))

/-- A cycle passes. -/
def State.idleCycle (s : State) : State := { s with cycle := s.cycle + 1 }

/-! ## Message ports (R230 to R234) -/

/-- A register's value, as a value of its file, and a register set. -/
def Core.reg (c : Core) (f : RFile) (r : Nat) : RVal :=
  match f with
  | .g => .g (mget TReg0 c.g r)
  | .v => .v (mget vec0 c.v r)
  | .k => .k (mget 0 c.k r)
def Core.setReg (c : Core) (r : Nat) : RVal → Core
  | .g x => { c with g := mput TReg0 c.g r x }
  | .v x => { c with v := mput vec0 c.v r x }
  | .k x => { c with k := mput 0 c.k r x }

/-- The first producer that satisfies a condition shows another old value. -/
def setOld (p : Producer → Bool) (x : RVal) : List Producer → List Producer
  | [] => []
  | q :: r => if p q then { q with old := x } :: r else q :: setOld p x r

/-- Whether a producer's result for a register is on its way. -/
def Producer.flies (p : Producer) (now : Nat) (f : RFile) (r : Nat) : Bool :=
  decide (p.file = f) && decide (p.reg = r) && decide (now < p.due)
/-- A value written to a register now: a fixed-latency result on its way still comes, over it (R44, R46). -/
def Core.putNow (c : Core) (now : Nat) (f : RFile) (r : Nat) (x : RVal) : Core :=
  if c.prods.any (·.flies now f r) then { c with prods := setOld (·.flies now f r) x c.prods } else c.setReg r x

/-- A deposit applied at its port: the value, FULL, OVERRUN, and an IDLE core woken (R230, R474). A deposit ends its cycle, so
whatever else happened to the port in that cycle came before it, and no two share one (R234). (DESIGN CHOICE, log entry 61) -/
def State.applyDeposit (s : State) (core port : Nat) (x : Word) : State :=
  (s.updC core (fun c =>
    let full := c.portfull.getLsbD port
    { c.putNow s.cycle .g (48 + port) (.g (TReg.ofInt x)) with
      portfull := c.portfull ||| BitVec.ofNat 16 (2 ^ port) ||| (if full then BitVec.ofNat 16 (2 ^ (port + 8)) else 0)
      woken := if c.wait = some .idle then some 1 else c.woken })).idleCycle

/-- Whether a deposit's target still stands: the member holds its core, its task has not ended, the core is not in
reset (R231). -/
def State.depositOk (s : State) (target : Nat) (task : Option Nat) : Bool :=
  (s.getC target).run != .halted &&
  match task with
  | none => true
  | some t => match s.task? t with
    | some tk => tk.mem.any (fun m => m.2.1 == target && m.2.2)
    | none => false

/-- The REMOTE record of a deposit or send that found nobody (R231, R445). (DEDUCED, log entry 20) -/
def State.remoteRecord (s : State) (ctx addr : Nat) : State :=
  s.faultRecord ctx (record 0 Cause.remote.code 0xFF 0 0 0 addr addr)

/-! ## Host windows (R504, R505) -/

/-- The bound window of a host address and the remote address it stands for; none where an access raises REMOTE. -/
def State.hostWindow (s : State) (pa size : Nat) : Option (Window × Nat) :=
  let i := (pa - 0x20000000000) / 0x200000000
  let off := (pa - 0x20000000000) % 0x200000000
  match mfind s.host.windows i with
  | some w => if off + size ≤ w.len then some (w, w.raddr.toNat + off) else none
  | none => none

/-- Ethernet bytes that a context sends are charged to it: the data of RDMA WRITEs and atomics; an RDMA READ sends none
(R416, R500). (DESIGN CHOICE, log entry 77) -/
def State.chargeEth (s : State) (ctx n : Nat) : State := s.updX ctx (fun x => { x with usedEth := x.usedEth + n })

/-- A store to a host window: an RDMA WRITE, or a REMOTE record (R504, R505). (DESIGN CHOICE, log entry 6) -/
def State.hostStore (s : State) (ctx pa : Nat) (bs : List Byte) : State :=
  match s.hostWindow pa bs.length with
  | some (w, ra) =>
    if Config.hostNak s.tick pa then s.remoteRecord ctx pa
    else (s.chargeEth ctx bs.length).send (.rdmaWrite w.qp ra w.rkey bs)
  | none => s.remoteRecord ctx pa

/-- Whether a read of a host window is answered (R505). -/
def State.hostAnswers (s : State) (pa size : Nat) : Bool := (s.hostWindow pa size).isSome && !Config.hostNak s.tick pa
/-- A queue entry that a later access at a home follows: one for that home, or a release marker (R201, R205). -/
def SqEntry.ahead (home : Home) (e : SqEntry) : Bool := e.home == home || (match e.op with | .release _ => true | _ => false)
/-- Bytes at a physical address as a read finds them: a host window's are the host's. -/
def State.physBytes (s : State) (pa n : Nat) : List Byte :=
  if isHost pa then (List.range n).map (fun i => Config.hostByte s.tick (pa + i)) else readBytes s.mem pa n

/-- The RDMA READ of a host window's bytes (R501, R504). -/
def State.sendRead (s : State) (pa n : Nat) : State :=
  match s.hostWindow pa n with
  | some (w, ra) => s.send (.rdmaRead w.qp ra w.rkey n)
  | none => s
/-- A read at a physical address: a host window's is an RDMA READ, `none` where it is not answered (R505). -/
def State.physRead (s : State) (pa n : Nat) : Option (List Byte × State) :=
  if isHost pa then (if s.hostAnswers pa n then some (s.physBytes pa n, s.sendRead pa n) else none)
  else some (readBytes s.mem pa n, s)

/-- A RoCEv2 atomic sent (R213): 1 fetch-and-add, 2 compare-and-swap. A swap goes as the compare-and-swap that expects what is
there. (DESIGN CHOICE, log entry 6) -/
def State.sendAmo (s : State) (ctx : Nat) (w : Window) (ra op : Nat) (arg cmp old : Word) : State :=
  (s.chargeEth ctx 8).send (if op = 0 then .rdmaAmo w.qp ra w.rkey 2 arg old else .rdmaAmo w.qp ra w.rkey op arg cmp)

/-- The atomics of R213 at a host window: 0 swap, 1 fetch-and-add, 2 compare-and-swap; the old value is the host's. -/
def State.hostAmo (s : State) (ctx pa op : Nat) (arg cmp : Word) : Option (Word × State) :=
  match s.hostWindow pa 8 with
  | some (w, ra) =>
    if Config.hostNak s.tick pa then none
    else
      let old := BitVec.ofNat 64 (leNat (s.physBytes pa 8))
      some (old, s.sendAmo ctx w ra op arg cmp old)
  | none => none

/-! ## The stack cache (R149) -/

/-- Whether an address lies in the core's stack. -/
def Core.inStack (c : Core) (ea : Nat) : Bool := decide (c.slim.toNat ≤ ea) && decide (ea < c.sbase.toNat)

/-- Tag bits of memory. -/
def State.tagAt (s : State) (key : Nat) : Bool := s.tags.contains (key / 16)

/-- A dirty granule written back to the memory behind it, with its tag. The data of a granule with an uncorrectable error
is open, and it carries no mark (R183). (DESIGN CHOICE, log entry 56) -/
def State.writeBack (s : State) (ctx : Nat) (l : SLine) : State :=
  let bs := if l.bad then (List.range 16).map (fun i => (s.free (0x138 + i)).setWidth 8) else leBytes l.val.toNat 16
  if isHost l.key then s.hostStore ctx l.key bs
  else s.perform ctx (cellsAt l.key bs) [(l.key / 16, l.tag)]

/-- Every dirty line of a core's stack cache written back (R149). -/
def State.flushStack (s : State) (n : Nat) : State :=
  let c := s.getC n
  if c.stack.any (fun e => e.2.dirty) then
    let s := c.stack.foldl (fun s e => if e.2.dirty then s.writeBack c.ctx e.2 else s) s
    s.updC n (fun c => { c with stack := c.stack.map (fun e => (e.1, { e.2 with dirty := false })) })
  else s

/-- One line, the furthest above the stack pointer, leaves the cache (R149). -/
def State.spillOne (s : State) (n : Nat) : State :=
  let c := s.getC n
  match c.stack.getLast? with
  | none => s
  | some (k, _) =>
    let mine := c.stack.filter (fun e => e.1 / 4 == k / 4)
    let s := mine.foldl (fun s e => if e.2.dirty then s.writeBack c.ctx e.2 else s) s
    s.updC n (fun c => { c with stack := c.stack.filter (fun e => e.1 / 4 != k / 4) })

/-- The 64-byte lines of which the stack cache holds granules. -/
def Core.stackLines (c : Core) : Nat := ((c.stack.map (fun e => e.1 / 4)).foldl (fun (ls : NSet) k => nins k ls) []).length

/-- A granule put in the stack cache; a line beyond its 8 KiB makes another spill first. -/
def State.putLine (s : State) (n g : Nat) (l : SLine) : State :=
  let c := s.getC n
  let s := if !c.stack.any (fun e => e.1 / 4 == g / 4) && decide (128 ≤ c.stackLines) then s.spillOne n else s
  s.updC n (fun c => { c with stack := mset c.stack g l })

/-! ## Asynchronous loads (R48, R194) -/

/-- The ring entry of a sequence, when it is among the 64 most recent. -/
def Core.ringAt (c : Core) (seq : BitVec 32) : Option RingEntry :=
  match mfind c.ring (seq.toNat % 64) with
  | some r => if r.seq = seq then some r else none
  | none => none

/-- A ring entry with the fault it records (R455). -/
def RingEntry.failed (r : RingEntry) (cause cls : BitVec 8) (count : Nat) (addr : Word) : RingEntry :=
  { r with status := 1, cause := cause, cls := cls, count := BitVec.ofNat 32 count, addr := addr, told := false }

/-- The ring entry a word took, as it stands now. Where a later word has its slot, the entry takes it back if that word has
completed; else that word's record stands, and this is none. (DESIGN CHOICE, log entry 78) -/
def Core.entryNow (c : Core) (e : RingEntry) : Option RingEntry :=
  match mfind c.ring (e.seq.toNat % 64) with
  | some r => if r.seq = e.seq then some r else if r.status = 0 then some e else none
  | none => some e

/-- An imprecise fault recorded against the ring entry that a word took; PEND is set (R456). -/
def Core.recordFault (c : Core) (e : RingEntry) (cause cls : BitVec 8) (count : Nat) (addr : Word) : Core :=
  match c.entryNow e with
  | some r => { c with
      ring := mset c.ring (e.seq.toNat % 64) (r.failed cause cls count addr)
      tr := { c.tr with pend := true } }
  | none => c

/-- The integer or quad a load of a type gives (R189). -/
def loadResult (ty : LdType) (x : Nat) : TReg :=
  match ty with
  | .z8 => .ofInt (BitVec.ofNat 64 (x % 2 ^ 8))
  | .s8 => .ofInt (BitVec.ofInt 64 (sextInt x 8))
  | .z16 => .ofInt (BitVec.ofNat 64 (x % 2 ^ 16))
  | .s16 => .ofInt (BitVec.ofInt 64 (sextInt x 16))
  | .z32 => .ofInt (BitVec.ofNat 64 (x % 2 ^ 32))
  | .s32 => .ofInt (BitVec.ofInt 64 (sextInt x 32))
  | .z64 => .ofInt (BitVec.ofNat 64 x)
  | .q => ⟨BitVec.ofNat 128 x, false⟩

/-- Bytes of a load or store type (R189). -/
def ldSize : LdType → Nat
  | .z8 | .s8 => 1 | .z16 | .s16 => 2 | .z32 | .s32 => 4 | .z64 => 8 | .q => 16

/-- The newest byte the core's own queue holds for an address among entries older than a program point; `none` inside
means an atomic whose value is not known yet (R202). -/
def sqByte (sq : List SqEntry) (seq key : Nat) : Option (Option Byte) :=
  sq.foldl (fun acc e =>
    if e.seq < seq then
      match e.op with
      | .write cells _ => match cells.find? (fun x => x.1 == key) with
        | some x => some (some x.2)
        | none => acc
      | .host rs => match rs.find? (fun r => decide (r.1 ≤ key) && decide (key < r.1 + r.2.length)) with
        | some r => some (r.2[key - r.1]?)
        | none => acc
      | .amo _ size a _ => if a ≤ key ∧ key < a + (atBytes size) then some none else acc
      | .hostAmo a _ _ => if a ≤ key ∧ key < a + 8 then some none else acc
      | _ => acc
    else acc) none

/-- A byte as a load at a program point of core `n` sees it: queued stores first, then the home; a host window's
bytes are the host's. -/
def State.seenByte (s : State) (n seq key : Nat) : Byte :=
  match sqByte (s.getC n).sq seq key with
  | some (some b) => b
  | _ => if isHost key then Config.hostByte s.tick key else readByte s.mem key

/-- A lane-addressed byte of a vector register changed. -/
def vecSetByte (v : Vec) (off : Nat) (b : Byte) : Vec :=
  v.set! (off / 4) (let x := v.getD (off / 4) 0
    let sh := 8 * (off % 4)
    (x &&& ~~~(BitVec.ofNat 32 (0xFF * 2 ^ sh))) ||| BitVec.ofNat 32 (b.toNat * 2 ^ sh))

/-- A load's bytes written to its register (R46, R48): older fixed-latency results on their way are discarded; a younger one
still comes, over the bytes that have arrived. -/
def Core.land (c : Core) (now : Nat) (l : Load) (f : RVal → RVal) : Core :=
  let new := f ((stale now l.file l.reg c.prods).getD (c.reg l.file l.reg))
  let ps := c.prods.filterMap (fun p =>
    if p.flies now l.file l.reg && decide (p.spos < l.spos) then (if p.token = 0 then none else some { p with reg := 1000 }) else some p)
  Core.putNow { c with prods := ps } now l.file l.reg new

/-- What a sector writes: a scalar load's value, or the bytes of a vector's lanes (R48, R189, R300). -/
def Load.put (l : Load) (vals : List (Nat × Byte)) (x : RVal) : RVal :=
  match x, l.ty with
  | .g _, some ty => .g (loadResult ty (leNat (vals.map Prod.snd)))
  | .v v, _ => .v (vals.foldl (fun v b => vecSetByte v b.1 b.2) v)
  | x, _ => x

/-- Whether a byte that a load reads from memory, and not from its core's queue, has an uncorrectable error (R182, R190). -/
def State.byteBad (s : State) (n seq key : Nat) : Bool := s.poisoned key 1 && (sqByte (s.getC n).sq seq key).isNone

/-- MCHECK of a failing sector (R182): an LDA's at the next word that issues; a VLDA's in its ring entry, with the number of
elements before the failing granule (R291). Of two failures of one VLDA the one with fewer elements before it stands.
(DESIGN CHOICE, log entry 79) -/
def State.sectorFault (s : State) (n : Nat) (l : Load) (sec : Sector) (c : Core) : Core :=
  let hit := (sec.bytes.find? (fun b => s.byteBad n l.seq b.2)).getD (0, 0)
  match l.file with
  | .g => { c with mchk := some (BitVec.ofNat 64 (s.mcheckInfo hit.2 l.ea)) }
  | _ =>
    let count := l.elem0 + (l.lanes.takeWhile (fun e => e != hit.1 / 4)).length
    let stands := match c.ringAt l.ring.seq with
      | some r => r.status == 1 && decide (r.count.toNat ≤ count)
      | none => false
    if stands then c
    else c.recordFault l.ring Cause.mcheck.code 1 count (BitVec.ofNat 64 (s.mcheckInfo hit.2 (l.ea + hit.1 / 4 * 4)))

/-- Sector `i` of outstanding load `j` of core `n` arrives: its bytes are written (R48); with the last one LCNT and
the token drop (R194). A failing sector is not written (R182). -/
def State.arrive (s : State) (n j i : Nat) : State :=
  let c := s.getC n
  match c.loads[j]? with
  | none => s
  | some l =>
    match l.sectors[i]? with
    | none => s
    | some sec =>
      if sec.arrived then s
      else
        let vals := sec.bytes.map (fun b => (b.1, s.seenByte n l.seq b.2))
        let c :=
          if sec.bytes.any (fun b => s.byteBad n l.seq b.2) then s.sectorFault n l sec c
          else if l.file = .g ∧ l.reg = 0 then c
          else c.land s.cycle l (l.put vals)
        let secs := l.sectors.set i { sec with arrived := true }
        if secs.all (·.arrived) then
          s.setC n { c with loads := c.loads.eraseIdx j, tokens := dropToken c.tokens l.token }
        else s.setC n { c with loads := c.loads.set j { l with sectors := secs } }

/-- Every sector of load `j` arrives. (DEDUCED, log entry 16) -/
def State.arriveLoad (s : State) (n j : Nat) : State :=
  let k := match (s.getC n).loads[j]? with | some l => l.sectors.length | none => 0
  -- the load leaves the list with its last sector; the others go first, in order
  (List.range k).foldl (fun s i => s.arrive n j i) s

/-- Every outstanding load of a core that satisfies a condition arrives. -/
def State.arriveWhere (s : State) (n : Nat) (p : Load → Bool) : State :=
  let js := (List.range (s.getC n).loads.length).filter (fun j => match (s.getC n).loads[j]? with | some l => p l | none => false)
  js.reverse.foldl (fun s j => s.arriveLoad n j) s

/-! ## The store queue (R191, R201) -/

/-- Whether a `.a` deposit of core `n` waits at one of some cores: it is not performed yet, and holds its sender's later writes
there (R232). -/
def State.asyncIn (s : State) (n : Nat) (p : Nat → Bool) : Bool :=
  s.cores.any (fun e => p e.1 && e.2.asyncs.any (fun a => a.1 == n))
/-- The same at a home. -/
def State.asyncAt (s : State) (n : Nat) : Home → Bool
  | .core t => (s.getC t).asyncs.any (fun a => a.1 == n)
  | _ => false
/-- Whether a write of core `n` is still to be performed. -/
def State.unsent (s : State) (n : Nat) : Bool := !(s.getC n).sq.isEmpty || s.asyncIn n (fun _ => true)

/-- Rows of 128 bytes, and so tiles, that a tile group's lists of capacity k take (R349). -/
def rankRows (k : Nat) : Nat := (16 + 8 * k + 127) / 128

/-- Accepted entries that touch a tile (R166, R321). -/
def MeEntry.touches (e : MeEntry) (tile : Nat) : Bool :=
  match e.kind with
  | .zero f n => decide (f ≤ tile) && decide (tile < f + n)
  | .rank f n => decide (f ≤ tile) && decide (tile < f + n)
  | .list _ _ => byteAt e.cur 0 == tile
  | .pass true _ _ _ _ =>
    -- a RANK pass updates the tile group of its lists (R349)
    let t := bitsOf e.desc.toNat 5 0
    decide (t ≤ tile) && decide (tile < t + rankRows (byteAt e.fmt 7))
  | _ => bitsOf e.desc.toNat 5 0 == tile

/-- Whether an address is an accumulator tile that an accepted entry has not completed (R166). -/
def State.tileBusy (s : State) (key : Nat) : Bool :=
  if accBase ≤ key then
    (s.getM ((key - accBase) / 0x100000)).entries.any (fun e => e.touches ((key - accBase) % 0x100000 / 4096))
  else false

/-- The byte a queued access begins at; what touches no memory stands at an address no frame and no tile holds. -/
def SqEntry.firstKey (e : SqEntry) : Nat :=
  match e.op with
  | .write ((k, _) :: _) _ | .host ((k, _) :: _) | .amo _ _ k _ | .hostAmo k _ _ => k
  | _ => spadBase

/-- Whether entry `i` may leave the queue: the first for its home, with no release marker before it, and for a marker,
nothing before it in its scope; a `.a` deposit waiting at a home holds its sender's later writes there, and an accepted
entry the writes to its tile (R166, R201, R210, R232, R323). (DEDUCED, log entry 17) -/
def State.mayDrain (s : State) (n i : Nat) : Bool :=
  let c := s.getC n
  match c.sq[i]? with
  | none => false
  | some e =>
    let before := c.sq.take i
    match e.op with
    | .release sc => before.all (fun b => match b.op with | .release _ => false | _ => !inScope n sc b.home)
        && !s.asyncIn n (fun t => inScope n sc (.core t))
        && c.loads.all (fun l => decide (e.seq ≤ l.seq)
            || l.sectors.all (fun x => x.arrived || x.bytes.all (fun b => !inScope n sc (homeOf b.2))))
    | _ => before.all (fun b => match b.op with | .release _ => false | _ => b.home != e.home) && !s.asyncAt n e.home && !s.tileBusy e.firstKey

/-- Outstanding loads of core `n` from before a program point that still have some bytes to come arrive (R202). -/
def State.arriveBytes (s : State) (n seq : Nat) (p : Nat → Bool) : State :=
  s.arriveWhere n (fun l => decide (l.seq < seq) && l.sectors.any (fun x => !x.arrived && x.bytes.any (fun b => p b.2)))

/-- An entry performed at its home. -/
def State.performEntry (s : State) (n : Nat) (e : SqEntry) : State :=
  match e.op with
  | .write cells tags => (s.arriveBytes n e.seq (fun a => cells.any (fun y => y.1 == a))).perform e.ctx cells tags
  | .host rs => rs.foldl (fun s r => s.hostStore e.ctx r.1 r.2) s
  | .hostAmo a op arg =>
    match s.hostWindow a 8 with
    | some (w, ra) => s.sendAmo e.ctx w ra (if op = .swap then 0 else 1) arg 0 (BitVec.ofNat 64 (leNat (s.physBytes a 8)))
    | none => s.remoteRecord e.ctx a
  | .amo op size key arg =>
    ((s.arriveBytes n e.seq (fun a => decide (key ≤ a) && decide (a < key + atBytes size))).amoAt e.ctx op size key arg).2
  | .deposit target task port x async ea =>
    if s.depositOk target task then
      if async && (s.getC target).portfull.getLsbD port then
        s.updC target (fun c => { c with asyncs := c.asyncs ++ [(n, port, x, ea)] })
      else s.applyDeposit target port x
    else s.remoteRecord e.ctx ea
  | .release _ => s

/-- Entry `i` leaves the queue and is performed, if it may. -/
def State.drain (s : State) (n i : Nat) : State :=
  if s.mayDrain n i then
    match (s.getC n).sq[i]? with
    | some e => (s.updC n (fun c => { c with sq := c.sq.eraseIdx i })).performEntry n e
    | none => s
  else s

/-- Outstanding loads a release marker at the queue's head waits for arrive, then the head drains. -/
def State.drainHead (s : State) (n : Nat) : State :=
  match (s.getC n).sq with
  | [] => s
  | e :: _ =>
    let s := match e.op with
      | .release sc => s.arriveBytes n e.seq (fun a => inScope n sc (homeOf a))
      | _ => s
    s.drain n 0

/-- The queue drains in order, as far as it can (a waiting `.a` deposit stops it). -/
def State.drainAll (s : State) (n : Nat) : State :=
  (List.range (s.getC n).sq.length).foldl (fun s _ => s.drainHead n) s

/-- The queue drains up to the last entry that satisfies a condition. -/
def State.drainUpTo (s : State) (n : Nat) (p : SqEntry → Bool) : State :=
  let sq := (s.getC n).sq
  let k := sq.length - (sq.reverse.takeWhile (fun e => !p e)).length
  (List.range k).foldl (fun s _ => s.drainHead n) s

/-- An entry placed in the executing core's queue; a full queue drains one first (R191). -/
def State.enqueue (s : State) (op : SqOp) (home : Home) : State :=
  let s := if 32 ≤ s.c.sq.length then s.drainHead s.cur else s
  s.upd (fun c => { c with sq := c.sq ++ [⟨op, home, c.seq, c.ctx⟩], seq := c.seq + 1 })

/-- Effects as steps of `M`. -/
def act (f : State → State) : M Unit := modify f
def ask {α : Type} (f : State → α) : M α := do return f (← get)

/-- A release at a scope by a core (R205): earlier accesses within it are performed. -/
def State.releaseAt (s : State) (n : Nat) (sc : Scope) : State :=
  let s := s.drainUpTo n (fun e => inScope n sc e.home || (match e.op with | .release _ => true | _ => false))
  s.arriveBytes n (s.getC n).seq (fun a => inScope n sc (homeOf a))

/-- An acquire at a scope (R205): earlier loads to its locations are performed. -/
def State.acquireAt (s : State) (n : Nat) (sc : Scope) : State :=
  s.arriveBytes n (s.getC n).seq (fun a => inScope n sc (homeOf a))

/-- A blocking access at a home is performed in queue order (R201, R212). -/
def inOrder (home : Home) : M Unit := do
  modify (fun s => s.drainUpTo s.cur (·.ahead home))
  let s ← get
  holdIf (s.c.sq.any (·.ahead home) || s.asyncAt s.cur home) .queue

/-! ## The capability check (R97 to R102) -/

def capGid (c : TReg) : Nat := bitsOf c.val.toNat 79 64
def capPerm (c : TReg) : BitVec 12 := c.val.extractLsb' 80 12
def capGen (c : TReg) : BitVec 8 := c.val.extractLsb' 92 8
def capAddr (c : TReg) : Nat := bitsOf c.val.toNat 63 0

def permR : BitVec 12 := 0x001
def permW : BitVec 12 := 0x002
def permCL : BitVec 12 := 0x004
def permCS : BitVec 12 := 0x008
def permA : BitVec 12 := 0x010
def permE : BitVec 12 := 0x020
def permF : BitVec 12 := 0x040
def permI : BitVec 12 := 0x080
def permD : BitVec 12 := 0x100
def permM : BitVec 12 := 0x200
def permQ : BitVec 12 := 0x400

/-- A capability of R97, tagged. -/
def mkCap (gen : BitVec 8) (perm : BitVec 12) (gid addr : Nat) : TReg :=
  ⟨BitVec.ofNat 128 (gen.toNat * 2 ^ 92 + perm.toNat * 2 ^ 80 + gid % 2 ^ 16 * 2 ^ 64 + addr % 2 ^ 64), true⟩

/-- log2 of the grant table's entry count (R99): values above 16 act as 16. -/
def Ctx.log2n (x : Ctx) : Nat := min (bitsOf x.grantbase.toNat 4 0) 16
/-- Virtual address of a grant's entry (R99, R100). -/
def Ctx.grantVa (x : Ctx) (gid : Nat) : Nat := (bitsOf x.grantbase.toNat 63 16 * 0x10000 + 32 * gid) % 2 ^ 64

/-- An entry from its 32 bytes (R100); bit 11 of a permission is never granted (R98). -/
def grantOfBytes (bs : List Byte) : Grant where
  base := field bs 0 8
  len := field bs 8 8
  perm := BitVec.ofNat 12 (field bs 16 2) &&& 0x7FF
  gen := BitVec.ofNat 8 (byteAt bs 18)
  valid := bitOf (byteAt bs 19) 0

/-- The entry as memory holds it, read for an observer, or the cause of a failed read and its EINFO; a table in a host window is
read from the host (R169, R182, R504, R505). -/
def State.grantInMem (s : State) (places : List TlbPlace) (ctx gid : Nat) : Except (Cause × Nat) Grant × State :=
  let va := (s.getX ctx).grantVa gid
  match s.xlate places ctx va { r := true } with
  | (.error f, s) => (.error (.xlate, f.einfo va), s)
  | (.ok pa, s) =>
    if s.poisoned pa 32 then (.error (.mcheck, s.mcheckInfo pa va), s)
    else match s.physRead pa 32 with
      | some (bs, s) => (.ok (grantOfBytes bs), s)
      | none => (.error (.remote, va), s)

/-- The entry of a grant as the executing core sees it: its grant cache, or memory on a miss, which blocks (R101).
A failed read of the table is the core's own precise XLATE, MCHECK or REMOTE. -/
def grantEntry (gid : Nat) : M Grant := do
  let s ← get
  let ctx := s.c.ctx
  match s.c.gcache.find? (fun l => l.ctx == ctx && l.gid == gid) with
  | some l => return l.entry
  | none =>
    match s.grantInMem (corePlaces s.cur) ctx gid with
    | (.error f, s) => set s; raise f.1 f.2
    | (.ok e, s) =>
      let cache := if s.c.gcache.length < 32 then s.c.gcache else s.c.gcache.eraseIdx (s.pick 0x120 32)
      set ((s.upd (fun c => { c with gcache := cache ++ [⟨ctx, gid, e⟩] })).block 0x121)
      return e

/-- The first two tests of R102: the tag, then the grant. -/
def capLive (c : TReg) (ea : Nat) : M Grant := do
  raiseIf (!c.tag || decide (bitsOf c.val.toNat 127 100 ≠ 0)) .tag ea
  let s ← get
  let id := capGid c
  raiseIf (decide (2 ^ (s.getX s.c.ctx).log2n ≤ id)) .stalegrant ea
  let e ← grantEntry id
  raiseIf (!e.valid || e.gen != capGen c) .stalegrant ea
  return e

/-- `capcheck` of R102. The sums are exact. -/
def capcheck (c : TReg) (ea size : Nat) (need : BitVec 12) : M Grant := do
  let e ← capLive c ea
  raiseIf (need &&& ~~~(capPerm c &&& e.perm) != 0) .perm ea
  raiseIf (decide (ea < e.base) || decide (e.base + e.len < ea + size)) .bounds ea
  return e

/-! ## access (R188) -/

/-- Whether an address is the core's own scratchpad, through the near window or its other windows (R437). -/
def State.ownSpad (s : State) (n ea : Nat) : Bool :=
  match regionOf ea with
  | some (.window .near _ off) => decide (off < 0x80000)
  | some (.window .spad u off) => u == n && decide (off < 0x80000)
  | some (.window .mspad m off) =>
    decide (off < 0x80000) && (match (s.getC n).task with
      | some t => match s.task? t with
        | some tk => tk.memberCore m == some (n, true)
        | none => false
      | none => false)
  | _ => false

/-- Whether STEPSTRICT confines this core now (R437): a step task in a compute step. -/
def Core.strict (c : Core) : Bool := c.stepOn && c.mode.getLsbD 2 && decide (c.stepNo % 2 = 0)

/-- The locality test of R437. -/
def stepLocal (ea : Nat) : M Unit := do
  let s ← get
  raiseIf (s.c.strict && !s.ownSpad s.cur ea && !s.c.inStack ea) .steplocal ea
/-- The locality test of posts and queue words (R437). -/
def stepLocalPost : M Unit := do
  let s ← get
  raiseIf s.c.strict .steplocal 0

/-- The window or translation decision of an access, as a precise fault (R177). -/
def locateM (a : Acc) (ea size : Nat) : M Loc := do
  let s ← get
  match s.locate s.party a ea size with
  | (.error f, s) => set s; raise .xlate (f.einfo ea)
  | (.ok l, s) => set s; return l

/-- `access(c, ea, size, need)` of R188: the check of R102, STEPLOCAL (R437), XLATE, ALIGN, REMOTE, in that order. `odd` is an
alignment breach beyond the address's own (R296). -/
def accessOr (odd : Bool) (c : TReg) (ea size : Nat) (need : BitVec 12) (a : Acc) : M Loc := do
  let _ ← capcheck c ea size need
  stepLocal ea
  let l ← locateM a ea size
  raiseIf (decide (ea % size ≠ 0) || odd) .align ea
  raiseIf l.remote .remote ea
  return l
def access (c : TReg) (ea size : Nat) (need : BitVec 12) (a : Acc) : M Loc := accessOr false c ea size need a

/-! ## Loads and stores of the executing core -/

/-- Whether a queued write or atomic touches bytes of a range. -/
def SqEntry.touches (e : SqEntry) (key size : Nat) : Bool :=
  match e.op with
  | .write cells _ => cells.any (fun y => decide (key ≤ y.1) && decide (y.1 < key + size))
  | .host rs => rs.any (fun r => decide (r.1 < key + size) && decide (key < r.1 + r.2.length))
  | .amo _ sz a _ => decide (a < key + size) && decide (key < a + atBytes sz)
  | .hostAmo a _ _ => decide (a < key + size) && decide (key < a + 8)
  | _ => false

/-- A granule of the line at `key` brought into the executing core's stack cache (R149); data with an uncorrectable error and a
host window that does not answer bring nothing (R182, R505). -/
def State.fillGranule (s : State) (key g : Nat) : State :=
  let at' := key + 16 * (g % 4)
  if (mfind s.c.stack g).isSome || s.poisoned at' 16 || (isHost at' && !s.hostAnswers at' 16) then s
  else (s.sendRead at' 16).putLine s.cur g ⟨BitVec.ofNat 128 (leNat (s.physBytes at' 16)), s.tagAt at' && !isHost at', false, at', false⟩

/-- A miss brings the granules of the 64-byte line that lie in the stack, and blocks (R149). -/
def State.fillLine (s : State) (l : Loc) (ea : Nat) : State :=
  if (mfind s.c.stack (ea / 16)).isSome then s
  else
    let key := l.key / 64 * 64
    let s := s.drainUpTo s.cur (fun e => e.touches key 64)
    let gs := ((List.range 4).map (fun i => ea / 64 * 4 + i)).filter (fun g => s.c.inStack (16 * g))
    (gs.foldl (fun s g => s.fillGranule key g) s).block 0x130

/-- The stack-cache granule of an address (R149), or EINFO of the MCHECK its data has. -/
def stackLook (l : Loc) (ea : Nat) : M (Except Nat SLine) := do
  modify (·.fillLine l ea)
  let s ← get
  match mfind s.c.stack (ea / 16) with
  | some x => return (if x.bad then .error (5 * 2 ^ 60 + ea % 2 ^ 56) else .ok x)
  | none => if l.host then raise .remote ea else return .error (s.mcheckInfo (l.key / 16 * 16) ea)
/-- The granule for a word that consumes it at once: an uncorrectable error is its MCHECK (R182). -/
def stackGranule (l : Loc) (ea : Nat) : M SLine := do
  match ← stackLook l ea with
  | .ok x => return x
  | .error info => raise .mcheck info
/-- Bytes of a granule. -/
def SLine.bytes (x : SLine) (ea size : Nat) : List Byte := ((leBytes x.val.toNat 16).drop (ea % 16)).take size

/-- A store into the stack cache (R149): a whole granule replaces what was there, errors with it; part of one leaves an error
standing and is recorded (R183). -/
def State.stackStore (s : State) (l : Loc) (ea : Nat) (bs : List Byte) (tag : Bool) : State :=
  let s := s.fillLine l ea
  let put := fun (x : SLine) (bs : List Byte) =>
    s.putLine s.cur (ea / 16) { x with val := BitVec.ofNat 128 (leNat bs), tag := tag, dirty := true, bad := false }
  match mfind s.c.stack (ea / 16) with
  | some x =>
    if bs.length = 16 then put x bs
    else if x.bad then s.mcheckRecord s.c.ctx ea (5 * 2 ^ 60 + ea % 2 ^ 56)
    else
      let old := leBytes x.val.toNat 16
      put x (old.take (ea % 16) ++ bs ++ old.drop (ea % 16 + bs.length))
  | none =>
    let key := l.key / 16 * 16
    if bs.length = 16 then put ⟨0, tag, true, key, false⟩ bs
    else if l.host then s.remoteRecord s.c.ctx ea
    else s.mcheckRecord s.c.ctx ea (s.mcheckInfo key ea)

/-- Whether an access is served without blocking, at the latency of R45: the near window or a stack-cache hit. -/
def State.isLocal (s : State) (ea : Nat) : Bool :=
  (match regionOf ea with
   | some (.window .near _ _) => true
   | _ => false) || (s.c.inStack ea && (mfind s.c.stack (ea / 16)).isSome)

/-- Whether the newest queued write of one of these bytes is an atomic, whose value exists only at the home (R202). -/
def State.awaitsAmo (s : State) (key size : Nat) : Bool :=
  (List.range size).any (fun i => sqByte s.c.sq s.c.seq (key + i) == some none)
/-- A queued atomic of the core on these bytes is performed before they are loaded (R202). -/
def State.flushAmo (s : State) (key size : Nat) : State :=
  if s.awaitsAmo key size then s.drainUpTo s.cur (fun e => e.touches key size) else s
/-- A load waits for it (R202). -/
def amoFirst (key size : Nat) : M Unit := do
  modify (·.flushAmo key size)
  holdIf ((← get).awaitsAmo key size) .queue

/-- Whether a load of these bytes meets an uncorrectable error: of one it does not take from the core's queue (R182, R190). -/
def State.meetsError (s : State) (key size : Nat) : Bool :=
  s.poisoned key size && (List.range size).any (fun i => s.byteBad s.cur s.c.seq (key + i))

/-- The bytes of one granule-contained load, and the granule's tag (R190, R193, R202). -/
def loadBytes (l : Loc) (ea size : Nat) : M (List Byte × Bool) := do
  let s ← get
  if s.c.inStack ea then
    let x ← stackGranule l ea
    return (x.bytes ea size, x.tag)
  else if l.host then
    amoFirst l.key size
    let s ← get
    -- what the core's own queue does not hold comes by an RDMA READ
    let own := (List.range size).all (fun i => (sqByte s.c.sq s.c.seq (l.key + i)).isSome)
    raiseIf (!own && !s.hostAnswers l.key size) .remote ea
    set ((if own then s else s.sendRead l.key size).block 0x131)
    return ((List.range size).map (fun i => s.seenByte s.cur s.c.seq (l.key + i)), false)
  else
    holdIf (s.tileBusy l.key) .entry
    amoFirst l.key size
    let s ← get
    raiseIf (s.meetsError l.key size) .mcheck (s.mcheckInfo l.key ea)
    let bs := (List.range size).map (fun i => s.seenByte s.cur s.c.seq (l.key + i))
    -- a granule whose newest write is still queued takes that write's tag
    let tag := s.c.sq.foldl (fun t e => match e.op with
      | .write _ tags => match tags.find? (fun y => y.1 == l.key / 16) with
        | some y => y.2
        | none => t
      | _ => t) (s.tagAt l.key)
    if !s.isLocal ea then set (s.block 0x132)
    return (bs, tag && !l.tagless)

/-- A store is held at issue until the queue has room for its entries (R191, R293). -/
def roomFor (n : Nat) : M Unit := do
  modify (fun s => (List.range (s.c.sq.length + n - 32)).foldl (fun s _ => s.drainHead s.cur) s)
  holdIf (decide (32 < (← get).c.sq.length + n)) .queue

/-- A store of one granule-contained access with its tag: the stack cache, or the store queue (R149, R191, R193). -/
def storeBytes (l : Loc) (ea : Nat) (bs : List Byte) (tag : Bool) : M Unit := do
  let s ← get
  if s.c.inStack ea then modify (·.stackStore l ea bs tag)
  else if l.host then
    roomFor 1
    modify (·.enqueue (.host [(l.key, bs)]) .hub)
  else
    holdIf (s.tileBusy l.key) .entry
    roomFor 1
    modify (·.enqueue (.write (cellsAt l.key bs) (if l.tagless then [] else [(l.key / 16, tag)])) (homeOf l.key))

/-- A range cut at granule boundaries: address and length of each part. -/
def granParts (ea n : Nat) : List (Nat × Nat) :=
  (List.range ((ea + n + 15) / 16 - ea / 16)).map (fun i =>
    let lo := max ea ((ea / 16 + i) * 16)
    (lo, min (ea + n) ((ea / 16 + i + 1) * 16) - lo))

/-- Bytes stored through the executing core at any address, granule by granule (R425). -/
def storeParts (ea : Nat) (bs : List Byte) : M Unit :=
  (granParts ea bs.length).forM (fun p => do
    let l ← locateM .store p.1 p.2
    storeBytes l p.1 ((bs.drop (p.1 - ea)).take p.2) false)

/-- A record stored through the executing core, granule by granule (R476). -/
def storeRecord (ea : Nat) (bs : List Byte) : M Unit :=
  (List.range (bs.length / 16)).forM (fun i => do
    let l ← locateM .store (ea + 16 * i) 16
    storeBytes l (ea + 16 * i) ((bs.drop (16 * i)).take 16) false)

end Sys2Proof.Machine
end

