-- ==== Sys2Proof/Machine/Barrier.lean ====
section
/-!
DEFINITION. Barrier units (R219 to R222), step barriers and their releases (R433 to R436, R441), finish scopes and their
completion (R405 to R407, R510), and the end of an engine job (R380, R389).
-/
namespace Sys2Proof.Machine

/-! ## Barriers -/

/-- PENDING's range (R221). -/
def pendingOk (x : Int) : Bool := decide (-(2 ^ 35) ≤ x) && decide (x ≤ 2 ^ 35 - 1)

/-- The phase test of R220. -/
def Bar.complete (b : Bar) : Bool := b.arrived == b.count && b.count != 0 && b.pending == 0 && !b.broken

/-- The 64-bit form in which a barrier is saved (R219). -/
def Bar.word (b : Bar) : Word :=
  BitVec.ofInt 36 b.pending ++ BitVec.ofBool b.broken ++ BitVec.ofBool b.phase ++ BitVec.ofNat 13 b.arrived ++ BitVec.ofNat 13 b.count
/-- A barrier as a saved word gives it. The layout has no place for the arrivals it holds. -/
def Bar.ofWord (b : Bar) (w : Word) : Bar := { b with
  pending := (w.extractLsb' 28 36).toInt, broken := w.getLsbD 27, phase := w.getLsbD 26
  arrived := (w.extractLsb' 13 13).toNat, count := (w.extractLsb' 0 13).toNat }

/-- Which unit holds a barrier for an agent on a die: the die's, or the hub's (4) for 192 and above (R219). -/
def barUnit (die bar : Nat) : Nat := if bar < 192 then die else 4

def State.getBar (s : State) (ctx unit bar : Nat) : Bar := mget {} (s.getX ctx).bars (unit * 256 + bar)
def State.setBar (s : State) (ctx unit bar : Nat) (b : Bar) : State :=
  s.updX ctx (fun x => { x with bars := mput {} x.bars (unit * 256 + bar) b })

/-- Every core whose wait satisfies a condition is woken with a value. -/
def State.wakeWhere (s : State) (p : Nat → Wait → Bool) (x : Word) : State :=
  { s with cores := s.cores.map (fun e =>
      match e.2.wait with
      | some w => if p e.1 w && e.2.woken.isNone then (e.1, { e.2 with woken := some x }) else e
      | none => e) }

/-- Held excess arrivals that still wait are counted while there is room, in their order (R225). -/
def State.admitHeld (s : State) (ctx unit bar : Nat) : State :=
  let b := s.getBar ctx unit bar
  if b.heldBy = [] then s
  else
    -- numbers from nCores on stand for the arrivals of ME lists, which wait for nobody (R329)
    let live := b.heldBy.filter (fun n => decide (nCores ≤ n) ||
      ((s.getC n).wait == some (.barArrive ctx unit bar) && (s.getC n).woken.isNone))
    let take := live.take (b.count - b.arrived)
    let s := s.setBar ctx unit bar { b with arrived := b.arrived + take.length, heldBy := live.drop take.length }
    take.foldl (fun s n => if nCores ≤ n then s else s.updC n (fun c => { c with woken := some (if b.phase then 1 else 0) })) s

/-- Completes phases while the test of R220 holds: PHASE toggles, the waiters wake, and held arrivals are counted. The
fuel is the number of held arrivals, and one. -/
def State.settleBar (s : State) (ctx unit bar : Nat) : Nat → State
  | 0 => s
  | n + 1 =>
    let b := s.getBar ctx unit bar
    if b.complete then
      let s := s.wakeWhere (fun _ w => w == .barrier ctx unit bar) 1
      ((s.setBar ctx unit bar { b with phase := !b.phase, arrived := 0, toggled := s.cycle }).admitHeld ctx unit bar).settleBar ctx unit bar n
    else s

def State.testBar (s : State) (ctx unit bar : Nat) : State :=
  s.settleBar ctx unit bar ((s.getBar ctx unit bar).heldBy.length + 1)

/-- A barrier breaks: its waiters look again (R221, R226). -/
def State.breakBar (s : State) (ctx unit bar : Nat) : State :=
  s.setBar ctx unit bar { s.getBar ctx unit bar with broken := true }

/-- EINFO of R222. -/
def barInfo (kind bar : Nat) : Nat := kind * 2 ^ 60 + bar

/-! ## Step barriers -/

/-- The delay of a release (R436): 20 cycles on a die, 64 at the hub. -/
def Task.releaseDelay (t : Task) (d : Domain) : Nat :=
  let dies := (t.mem.filter (fun m => decide (d.first ≤ m.1) && decide ((m.1 - d.first) % max d.stride 1 = 0)
    && decide ((m.1 - d.first) / max d.stride 1 < d.count))).map (fun m => dieOfCore m.2.1)
  match dies with
  | [] => 20
  | x :: r => if r.all (· == x) then 20 else 64

/-- The rank of a member in a domain (R432). -/
def Domain.rank (d : Domain) (m : Nat) : Option Nat :=
  if d.count ≠ 0 ∧ d.first ≤ m ∧ (m - d.first) % max d.stride 1 = 0 ∧ (m - d.first) / max d.stride 1 < d.count
  then some ((m - d.first) / max d.stride 1) else none

/-- A release reaches every core of the domain in one cycle (R435, R436). -/
def State.deliverRelease (s : State) (tid dom : Nat) : State :=
  match s.task? tid with
  | none => s
  | some t =>
    match mfind t.doms dom with
    | none => s
    | some d =>
      let s := s.updT tid (fun t => { t with doms := mset t.doms dom { d with held := false } })
      t.mem.foldl (fun s m =>
        if (d.rank m.1).isSome && m.2.2 then
          s.updC m.2.1 (fun c => { c with
            stepNo := (c.stepNo + 1) % 2 ^ 30, loose := false, sclk0 := d.relAt, arrived := false, released := c.arrived
            woken := match c.wait with | some (.step _) => some 1 | _ => c.woken
            readyAt := match c.wait with | some (.step _) => max c.readyAt d.relAt | _ => c.readyAt })
        else s) s

/-- The test of R220 on a step barrier: a complete phase sends its release on its way (R436). -/
def State.testStep (s : State) (tid dom : Nat) : State :=
  match s.task? tid with
  | none => s
  | some t =>
    match mfind t.doms dom with
    | none => s
    | some d =>
      if d.bar.complete then
        s.updT tid (fun t => { t with doms := (mset t.doms dom { d with
          bar := { d.bar with phase := !d.bar.phase, arrived := 0 }, held := true, relAt := s.cycle + t.releaseDelay d }) })
      else s

/-- Bytes landed for the destination core's domain (R443). -/
def State.stepLanded (s : State) (core n : Nat) : State :=
  let c := s.getC core
  match c.task with
  | none => s
  | some tid =>
    match s.task? tid with
    | none => s
    | some t =>
      match mfind t.doms c.dom with
      | none => s
      | some d =>
        if pendingOk (d.bar.pending - n) then
          (s.updT tid (fun t => { t with doms := (mset t.doms c.dom
            { d with bar := { d.bar with pending := d.bar.pending - n } }) })).testStep tid c.dom
        else (s.updT tid (fun t => { t with doms := mset t.doms c.dom { d with bar := { d.bar with broken := true } } })).faultRecord
          t.ctx (record 0 Cause.bounds.code 0xFF 0 0 0 0 (barInfo 2 (256 + c.dom)))

/-! ## Finish scopes -/

def ScopeSt.code : ScopeSt → Nat
  | .free => 0 | .opened => 1 | .closed => 2 | .done => 3 | .failed => 4 | .cancelled => 5

/-- The state word of R405. -/
def FScope.word (f : FScope) : Word :=
  BitVec.ofNat 64 (f.parent * 2 ^ 56 + f.st.code * 2 ^ 53 + (if f.fail then 2 ^ 52 else 0) + (if f.can then 2 ^ 51 else 0)
    + f.count % 2 ^ 36)

def State.getScope (s : State) (ctx n : Nat) : FScope := mget {} (s.getX ctx).scopes n
def State.setScope (s : State) (ctx n : Nat) (f : FScope) : State :=
  s.updX ctx (fun x => { x with scopes := mput {} x.scopes n f })

/-- Records of a completion ring written while there is room (R510). -/
def State.pushRing (s : State) (ctx : Nat) : Nat → State
  | 0 => s
  | fuel + 1 =>
    match (s.getX ctx).ring with
    | none => s
    | some r =>
      match r.waiting with
      | [] => s
      | b :: rest =>
        let head := match s.xlate [.hub] ctx r.head { r := true } with
          | (.ok pa, s) => leNat (readBytes s.mem pa 4)
          | (.error _, _) => 0
        if r.cap ≤ (r.tail + 2 ^ 32 - head) % 2 ^ 32 then s
        else
          let s := s.hostStore ctx (r.addr + 32 * (r.tail % r.cap)) b
          let tail := (r.tail + 1) % 2 ^ 32
          let s := s.hostStore ctx (r.addr + 32 * r.cap) (leBytes tail 4)
          (s.updX ctx (fun x => { x with ring := some { r with tail := tail, waiting := rest } })).pushRing ctx fuel

/-- A root scope's completion is reported (R510). -/
def State.reportRoot (s : State) (ctx n : Nat) (st : ScopeSt) : State :=
  match (s.getX ctx).ring with
  | none => s.notice ctx [3]
  | some r =>
    let q := (s.getX ctx).ccb.faultQ
    let ftail := match s.xlate [.hub] ctx q { r := true } with
      | (.ok pa, s) => leNat (readBytes s.mem (pa + 8) 4)
      | (.error _, _) => 0
    let b := leBytes ctx 1 ++ leBytes n 1 ++ leBytes st.code 1 ++ [0]
      ++ leBytes ((r.tail + r.waiting.length) % 2 ^ 32) 4 ++ leBytes s.cycle 8 ++ leBytes ftail 4 ++ List.replicate 12 0
    (s.updX ctx (fun x => { x with ring := some { r with waiting := r.waiting ++ [b] } })).pushRing ctx (r.waiting.length + 1)

/-- A closed scope with no children completes, leaves its parent (a failed child sets FAIL there), and so on up (R405).
(DEDUCED, log entry 34) -/
def State.settleScope (s : State) (ctx n : Nat) : Nat → State
  | 0 => s
  | fuel + 1 =>
    let f := s.getScope ctx n
    if f.st = .closed ∧ f.count = 0 then
      let st := if f.can then ScopeSt.cancelled else if f.fail then .failed else .done
      let s := s.setScope ctx n { f with st := st }
      let s := s.wakeWhere (fun _ w => w == .scope ctx n) (s.getScope ctx n).word
      if f.parent = 0xFF then s.reportRoot ctx n st
      else
        let p := s.getScope ctx f.parent
        (s.setScope ctx f.parent { p with count := p.count - 1, fail := p.fail || st == .failed }).settleScope ctx f.parent fuel
    else s

def State.scopeAdd (s : State) (ctx n : Nat) : State :=
  let f := s.getScope ctx n
  s.setScope ctx n { f with count := f.count + 1 }
def State.scopeSub (s : State) (ctx n : Nat) : State :=
  let f := s.getScope ctx n
  (s.setScope ctx n { f with count := f.count - 1 }).settleScope ctx n 257
def State.scopeFail (s : State) (ctx n : Nat) : State :=
  s.setScope ctx n { s.getScope ctx n with fail := true }

/-- Whether scope `n` is `a` or a descendant of it (R407, R421). -/
def State.scopeUnder (s : State) (ctx a : Nat) : Nat → Nat → Bool
  | 0, _ => false
  | fuel + 1, n => n == a || (let f := s.getScope ctx n; f.st != .free && f.parent != 0xFF && s.scopeUnder ctx a fuel f.parent)

/-! ## Engine jobs: status and end -/

def JobSt.code : JobSt → Nat
  | .queued => 0 | .running => 1 | .parked => 2 | .done => 3 | .failed => 4 | .cancelled => 5

/-- The status word of R389. -/
def Job.word (j : Job) : Word :=
  BitVec.ofNat 64 (min j.count (2 ^ 32 - 1) * 2 ^ 32 + j.flags.toNat * 2 ^ 16 + j.cause.toNat * 2 ^ 8 + j.st.code)

/-- STATE 7: a handle that names no job (R389). -/
def unknownJob : Word := 7

def JobSt.live : JobSt → Bool
  | .queued | .running | .parked => true
  | _ => false

/-- A job leaves the directory as done, failed or cancelled: its posters' slots keep its final status, its finish scope
loses it (R368, R380). -/
def State.endJob (s : State) (id : Nat) (st : JobSt) : State :=
  match s.job? id with
  | none => s
  | some j =>
    if !j.st.live then s
    else
      let j := { j with st := st }
      let s := { s with jobs := merase s.jobs id }
      let s := j.posters.foldl (fun s p =>
        s.updC p.1 (fun c => match mfind c.jobs p.2.1 with
          | some sl => if sl.job = some id then { c with jobs := mset c.jobs p.2.1 { sl with job := none, final := j.word } } else c
          | none => c)) s
      match j.fs with
      | some n =>
        let s := if st = .failed then s.scopeFail j.ctx n else s
        s.scopeSub j.ctx n
      | none => s

end Sys2Proof.Machine
end

