-- ==== Sys2Proof/Machine/RankList.lean ====
section
/-!
DEFINITION. Ranked lists (R345 to R348): header, order of entries, the update, and the headers of a tile group (R349).
-/
namespace Sys2Proof.Machine

/-- An entry: FP32 value and index. -/
abbrev RankPair := Lane × BitVec 32

/-- FP32 -infinity, the floor of a list that is not full (R345). -/
def negInf32 : Lane := 0xFF800000

/-- Bytes of a list of capacity k (R345). -/
def rankSize (k : Nat) : Nat := 16 + 8 * k

/-- The first bad byte of a header (R346); a tile group's pass also wants its own k (R350). -/
def rankBad (raw : List Byte) (k : Option Nat) : Option Nat :=
  let b := byteAt raw
  if b 0 = 0 ∨ 62 < b 0 ∨ (k.isSome ∧ k ≠ some (b 0)) then some 0
  else if b 0 < b 1 then some 1
  else if 2 ≤ b 2 then some 2
  else if b 3 ≠ 0 then some 3
  else ([12, 13, 14, 15] : List Nat).find? (fun i => b i ≠ 0)

/-- The entries a list holds, as its bytes give them. -/
def rankEntries (raw : List Byte) : List RankPair :=
  (List.range (byteAt raw 1)).map (fun n => (BitVec.ofNat 32 (field raw (16 + 8 * n) 4), BitVec.ofNat 32 (field raw (20 + 8 * n) 4)))

/-- Whether entry a precedes entry b or is identical to it (R347). -/
def rankLe (a b : RankPair) : Bool :=
  if ord32 a.1 ≠ ord32 b.1 then decide (ord32 b.1 < ord32 a.1)
  else if a.2 ≠ b.2 then decide (a.2.toNat < b.2.toNat)
  else !a.1.getLsbD 31 || b.1.getLsbD 31

/-- Insertion in the order of R347. -/
def rankInsert (x : RankPair) : List RankPair → List RankPair
  | [] => [x]
  | y :: r => if rankLe y x then y :: rankInsert x r else x :: y :: r

def rankSort (xs : List RankPair) : List RankPair := xs.foldl (fun l x => rankInsert x l) []

/-- A header's bytes. -/
def rankHeader (k count : Nat) (nan : Bool) (floor : Lane) (base : Nat) : List Byte :=
  leBytes k 1 ++ leBytes count 1 ++ leBytes (if nan then 1 else 0) 1 ++ [0] ++ leBytes floor.toNat 4 ++ leBytes base 4
    ++ [0, 0, 0, 0]

def isNan32 (x : Lane) : Bool := (f32Val x).isNan

/-- An update by R348: the header and the entries now held; bytes beyond them are not written (R345). -/
def rankUpdate (raw : List Byte) (offered : List RankPair) (nan : Bool) : List Byte :=
  let k := byteAt raw 0
  let cand := rankEntries raw ++ offered
  let good := cand.filter (fun p => !isNan32 p.1)
  let kept := (rankSort good).take k
  let seen := nan || bitOf (byteAt raw 2) 0 || decide (good.length < cand.length)
  let floor := if kept.length = k then ((kept.getLast?).map Prod.fst).getD negInf32 else negInf32
  rankHeader k kept.length seen floor (field raw 8 4)
    ++ (kept.map (fun p => leBytes p.1.toNat 4 ++ leBytes p.2.toNat 4)).foldr (· ++ ·) []

/-- Offset of list i of a group in its ME's accumulator memory (R349). -/
def rankOff (tile k i : Nat) : Nat := 4096 * tile + 128 * rankRows k * i

/-- The first list of a group whose header a pass cannot use (R350, R355). -/
def State.groupBad (s : State) (me tile k : Nat) : Option Nat :=
  ((List.range 32).map (rankOff tile k)).find? (fun o => (rankBad (readBytes s.mem (accKey me o) 16) (some k)).isSome)

/-- Whether threshold feedback skips a pass (R353): its bound lies below every floor of its group. `e6` orders +0.0
below -0.0 (R526). -/
def State.rankSkip (s : State) (me tile k : Nat) (bound : Option Lane) (e6 : Bool) : Bool :=
  match bound with
  | none => false
  | some b => !isNan32 b && (List.range 32).all (fun i =>
      let f : Lane := BitVec.ofNat 32 (leNat (readBytes s.mem (accKey me (rankOff tile k i) + 4) 4))
      !isNan32 f && ((e6 && b == 0 && f == 0x80000000) || decide (ord32 b < ord32 f)))

end Sys2Proof.Machine
end

