-- ==== Sys2Proof/Machine/MeMath.lean ====
section
/-!
DEFINITION. What a matrix pass computes (R316 to R319, R350), its format block (R314, R315) and descriptors (R327, R339,
R539), and the conversions of MLDC and MSTC (R333).
-/
namespace Sys2Proof.Machine

/-! ## Formats (R316) -/

/-- A row of R316: its number, the group size (0: the whole K), the largest K, whether FP32 sums it, whether scales are
allowed. -/
structure FmtRow where
  row : Nat
  group : Nat
  kmax : Nat
  flt : Bool
  scales : Bool
  deriving DecidableEq, Repr

def fmtRow : Fmt → Option FmtRow
  | .bf16 | .f16 => some ⟨0, 32, 8192, true, false⟩
  | .e4m3 | .e5m2 => some ⟨1, 64, 8192, true, true⟩
  | .e2m1 | .t4 => some ⟨2, 128, 8192, true, true⟩
  | .s8 | .z8 => some ⟨3, 0, 8192, false, false⟩
  | .s4 | .z4 => some ⟨4, 0, 8192, false, false⟩
  | .f32 => some ⟨5, 8, 2048, true, false⟩
  | .e8m0 | .s32 | .rank => none

def rowOfCode (c : Nat) : Option FmtRow := (fmtOf c).bind fmtRow
def widthOfCode (c : Nat) : Nat := match fmtOf c with | some f => f.width | none => 0

/-- The first failed test of a list of (place, holds). -/
def firstBad (xs : List (Nat × Bool)) : Option Nat := (xs.find? (fun x => !x.2)).map Prod.fst

/-- A code-table nibble: 0 to 7 for a T4 operand, else 0 (R314). -/
def tableOk (nib code : Nat) : Bool := if code = 7 then decide (nib < 8) else decide (nib = 0)
/-- A pitch: a multiple of 16, at least a number of bytes (R314). -/
def pitchOk (p n : Nat) : Bool := decide (p % 16 = 0) && decide (n ≤ p)

/-- The first bad byte of a format block that a pass or list uses (R314 to R316); k is its K. -/
def passFmtBad (b : List Byte) (k : Nat) (isList : Bool) : Option Nat :=
  let ca := byteAt b 0
  let cb := byteAt b 1
  let ra := rowOfCode ca
  let rb := rowOfCode cb
  let r := ra.getD ⟨9, 0, 0, true, false⟩
  let sa := byteAt b 3 % 16
  let sb := byteAt b 3 / 16
  let mode := byteAt b 2
  let rank := decide (mode = 0x0D)
  let scale := fun (off kind : Nat) =>
    if kind = 1 then (off, decide (field b off 8 % 16 = 0))
    else match nonzeroIn b off (off + 7) with | some o => (o, false) | none => (off, true)
  let zeros := fun (lo hi : Nat) => match nonzeroIn b lo hi with | some o => (o, false) | none => (lo, true)
  firstBad
    [(0, ra.isSome), (1, rb.isSome && rb == ra),
     (2, if r.flt then decide (mode = 1) || (rank && !isList) else decide (mode = 0x0C)),
     (3, decide (sa < 2) && decide (sb < 2) && (r.scales || decide (sa = 0 ∧ sb = 0))),
     (4, if sa = 1 ∨ sb = 1 then decide (byteAt b 4 = 4) || decide (byteAt b 4 = 5) else decide (byteAt b 4 = 0)),
     (6, decide (byteAt b 6 ≤ 4)),
     (7, if rank then decide (1 ≤ byteAt b 7) && decide (byteAt b 7 ≤ 62) else decide (byteAt b 7 = 0)),
     (8, pitchOk (field b 8 4) (k * widthOfCode ca / 8)), (12, pitchOk (field b 12 4) (k * widthOfCode cb / 8)),
     scale 16 sa, scale 24 sb,
     (40, tableOk (byteAt b 40 % 16) ca && tableOk (byteAt b 40 / 16) cb),
     zeros 41 47, if rank then (48, true) else zeros 48 51, zeros 52 63]

/-- The first bad byte of a format block that MLDC or MSTC uses: offsets 2, 5, 6, 32 and 40 (R315, R333). -/
def tileFmtBad (b : List Byte) (store : Bool) : Option Nat :=
  let mode := byteAt b 2
  let sf := byteAt b 5
  let ok := match mode with
    | 0x01 => ([1, 2, 3, 4, 5, 6] : List Nat).contains sf || (decide (sf = 7) && !store)
    | 0x0C => ([12, 8, 9, 10, 14] : List Nat).contains sf
    | 0x0D => decide (sf = 1)
    | _ => false
  let intSf := ([12, 8, 9, 10, 14] : List Nat).contains sf
  firstBad
    [(2, decide (mode = 1) || decide (mode = 0x0C) || decide (mode = 0x0D)), (5, ok),
     (6, decide (byteAt b 6 ≤ 4) && !(decide (byteAt b 6 = 4) && intSf) && !(decide (mode = 0x0D) && decide (byteAt b 6 ≠ 0))),
     (40, if sf = 7 then decide (byteAt b 40 < 8) else decide (byteAt b 40 = 0))]

/-! ## Descriptors (R539) -/

/-- The lowest set bit of a word within a field. -/
def lowBit (d lo hi : Nat) : Option Nat := (List.range (hi + 1 - lo)).find? (fun i => bitOf d (lo + i)) |>.map (lo + ·)
/-- The lowest place any failed condition gives. -/
def minBad (xs : List (Option Nat)) : Option Nat :=
  xs.foldl (fun b x => match b, x with | none, y => y | some a, some y => some (min a y) | some a, none => some a) none

/-- A pass descriptor (R327, R349, R350): `rows` is the number of tiles its group takes. -/
def passDescBad (d : Nat) (rank gang : Bool) (kmax rows : Nat) : Option Nat :=
  minBad [if rank then none else lowBit d 32 63, lowBit d 24 31, lowBit d 6 7,
    if !gang && decide (5 < bitsOf d 10 8) then some 8 else none,
    if kmax < 32 * (bitsOf d 23 16 + 1) then some 16 else none,
    if rank && bitOf d 11 then some 11 else none,
    if rank && decide (64 < bitsOf d 5 0 + rows) then some 0 else none]

/-- A tile descriptor (R339); w is the element width. -/
def tileDescBad (d w : Nat) : Option Nat :=
  minBad [if pitchOk (bitsOf d 63 32) (4 * w) then none else some 32, lowBit d 11 31, lowBit d 6 7,
    if 5 < bitsOf d 10 8 then some 8 else none]

/-! ## Arithmetic -/

/-- The value of a row's elements, packed (R4, R263, R317). -/
def rowVals (code : Nat) (tab : BitVec 256) (bs : List Byte) (n : Nat) : List FVal :=
  match fmtOf code with
  | some f => let w := f.width; let x := leNat bs; (List.range n).map (fun i => fmtVal f tab (x / 2 ^ (w * i) % 2 ^ w))
  | none => []

/-- Scale exponents of a run of elements: `none` for 0xFF (R266, R318); an operand without scales has 0. -/
def rowScales (has : Bool) (lenLog k0 n : Nat) (bs : List Byte) : List (Option Int) :=
  (List.range n).map (fun i =>
    if has then
      let c := byteAt bs ((k0 + i) / 2 ^ lenLog - k0 / 2 ^ lenLog)
      if c = 255 then none else some ((c : Int) - 127)
    else some 0)

/-- One product of a group: its operands' values and the sum of its scales. -/
abbrev MeTerm := FVal × FVal × Option Int

/-- A finite product's magnitude and exponent, scales included. -/
def MeTerm.prod (t : MeTerm) : Bool × Nat × Int :=
  (t.1.neg != t.2.1.neg, t.1.mag.1 * t.2.1.mag.1, t.1.mag.2 + t.2.1.mag.2 + t.2.2.getD 0)

/-- S of R318: the group's sum with every product truncated at 60 bits below the largest. -/
def groupSum (ts : List MeTerm) : FVal :=
  let bad := ts.any (fun t => t.1.isNan || t.2.1.isNan || t.2.2.isNone ||
    (t.1.isInf && t.2.1.isZero) || (t.1.isZero && t.2.1.isInf))
  let infs := ts.filter (fun t => t.1.isInf || t.2.1.isInf)
  let ps := ts.map MeTerm.prod
  if bad then .nan false
  else if infs.any (fun t => t.prod.1) && infs.any (fun t => !t.prod.1) then .nan false
  else if infs != [] then .inf (infs.any (fun t => t.prod.1))
  else
    let nz := ps.filter (fun p => p.2.1 != 0)
    match nz with
    | [] => .fin (ps.all (fun p => p.1)) 0 0
    | p :: r =>
      let e := r.foldl (fun b q => max b ((q.2.1.log2 : Int) + q.2.2)) ((p.2.1.log2 : Int) + p.2.2)
      let q := e - 60
      let tot : Int := nz.foldl (fun n p =>
        let v : Int := if q ≤ p.2.2 then p.2.1 * 2 ^ (p.2.2 - q).toNat else p.2.1 / 2 ^ (q - p.2.2).toNat
        if p.1 then n - v else n + v) 0
      .fin (decide (tot < 0)) tot.natAbs q

/-- One rounding of an exact sum (R318, R350): NaN gives the canonical NaN. -/
def meRound (vs : List FVal) : Lane :=
  if vs.any (fun v => v.isNan) then nan32
  else (sum32 false .rne (vs.all (fun v => v.isZero && v.neg)) vs).1

/-- The exact integer sum of a group (R318). -/
def groupInt (ts : List MeTerm) : Int :=
  ts.foldl (fun n t => let p := t.prod; let v : Int := p.2.1 * 2 ^ p.2.2.toNat; if p.1 then n - v else n + v) 0

/-! ## Tile transfers (R333) -/

def roundOfByte : Nat → Round
  | 1 => .rtz | 2 => .rdn | 3 => .rup | 4 => .sr | _ => .rne

/-- An element MLDC gives: its tile word and flags. -/
def ldcElem (mode sf : Nat) (tab : BitVec 256) (x : Nat) : Nat × FFlags :=
  match fmtOf sf with
  | none => (x, 0)
  | some f =>
    if mode = 0x0D then (x, 0)
    else cvtVal (fmtVal f tab x) (if mode = 0x0C then .s32 else .f32) .rne false 0

/-- An element MSTC gives. -/
def stcElem (mode sf rnd : Nat) (i j : Nat) (seq key0 key1 : Lane) (x : Nat) : Nat × FFlags :=
  match fmtOf sf with
  | none => (x, 0)
  | some f =>
    if mode = 0x0D then (x, 0)
    else
      let rw := if rnd = 4 then (sesame (BitVec.ofNat 32 i) (BitVec.ofNat 32 j) seq 0 key0 key1).1.toNat else 0
      cvtVal (fmtVal (if mode = 0x0C then .s32 else .f32) 0 x) f (roundOfByte rnd) false rw

end Sys2Proof.Machine
end

