-- ==== Sys2Proof/Machine/Me.lean ====
section
/-!
DEFINITION. The matrix engines at work: readiness and arbitration (R321, R322), operand reads (R317, R323), what an entry's
completion writes (R318, R319, R333, R350), list passes (R328 to R330), gangs (R324 to R326) and failures (R331).
-/
namespace Sys2Proof.Machine

/-- MFAULT's address word (R331). -/
def mfaultInfo (kind addr : Nat) : Word := BitVec.ofNat 64 (kind * 2 ^ 56 + addr % 2 ^ 56)
/-- A failure of an entry: cause and address word. -/
abbrev MeFail := BitVec 8 × Word
def mfault (kind addr : Nat) : MeFail := (Cause.mfault.code, mfaultInfo kind addr)

/-! ## Readiness (R321) -/

def MeEntry.overlaps (x e : MeEntry) : Bool := (List.range 64).any (fun t => x.touches t && e.touches t)

/-- Every earlier-arrived entry on its tiles has completed, and none is at work there: a later one can be, when a list moves
on to its tile. -/
def State.tilesFree (s : State) (me : Nat) (e : MeEntry) : Bool :=
  (s.getM me).entries.all (fun x => x.id == e.id || (decide (e.arr ≤ x.arr) && !x.started) || !x.overlaps e)

/-- The barrier wait of a list pass (R329). -/
def State.listWaits (s : State) (me : Nat) (e : MeEntry) : Bool :=
  match e.kind with
  | .list _ _ =>
    let fl := byteAt e.cur 1
    e.fail.isNone && bitOf fl 1 &&
      (s.getBar e.ctx (barUnit (dieOfMe me) (byteAt e.cur 3)) (byteAt e.cur 3)).phase != bitOf fl 2
  | _ => false

/-- Ready for the arbiter; gang passes are the gang controller's (R325). -/
def State.entryReady (s : State) (me : Nat) (e : MeEntry) : Bool :=
  !e.started && e.gangId == 0 && s.tilesFree me e && !s.listWaits me e

/-- Since when each entry's tiles have been free (R321, R322), kept up at every change of the table. -/
def State.markReady (s : State) (me : Nat) : State :=
  s.updM me (fun m => { m with entries := m.entries.map (fun e =>
    { e with rdy := if !e.started && e.gangId == 0 && s.tilesFree me e then some (e.rdy.getD s.cycle) else none }) })

/-- Since when an entry has been ready (R322): its tiles free and its list's barrier in the phase it waits for (R329). -/
def State.readySince (s : State) (me : Nat) (e : MeEntry) : Nat :=
  let t := e.rdy.getD s.cycle
  match e.kind with
  | .list _ _ =>
    if e.fail.isNone && bitOf (byteAt e.cur 1) 1 then
      max t (s.getBar e.ctx (barUnit (dieOfMe me) (byteAt e.cur 3)) (byteAt e.cur 3)).toggled
    else t
  | _ => t

/-- One entry replaced. -/
def State.updEntry (s : State) (me id : Nat) (f : MeEntry → MeEntry) : State :=
  s.updM me (fun m => { m with entries := m.entries.map (fun e => if e.id = id then f e else e) })
def State.entry? (s : State) (me id : Nat) : Option MeEntry := (s.getM me).entries.find? (fun e => e.id == id)

/-! ## An entry's end -/

/-- A post that is gone leaves its gang's latch (R324, R326, R459): a latch that was complete waits again, its MEs are no longer
reserved, and an empty latch goes. -/
def State.leaveGang (s : State) (id : Nat) : State :=
  let mine := fun (g : Gang) => g.posts.any (fun p => p.2 == id)
  let ids := (s.gangs.filter mine).map (·.id)
  if ids = [] then s
  else { s with
    gangs := (s.gangs.map (fun g => if mine g then { g with posts := g.posts.filter (fun p => p.2 != id), complete := none } else g)).filter
      (fun g => g.posts != [])
    mes := s.mes.map (fun e => (e.1, match e.2.reserved with
      | some r => if ids.contains r then { e.2 with reserved := none } else e.2
      | none => e.2)) }

/-- An ME entry leaves its reservation table; the poster's OUT drops (R320, R331). -/
def State.freeEntry (s : State) (me id : Nat) : State :=
  match (s.getM me).entries.find? (fun e => e.id == id) with
  | none => s
  | some e =>
    let s := (s.updM me (fun m => { m with entries := m.entries.filter (fun x => x.id != id) })).leaveGang id
    if (s.getC e.core).task ≠ e.task then s else
    s.updC e.core (fun c => { c with out := c.out - 1, woken := if c.wait = some .passes then some 1 else c.woken })

/-! ## Failures (R331) -/

/-- Whether the poster still runs the task it posted from. -/
def State.posterHere (s : State) (e : MeEntry) : Bool := (s.getC e.core).task == e.task

/-- A failed entry is recorded in its poster's ring, leaves the table, and takes with it every entry of that core the ME
has not started; a latch that loses a post waits for another. -/
def State.meFail (s : State) (me : Nat) (e : MeEntry) (f : MeFail) (count : Nat) : State :=
  let others := (s.getM me).entries.filter (fun x => x.core == e.core && !x.started && x.done == 0 && x.id != e.id)
  let s := if s.posterHere e then s.updC e.core (fun c => c.recordFault e.ring f.1 2 count f.2) else s
  let s := others.foldl (fun s x =>
    let s := if s.posterHere x then s.updC x.core (fun c => match c.entryNow x.ring with
      | some r => { c with ring := mset c.ring (x.ring.seq.toNat % 64) { r with status := 2 } }
      | none => c) else s
    s.freeEntry me x.id) s
  (s.freeEntry me e.id).markReady me

/-! ## Reads and writes of an ME -/

/-- A scratchpad address of a core of the ME's cluster, within its scratchpad. -/
def spadInCluster (me key n : Nat) : Bool :=
  decide (spadBase ≤ key) && decide (key < istoreBase) && decide ((key - spadBase) / 0x100000 / 24 = clusterOfMe me)
    && decide ((key - spadBase) % 0x100000 + n ≤ 0x80000)

/-- Where an entry's operand or memory lies when the entry executes (R323, R331): translated for the die, or a window under the
poster's task, which must be a scratchpad of the ME's cluster whose member still holds its core. -/
def State.mePlace (s : State) (me : Nat) (e : MeEntry) (addr n : Nat) (a : Acc) : Except MeFail Nat × State :=
  if addr < 2 ^ 55 then
    match s.xlate (diePlaces (dieOfMe me)) e.ctx addr a.need with
    | (.error _, s) => (.error (mfault 1 addr), s)
    | (.ok pa, s) => (.ok pa, s)
  else match s.locate ⟨e.core, e.sys, e.task, e.ctx, diePlaces (dieOfMe me)⟩ a addr 16 with
    | (.error _, s) => (.error (mfault 7 addr), s)
    | (.ok l, s) => if l.remote || !spadInCluster me l.key n then (.error (mfault 7 addr), s) else (.ok l.key, s)

/-- Bytes of one page or one scratchpad, as an entry reads them when it executes (R323, R331). -/
def State.mePart (s : State) (me : Nat) (e : MeEntry) (addr n : Nat) : Except MeFail (List Byte) × State :=
  match s.mePlace me e addr n .load with
  | (.error f, s) => (.error f, s)
  | (.ok pa, s) =>
    if s.poisoned pa n then (.error (Cause.mcheck.code, BitVec.ofNat 64 (s.mcheckInfo pa addr)), s)
    else match s.physRead pa n with
      | some (bs, s) => (.ok bs, s)
      | none => (.error (mfault 7 addr), s)

/-- Bytes an entry reads, page by page. -/
def State.meRead (s : State) (me : Nat) (e : MeEntry) (addr n : Nat) : Except MeFail (List Byte) × State :=
  let one := 0x10000 - addr % 0x10000
  if addr < 2 ^ 55 ∧ one < n then
    match s.mePart me e addr one with
    | (.error f, s) => (.error f, s)
    | (.ok a, s) => match s.mePart me e (addr + one) (n - one) with
      | (.error f, s) => (.error f, s)
      | (.ok b, s) => (.ok (a ++ b), s)
  else s.mePart me e addr n

/-- Bytes an MSTC writes, tags cleared (R339). -/
def State.meWritePart (s : State) (me : Nat) (e : MeEntry) (addr : Nat) (bs : List Byte) : Option MeFail × State :=
  match s.mePlace me e addr bs.length .store with
  | (.error f, s) => (some f, s)
  | (.ok pa, s) =>
    if isHost pa then (if s.hostAnswers pa bs.length then (none, s.hostStore e.ctx pa bs) else (some (mfault 7 addr), s))
    else (none, s.writeAt e.ctx pa bs)
def State.meWrite (s : State) (me : Nat) (e : MeEntry) (addr : Nat) (bs : List Byte) : Option MeFail × State :=
  let one := 0x10000 - addr % 0x10000
  if addr < 2 ^ 55 ∧ one < bs.length then
    match s.meWritePart me e addr (bs.take one) with
    | (some f, s) => (some f, s)
    | (none, s) => s.meWritePart me e (addr + one) (bs.drop one)
  else s.meWritePart me e addr bs

/-- Several reads in order, up to the first that fails. -/
def State.meReads (s : State) (me : Nat) (e : MeEntry) : List (Nat × Nat) → Except MeFail (List (List Byte)) × State
  | [] => (.ok [], s)
  | (a, n) :: r =>
    match s.meRead me e a n with
    | (.error f, s) => (.error f, s)
    | (.ok b, s) => match s.meReads me e r with
      | (.error f, s) => (.error f, s)
      | (.ok bs, s) => (.ok (b :: bs), s)

/-- Accumulator bytes an entry writes: granules it covers whole lose their errors (R183). -/
def State.putTile (s : State) (me : Nat) (e : MeEntry) (off : Nat) (bs : List Byte) : State :=
  s.perform e.ctx (cellsAt (accKey me off) bs) []

/-- The MCHECK of an entry that reads accumulator bytes with an uncorrectable error (R182). -/
def State.tileError (s : State) (me off n : Nat) : Option MeFail :=
  (s.poison.find? (fun g => decide (g * 16 < accKey me off + n) && decide (accKey me off < g * 16 + 16))).map (fun g =>
    (Cause.mcheck.code, BitVec.ofNat 64 (s.mcheckInfo (g * 16) (g * 16))))

/-! ## Passes -/

/-- What one pass does: its tile, ZERO, K, operand and scale addresses. -/
structure PassInfo where
  tile : Nat
  zero : Bool
  k : Nat
  a : Nat
  b : Nat
  sa : Nat
  sb : Nat
  deriving DecidableEq, Repr

/-- The pass an entry holds: its own, or its list's current entry (R327, R328). -/
def MeEntry.pass (e : MeEntry) : PassInfo :=
  let d := e.desc.toNat
  match e.kind with
  | .list _ _ => ⟨byteAt e.cur 0, bitOf (byteAt e.cur 1) 0, 32 * (byteAt e.cur 2 + 1), field e.cur 8 8, field e.cur 16 8,
                  field e.fmt 16 8, field e.fmt 24 8⟩
  | .pass _ a b sa sb => ⟨bitsOf d 5 0, bitOf d 11, 32 * (bitsOf d 23 16 + 1), a, b, sa, sb⟩
  | _ => ⟨0, false, 32, 0, 0, 0, 0⟩

/-- Elements per group (R316). -/
def MeEntry.groupLen (e : MeEntry) : Nat :=
  match rowOfCode (byteAt e.fmt 0) with
  | some r => if r.group = 0 then e.pass.k else r.group
  | none => e.pass.k
def MeEntry.groups (e : MeEntry) : Nat := (e.pass.k + e.groupLen - 1) / max e.groupLen 1

/-- The reads of group g (R317): A through `lead`, B through the entry itself. -/
def State.readGroup (s : State) (me : Nat) (lead e : MeEntry) (g : Nat) : Except MeFail MeOps × State :=
  let pa := lead.pass
  let pb := e.pass
  let k0 := g * e.groupLen
  let n := min e.groupLen (pb.k - k0)
  let side := fun (x : MeEntry) (base code pitchOff : Nat) =>
    (List.range 32).map (fun i => (base + i * field x.fmt pitchOff 4 + k0 * widthOfCode code / 8, n * widthOfCode code / 8))
  let sc := fun (x : MeEntry) (has : Bool) (base : Nat) =>
    let L := 2 ^ byteAt x.fmt 4
    if has then (List.range 32).map (fun i => (base + i * (pb.k / L) + k0 / L, (k0 + n - 1) / L + 1 - k0 / L)) else []
  let hasA := byteAt lead.fmt 3 % 16 = 1
  let hasB := byteAt e.fmt 3 / 16 = 1
  match s.meReads me lead (side lead pa.a (byteAt lead.fmt 0) 8) with
  | (.error f, s) => (.error f, s)
  | (.ok a, s) => match s.meReads me e (side e pb.b (byteAt e.fmt 1) 12) with
    | (.error f, s) => (.error f, s)
    | (.ok b, s) => match s.meReads me lead (sc lead hasA pa.sa) with
      | (.error f, s) => (.error f, s)
      | (.ok sa, s) => match s.meReads me e (sc e hasB pb.sb) with
        | (.error f, s) => (.error f, s)
        | (.ok sb, s) => (.ok ⟨a, b, sa, sb⟩, s)

/-- The groups of a pass read in order, up to the first failure. -/
def State.readGroups (s : State) (me : Nat) (lead e : MeEntry) : List Nat → List MeOps × Option MeFail × State
  | [] => ([], none, s)
  | g :: r =>
    match s.readGroup me lead e g with
    | (.error f, s) => ([], some f, s)
    | (.ok o, s) => let x := s.readGroups me lead e r; (o :: x.1, x.2.1, x.2.2)

/-- An entry's operands read, if they are not yet (R323). -/
def State.readOps (s : State) (me : Nat) (lead e : MeEntry) : State :=
  if e.read then s
  else
    let x := s.readGroups me lead e (List.range e.groups)
    x.2.2.updEntry me e.id (fun e => { e with read := true, ops := x.1, fail := match e.fail with | some f => some f | none => x.2.1 })

/-- The products of output (i, j) in one group. -/
def meTerms (lead e : MeEntry) (g : Nat) (o : MeOps) (i j : Nat) : List MeTerm :=
  let k0 := g * e.groupLen
  let n := min e.groupLen (e.pass.k - k0)
  let av := rowVals (byteAt lead.fmt 0) lead.tabA (o.a.getD i []) n
  let bv := rowVals (byteAt e.fmt 1) e.tabB (o.b.getD j []) n
  let sa := rowScales (decide (byteAt lead.fmt 3 % 16 = 1)) (byteAt lead.fmt 4) k0 n (o.sa.getD i [])
  let sb := rowScales (decide (byteAt e.fmt 3 / 16 = 1)) (byteAt e.fmt 4) k0 n (o.sb.getD j [])
  ((av.zip bv).zip (sa.zip sb)).map (fun x => (x.1.1, x.1.2, match x.2 with
    | (some a, some b) => some (a + b)
    | _ => none))

/-- The tile word C(i, j) after the groups read (R318, R319). -/
def State.passWord (s : State) (me : Nat) (lead e : MeEntry) (i j : Nat) : Nat :=
  let p := e.pass
  let c0 := if p.zero then 0 else leNat (readBytes s.mem (accKey me (4096 * p.tile + 128 * i + 4 * j)) 4)
  let gs := (List.range e.ops.length).zip e.ops
  if byteAt e.fmt 2 = 0x0C then
    gs.foldl (fun (c : Nat) g => (((c : Int) + groupInt (meTerms lead e g.1 g.2 i j)) % 2 ^ 32).toNat) c0
  else gs.foldl (fun c g => (meRound [f32Val (BitVec.ofNat 32 c), groupSum (meTerms lead e g.1 g.2 i j)]).toNat) c0

/-- The error of a tile that a pass must read before its first group (R182, R318). -/
def State.passTileError (s : State) (me : Nat) (e : MeEntry) : Option MeFail :=
  if e.pass.zero || (e.ops.isEmpty && e.fail.isSome) then none else s.tileError me (4096 * e.pass.tile) 4096

/-- The groups a pass that fails has accumulated or, in RANK mode, summed: its fault's count (R331). -/
def State.passCount (s : State) (me : Nat) (e : MeEntry) (rank : Bool) : Nat :=
  if !rank && (s.passTileError me e).isSome then 0 else e.ops.length

/-- The tile a pass leaves (R318); one it must read first with an uncorrectable error fails it (R182). -/
def State.passTile (s : State) (me : Nat) (lead e : MeEntry) : Option MeFail × State :=
  match s.passTileError me e with
  | some f => (some f, s)
  | none =>
    let bs := ((List.range 1024).map (fun n => leBytes (s.passWord me lead e (n / 32) (n % 32)) 4)).foldr (· ++ ·) []
    (e.fail, s.putTile me e (4096 * e.pass.tile) bs)

/-- The 32 pairs a RANK pass offers list i (R350). -/
def rankRow (lead e : MeEntry) (i : Nat) : List RankPair :=
  let gs := (List.range e.ops.length).zip e.ops
  (List.range 32).map (fun j =>
    (meRound (gs.map (fun g => groupSum (meTerms lead e g.1 g.2 i j))),
     BitVec.ofNat 32 (field e.fmt 48 4 + e.desc.toNat / 2 ^ 32 + j)))

/-- The first list of a group whose header meets an uncorrectable error (R182). -/
def State.headerError (s : State) (me tile k : Nat) : Option MeFail :=
  if s.poison = [] then none else (List.range 32).findSome? (fun i => s.tileError me (rankOff tile k i) 16)

/-- The first list of a group whose header or held entries meet one, for a pass that updates them (R345). -/
def State.groupError (s : State) (me tile k : Nat) : Option MeFail :=
  if s.poison = [] then none
  else (List.range 32).findSome? (fun i =>
    let off := rankOff tile k i
    match s.tileError me off 16 with
    | some f => some f
    | none => s.tileError me off (min (rankSize (byteAt (readBytes s.mem (accKey me off) 16) 1)) (rankSize k)))

/-- LIST_UPDATE: every list of the group takes its row (R350); a malformed list fails the pass. -/
def State.rankTile (s : State) (me : Nat) (lead e : MeEntry) : Option MeFail × State :=
  let k := byteAt e.fmt 7
  let t := e.pass.tile
  match s.groupError me t k, s.groupBad me t k with
  | some f, _ => (some f, s)
  | none, some o => (some (mfault 8 (accKey me o)), s)
  | none, none => (none, (List.range 32).foldl (fun s i =>
      let off := rankOff t k i
      s.putTile me e off (rankUpdate (readBytes s.mem (accKey me off) (rankSize k)) (rankRow lead e i) false)) s)

/-! ## Lists (R328 to R330) -/

/-- A list entry that breaks R328 or R316. -/
def listEntryBad (fmt cur : List Byte) : Bool :=
  decide (64 ≤ byteAt cur 0) || decide (32 ≤ byteAt cur 1) || (nonzeroIn cur 5 7).isSome || (nonzeroIn cur 24 31).isSome ||
    (match rowOfCode (byteAt fmt 0) with | some r => decide (r.kmax < 32 * (byteAt cur 2 + 1)) | none => true)

/-- A grant table that an ME cannot read (R331, R505). (DEDUCED, log entry 29) -/
def tableFail (f : Cause × Nat) (addr : Nat) : MeFail := match f.1 with
  | .mcheck => (f.1.code, BitVec.ofNat 64 f.2)
  | .remote => mfault 7 addr
  | _ => mfault 1 addr

/-- The check of R102 by an ME, which holds no grant cache: none where it passes. -/
def State.capNow (s : State) (places : List TlbPlace) (ctx : Nat) (c : TReg) (ea size : Nat) (need : BitVec 12) :
    Option MeFail × State :=
  if !c.tag ∨ bitsOf c.val.toNat 127 100 ≠ 0 ∨ 2 ^ (s.getX ctx).log2n ≤ capGid c then (some (mfault 2 ea), s)
  else match s.grantInMem places ctx (capGid c) with
    | (.error f, s) => (some (tableFail f ((s.getX ctx).grantVa (capGid c))), s)
    | (.ok g, s) => (if g.valid && g.gen == capGen c && (need &&& ~~~(capPerm c &&& g.perm)) == 0
        && decide (g.base ≤ ea) && decide (ea + size ≤ g.base + g.len) then none else some (mfault 2 ea), s)

/-- Entry n of a list read under the list capability kept from the post (R329); a failure is kept for the pass. -/
def State.readListEntry (s : State) (me : Nat) (e : MeEntry) (n : Nat) : List Byte × Option MeFail × State :=
  match e.kind with
  | .list count addr =>
    if count ≤ n then ([], none, s)
    else
      let at' := addr + 32 + 32 * n
      match s.capNow (diePlaces (dieOfMe me)) e.ctx e.capD at' 32 permR with
      | (some f, s) => ([], some f, s)
      | (none, s) => match s.meRead me e at' 32 with
        | (.error f, s) => ([], some f, s)
        | (.ok b, s) => (b, none, s)
  | _ => ([], none, s)

/-- Bytes of an operand's footprint (R317). -/
def footBytes (fmt : List Byte) (pitchOff codeOff k : Nat) : Nat :=
  31 * field fmt pitchOff 4 + k * widthOfCode (byteAt fmt codeOff) / 8

/-- The failure that stops a list pass before it reads (R330). (DEDUCED, log entry 29) -/
def State.listCheck (s : State) (me : Nat) (e : MeEntry) : Option MeFail × State :=
  match e.fail with
  | some f => (some f, s)
  | none =>
    let p := e.pass
    if listEntryBad e.fmt e.cur then (some (mfault 3 (match e.kind with | .list _ a => a + 32 + 32 * e.done | _ => 0)), s)
    else
      let pl := diePlaces (dieOfMe me)
      match s.capNow pl e.ctx e.capA p.a (footBytes e.fmt 8 0 p.k) (permR ||| permM) with
      | (some f, s) => (some f, s)
      | (none, s) => s.capNow pl e.ctx e.capB p.b (footBytes e.fmt 12 1 p.k) (permR ||| permM)

/-- The arrive barrier's one update after a list pass (R329): the footprints' bytes first, then an arrival. -/
def State.listArrive (s : State) (me : Nat) (e : MeEntry) : Option MeFail × State :=
  let fl := byteAt e.cur 1
  let bar := byteAt e.cur 4
  let u := barUnit (dieOfMe me) bar
  let p := e.pass
  let x : Int := if bitOf fl 4 then (footBytes e.fmt 8 0 p.k + footBytes e.fmt 12 1 p.k : Nat) else 0
  let b := s.getBar e.ctx u bar
  if !bitOf fl 4 && !bitOf fl 3 then (none, s)
  else if !pendingOk (b.pending - x) then
    (some (mfault 6 bar), (s.breakBar e.ctx u bar).faultRecord e.ctx (record 0 Cause.bounds.code 0xFF 0 0 0 0 (barInfo 2 bar)))
  else
    let b := { b with pending := b.pending - x }
    let b := if !bitOf fl 3 then b
      else if b.arrived < b.count then { b with arrived := b.arrived + 1 }
      else { b with heldBy := b.heldBy ++ [nCores + me] }
    (none, (s.setBar e.ctx u bar b).testBar e.ctx u bar)

/-! ## Grants -/

/-- A granted entry starts: a list reads its next entry, and operands are read now or at completion (R323, R329).
(DEDUCED, log entry 29) -/
def State.startEntry (s : State) (me : Nat) (lead e : MeEntry) (now : Bool) : State :=
  let no := (s.getM me).nextArr
  let s := s.updM me (fun m => { m with nextArr := no + 1, entries := m.entries.map (fun x =>
    if x.id = e.id then { x with started := true, startNo := no } else x) })
  let s := match e.kind with
    | .list _ _ => let x := s.readListEntry me e (e.done + 1)
      x.2.2.updEntry me e.id (fun e => { e with nxt := x.1, nxtFail := x.2.1 })
    | _ => s
  match e.kind with
  | .list _ _ | .pass _ _ _ _ _ => if now then s.readOps me lead e else s
  | _ => s

/-- The headers of a RANK pass's own group are unusable at its grant (R350, R355), as a failure: what the lists hold is read only
by a pass that runs (R353). -/
def State.rankFail (s : State) (me : Nat) (e : MeEntry) : Option MeFail :=
  match e.kind with
  | .pass true _ _ _ _ =>
    match s.headerError me e.pass.tile (byteAt e.fmt 7) with
    | some f => some f
    | none => (s.groupBad me e.pass.tile (byteAt e.fmt 7)).map (fun o => mfault 8 (accKey me o))
  | _ => none
/-- Threshold feedback's decision for a RANK pass (R353, R526). -/
def State.rankSkips (s : State) (me : Nat) (e : MeEntry) : Bool :=
  match e.kind with
  | .pass true _ _ _ _ => s.rankSkip me e.pass.tile (byteAt e.fmt 7) e.bound
      (decide ((match (s.getC e.core).husk.vendor with | some i => i.gen.toNat | none => 0) < 4))
  | _ => false

/-- A skipped pass completes and is counted (R353). -/
def State.skipEntry (s : State) (me : Nat) (e : MeEntry) : State :=
  let s := s.updM me (fun m => { m with skips := mput 0 m.skips e.ctx (mget 0 m.skips e.ctx + 1) })
  (s.freeEntry me e.id).markReady me

/-- One grant (R322): an unusable entry fails, a skipped one completes, any other starts. -/
def State.grantEntryMe (s : State) (me : Nat) (e : MeEntry) : State :=
  match s.rankFail me e with
  | some f => s.meFail me e f 0
  | none =>
    if s.rankSkips me e then s.skipEntry me e
    else
      let r := match e.kind with
        | .list _ _ => s.listCheck me e
        | _ => (none, s)
      match r with
      | (some f, s) => s.meFail me e f e.done
      | (none, s) => s.startEntry me e e (s.pick 0x500 2 == 1)

/-- Whether the array is free: nothing started, or a pass that may be in its last 8 cycles (R322). -/
def State.arrayFree (s : State) (me : Nat) : Bool :=
  match (s.getM me).entries.filter (·.started) with
  | [] => true
  | [_] => s.pick 0x501 2 == 1
  | _ => false

/-- The arbiter's choice (R322). -/
def State.arbiter (s : State) (me : Nat) : Option MeEntry :=
  let ready := (s.getM me).entries.filter (s.entryReady me)
  let since := s.readySince me
  let old := ready.filter (fun e => decide (4096 ≤ s.cycle - since e))
  let best := fun (better : MeEntry → MeEntry → Bool) (es : List MeEntry) =>
    es.foldl (fun (b : Option MeEntry) e => match b with
      | none => some e
      | some x => if better e x then some e else b) none
  match best (fun a b => decide (since a < since b) || (since a == since b && decide (a.arr < b.arr))) old with
  | some e => some e
  | none => best (fun a b => decide (b.prio < a.prio) || (a.prio == b.prio && decide (a.arr < b.arr))) ready

/-! ## Completion -/

/-- Flags of a tile transfer reach the poster's FPFLAGS; an enabled one is an FPX of class M (R333, R245). -/
def State.meFlags (s : State) (e : MeEntry) (fl : FFlags) : State :=
  if fl = 0 ∨ !s.posterHere e then s
  else s.updC e.core (fun c =>
    let c := { c with fpflags := c.fpflags ||| fl }
    let hot := fl &&& c.fpEnable
    if hot = 0 then c else c.recordFault e.ring Cause.fpx.code 2 0 (hot.setWidth 64))

/-- MLDC row by row (R333, R339): the failure that stopped it, and the flags. -/
def State.ldcRows (s : State) (me : Nat) (e : MeEntry) (addr : Nat) : List Nat → Option MeFail × FFlags × State
  | [] => (none, 0, s)
  | i :: r =>
    let sf := byteAt e.fmt 5
    let w := widthOfCode sf
    match s.meRead me e (addr + i * bitsOf e.desc.toNat 63 32) (4 * w) with
    | (.error f, s) => (some f, 0, s)
    | (.ok bs, s) =>
      let x := leNat bs
      let es := (List.range 32).map (fun j => ldcElem (byteAt e.fmt 2) sf e.tabA (x / 2 ^ (w * j) % 2 ^ w))
      let s := s.putTile me e (4096 * bitsOf e.desc.toNat 5 0 + 128 * i) ((es.map (fun (y : Nat × FFlags) => leBytes y.1 4)).foldr (· ++ ·) [])
      let n := s.ldcRows me e addr r
      (n.1, es.foldl (fun f y => f ||| y.2) n.2.1, n.2.2)

/-- MSTC row by row. -/
def State.stcRows (s : State) (me : Nat) (e : MeEntry) (addr : Nat) (seq : BitVec 32) :
    List Nat → Option MeFail × FFlags × State
  | [] => (none, 0, s)
  | i :: r =>
    let sf := byteAt e.fmt 5
    let w := widthOfCode sf
    let es := (List.range 32).map (fun j => stcElem (byteAt e.fmt 2) sf (byteAt e.fmt 6) i j seq
      (BitVec.ofNat 32 (field e.fmt 32 4)) (BitVec.ofNat 32 (field e.fmt 36 4))
      (leNat (readBytes s.mem (accKey me (4096 * bitsOf e.desc.toNat 5 0 + 128 * i + 4 * j)) 4)))
    let x := ((List.range 32).zip es).foldl (fun n y => n + y.2.1 % 2 ^ w * 2 ^ (w * y.1)) 0
    let (f, s) := match s.tileError me (4096 * bitsOf e.desc.toNat 5 0 + 128 * i) 128 with
      | some f => (some f, s)
      | none => s.meWrite me e (addr + i * bitsOf e.desc.toNat 63 32) (leBytes x (4 * w))
    match f with
    | some f => (some f, 0, s)
    | none =>
      let n := s.stcRows me e addr seq r
      (n.1, es.foldl (fun f y => f ||| y.2) n.2.1, n.2.2)

/-- A completed pass is counted (R342). -/
def State.countDone (s : State) (me ctx : Nat) : State :=
  s.updM me (fun m => { m with dones := mput 0 m.dones ctx (mget 0 m.dones ctx + 1) })

/-- What a finished pass leaves: its tile or lists, or its failure with the groups completed (R331). -/
def State.finishPass (s : State) (me : Nat) (lead e : MeEntry) (rank : Bool) : Option MeFail × State :=
  if rank then (match e.fail with | some f => (some f, s) | none => s.rankTile me lead e)
  else s.passTile me lead e

/-- PASS_COMPLETE's effect on a started entry. -/
def State.completeEntry (s : State) (me : Nat) (e : MeEntry) : State :=
  let done := fun (s : State) => (s.freeEntry me e.id).markReady me
  match e.kind with
  | .zero f n => done (s.putTile me e (4096 * f) (List.replicate (4096 * n) 0))
  | .rank f _ =>
    let k := bitsOf e.desc.toNat 7 0
    done ((List.range 32).foldl (fun s i =>
      s.putTile me e (rankOff f k i) (rankHeader k 0 false negInf32 (bitsOf e.desc.toNat 63 32))) s)
  | .ldc addr =>
    (match s.ldcRows me e addr (List.range 32) with
     | (some f, fl, s) => (s.meFlags e fl).meFail me e f 0
     | (none, fl, s) => done (s.meFlags e fl))
  | .stc addr seq =>
    (match s.stcRows me e addr seq (List.range 32) with
     | (some f, fl, s) => (s.meFlags e fl).meFail me e f 0
     | (none, fl, s) => done (s.meFlags e fl))
  | .pass rank _ _ _ _ =>
    let s := s.readOps me e e
    let e := (s.entry? me e.id).getD e
    let n := s.passCount me e rank
    (match s.finishPass me e e rank with
     | (some f, s) => s.meFail me e f n
     | (none, s) => done (s.countDone me e.ctx))
  | .list count _ =>
    let s := s.readOps me e e
    let e := (s.entry? me e.id).getD e
    (match s.finishPass me e e false with
     | (some f, s) => s.meFail me e f e.done
     | (none, s) =>
       match (s.countDone me e.ctx).listArrive me e with
       | (some f, s) => s.meFail me e f (e.done + 1)
       | (none, s) =>
         if e.done + 1 = count then done s
         else (s.updEntry me e.id (fun e => { e with
           done := e.done + 1, cur := e.nxt, fail := e.nxtFail, started := false, read := false, ops := [], rdy := none })).markReady me)

/-! ## Gangs (R324 to R326) -/

/-- The members' entries of a gang: ME and entry. -/
def State.gangEntries (s : State) (g : Gang) : List (Nat × MeEntry) :=
  g.posts.filterMap (fun p => (s.entry? (meOfCore p.1) p.2).map (fun e => (meOfCore p.1, e)))

/-- What must agree across a gang's members (R324). -/
def MeEntry.gangKey (e : MeEntry) : Nat × Bool × List Byte :=
  (bitsOf e.desc.toNat 23 16, bitOf e.desc.toNat 11, e.fmt.take 5 ++ [e.fmt.getD 7 0, e.fmt.getD 40 0])

/-- A gang post joins its latch; a full latch completes, or fails every member (R324). -/
def State.gangPost (s : State) (me id : Nat) : State :=
  match s.entry? me id with
  | none => s
  | some e =>
    let old := s.gangs.find? (fun g => g.cores == e.gang && g.nth == e.nth && g.complete.isNone && !g.posts.any (fun p => p.1 == e.core))
    let g : Gang := match old with
      | some g => { g with posts := g.posts ++ [(e.core, id)] }
      | none => { id := s.nextMe + 1, cluster := clusterOfMe me, cores := e.gang, nth := e.nth, posts := [(e.core, id)], complete := none }
    let s := { s with nextMe := s.nextMe + 2, gangs := s.gangs.filter (fun (x : Gang) => x.id != g.id) ++ [g] }
    let s := s.updEntry me id (fun e => { e with gangId := g.id })
    if g.posts.length ≠ g.cores.length then s
    else
      let es := s.gangEntries g
      match es with
      | [] => s
      | x :: r =>
        if r.all (fun y => y.2.gangKey == x.2.gangKey) then
          { s with gangs := s.gangs.map (fun (y : Gang) => if y.id = g.id then { y with complete := some s.cycle } else y) }
        else es.foldl (fun s y => s.meFail y.1 y.2 (mfault 4 0) 0) s

/-- The gang at the head of a cluster's controller (R325). -/
def State.gangHead (s : State) (cluster : Nat) : Option Gang :=
  (s.gangs.filter (fun (g : Gang) => g.cluster == cluster && g.complete.isSome)).foldl (fun (b : Option Gang) g =>
    match b with
    | none => some g
    | some x => if g.complete.getD 0 < x.complete.getD 0 ∨ (g.complete = x.complete ∧ g.cores.headD 0 < x.cores.headD 0)
                then some g else b) none

/-- A reserved gang starts on every ME in one cycle: a member whose lists are unusable fails (R355), and its test calls for no
skip; the others are skipped when every test says so, else each reads its operands, A through the leader (R324, R353).
(DEDUCED, log entry 57) -/
def State.startGang (s : State) (g : Gang) : State :=
  let es := s.gangEntries g
  let s := es.foldl (fun s x => s.updM x.1 (fun m => { m with reserved := none })) s
  let s := { s with gangs := s.gangs.filter (fun x => x.id != g.id) }
  let lead := (es.find? (fun x => x.2.core == g.cores.headD 0)).map Prod.snd
  let bad := fun (x : Nat × MeEntry) => s.rankFail x.1 x.2
  let good := es.filter (fun x => (bad x).isNone)
  let skip := es.all (fun x => (bad x).isNone && s.rankSkips x.1 x.2)
  let s := es.foldl (fun s x => match bad x with
    | some f => s.meFail x.1 x.2 f 0
    | none => s) s
  good.foldl (fun s x =>
    if skip then s.skipEntry x.1 x.2
    else
      let l := lead.getD x.2
      -- what completion needs of A's side: the leader's format and table
      (s.startEntry x.1 l x.2 true).updEntry x.1 x.2.id (fun (e : MeEntry) => { e with tabA := l.tabA, gangId := 0 })) s

/-- Whether a gang ME may be reserved: its array is free, and every earlier entry on the gang's tile has at least started, for a
reserved ME starts nothing else (R321, R325). (DEDUCED, log entry 57) -/
def State.gangMay (s : State) (me : Nat) (e : MeEntry) : Bool :=
  (s.getM me).reserved.isNone && s.arrayFree me &&
    (s.getM me).entries.all (fun x => decide (e.arr ≤ x.arr) || x.started || !x.overlaps e)

/-- GANG_START's effect: each gang ME whose array is free is reserved; with all reserved and their tiles free the gang starts
(R321, R325). -/
def State.gangStep (s : State) (cluster : Nat) : State :=
  match s.gangHead cluster with
  | none => s
  | some g =>
    let es := s.gangEntries g
    let s := es.foldl (fun s x => if s.gangMay x.1 x.2 then s.updM x.1 (fun m => { m with reserved := some g.id }) else s) s
    if es.length = g.cores.length ∧ es.all (fun x => (s.getM x.1).reserved == some g.id && s.tilesFree x.1 x.2) then s.startGang g else s

/-! ## Events (rows 299 to 304) -/

/-- POST_ACCEPT (R320): a core whose post waits for a free entry posts again at once. -/
def execPostAccept (core : Nat) (s : State) : Host.Outcome State Fault Refusal :=
  .next (if (s.getC core).wait = some .accept then { s with turns := .core core :: s.turns } else s)

/-- PASS_GRANT (R322, R353). -/
def execPassGrant (me : Nat) (s : State) : Host.Outcome State Fault Refusal :=
  .next (
    let s := s.markReady me
    if (s.getM me).reserved.isSome || !s.arrayFree me then s
    else match s.arbiter me with
      | some e => s.grantEntryMe me e
      | none => s)

/-- GANG_START (R325). -/
def execGangStart (cluster : Nat) (s : State) : Host.Outcome State Fault Refusal := .next (s.gangStep cluster)

/-- GANG_LATCH_TIMEOUT (R326): an entry that has waited in an open latch for its poster's RDVTO fails alone. -/
def execGangLatchTimeout (me id : Nat) (s : State) : Host.Outcome State Fault Refusal :=
  .next (match s.entry? me id with
    | none => s
    | some e =>
      let to' := (s.getC e.core).rdvto.toNat
      if e.gangId ≠ 0 ∧ !e.started ∧ to' ≠ 0 ∧ e.since + to' < s.cycle
          ∧ s.gangs.any (fun g => g.id == e.gangId && g.complete.isNone) then s.meFail me e (mfault 5 0) 0
      else s)

/-- The started entry of an ME that started first. -/
def Me.first (m : Me) : Option MeEntry :=
  (m.entries.filter (·.started)).foldl (fun (b : Option MeEntry) e => match b with
    | none => some e
    | some x => if e.startNo < x.startNo then some e else b) none

/-- PASS_COMPLETE (R322, R318): the entry that started first completes. -/
def execPassComplete (me : Nat) (s : State) : Host.Outcome State Fault Refusal :=
  .next (match (s.getM me).first with
    | some e => s.completeEntry me e
    | none => s)

/-- A table that arrives (R332). -/
def Me.takeTable (m : Me) (x : Nat × BitVec 256 × Nat) : Me :=
  { m with tabs := mput 0 m.tabs x.1 x.2.1, mtbl := m.mtbl.erase x }

/-- MTBL_ARRIVE (R332): the oldest table under way is written. -/
def execMtblArrive (me : Nat) (s : State) : Host.Outcome State Fault Refusal :=
  .next (match (s.getM me).mtbl with
    | x :: _ => s.updM me (fun m => m.takeTable x)
    | [] => s)

end Sys2Proof.Machine
end

