-- ==== Sys2Proof/Machine/Weave.lean ====
section
/-!
DEFINITION. Membership of weaves and the Wicker's route budgets (R130 to R138): who follows whom, registrations,
publication of items, leaving.
-/
namespace Sys2Proof.Machine

/-! ## Routes (R134) -/

/-- The die-to-die links a route crosses, as directed pairs (R11). -/
def dieLinks (a b : Nat) : List (Nat × Nat) :=
  if a = b then []
  else if (a + 2) % 4 = b then [(a, (a + 1) % 4), ((a + 1) % 4, b)]
  else [(a, b)]

/-- The boundaries a channel from core `p` to core `q` crosses: cluster boundaries outward and inward, and links. -/
inductive Boundary | out (cluster : Nat) | into (cluster : Nat) | link (a b : Nat)
  deriving DecidableEq, Repr

def crossings (p q : Nat) : List Boundary :=
  (if clusterOfCore p = clusterOfCore q then [] else [.out (clusterOfCore p), .into (clusterOfCore q)])
    ++ (dieLinks (dieOfCore p) (dieOfCore q)).map (fun x => .link x.1 x.2)

/-- Every subscription: its publisher's core and its own. It holds its crossings until it leaves or its task ends, whatever
has become of its publisher. -/
def State.subscriptions (s : State) : List (Nat × Nat) :=
  s.cores.filterMap (fun e => match e.2.w.st with
    | .member | .dormant | .waiting => if e.1 < nCores then some (e.2.w.pub, e.1) else none
    | _ => none)

/-- The distinct channels that cross a boundary, by publisher. -/
def State.channelsOver (s : State) (b : Boundary) : List Nat :=
  ((s.subscriptions.filter (fun x => (crossings x.1 x.2).contains b)).map Prod.fst).eraseDups
def State.channelsAt (s : State) (b : Boundary) : Nat := (s.channelsOver b).length

def Boundary.budget : Boundary → Nat
  | .link _ _ => 64
  | _ => 16

/-- Whether the crossings a new subscription needs fit their budgets; a channel already across costs nothing. -/
def State.routeOk (s : State) (p q : Nat) : Bool :=
  (crossings p q).all (fun b =>
    (s.channelsOver b).contains p || decide (s.channelsAt b < b.budget))

/-! ## Membership -/

def WState.code : WState → Nat
  | .alone => 0 | .publisher => 1 | .member => 2 | .dormant => 3 | .waiting => 4 | .detached => 5

def policyCode : Policy → Nat
  | .dormant => 0 | .detach => 1 | .trap => 2

/-- WSTAT (R136). STATE of a member off the path being published stays MEMBER: DORMANT is the policy's. (DESIGN CHOICE, log
entry 82) -/
def Weave.word (w : Weave) : Word :=
  BitVec.ofNat 64 (w.size * 2 ^ 51 + w.rank * 2 ^ 38 + w.chan * 2 ^ 25 + policyCode w.policy * 2 ^ 23 + w.st.code * 2 ^ 20
    + w.brw.length * 2 ^ 16 + (if w.st = .publisher then w.followers.length else 0))

/-- Whether a member takes part in items of a BRW depth and path (R147): at depth 0 always; inside, it must have taken
part in that BRW, and its condition must have put it on that path. -/
def Weave.onPath (w : Weave) (depth : Nat) (path : Bool) : Bool :=
  decide (depth = 0) || (decide (depth ≤ w.brw.length) && (match w.brw.drop (w.brw.length - depth) with
    | f :: _ => f.mine && (f.both || f.cond == path)
    | [] => true))

/-- Participants of a publisher's current path (R147, R159): followers that are members and not dormant. -/
def State.participants (s : State) (p : Nat) : List (Nat × Nat) :=
  let w := (s.getC p).w
  w.followers.filter (fun f => (s.getC f.2).w.st == .member &&
    (s.getC f.2).w.onPath w.brw.length ((w.brw.head?.map (·.path)).getD false))

/-- Whether every follower of publisher `p` has contributed, or passes the item without taking part. -/
def State.allIn (s : State) (p : Nat) : Bool :=
  let w := (s.getC p).w
  w.followers.all (fun f =>
    w.votes.any (fun v => v.1 == f.2) ||
      ((s.getC f.2).w.stream == [] && !(s.participants p).contains f))

/-- A publisher that no one follows or has registered with is alone again; its private code, if it stood in some, ends with that
(R160). (DESIGN CHOICE, log entry 66) -/
def Weave.publisherSt (w : Weave) : Weave :=
  if w.st = .publisher ∧ w.followers = [] ∧ w.regs = [] then { w with st := .alone, priv := false } else w

/-- A core that has accepted a registration and is in no weave of another is a publisher: rank 0, SIZE from the first
registration it accepts (R136, R138). One that stands in another's weave accepts when it has left it. -/
def Weave.accept (w : Weave) : Weave :=
  match w.regs.find? (·.arrived) with
  | some r => if w.st = .alone ∨ w.st = .detached then { w with st := .publisher, rank := 0, size := r.size } else w
  | none => w

/-- Core `q` stops following its publisher: its crossings are freed, its hold released (R134, R156). What it has put into
a collective that all have reached stays: the others see the same participants (R308). -/
def State.unfollow (s : State) (q : Nat) : State :=
  let w := (s.getC q).w
  match w.st with
  | .member | .dormant | .waiting =>
    let keep := s.allIn w.pub
    let s := s.updC w.pub (fun c => { c with w := Weave.publisherSt { c.w with
      followers := c.w.followers.filter (fun f => f.2 != q)
      regs := c.w.regs.filter (fun r => r.core != q)
      holds := ndel q c.w.holds
      votes := if keep then c.w.votes else c.w.votes.filter (fun v => v.1 != q) } })
    s.updC q (fun c => { c with w := { c.w with stream := [], wake := none, jump := none, brw := [], handler := none } })
  | _ => s

/-- Leaving with STATE DETACHED: RANK, SIZE, CHAN and POLICY stay (R136, R156), until a registration already here is
accepted. -/
def State.detach (s : State) (q : Nat) : State :=
  (s.unfollow q).updC q (fun c => { c with w := Weave.accept { c.w with st := .detached } })

/-- A core that ends its task leaves every weave; those that follow it wait for items that never come, until their own
task ends or they are killed. -/
def State.dissolve (s : State) (q : Nat) : State :=
  let s := s.unfollow q
  s.updC q (fun c => { c with w := {} })

/-- Whether a core issues for a stream: user mode, its own words, not between PUBOFF and PUBON (R135). -/
def Core.publishes (c : Core) : Bool :=
  !c.sys && !c.w.priv && c.w.st != .member && c.w.st != .dormant && c.w.st != .waiting

/-- An item sent to every member (R130). -/
def State.publish (s : State) (p : Nat) (it : Item) : State :=
  let it := { it with at' := s.cycle }
  (s.getC p).w.followers.foldl (fun s f => s.updC f.2 (fun c => { c with w := { c.w with stream := c.w.stream ++ [it] } })) s

/-- A pending registration becomes membership: the next item is the member's first (R138). -/
def State.join (s : State) (p : Nat) (r : Reg) : State :=
  let s := s.updC p (fun c => { c with w := { c.w with
    regs := c.w.regs.filter (fun x => x.core != r.core)
    followers := c.w.followers ++ [(r.rank, r.core)] } })
  s.updC r.core (fun c => { c with w := { c.w with st := .member, stream := [], wake := none, jump := none, brw := [], handler := none } })

/-- Every arrived registration of a tag joins (R138, R157). -/
def State.joinAll (s : State) (p : Nat) (tag : BitVec 4) : State :=
  ((s.getC p).w.regs.filter (fun r => r.arrived && r.tag == tag)).foldl (fun s r => s.join p r) s

/-- A registration reaches its publisher (R138). -/
def State.arriveReg (s : State) (q : Nat) : State :=
  let w := (s.getC q).w
  if w.st = .waiting then
    s.updC w.pub (fun c =>
      { c with w := Weave.accept { c.w with regs := c.w.regs.map (fun (r : Reg) => if r.core = q then { r with arrived := true } else r) } })
  else s

/-- Whether a follower has executed everything published so far and stands at its next item. -/
def State.caughtUp (s : State) (f : Nat) : Bool :=
  let c := s.getC f
  c.w.stream = [] && c.w.handler.isNone && !c.latch.valid && c.run == .running

end Sys2Proof.Machine
end

