-- ==== Sys2Proof/Machine/Launch.lean ====
section
/-!
DEFINITION. Launches (R397 to R409): the launch parameter block, a launch's taking, dispatch and end, finish-scope
cancellation, graph nodes and their signals.
-/
namespace Sys2Proof.Machine

/-! ## The launch parameter block (R398) -/

def lpbEntry (b : List Byte) : Nat := field b 0 2
def lpbWidth (b : List Byte) : Nat := field b 2 2
def lpbShape (b : List Byte) : Nat := byteAt b 4
def lpbWoven (b : List Byte) : Bool := bitOf (byteAt b 5) 0
def lpbIndirect (b : List Byte) : Bool := bitOf (byteAt b 5) 1
def lpbIdem (b : List Byte) : Bool := bitOf (byteAt b 5) 2
def lpbPtab (b : List Byte) : Bool := bitOf (byteAt b 5) 3
def lpbRetry (b : List Byte) : Nat := byteAt b 6 % 16
def lpbPrio (b : List Byte) : Nat := byteAt b 6 / 16
def lpbPolicy (b : List Byte) : Policy := if byteAt b 7 = 0 then .dormant else if byteAt b 7 = 1 then .detach else .trap
def lpbCount (b : List Byte) : Nat := field b 8 4
def lpbParam (b : List Byte) : Nat := field b 16 8
def lpbIndAddr (b : List Byte) : Nat := field b 24 8
def lpbScope (b : List Byte) : Nat := byteAt b 32
def lpbCtx (b : List Byte) : Nat := byteAt b 33
def lpbGrant (b : List Byte) : Nat := field b 34 2
def lpbStep (b : List Byte) : Nat := field b 40 8
def lpbEdges (b : List Byte) : Nat := field b 48 8
def lpbFp (b : List Byte) : Nat := field b 56 8
def lpbFpCount (b : List Byte) : Nat := byteAt b 64

/-- Largest width of a shape (R24). -/
def shapeWidth : Nat → Nat
  | 0 => 4 | 1 => 24 | 2 => 1152 | _ => 4608

/-- The offset a malformed LPB reports: the first bad field's first byte (R398); `none` when it is well formed. -/
def lpbBad (b : List Byte) : Option Nat :=
  if 4096 ≤ lpbEntry b then some 0
  else if lpbWidth b = 0 ∨ 4608 < lpbWidth b ∨ (lpbShape b ≤ 4 ∧ shapeWidth (lpbShape b) < lpbWidth b) then some 2
  else if 4 < lpbShape b then some 4
  else if 16 ≤ byteAt b 5 then some 5
  else if 2 < byteAt b 7 then some 7
  else if lpbStep b ≠ 0 ∧ lpbCount b ≠ 1 ∧ lpbIndirect b = false then some 8
  else match nonzeroIn b 12 15 with
  | some i => some i
  | none =>
    if 16 ≤ lpbCtx b then some 33
    else match nonzeroIn b 36 39 with
    | some i => some i
    | none => if 16 < lpbFpCount b then some 64 else nonzeroIn b 65 127

/-- A FORMAT record of the Hamper: ENG 0xFF, its detail the EINFO of R315 with a KIND and an offset (R398). -/
def State.formatRecord (s : State) (ctx kind off : Nat) : State :=
  s.faultRecord ctx (record 0 Cause.format.code 0xFF 0 0 0 0 (kind * 2 ^ 60 + off))

/-! ## Reading a context's memory from the hub -/

/-- Why a read fails: cause, EINFO and faulting address. -/
abbrev ReadFail := Cause × Nat × Nat

/-- Bytes of a context's translated memory as the hub reads them, or why it cannot (R177, R505). -/
def State.ctxRead (s : State) (ctx va n : Nat) : Except ReadFail (List Byte) × State :=
  -- one translation per 64 KiB page touched
  let pages := (va + n - 1) / 0x10000 - va / 0x10000 + 1
  (List.range pages).foldl (fun (acc : Except ReadFail (List Byte) × State) i =>
    match acc.1 with
    | .error _ => acc
    | .ok bs =>
      let lo := max va ((va / 0x10000 + i) * 0x10000)
      let hi := min (va + n) ((va / 0x10000 + i + 1) * 0x10000)
      match acc.2.xlate [.hub] ctx lo { r := true } with
      | (.error f, s) => (.error (.xlate, f.einfo lo, lo), s)
      | (.ok pa, s) => match s.physRead pa (hi - lo) with
        | some (b, s) => (.ok (bs ++ b), s)
        | none => (.error (.remote, lo, lo), s)) (.ok [], s)
/-- The same where the failure itself is not reported. -/
def State.ctxBytes (s : State) (ctx va n : Nat) : Option (List Byte) × State :=
  match s.ctxRead ctx va n with
  | (.ok b, s) => (some b, s)
  | (.error _, s) => (none, s)

/-- Bytes of a context's translated memory written by the Hamper, tags cleared; a page that cannot be written is
skipped. -/
def State.ctxWrite (s : State) (ctx va : Nat) (bs : List Byte) : State :=
  let pages := if bs = [] then 0 else (va + bs.length - 1) / 0x10000 - va / 0x10000 + 1
  (List.range pages).foldl (fun s i =>
    let lo := max va ((va / 0x10000 + i) * 0x10000)
    let hi := min (va + bs.length) ((va / 0x10000 + i + 1) * 0x10000)
    match s.xlate [.hub] ctx lo { w := true } with
    | (.error _, s) => s
    | (.ok pa, s) =>
      let part := (bs.drop (lo - va)).take (hi - lo)
      if isHost pa then s.hostStore ctx pa part else s.writeAt ctx pa part) s

/-! ## Footprints and dependences (R379, R399, R401) -/

/-- Two ranges [lo, hi) share a byte. -/
def meets (a b : Nat × Nat) : Bool := decide (a.1 < b.2) && decide (b.1 < a.2) && decide (a.1 < a.2) && decide (b.1 < b.2)
def meetsAny (xs ys : List (Nat × Nat)) : Bool := xs.any (fun a => ys.any (fun b => meets a b))

/-- The read and write ranges an LPB declares (R399). -/
def State.lpbFootprints (s : State) (ctx : Nat) (b : List Byte) : List (Nat × Nat) × List (Nat × Nat) :=
  let bs := (s.ctxBytes ctx (lpbFp b) (24 * lpbFpCount b)).1.getD []
  let es := (List.range (if lpbFpCount b = 0 then 0 else lpbFpCount b)).map (fun i =>
    let e := bs.drop (24 * i)
    (field e 0 8, field e 0 8 + field e 8 8, byteAt e 16))
  let rd := (es.filter (fun e => e.2.2 == 1 || e.2.2 == 3)).map (fun e => (e.1, e.2.1))
  let wr := (es.filter (fun e => e.2.2 == 2 || e.2.2 == 3)).map (fun e => (e.1, e.2.1))
  (if lpbIndirect b then (lpbIndAddr b, lpbIndAddr b + 4) :: rd else rd, wr)

/-- Whether a launch still waits for an earlier one of its queue (R401). -/
def State.launchBlocked (s : State) (l : Launch) : Bool :=
  match l.queue with
  | none => false
  | some q =>
    let f := s.lpbFootprints l.ctx l.lpb
    (mvals s.ham.launches).any (fun e =>
      e.st != .ended && e.ctx == l.ctx && e.queue == some q && decide (e.lid < l.lid) &&
        (let g := s.lpbFootprints e.ctx e.lpb
         meetsAny f.2 (g.1 ++ g.2) || meetsAny f.1 g.2))

/-! ## A launch's end -/

/-- A launch none of whose tasks is live or to come ends: it leaves its scope (R405, R406). -/
def State.settleLaunch (s : State) (lid : Nat) : State :=
  match s.launch? lid with
  | none => s
  | some l =>
    if l.st = .ready ∧ l.live = 0 ∧ l.retry = [] ∧ l.ranges.all (fun r => decide (r.2.2 ≤ r.2.1)) then
      let s := s.updL lid (fun l => { l with st := .ended, claim := [] })
      let s := if l.failed then s.scopeFail l.ctx (lpbScope l.lpb) else s
      (List.range (max l.children 1)).foldl (fun s _ => s.scopeSub l.ctx (lpbScope l.lpb)) s
    else s

/-- A launch entered in the Hamper's tables, held for its dependences (R401). -/
def State.newLaunch (s : State) (lpb : List Byte) (queue : Option Nat) (hostq : Bool) (ptrs : List Word)
    (children : Nat) (block : Option (Nat × Word × Word)) (die : Option Nat := none) : State :=
  let lid := s.ham.nextLid
  let l : Launch := {
    lid := lid, ctx := lpbCtx lpb, lpb := lpb, queue := queue, st := .held, level := lpbPrio lpb,
    since := s.cycle, count := 0, ranges := [], retry := [], live := 0, hostq := hostq, ptrs := ptrs,
    children := children, die := die, block := block, claim := [], dropped := false, failed := false, placeAt := s.cycle }
  { s with ham := { s.ham with launches := mset s.ham.launches lid l, nextLid := lid + 1 } }

/-- A launch taken from a queue, a node or a closed block: it counts in its scope from here (R405). -/
def State.addLaunch (s : State) (lpb : List Byte) (queue : Option Nat) (hostq : Bool)
    (block : Option (Nat × Word × Word)) : State :=
  (s.newLaunch lpb queue hostq [] 1 block).scopeAdd (lpbCtx lpb) (lpbScope lpb)

/-- A malformed LPB met by the Hamper: its scope fails, a FORMAT record of KIND 10 (R398). -/
def State.badLpb (s : State) (ctx : Nat) (lpb : List Byte) (off : Nat) : State :=
  (s.scopeFail ctx (lpbScope lpb)).formatRecord ctx 10 off

/-! ## Graph nodes (R408, R409) -/

/-- The live copy of a node, read from the context's table when first used. -/
def State.node (s : State) (ctx n : Nat) : Node × State :=
  let v := mget {} (s.getX ctx).nodes n
  if v.loaded then (v, s)
  else
    match s.ctxBytes ctx ((s.getX ctx).ccb.nodes + 32 * n) 32 with
    | (none, s) => ({ loaded := true }, s)
    | (some b, s) => ({ got := field b 12 4, st := byteAt b 16, loaded := true }, s)

/-- A node's live copy changed and written back (R408). -/
def State.setNode (s : State) (ctx n : Nat) (v : Node) : State :=
  let s := s.updX ctx (fun x => { x with nodes := mset x.nodes n v })
  let a := (s.getX ctx).ccb.nodes + 32 * n
  (s.ctxWrite ctx (a + 12) (leBytes v.got 4)).ctxWrite ctx (a + 16) (leBytes v.st 1)

/-- A node that has its signals reads its LPB and dispatches it (R408, GRAPH_NODE_DISPATCH). -/
def State.nodeDispatch (s : State) (ctx n : Nat) : State :=
  let (v, s) := s.node ctx n
  match s.ctxBytes ctx ((s.getX ctx).ccb.nodes + 32 * n) 32 with
  | (none, s) => s
  | (some b, s) =>
    if v.st ≤ 1 ∧ field b 8 4 ≤ v.got then
      let s := s.setNode ctx n { v with st := 2 }
      match s.ctxBytes ctx (field b 0 8) 128 with
      | (none, s) => s
      | (some lpb, s) =>
        match lpbBad lpb with
        | some off => s.badLpb ctx lpb off
        | none => s.addLaunch lpb none false none
    else s

/-- A signal delivered to a node (R409). -/
def State.signalNode (s : State) (ctx n : Nat) : State :=
  if (s.getX ctx).ccb.nodes = 0 then s
  else
    let (v, s) := s.node ctx n
    (s.setNode ctx n { v with got := (v.got + 1) % 2 ^ 32, st := if v.st = 0 then 1 else v.st }).nodeDispatch ctx n

/-- The graph node an edge signals (R399): byte e of the edge table. -/
def State.edgeNode (s : State) (l : Launch) (e : Nat) : Option Nat × State :=
  if lpbEdges l.lpb = 0 then (none, s)
  else match s.ctxBytes l.ctx (lpbEdges l.lpb + e) 1 with
    | (some [b], s) => (if b.toNat = 0xFF then none else some b.toNat, s)
    | (_, s) => (none, s)

/-- A node is cancelled, and every node its LPB's edge table reaches, recursively (R409); a node that holds its signals
or has dispatched runs. -/
def State.cancelNode (s : State) (ctx : Nat) : Nat → Nat → State
  | 0, _ => s
  | fuel + 1, n =>
    let (v, s) := s.node ctx n
    if 2 ≤ v.st then s
    else
      let s := s.setNode ctx n { v with st := 3 }
      match s.ctxBytes ctx ((s.getX ctx).ccb.nodes + 32 * n) 8 with
      | (none, s) => s
      | (some b, s) =>
        match s.ctxBytes ctx (field b 0 8) 128 with
        | (none, s) => s
        | (some lpb, s) =>
          if lpbEdges lpb = 0 then s
          else match s.ctxBytes ctx (lpbEdges lpb) 64 with
            | (none, s) => s
            | (some es, s) => es.foldl (fun s b => if b.toNat = 0xFF then s else s.cancelNode ctx fuel b.toNat) s

/-- The nodes of a failed task's withheld signals, those in none of its records, are cancelled (R409). -/
def State.withhold (s : State) (l : Launch) (signals : SMap Word) : State :=
  if lpbEdges l.lpb = 0 ∨ (s.getX l.ctx).ccb.nodes = 0 then s
  else match s.ctxBytes l.ctx (lpbEdges l.lpb) 64 with
    | (none, s) => s
    | (some es, s) =>
      (List.range 64).foldl (fun s e =>
        let b := byteAt es e
        if b = 0xFF ∨ (mvals signals).any (·.getLsbD e) then s else s.cancelNode l.ctx 256 b) s

/-! ## Dispatch (R401, R403) -/

/-- A launch's ranges at dispatch: one range on a die, or four (R403). (DEDUCED, log entry 32) -/
def splitRanges (shape n die : Nat) : List (Nat × Nat × Nat) :=
  if shape ≤ 2 then [(die, 0, n)]
  else
    let q := n / 4
    let r := n % 4
    (List.range 4).map (fun d => (d, d * q + min d r, (d + 1) * q + min (d + 1) r))

/-- The next index of a die's range (R403). A die's pieces stand in index order, so its first piece left holds the lowest. -/
def nextIndex (rs : List (Nat × Nat × Nat)) (die : Nat) : Option (Nat × List (Nat × Nat × Nat)) :=
  match rs.find? (fun r => r.1 == die && decide (r.2.1 < r.2.2)) with
  | some r => some (r.2.1, rs.map (fun x => if x = r then (x.1, x.2.1 + 1, x.2.2) else x))
  | none => none

/-- An index that returns to its die's range, in its place there (R403, R418). -/
def giveIndex : List (Nat × Nat × Nat) → Nat → Nat → List (Nat × Nat × Nat)
  | [], die, i => [(die, i, i + 1)]
  | r :: rs, die, i =>
    if r.1 = die ∧ r.2.1 < r.2.2 ∧ i + 1 = r.2.1 then (die, i, r.2.2) :: rs
    else if r.1 = die ∧ r.2.1 < r.2.2 ∧ i < r.2.1 then (die, i, i + 1) :: r :: rs
    else r :: giveIndex rs die i

/-- How many indices a die's range holds. -/
def rangeSize (rs : List (Nat × Nat × Nat)) (die : Nat) : Nat :=
  rs.foldl (fun n r => if r.1 = die then n + (r.2.2 - r.2.1) else n) 0

/-- The upper `k` indices of pieces given highest first: what stays, highest first, and what goes, lowest first. -/
def takeUpper : List (Nat × Nat × Nat) → Nat → List (Nat × Nat × Nat) × List (Nat × Nat × Nat)
  | [], _ => ([], [])
  | r :: rs, k =>
    if k = 0 then (r :: rs, [])
    else if r.2.2 - r.2.1 ≤ k then
      let x := takeUpper rs (k - (r.2.2 - r.2.1))
      (x.1, x.2 ++ [r])
    else ((r.1, r.2.1, r.2.2 - k) :: rs, [(r.1, r.2.2 - k, r.2.2)])

/-- RANGE_STEAL (R403): a die with none left takes the upper half of the largest range of another, of equals the lowest
die's. -/
def stealRange (rs : List (Nat × Nat × Nat)) (die : Nat) : List (Nat × Nat × Nat) :=
  if rangeSize rs die ≠ 0 then rs
  else
    match (List.range 4).foldl (fun (b : Option Nat) d => match b with
        | none => if d ≠ die ∧ 1 < rangeSize rs d then some d else none
        | some x => if d ≠ die ∧ rangeSize rs x < rangeSize rs d then some d else b) none with
    | none => rs
    | some v =>
      let x := takeUpper (rs.filter (fun r => r.1 == v)).reverse (rangeSize rs v / 2)
      rs.filter (fun r => r.1 != v && r.1 != die) ++ x.1.reverse ++ x.2.map (fun r => (die, r.2))

/-- A claim of an index for a die, with one steal (R403, R418). -/
def claimIndex (rs : List (Nat × Nat × Nat)) (die : Nat) : Option (Nat × List (Nat × Nat × Nat)) :=
  match nextIndex rs die with
  | some x => some x
  | none => nextIndex (stealRange rs die) die

end Sys2Proof.Machine
end

