-- ==== Sys2Proof/Machine/Queue.lean ====
section
/-!
DEFINITION. Record queues (R411 to R415): descriptors, blocks and their claims, commits, closes and releases, the
overflow region, and the end of a launch, which releases the block it consumed.
-/
namespace Sys2Proof.Machine

/-- The descriptor fields that software owns (R411). -/
structure QDesc where
  sizeLog : Nat
  cap : Nat
  t : Nat
  flags : Nat
  node : Nat
  ring : Nat
  tmpl : Nat
  deriving DecidableEq, Repr

def QDesc.launchq (d : QDesc) : Bool := bitOf d.flags 0
def QDesc.nosteal (d : QDesc) : Bool := bitOf d.flags 1
def QDesc.hostq (d : QDesc) : Bool := bitOf d.flags 2
def QDesc.recSize (d : QDesc) : Nat := 2 ^ d.sizeLog

def qdescOf (b : List Byte) : QDesc where
  sizeLog := field b 0 4 / 2 ^ 28
  cap := field b 0 4 % 2 ^ 28
  t := field b 4 2
  flags := byteAt b 6
  node := byteAt b 7
  ring := field b 8 8
  tmpl := field b 56 8

def qliveOf (b : List Byte) : QLive where
  head := field b 16 4
  tail := field b 20 4
  timer := field b 24 4
  senders := byteAt b 28
  reserve := field b 29 2
  pool := field b 32 4
  batch := BitVec.ofNat 32 (field b 36 4)
  ovfBase := field b 40 8
  ovfCap := field b 48 4
  ovfCount := field b 52 4
  hdrs := (List.range 16).map (fun i => (field b (64 + 4 * i) 4 / 2 ^ 16, field b (64 + 4 * i) 4 % 2 ^ 16))

/-- The first bad field of a descriptor (R411); launch queues have 128-byte records and one record a block (R397). -/
def qdescBad (d : QDesc) (l : QLive) (b : List Byte) : Option Nat :=
  if d.sizeLog < 4 ∨ 7 < d.sizeLog ∨ d.cap = 0 ∨ (d.t ≠ 0 ∧ d.cap % d.t ≠ 0) ∨ (d.launchq ∧ d.sizeLog ≠ 7) then some 0
  else if d.t = 0 ∨ 4096 < d.t ∨ (d.launchq ∧ d.t ≠ 1) then some 4
  else if 8 ≤ d.flags then some 6
  else if d.ring % d.recSize ≠ 0 then some 8
  else if l.senders = 0 ∨ 16 < l.senders then some 28
  else if d.t < l.reserve * l.senders then some 29
  else if byteAt b 31 ≠ 0 then some 31
  else none

/-- Bytes 16 to 55 of the descriptor as the Hamper writes them back (R411). -/
def QLive.bytes (l : QLive) : List Byte :=
  leBytes l.head 4 ++ leBytes l.tail 4 ++ leBytes l.timer 4 ++ leBytes l.senders 1 ++ leBytes l.reserve 2 ++ [0]
    ++ leBytes l.pool 4 ++ leBytes l.batch.toNat 4 ++ leBytes l.ovfBase 8 ++ leBytes l.ovfCap 4 ++ leBytes l.ovfCount 4
def QLive.hdrBytes (l : QLive) : List Byte :=
  (l.hdrs.map (fun h => leBytes (h.1 * 2 ^ 16 + h.2) 4)).foldr (· ++ ·) []

def State.queue? (s : State) (k : Nat) : Option RQueue := mfind s.ham.queues k
def State.setQueue (s : State) (k : Nat) (q : RQueue) : State :=
  { s with ham := { s.ham with queues := mset s.ham.queues k q } }
/-- The software-owned fields, read at each operation. -/
def State.queueDesc (s : State) (q : RQueue) : QDesc := qdescOf ((s.ctxBytes q.ctx q.ea 64).1.getD [])

/-- The live fields written back to the descriptor (R411). -/
def State.syncQueue (s : State) (k : Nat) : State :=
  match s.queue? k with
  | none => s
  | some q =>
    let b := q.live.bytes
    -- the tail of a HOSTQ queue is the host's
    let s := if (s.queueDesc q).hostq then (s.ctxWrite q.ctx (q.ea + 16) (b.take 4)).ctxWrite q.ctx (q.ea + 24) (b.drop 8)
             else s.ctxWrite q.ctx (q.ea + 16) b
    s.ctxWrite q.ctx (q.ea + 64) q.live.hdrBytes

/-- Slot offset `off` of block `b`: its number in the record count, and its address (R412). -/
def slotNo (d : QDesc) (b : Block) (off : Nat) : Nat := (b.no * d.t + off) % 2 ^ 32
def slotAddr (d : QDesc) (b : Block) (off : Nat) : Nat := d.ring + slotNo d b off % d.cap * d.recSize

/-- A block that opens (R412): reserve headers and pool cursor set. -/
def openBlock (l : QLive) (no : Nat) (batch : BitVec 32) : QLive × Block :=
  ({ l with
     pool := l.senders * l.reserve
     batch := batch
     hdrs := (List.range 16).map (fun i => if i < l.senders then (i * l.reserve, l.reserve) else (0, 0)) },
   { no := no, st := .opened, batch := batch, claims := [], freed := [], timer := none, flushAt := none, lateIn := false,
     released := false })

/-- The next block opens when none is open and the ring has room for it: every unreleased block counts (R412). -/
def RQueue.open' (q : RQueue) (d : QDesc) : RQueue :=
  if q.blocks.any (fun b => b.st == .opened) then q
  else if ((q.nextNo + 1) * d.t + 2 ^ 32 - q.live.head) % 2 ^ 32 ≤ d.cap then
    let r := openBlock q.live q.nextNo q.nextBatch
    { q with live := r.1, blocks := q.blocks ++ [r.2], nextNo := q.nextNo + 1, nextBatch := q.nextBatch + 1 }
  else q

/-- The active queue of the descriptor at a home address (R411). -/
def State.queueAt (s : State) (home : Nat) : Option (Nat × RQueue) := s.ham.queues.find? (fun e => e.2.home == home)

/-- A descriptor as the Hamper sees it: while its queue is active, the fields the Hamper owns are its live copy, but the tail of a
HOSTQ queue (R411). -/
def State.descNow (s : State) (home : Nat) (b : List Byte) : List Byte :=
  match s.queueAt home with
  | none => b
  | some q =>
    let l := q.2.live.bytes
    let own := if (qdescOf b).hostq then l.take 4 ++ (b.drop 20).take 4 ++ l.drop 8 else l
    b.take 16 ++ own ++ (b.drop 56).take 8 ++ q.2.live.hdrBytes

/-- Where a context's descriptor lies; its own address when that does not translate. -/
def State.queueHome (s : State) (ctx ea : Nat) : Nat × State :=
  match s.xlate [.hub] ctx ea { r := true } with
  | (.ok pa, s) => (pa, s)
  | (.error _, s) => (ea, s)

/-- The queue of a descriptor, made active at its first operation (R411): its key. -/
def State.activate (s : State) (ctx ea home : Nat) (b : List Byte) : Nat × State :=
  match s.queueAt home with
  | some e => (e.1, s)
  | none =>
    let k := mfresh s.ham.queues
    let d := qdescOf b
    let live := qliveOf b
    let q : RQueue := { ctx := ctx, ea := ea, home := home, nextNo := live.tail / d.t, nextBatch := live.batch, live := live, blocks := [], ovf := [], ovfNext := 0, lateOvf := [], flushed := 0, lates := [] }
    let q := if d.launchq then q else q.open' d
    let s := s.setQueue k q
    (k, if d.launchq then s else s.syncQueue k)

/-! ## Claims -/

/-- A slot of the open block for sender `snd` (R412): its reserve, the pool, or another's reserve. -/
def claimSlot (d : QDesc) (l : QLive) (b : Block) (snd : Nat) : Option (Nat × QLive × Block) :=
  let h := l.hdrs.getD snd (0, 0)
  if 0 < h.2 then some (h.1, { l with hdrs := l.hdrs.set snd (h.1 + 1, h.2 - 1) }, b)
  else match b.freed with
  | o :: r => some (o, l, { b with freed := r })
  | [] =>
    if l.pool < d.t then some (l.pool, { l with pool := l.pool + 1 }, b)
    else if d.nosteal then none
    else match (List.range l.senders).find? (fun i => i ≠ snd && decide (0 < (l.hdrs.getD i (0, 0)).2)) with
      | some i =>
        let v := l.hdrs.getD i (0, 0)
        some (v.1 + v.2 - 1, { l with hdrs := l.hdrs.set i (v.1, v.2 - 1) }, b)
      | none => none

/-- What a claim gives: a slot of a block, an overflow index, or nothing (R412, R414). -/
inductive Claim | slot (block off : Nat) | ovf (idx : Nat) | full
  deriving DecidableEq, Repr

/-- Who claims: a context's sender, as a claim keeps it (R412, R423). -/
def claimant (ctx snd : Nat) : Nat := 16 * ctx + snd
def senderOf (who : Nat) : Nat := who % 16
def contextOf (who : Nat) : Nat := who / 16

/-- A claim by a sender (R412, R414): the open block, unless overflow holds records or no block is open. -/
def RQueue.claim (q : RQueue) (d : QDesc) (who : Nat) : Claim × RQueue :=
  let q := q.open' d
  let spill : Claim × RQueue :=
    if q.live.ovfCount < q.live.ovfCap then
      (.ovf q.ovfNext, { q with ovf := q.ovf ++ [(q.ovfNext, who, false)], ovfNext := q.ovfNext + 1,
                                live := { q.live with ovfCount := q.live.ovfCount + 1 } })
    else (.full, q)
  if q.live.ovfCount ≠ 0 then spill
  else match q.blocks.find? (fun b => b.st == .opened) with
    | none => spill
    | some b =>
      match claimSlot d q.live b (senderOf who) with
      | none => (.full, q)
      | some (off, l, b') =>
        let b' := { b' with claims := b'.claims ++ [(off, who, false)] }
        let b' := if b'.claims.length = d.t then { b' with st := .claimed } else b'
        let q := { q with live := l, blocks := q.blocks.map (fun (x : Block) => if x.no = b.no then b' else x) }
        (.slot b.no off, q.open' d)

/-! ## Closing and releasing -/

/-- The head advances past released blocks, oldest first (R415, R425), and a block that lacked room may open. -/
def RQueue.advance (q : RQueue) (d : QDesc) : Nat → RQueue
  | 0 => q
  | fuel + 1 =>
    match q.blocks with
    | b :: r =>
      if b.released then
        RQueue.advance ({ q with blocks := r, live := { q.live with head := (b.no + 1) * d.t % 2 ^ 32 } }) d fuel
      else q.open' d
    | [] => q.open' d

/-- The end of the leading closed blocks: where the tail stands (R413). -/
def RQueue.tailAt (q : RQueue) (d : QDesc) : Nat :=
  match (q.blocks.takeWhile (fun b => b.st == .closed)).getLast? with
  | some b => (b.no + 1) * d.t % 2 ^ 32
  | none => q.live.tail

/-- BLOCK_CLOSE (R413): EMPTY records in every slot not committed, the tail advances, the next block opens, and a
template launches its consumer in the same update (R415). -/
def State.closeBlock (s : State) (k no : Nat) : State :=
  match s.queue? k with
  | none => s
  | some q =>
    match q.blocks.find? (fun b => b.no == no) with
    | none => s
    | some b =>
      if b.st = .closed then s
      else
        let d := s.queueDesc q
        let offs := List.range d.t
        let s := offs.foldl (fun s o =>
          if b.claims.any (fun c => c.1 == o && c.2.2) then s
          else s.ctxWrite q.ctx (slotAddr d b o) (List.replicate 5 0 ++ [1] ++ List.replicate (d.recSize - 6) 0)) s
        let b' := { b with
          st := .closed, timer := none, flushAt := none }
        let q := { q with blocks := q.blocks.map (fun (x : Block) => if x.no = no then b' else x)
                          flushed := if b.flushAt.isSome then q.flushed + 1 else q.flushed
                          lates := q.lates ++ (b.claims.filter (fun (c : Nat × Nat × Bool) => !c.2.2)).map
                            (fun (c : Nat × Nat × Bool) => (b.batch, slotNo d b c.1, c.2.1)) }
        let q := { q with live := { q.live with tail := q.tailAt d } }
        let q := q.open' d
        let s := (s.setQueue k q).syncQueue k
        if d.tmpl = 0 then s
        else match s.ctxBytes q.ctx d.tmpl 128 with
          | (none, s) => s
          | (some lpb, s) =>
            match lpbBad lpb with
            | some off => s.badLpb q.ctx lpb off
            | none => s.addLaunch lpb none false
                (some (k, BitVec.ofNat 64 (slotAddr d b 0), b.batch.setWidth 64))

/-- A committed block with every slot claimed and committed closes (R413). -/
def State.closeIfFull (s : State) (k no : Nat) : State :=
  match s.queue? k with
  | none => s
  | some q =>
    match q.blocks.find? (fun b => b.no == no) with
    | none => s
    | some b => if b.claims.length = (s.queueDesc q).t ∧ b.claims.all (fun c => c.2.2) then s.closeBlock k no else s

/-- A record written into a claimed slot and committed (R413): byte 5 bit 0 cleared; the first commit starts the timer. -/
def State.commitSlot (s : State) (k no off : Nat) (rec : List Byte) : State :=
  match s.queue? k with
  | none => s
  | some q =>
    match q.blocks.find? (fun b => b.no == no) with
    | none => s
    | some b =>
      let d := s.queueDesc q
      let rec' := rec.set 5 (rec.getD 5 0 &&& 0xFE)
      let s := s.ctxWrite q.ctx (slotAddr d b off) rec'
      let b' := { b with
        claims := b.claims.map (fun c => if c.1 = off then (c.1, c.2.1, true) else c)
        timer := if b.claims.all (fun c => !c.2.2) then some s.cycle else b.timer }
      (s.setQueue k { q with blocks := q.blocks.map (fun (x : Block) => if x.no = no then b' else x) }).closeIfFull k no

/-- Address of overflow record `i` (R414). -/
def ovfAddr (d : QDesc) (l : QLive) (i : Nat) : Nat := l.ovfBase + i % max l.ovfCap 1 * d.recSize

/-- Committed overflow records move in order into ring blocks as room appears (R414). -/
def State.moveOvf (s : State) (k : Nat) : Nat → State
  | 0 => s
  | fuel + 1 =>
    match s.queue? k with
    | none => s
    | some q =>
      match q.ovf with
      | (i, who, true) :: rest =>
        let d := s.queueDesc q
        let q := q.open' d
        match q.blocks.find? (fun b => b.st == .opened) with
        | none => s
        | some b =>
          match claimSlot d q.live b (senderOf who) with
          | none => s
          | some (off, l, b') =>
            match s.ctxBytes q.ctx (ovfAddr d q.live i) d.recSize with
            | (none, s) => s
            | (some rec, s) =>
              let b' := { b' with claims := b'.claims ++ [(off, who, false)], lateIn := b'.lateIn || q.lateOvf.contains i }
              let b' := if b'.claims.length = d.t then { b' with st := .claimed } else b'
              let q := { q with
                ovf := rest
                lateOvf := q.lateOvf.erase i
                live := { l with ovfCount := l.ovfCount - 1 }
                blocks := q.blocks.map (fun (x : Block) => if x.no = b.no then b' else x) }
              ((s.setQueue k (q.open' d)).commitSlot k b.no off rec).moveOvf k fuel
      | _ => s

/-- After a release or an opening: blocks open, overflow moves in, the descriptor is written back. -/
def State.settleQueue (s : State) (k : Nat) : State :=
  match s.queue? k with
  | none => s
  | some q =>
    let d := s.queueDesc q
    let s := s.setQueue k (q.advance d (q.blocks.length + 1))
    (s.moveOvf k (q.ovf.length + 1)).syncQueue k

/-- A block released (R415, R425): a dequeue in the sense of R414. -/
def State.releaseBlock (s : State) (k : Nat) (batch : BitVec 32) : State :=
  match s.queue? k with
  | none => s
  | some q =>
    let s := s.setQueue k { q with blocks := q.blocks.map (fun b =>
      if b.batch = batch ∧ b.st = .closed then { b with released := true } else b) }
    (s.updX q.ctx (fun x => { x with deqAt := s.cycle })).settleQueue k

/-- The end of a launch, and the release of the block it consumed (R415). -/
def State.finishLaunch (s : State) (lid : Nat) : State :=
  let s := s.settleLaunch lid
  match s.launch? lid with
  | some l =>
    if l.st = .ended then
      let s := { s with ham := { s.ham with launches := merase s.ham.launches lid } }
      match l.block with
      | some (k, _, batch) => s.releaseBlock k (batch.setWidth 32)
      | none => s
    else s
  | none => s

/-! ## Claims and commits of the queue instructions and the Sieve -/

/-- A claim at an active queue, written back (R412, R414). (DEDUCED, log entry 35) -/
def State.claimOn (s : State) (k who : Nat) : Claim × State :=
  match s.queue? k with
  | none => (.full, s)
  | some q =>
    let r := q.claim (s.queueDesc q) who
    (r.1, (s.setQueue k r.2).syncQueue k)

/-- A claim's record committed: in its slot, or in the overflow region (R413, R414). -/
def State.commitOn (s : State) (k : Nat) (c : Claim) (rec : List Byte) : State :=
  match c with
  | .slot no off => (s.commitSlot k no off rec).settleQueue k
  | .full => s
  | .ovf i =>
    match s.queue? k with
    | none => s
    | some q =>
      let s := s.ctxWrite q.ctx (ovfAddr (s.queueDesc q) q.live i) (rec.set 5 (rec.getD 5 0 &&& 0xFE))
      let s := s.setQueue k { q with ovf := q.ovf.map (fun (x : Nat × Nat × Bool) => if x.1 = i then (i, x.2.1, true) else x) }
      s.settleQueue k

/-- A record that enters a block late, or the overflow on its way to one, is noted there, for QFLUSH (R413, R426). -/
def State.noteLate (s : State) (k : Nat) (c : Claim) : State :=
  match c, s.queue? k with
  | .slot no _, some q => s.setQueue k { q with blocks := q.blocks.map (fun (x : Block) => if x.no = no then { x with lateIn := true } else x) }
  | .ovf i, some q => s.setQueue k { q with lateOvf := q.lateOvf ++ [i] }
  | _, _ => s

/-- Whether a claim by a sender in the open block would steal, in a cycle in which the flush timer closes that block: it has run
out, and no claimed slot is uncommitted or CTO cycles more have passed (R412, R413, E1). -/
def RQueue.racing (q : RQueue) (d : QDesc) (snd now cto : Nat) : Bool :=
  decide (q.live.ovfCount = 0) && !d.nosteal && decide ((q.live.hdrs.getD snd (0, 0)).2 = 0) && decide (d.t ≤ q.live.pool) &&
    q.blocks.any (fun b => b.st == .opened && b.freed.isEmpty &&
      (match b.timer with
        | some t => decide (q.live.timer ≠ 0) && decide (t + q.live.timer ≤ now) &&
            (b.claims.all (fun c => c.2.2) || decide (t + q.live.timer + cto ≤ now))
        | none => false))

/-- A record whose claim raced with the close of its block: it lands in that block, which closes then, or LATE in a later one
(R413, R521). (DEDUCED, log entry 48) -/
def State.commitRaced (s : State) (k no off who : Nat) (rec : List Byte) : State :=
  let here := ((s.commitSlot k no off rec).closeBlock k no).settleQueue k
  let t := s.closeBlock k no
  let t := match t.queue? k with
    | some q => t.setQueue k { q with lates := q.lates.dropLast }
    | none => t
  match t.claimOn k who with
  | (.full, _) => here
  | (c, u) => if s.pick 0x601 2 = 0 then here else (u.noteLate k c).commitOn k c rec

/-! ## Step tables (R429 to R432) -/

/-- The first bad byte of a step record at offset `r` (R431). -/
def stepRecBad (h : List Byte) (r : Nat) : Option Nat :=
  if 16 ≤ byteAt h (r + 21) then some (r + 21)
  else match nonzeroIn h (r + 22) (r + 23) with
  | some i => some i
  | none => if 31 < byteAt h (r + 24) then some (r + 24) else nonzeroIn h (r + 25) (r + 31)

/-- The first bad byte of a step header and its records (R430, R431). -/
def stepHeaderBad (h : List Byte) (width : Nat) : Option Nat :=
  if field h 0 2 ≠ width then some 0
  else if 2 ≤ byteAt h 2 then some 2
  else if byteAt h 3 ≠ 0 then some 3
  else if field h 8 8 % 16 ≠ 0 then some 8
  else match nonzeroIn h 16 63 with
  | some i => some i
  | none => (List.range width).findSome? (fun m => stepRecBad h (64 + 32 * m))

/-- The domains of a domain table (R432). -/
def stepDomains (tab : List Byte) : SMap Domain :=
  (List.range 32).filterMap (fun d =>
    let e := tab.drop (16 * d)
    if field e 2 2 = 0 then none
    else some (d, { first := field e 0 2, count := field e 2 2, stride := field e 4 2, bar := { count := field e 2 2 } }))

/-- The first bad byte of a domain table (R432). Members at or beyond the width, in a lower domain as well, or missing from
the domain their record names are bad at the entry's first byte. (DESIGN CHOICE, log entry 62) -/
def stepTableBad (tab : List Byte) (width : Nat) (named : List Nat) : Option Nat :=
  let doms := stepDomains tab
  let bad := fun (d : Nat) =>
    let e := tab.drop (16 * d)
    let holds := fun (m : Nat) => (mfind doms d).any (fun x => (x.rank m).isSome)
    let used := decide (field e 2 2 ≠ 0)
    let open' := used && decide (field e 4 2 = 0)
    if used && decide (width ≤ field e 0 2 + (field e 2 2 - 1) * field e 4 2) then some (16 * d)
    else if !open' && (List.range width).any (fun m => holds m && doms.any (fun y => decide (y.1 < d) && (y.2.rank m).isSome))
    then some (16 * d)
    else if !open' && ((List.range width).zip named).any (fun x => x.2 == d && !holds x.1) then some (16 * d)
    else if open' then some (16 * d + 4)
    else (nonzeroIn e 6 15).map (16 * d + ·)
  (List.range 32).findSome? bad

/-- The step tables of a launch as dispatch reads them, or the KIND and offset of what is malformed (R429); a table that
cannot be read is malformed at offset 0. -/
def State.readPlan (s : State) (ctx : Nat) (lpb : List Byte) : Except (Nat × Nat) StepPlan × State :=
  let w := lpbWidth lpb
  match s.ctxBytes ctx (lpbStep lpb) (64 + 32 * w) with
  | (none, s) => (.error (12, 0), s)
  | (some h, s) =>
    match stepHeaderBad h w with
    | some off => (.error (12, off), s)
    | none =>
      match s.ctxBytes ctx (field h 8 8) 512 with
      | (none, s) => (.error (13, 0), s)
      | (some tab, s) =>
        let recs := (List.range w).map (fun m =>
          let x := field h (64 + 32 * m + 16) 8
          (byteAt h (64 + 32 * m + 24), if bitsOf x 43 36 = 0 then 16 else bitsOf x 43 36))
        match stepTableBad tab w (recs.map Prod.fst) with
        | some off => (.error (13, off), s)
        | none => (.ok {
            strict := bitOf (byteAt h 2) 0, timeout := if field h 4 4 = 0 then 0x100000 else field h 4 4
            doms := stepDomains tab, recs := recs }, s)

/-! ## Dispatch -/

/-- A launch held for its dependences is dispatched when they are met and its context may be served (R401, R416, R463): its
count is fixed, a step-mode launch's tables are read (R429), its ranges are set, and one of zero tasks completes at once
(R406). The die of a one-die shape is the one a merged launch stands at (R410), otherwise a free choice. -/
def State.dispatch (s : State) (lid : Nat) : State :=
  match s.launch? lid with
  | none => s
  | some l =>
    if l.st ≠ .held ∨ s.launchBlocked l ∨ (s.getX l.ctx).stage ≠ 0 ∨ (s.getX l.ctx).exh ≠ 0 then s
    else
      let (count, s) :=
        if l.dropped then (0, s)
        else if lpbIndirect l.lpb then
          match s.ctxBytes l.ctx (lpbIndAddr l.lpb) 4 with
          | (some b, s) => (leNat b, s)
          | (none, s) => (0, s)
        else if l.ptrs = [] then (lpbCount l.lpb, s) else (l.ptrs.length, s)
      let ready := fun (s : State) (n : Nat) (plan : Option StepPlan) => (s.updL lid (fun l => { l with
          st := .ready, count := n, since := s.cycle, placeAt := s.cycle, plan := plan
          ranges := if l.dropped then [] else splitRanges (lpbShape l.lpb) n (l.die.getD (s.pick 0x200 4)) })).finishLaunch lid
      if lpbStep l.lpb = 0 ∨ l.dropped then ready s count none
      else if count ≠ 1 then ready (s.badLpb l.ctx l.lpb 8) 0 none
      else match s.readPlan l.ctx l.lpb with
        | (.ok plan, s) => ready s 1 (some plan)
        | (.error x, s) => ready ((s.scopeFail l.ctx (lpbScope l.lpb)).formatRecord l.ctx x.1 x.2) 0 none

end Sys2Proof.Machine
end

