-- ==== Sys2Proof/Machine/Kill.lean ====
section
/-!
DEFINITION. Task boundaries and containment: what a core receives between tasks (R400, R489, R494), a member's and a
task's end (R417), the kill of a task and its retry (R459 to R462), halting (R453), scope cancellation (R407) and the
forced reset of a context (R463).
-/
namespace Sys2Proof.Machine

/-! ## Between tasks -/

/-- Words written into a core's instruction store at a task boundary, where fetch sees them at once (R184, R186); so does the system
code of a core that runs no task. (DESIGN CHOICE, log entry 83) -/
def State.putCode (s : State) (n first : Nat) (ws : List Word) : State :=
  { s.replaced (istoreKey n (8 * first)) (8 * ws.length) with mem := writeBytes s.mem (istoreKey n (8 * first)) ((ws.map (fun w => leBytes w.toNat 8)).foldr (· ++ ·) []) }

/-- CODE_LOAD_WRITE (R400): the code loads a core has not received, in order. -/
def State.receiveCode (s : State) (n : Nat) : State :=
  let s := s.ham.loads.foldl (fun s l => if l.done.contains n then s else s.putCode n l.first l.words) s
  { s with ham := { s.ham with loads := s.ham.loads.map (fun l => { l with done := nins n l.done }) } }

/-- A core's switch to the newest husk set (R494): slots, hooks, rewrite entries, emulation code; RETRY counters
cleared. -/
def State.huskSwitch (s : State) (n : Nat) : State :=
  let set := s.sec.newest
  if (s.getC n).husk = set ∨ (s.getC n).run = .halted then s
  else
    let put := fun (s : State) (im : Option Image) => match im with
      | some i => s.putCode n i.blobAt i.blob
      | none => s
    let s := put (put s set.vendor) set.owner
    s.updC n (fun c => { c with husk := set, retries := 0 })

/-- A task boundary of a core: pending code loads and a pending husk switch. -/
def State.boundary (s : State) (n : Nat) : State :=
  let s := if s.ham.loads = [] then s else s.receiveCode n
  s.huskSwitch n

/-! ## Entries and jobs of a core or task -/

/-- The passes that run for a core complete, a list with the pass that runs (R459). -/
def State.endPasses (s : State) (n : Nat) : State :=
  (List.range 6).foldl (fun s x =>
    let me := meOfIndex n x
    ((s.getM me).entries.filter (fun e => e.core == n && e.started)).foldl (fun s e => s.completeEntry me e) s) s

/-- Accepted entries of a core that have not started are removed (R459). -/
def State.dropEntries (s : State) (n : Nat) : State :=
  (List.range 6).foldl (fun s x =>
    let me := meOfIndex n x
    ((s.getM me).entries.filter (fun e => e.core == n && !e.started)).foldl (fun s e => s.freeEntry me e.id) s) s

/-- Jobs a task's members posted are cancelled (R392, R459). -/
def State.cancelJobsOf (s : State) (p : Job → Bool) : State :=
  (mvals s.jobs).foldl (fun s j => if p j then s.endJob j.id .cancelled else s) s

/-! ## The end of a member and of a task -/

/-- Cores on which tasks of a context stand. -/
def State.busyCores (s : State) (ctx : Nat) : Nat :=
  (s.cores.filter (fun e => decide (e.1 < nCores) && e.2.task.isSome && e.2.ctx == ctx)).length
/-- The core-cycles a context's tasks have occupied are charged up to now (R416). -/
def State.chargeCores (s : State) (ctx : Nat) : State :=
  let n := s.busyCores ctx
  s.updX ctx (fun x => { x with usedCore := x.usedCore + n * (s.cycle - x.chargedAt), chargedAt := s.cycle })

/-- A core that no longer runs a task; what a saved task kept goes. -/
def State.freeCore (s : State) (n : Nat) : State :=
  let s := if (s.getC n).task.isSome then s.chargeCores (s.getC n).ctx else s
  let s := s.dissolve n
  -- deposits that wait here find nobody (R231)
  let s := (s.getC n).asyncs.foldl (fun s x => s.remoteRecord (s.getC x.1).ctx x.2.2.2) s
  let s := s.updC n (fun c => { c with
    run := .idle, task := none, wait := none, woken := none, latch := {}, rewriteQ := [], replayQ := [], loads := []
    asyncs := [], prods := [], tokens := [], mchk := none, stack := [], stepOn := false, arrived := false, delayed := false })
  if n < nCores then s.boundary n
  else { s with cores := merase s.cores n, mem := s.mem.filter (fun x => !(decide (spadKey n 0 ≤ x.1) && decide (x.1 < spadKey (n + 1) 0))) }

/-- A task whose last member has ended leaves its launch (R417). -/
def State.settleTask (s : State) (tid : Nat) : State :=
  match s.task? tid with
  | none => s
  | some t =>
    if t.mem.all (fun m => !m.2.2) then
      let s := { s with ham := { s.ham with tasks := merase s.ham.tasks tid } }
      if t.killed then s
      else (s.updL t.lid (fun l => { l with live := l.live - 1 })).finishLaunch t.lid
    else s

/-- A member's own part ends: it no longer holds its core (R165, R417). -/
def State.endMember (s : State) (n : Nat) : State :=
  match (s.getC n).task with
  | none => s.freeCore n
  | some tid =>
    let s := s.updT tid (fun t => { t with mem := t.mem.map (fun m => if m.2.1 = n then (m.1, m.2.1, false) else m) })
    (s.freeCore n).settleTask tid

/-- Indices a task claimed return to their die's range (R418). -/
def returnClaims (rs : List (Nat × Nat × Nat)) (cs : List (Nat × Nat)) : List (Nat × Nat × Nat) :=
  cs.foldl (fun rs c => giveIndex rs c.1 c.2) rs

/-- TASK_KILL and TASK_RETRY (R459 to R462): every member stops, queued stores drain, outstanding loads are dropped,
passes that run complete, other entries and jobs go, one record is written, and the task is tried again or its scope fails. -/
def State.killTask (s : State) (tid : Nat) (killer : Option Nat) (cause : BitVec 8) (noRetry : Bool) : State :=
  match s.task? tid with
  | none => s
  | some t =>
    let cores := (t.mem.filter (fun m => m.2.2)).map (fun m => m.2.1)
    let who := match killer with | some n => n | none => cores.headD 0
    let epc := (s.getC who).tr.epc
    let einfo := (s.getC who).tr.einfo
    let s := cores.foldl (fun s n => (((s.drainAll n).flushStack n).endPasses n).dropEntries n) s
    let s := s.cancelJobsOf (fun j => j.task == some tid || j.posters.any (fun p => cores.contains p.1 &&
      ((mfind (s.getC p.1).jobs p.2.1).bind (·.job)) == some j.id))
    let s := cores.foldl (fun s n => s.freeCore n) s
    let s := { s with ham := { s.ham with
      tasks := merase s.ham.tasks tid, saved := s.ham.saved.filter (fun (x : Saved) => x.tid != tid) } }
    match s.launch? t.lid with
    | none => s
    | some l =>
      let again := lpbIdem l.lpb && decide (t.attempt < lpbRetry l.lpb) && !noRetry && !l.dropped
      let s := s.faultRecord t.ctx (record t.index cause 0xFE 0 (if again then 1 else 2) l.lid epc.toNat einfo.toNat)
      let s := s.updL l.lid (fun l => { l with ranges := if l.dropped then l.ranges else returnClaims l.ranges t.claims })
      if again then s.updL l.lid (fun l => { l with retry := l.retry ++ [(t.index, t.attempt, t.signals)], live := l.live - 1 })
      else
        let s := s.updL l.lid (fun l => { l with live := l.live - 1, failed := true })
        let s := s.scopeFail l.ctx (lpbScope l.lpb)
        (s.withhold l t.signals).finishLaunch l.lid

/-- CORE_HALT (R453): the core stops, its queue drains, the host is told. (DEDUCED, log entry 24) -/
def State.haltCore (s : State) (n : Nat) (cause : BitVec 8) : State :=
  let s := s.drainAll n
  let s := s.updC n (fun c => { c with run := .halted, wait := none, latch := {}, husk := {} })
  s.notice 0xFF ([4] ++ leBytes n 2 ++ [cause])

/-- A double fault or a system MCHECK: the task is killed, or a core without one halts (R452, R453). -/
def State.killOrHalt (s : State) (n : Nat) (cause : BitVec 8) : State :=
  match (s.getC n).task with
  | some tid => s.killTask tid (some n) cause false
  | none => s.haltCore n cause

/-! ## Cancellation (R407) -/

/-- A launch not yet started is dropped, and the remaining indices of a started one. -/
def State.dropLaunch (s : State) (lid : Nat) : State :=
  match s.launch? lid with
  | none => s
  | some l =>
    let s := s.updL lid (fun l => { l with dropped := true, ranges := [], retry := [], claim := [] })
    match l.st with
    | .held => (s.updL lid (fun l => { l with st := .ready })).finishLaunch lid
    | _ => s.finishLaunch lid

/-- CANCELF set on every core of a task, from which its cancel deadline runs (R407, R474). -/
def State.cancelTask (s : State) (tid : Nat) : State :=
  match s.task? tid with
  | none => s
  | some t =>
    let s := s.updT tid (fun t => { t with canAt := if t.canAt.isNone then some s.cycle else t.canAt })
    t.mem.foldl (fun s m => if m.2.2 then s.updC m.2.1 (fun c => { c with
      cancelf := true, woken := if c.wait = some .idle then some 1 else c.woken }) else s) s

/-- Offers that wait for their window to close are launches not yet started: each leaves its scope's COUNT (R407, R410). -/
def State.dropOffers (s : State) (p : Offer → Bool) : State :=
  let gone := s.ham.offers.filter p
  gone.foldl (fun s o => o.ptrs.foldl (fun s _ => s.scopeSub (lpbCtx o.lpb) (lpbScope o.lpb)) s)
    { s with ham := { s.ham with offers := s.ham.offers.filter (fun o => !p o) } }

/-- Cancelling a scope (R407): CAN on it and every descendant, launches dropped, jobs cancelled, tasks told. -/
def State.cancelScope (s : State) (ctx n : Nat) : State :=
  let under := fun (s : State) (k : Nat) => s.scopeUnder ctx n 257 k
  let hit := (List.range 256).filter (fun k => (s.getScope ctx k).st != .free && under s k)
  let s := hit.foldl (fun s k =>
    let f := s.getScope ctx k
    s.setScope ctx k { f with can := true, canAt := if f.can then f.canAt else s.cycle }) s
  let s := (mvals s.ham.tasks).foldl (fun s t => match s.launch? t.lid with
    | some l => if l.ctx = ctx ∧ hit.contains (lpbScope l.lpb) then s.cancelTask t.tid else s
    | none => s) s
  let s := (mvals s.ham.launches).foldl (fun s l =>
    if l.ctx = ctx ∧ hit.contains (lpbScope l.lpb) then s.dropLaunch l.lid else s) s
  let s := s.dropOffers (fun o => lpbCtx o.lpb == ctx && hit.contains (lpbScope o.lpb))
  s.cancelJobsOf (fun j => j.ctx == ctx && (match j.fs with | some k => hit.contains k | none => false) &&
    (j.st == .queued || j.st == .parked))

/-- The forced reset of a context (R463, stage 3): tasks killed without retry, jobs cancelled, root scopes FAILED, the
host told. -/
def State.forceReset (s : State) (ctx : Nat) : State :=
  let roots := (List.range 256).filter (fun k =>
    let f := s.getScope ctx k; f.parent == 0xFF && (f.st == .opened || f.st == .closed))
  let s := roots.foldl (fun s k => s.setScope ctx k { s.getScope ctx k with st := .failed, fail := true }) s
  let s := (mvals s.ham.tasks).foldl (fun s t => if t.ctx = ctx then s.killTask t.tid none Cause.cancel.code true else s) s
  let s := s.cancelJobsOf (fun j => j.ctx == ctx)
  let s := { s with ham := { s.ham with
    launches := s.ham.launches.filter (fun e => e.2.ctx != ctx), offers := s.ham.offers.filter (fun o => lpbCtx o.lpb != ctx) } }
  let s := roots.foldl (fun s k =>
    (s.wakeWhere (fun _ w => w == .scope ctx k) (s.getScope ctx k).word).reportRoot ctx k .failed) s
  (s.updX ctx (fun x => { x with stage := 0, asked := false })).notice ctx [1]

end Sys2Proof.Machine
end

