-- ==== Sys2Proof/Machine/Ops.lean ====
section
/-!
DEFINITION. The shared operations of execution: taking a trap (R450 to R453, R484, R485), delivering an imprecise one
(R456), returning (R458, R473), completing a word (R43, R126, R135), waiting at a word, and running an effect.
-/
namespace Sys2Proof.Machine

/-! ## Fault hooks (R484, R485) -/

/-- The hooks of a core's set with their package-wide numbers: vendor 4 to 7, owner 0 to 3 (R478). -/
def HuskSet.hooks (h : HuskSet) : List (Nat × HHook) :=
  (match h.owner with | some i => i.hooks.map (fun k => (k.idx, k)) | none => []) ++
  (match h.vendor with | some i => i.hooks.map (fun k => (k.idx + 4, k)) | none => [])

/-- The matching hook of highest priority, a tie to the higher number. -/
def Core.hookFor (c : Core) (cause : BitVec 8) (cls : Nat) (epc : BitVec 12) : Option HHook :=
  (c.husk.hooks.foldl (fun (b : Option (Nat × HHook)) h =>
    let ok := h.2.cause == cause && h.2.classes.getLsbD cls && h.2.filter.getLsbD (if c.sys then 1 else 0)
      && (!h.2.pcr || (decide (h.2.lo ≤ epc.toNat) && decide (epc.toNat ≤ h.2.hi)))
    if !ok then b
    else match b with
      | none => some h
      | some x => if x.2.prio < h.2.prio ∨ (x.2.prio = h.2.prio ∧ x.1 < h.1) then some h else b) none).map Prod.snd

/-! ## Trap entry -/

/-- A trap at entry: what the trap registers are to hold (R450, R451). -/
structure Entry where
  cause : BitVec 8
  cls : Nat := 0
  imp : Bool := false
  epc : BitVec 12
  half : Bool := false
  eword : Word
  einfo : Word
  eseq : BitVec 32
  goto : Option (BitVec 12) := none
  deriving DecidableEq, Repr

/-- ECAUSE (R451). -/
def Entry.ecause (e : Entry) : Word :=
  BitVec.ofNat 64 (e.cls * 1024 + (if e.imp then 256 else 0) + e.cause.toNat)

/-- The trap registers written, system mode entered, the handler's address (R450). A member's stream stays where it
stands; its weave is held (R132, R145). -/
def Core.enter (c : Core) (e : Entry) : Core :=
  { c with
    tr := { c.tr with
      epc := e.epc, ehalf := e.half, pm := c.sys, exl := true, ecause := e.ecause, eword := e.eword, einfo := e.einfo
      eseq := e.eseq.setWidth 64, pend := c.tr.pend && !e.imp }
    sys := true
    pc := e.goto.getD c.tr.trapvec
    latch := {}, rewriteQ := [], replayQ := [], wait := none, woken := none, delayed := false
    w := { c.w with
      rdvh := none
      handler := if (c.w.st = .member ∨ c.w.st = .dormant ∨ c.w.st = .waiting) ∧ c.w.handler.isNone then some true else c.w.handler } }

/-- A core's wait for its fixed-latency producers (R54). -/
def State.awaitProducers (s : State) : State :=
  let at' := s.c.allDue s.cycle
  ({ s with cycle := at' }).upd Core.completeAll

/-- TRAP_ENTRY (R450): after the wait of R54, a double fault or a system MCHECK kills or halts (R452, R453), a hook may
act (R485), and the core enters its handler. -/
def State.takeTrap (s : State) (e : Entry) : State :=
  let s := s.awaitProducers
  let c := s.c
  if c.tr.exl then s.killOrHalt s.cur e.cause
  else if e.cause = Cause.mcheck.code ∧ c.sys then s.killOrHalt s.cur e.cause
  else match c.hookFor e.cause e.cls e.epc with
  | none => s.upd (·.enter e)
  | some h =>
    match h.action with
    | 1 => s.upd (·.enter { e with goto := some (h.arg.setWidth 12) })
    | 2 => s.upd (·.enter { e with cause := h.arg.setWidth 8, goto := none })
    | 3 =>
      let n := if c.retryPc = e.epc then c.retries else 0
      if e.imp ∨ bitsOf h.arg.toNat 23 16 ≤ n then (s.upd (fun c => { c with retries := 0 })).upd (·.enter e)
      else s.upd (fun c => { c with
        retries := n + 1, retryPc := e.epc, latch := {}, rewriteQ := [], wait := none, woken := none
        readyAt := max c.readyAt (s.cycle + bitsOf h.arg.toNat 15 0) })
    | 4 =>
      if h.target = 0 then s.upd (·.enter { e with einfo := e.einfo + h.add })
      else if !e.imp then s.upd (·.enter e)
      else (s.upd (fun c => { c with ring := match mfind c.ring (e.eseq.toNat % 64) with
        | some r => mset c.ring (e.eseq.toNat % 64) { r with count := r.count + h.add.setWidth 32 }
        | none => c.ring })).upd (·.enter e)
    | _ => s.upd (·.enter e)

/-- The index a precise trap of the word in issue reports (R450, R483): a member's item keeps its publisher's PC. -/
def Core.wordPc (c : Core) : BitVec 12 := if c.latch.src = .item then c.latch.item.pc else c.pc

/-- A precise trap at the word in issue. One taken at a publisher's decode is published as a trap item (R144). -/
def State.trapNow (s : State) (t : Trap) : State :=
  let c := s.c
  let s := if t.decode && c.publishes && c.w.followers != [] then
      s.publish s.cur { gen := c.husk.actn.setWidth 16, pc := c.wordPc, cause := t.cause, depth := c.w.brw.length, trapi := true,
                        path := (c.w.brw.head?.map (·.path)).getD false, word := c.latch.word
                        einfo := t.einfo, entry := t.entry }
    else s
  s.takeTrap { cause := t.cause, epc := c.wordPc, half := c.latch.half, eword := c.latch.word, einfo := t.einfo,
               eseq := c.ringHead, goto := t.entry }

/-- A precise trap, unless the host serves it: then the core is parked at its word (R470). -/
def State.trapPrecise (s : State) (t : Trap) : State :=
  match if t.decode then none else s.servedBy s.c.ctx t.cause t.einfo.toNat with
  | some fn =>
    let r := s.park (.core s.cur) s.c.ctx fn t.cause (t.einfo.toNat % 2 ^ 56) t.einfo.toNat
    r.2.upd (fun c => { c with wait := some (.answer r.1), woken := none, since := s.cycle, readyAt := max c.readyAt (s.cycle + 1) })
  | none => s.trapNow t

/-! ## The fault ring (R455, R456) -/

/-- The oldest recorded entry no trap has covered. -/
def Core.dueEntry (c : Core) : Option RingEntry :=
  (mvals c.ring).foldl (fun b r =>
    if r.status = 1 ∧ r.told = false then
      match b with
      | none => some r
      | some x => if (c.ringHead - x.seq).toNat < (c.ringHead - r.seq).toNat then some r else b
    else b) none

/-- The vendor generation a core shows (R493). -/
def Core.vgen (c : Core) : Nat := match c.husk.vendor with | some i => i.gen.toNat | none => 0

/-- Delivery of the imprecise trap to the executing core (R456): EPC names the next word to issue.
(DEDUCED, log entry 23) -/
def State.deliver (s : State) : State :=
  match s.c.dueEntry with
  | none => s.upd (fun c => { c with tr := { c.tr with pend := false } })
  | some r =>
    let c := s.c
    let s := s.upd (fun c => { c with
      ring := c.ring.map (fun e => if e.2.status = 0 then e else (e.1, { e.2 with told := true })), latch := {} })
    s.takeTrap { cause := r.cause, cls := if r.e5 then 2 else r.cls.toNat, imp := true, eword := r.eword, einfo := r.addr,
                 eseq := r.seq,
                 epc := match c.w.st, c.sys with
                   | .member, false => (c.w.stream.head?.map (·.pc)).getD c.pc
                   | _, _ => c.pc }

/-! ## Completing a word -/

/-- Time passes until a cycle; results due by then are written. -/
def State.advance (s : State) (t : Nat) : State :=
  let now := max s.cycle t
  ({ s with cycle := now }).upd (·.settle now)

/-- Every earlier vector word of the core completes (R244): its VLDAs arrive, its fixed-latency results are written. -/
def State.awaitVector (s : State) : State :=
  let s := s.arriveWhere s.cur (fun l => l.file == .v)
  s.advance (s.c.prods.foldl (fun n p => if p.vec then max n p.due else n) s.cycle)

/-- At the end of a BRW path the publisher turns to the other path, or goes on past the join (R147). -/
def brwNext (pc : BitVec 12) : List Brw → Nat → BitVec 12 × List Brw
  | fs, 0 => (pc, fs)
  | [], _ => (pc, [])
  | f :: r, n + 1 =>
    if pc = f.join then
      if f.more then brwNext f.target ({ f with path := true, more := false, mine := f.cond } :: r) n
      else brwNext pc r n
    else (pc, f :: r)

/-- STALL or STALL1 of the word in issue; interlocked mode ignores it (R53). -/
def Core.stallOf (c : Core) : Nat := if c.mode.getLsbD 0 then 0 else c.latch.sched.stall.toNat

/-- The item a completed word is published as (R130). -/
def Core.itemOf (c : Core) (next : Option (BitVec 12)) (taken : Bool) : Item where
  gen := c.husk.actn.setWidth 16
  pc := c.pc
  depth := c.w.brw.length
  taken := taken
  path := (c.w.brw.head?.map (·.path)).getD false
  word := c.latch.word
  next := next.getD (c.pc + 1)

/-- The cycle from which STALL counts: a word's execution, but a wait of SBAR or SCLK delays only the next word's issue (R43,
R436, R448). -/
def Core.issuedAt (c : Core) (now : Nat) : Nat := match c.wait with
  | some (.step _) | some (.clock _) => c.since
  | _ => now

/-- Whether the word in issue is still to be published: a publisher's own word in public code (R135), unless it stands for a
matched NOP (R495). -/
def Core.itemDue (c : Core) : Bool :=
  (c.latch.src == .own || c.latch.src == .rewrite) && !c.latch.quiet && c.publishes && c.w.followers != [] && c.w.coll != some c.pc

/-- The publisher publishes the word it is at, once, before it waits (R132, R159). (DEDUCED, log entry 21) -/
def State.publishOnce (s : State) (item : Item → Item := id) : State :=
  let c := s.c
  if c.w.coll = some c.pc then s
  else (s.publish s.cur (item (c.itemOf none false))).upd (fun c => { c with w := { c.w with coll := some c.pc, votes := [] } })

/-- A word that has executed leaves issue: the next word's place and earliest cycle, and its item for the members
(R43, R44, R126, R129, R135). `next` is where a transfer goes. STALL counts unless the mode that the word leaves is interlocked:
for the MTSR that changes MODE the new mode decides (R50, R53). (DESIGN CHOICE, log entry 73) -/
def State.finish (s : State) (next : Option (BitVec 12)) (taken : Bool := next.isSome)
    (item : Item → Item := id) : State :=
  let c := s.c
  let own := c.latch.src == .own || c.latch.src == .rewrite
  let s := if c.itemDue then s.publish s.cur (item (c.itemOf next taken)) else s
  s.upd (fun c =>
    let st := c.stallOf + 1
    let c1 := { c with
      spos := c.spos + st
      readyAt := max c.readyAt (c.issuedAt s.cycle + st + (if taken && own then 2 else 0))
      retries := if c.retryPc = c.wordPc then c.retries else 0
      latch := {}, wait := none, woken := none, delayed := false }
    match c.latch.src with
    | .own | .rewrite =>
      -- the words of a rewrite entry issue at the matched word's PC (R483)
      if c.latch.src = .rewrite ∧ next = none ∧ 1 < c.rewriteQ.length then { c1 with
        rewriteQ := c.rewriteQ.drop 1
        w := if c.publishes then { c.w with coll := none, votes := [] } else c.w }
      else if c.publishes then
        let r := brwNext (next.getD (c.pc + 1)) c.w.brw (2 * c.w.brw.length + 1)
        { c1 with pc := r.1, rewriteQ := [], w := { c.w with brw := r.2, coll := none, votes := [] } }
      else { c1 with pc := next.getD (c.pc + 1), rewriteQ := [] }
    | .item => { c1 with w := { c.w with stream := c.w.stream.drop 1 } }
    | .replay _ => { c1 with replayQ := c.replayQ.drop 1 })

/-- Waits of a word whose effect is done: a post whose card is on its way and a grant write block like a load (R122, R366). -/
def Wait.done : Wait → Bool
  | .card _ | .grant _ _ => true
  | _ => false

/-- Whether the word in issue has had its effect and only ends: nothing stops it any more. -/
def Core.committed (c : Core) : Bool := match c.wait with
  | some (.barArrive _ _ _) => c.woken.isSome
  | some w => w.done
  | none => false

/-- Waits of a word that has issued: a publisher's word is published before it (R131, R442). -/
def Wait.issued : Wait → Bool
  | .barrier _ _ _ | .memory _ _ | .port _ | .job _ | .scope _ _ | .step _ | .clock _ | .card _ | .barArrive _ _ _ => true
  | _ => false

/-- A word that must wait: it executes again at the core's next turn (R43), unless an imprecise trap is due (R456). -/
def State.holdAt (s : State) (w : Wait) : State :=
  if s.c.tr.pend && !s.c.tr.exl && !w.done then s.deliver
  else (if w.issued && s.c.itemDue then s.publishOnce else s).upd (fun c => { c with
    latch := {}, wait := some w, since := if c.wait = some w then c.since else s.cycle
    woken := if c.wait = some w then c.woken else none
    readyAt := max c.readyAt (s.cycle + 1) })

/-- How an effect that does not transfer control ends its word. -/
def finishWith (r : Except Stop Unit × State) : State :=
  match r with
  | (.ok (), s) => s.finish none
  | (.error (.trap t), s) => s.trapPrecise t
  | (.error (.hold w), s) => s.holdAt w
  | (.error .deliver, s) => s.deliver

/-- An instruction whose effect is `m`. -/
def run (m : M Unit) (s : State) : Host.Outcome State Fault Refusal := .next (finishWith (m s))

/-- An instruction whose effect decides the next word: `none` goes on, `some` transfers (R126). (DEDUCED, log entry 50) -/
def runTo (m : M (Option (BitVec 12))) (s : State) : Host.Outcome State Fault Refusal :=
  match m s with
  | (.ok t, s) => .next (s.finish t)
  | (.error (.trap t), s) => .next (s.trapPrecise t)
  | (.error (.hold w), s) => .next (s.holdAt w)
  | (.error .deliver, s) => .next s.deliver

/-- An instruction whose effect leaves the core elsewhere: it has set everything itself. -/
def runRaw (m : M Unit) (s : State) : Host.Outcome State Fault Refusal :=
  match m s with
  | (.ok (), s) => .next s
  | (.error (.trap t), s) => .next (s.trapPrecise t)
  | (.error (.hold w), s) => .next (s.holdAt w)
  | (.error .deliver, s) => .next s.deliver

/-- A step of another agent: it never stops. -/
def event (f : State → State) (s : State) : Host.Outcome State Fault Refusal := .next (f s)

/-- EINFO of a cause for which the manual gives no layout (R451; log entry 4). (DESIGN CHOICE, log entry 4) -/
def State.openInfo (s : State) : Word := s.free 0x400
/-- EINFO in the layout that R315 and R222 share, where no KIND and no field is given: KIND in bits 63:60, a field in bits 7:0.
(DESIGN CHOICE, log entry 4) -/
def State.openLayout (s : State) : Nat := s.pick 0x401 16 * 2 ^ 60 + s.pick 0x402 256

/-- A decode-time trap (R60, R144). -/
def raiseDecode {α : Type} (c : Cause) (einfo : Word) : M α := throw (.trap ⟨c.code, einfo, true, none⟩)
/-- A privileged word in user mode raises PRIV (R60). -/
def privileged : M Unit := do
  let s ← get
  if !s.c.sys then raiseDecode .priv s.openInfo

/-- A general-register write as an effect. -/
def setG (d : GReg) (x : TReg) (lat : Nat) : M Unit := modify (·.wrG d x lat)
def setI (d : GReg) (x : Word) (lat : Nat := 1) : M Unit := modify (·.wrI d x lat)

/-! ## Return -/

/-- Ring entries ERET.RPL goes through, oldest first (R458): those with status 1 or 2. -/
def Core.replayList (c : Core) : List (BitVec 32) :=
  ((List.range 64).map (fun i => c.ringHead - BitVec.ofNat 32 (64 - i))).filter (fun q =>
    match c.ringAt q with
    | some r => r.status == 1 || r.status == 2
    | none => false)
/-- An entry that is only marked done there: a fault of class M, or an FPX (R458). -/
def RingEntry.marked (r : RingEntry) : Bool := r.status == 1 && (r.cls == 2 || r.cause == Cause.fpx.code)

/-- ERET without KILL (R473): the mode returns, EXL clears, the ring may be replayed, and the PC is EPC; a member goes
back to its stream (R144, R145), and a publisher that returns to a join has ended a path (R147). -/
def Core.eret (c : Core) (rpl : Bool) : Core :=
  let back := c.w.handler.isSome && !c.tr.pm
  let r := if { c with sys := c.tr.pm }.publishes then brwNext c.tr.epc c.w.brw (2 * c.w.brw.length + 1) else (c.tr.epc, c.w.brw)
  { c with
    sys := c.tr.pm
    tr := { c.tr with exl := false }
    replayQ := if rpl then c.replayList else []
    pc := r.1
    w := { c.w with brw := r.2, handler := if back then none else c.w.handler }
    latch := {}, wait := none, woken := none, rewriteQ := [] }

end Sys2Proof.Machine
end

