-- ==== Sys2Proof/Machine/RegUse.lean ====
section
/-!
DEFINITION. The registers an instruction reads and writes, by its operand fields: what STALLCHK (R52), interlocks (R53),
the imprecise traps' second trigger (R456) and the hold of R457 look at. Registers named by a value (VGETX, VPUTX) are
found at issue. Events have none.
-/
namespace Sys2Proof.Machine

/-- A register: its file and number. -/
abbrev RUse := RFile × Nat

def gu (r : GReg) : RUse := (.g, r.val)
def vu {n : Nat} (r : Fin n) : RUse := (.v, r.val)
def ku (r : KReg) : RUse := (.k, r.val)
def su : VSrc → RUse
  | .v r => vu r
  | .g r => gu r
/-- Consecutive vector registers. -/
def vus (r n : Nat) : List RUse := (List.range n).map (fun i => (.v, r + i))

/-- Registers an instruction writes. -/
def dsts : Instr → List RUse
  | .nop | .trap _ | .bkpt _ | .eret _ _ | .mtsr _ _ | .isync | .idle | .tlbinv _ _ _ _ | .br _ | .bcc _ _ _
    | .bk _ _ _ | .ret | .jmpr _ | .unsub _ _ _ | .rdv _ | .rdvh _ _ | .brw _ _ _ | .puboff | .pubon
    | .st _ _ _ _ | .stc _ _ _ | .waitld _ | .pref _ _ | .strl _ _ _ _ | .amonr _ _ _ _ _ | .fence _ _
    | .binit _ _ | .bexp _ _ | .bwait _ _ | .msend _ _ _ _ _ | .vst _ _ _ _ | .vsts _ _ _ _ _
    | .vscat _ _ _ _ _ _ _ | .vcmpst _ _ _ _ | .vputx _ _ | .vtblw _ _ | .mfmt _ | .mpass _ _ _ _
    | .mlist _ _ _ | .mzero _ _ _ | .mldc _ _ | .mstc _ _ _ | .mwait _ | .mtbl _ _ _ | .rkinit _ _ _
    | .rkins _ _ _ | .rkmrg _ _ | .rkchain _ _ | .rkbnd _ | .tend | .ssend _ _ _ | .ssenda _ _ _ | .hnop
    | .hst _ _ _ => []
  | .mfsr d _ | .csave d _ _ | .crest d _ _ | .hpload d _ | .hpact d _ | .hpqry d _ | .ident d _
    | .subStream _ d _ _ | .resub d _ _ | .wvote _ d _ | .add d _ _ _ | .addi d _ _ | .sub d _ _ _
    | .subi d _ _ | .mul d _ _ | .muli d _ _ | .mulhS d _ _ | .mulhiS d _ _ | .mulhZ d _ _ | .mulhiZ d _ _
    | .divS d _ _ | .diviS d _ _ | .divZ d _ _ | .diviZ d _ _ | .remS d _ _ | .remiS d _ _ | .remZ d _ _
    | .remiZ d _ _ | .and d _ _ _ | .andi d _ _ | .or d _ _ _ | .ori d _ _ | .xor d _ _ _ | .xori d _ _
    | .andn d _ _ _ | .andni d _ _ | .shl d _ _ | .shli d _ _ | .shr d _ _ | .shri d _ _ | .sar d _ _
    | .sari d _ _ | .rol d _ _ | .roli d _ _ | .minS d _ _ | .miniS d _ _ | .minZ d _ _ | .miniZ d _ _
    | .maxS d _ _ | .maxiS d _ _ | .maxZ d _ _ | .maxiZ d _ _ | .sltS d _ _ | .sltiS d _ _ | .sltZ d _ _
    | .sltiZ d _ _ | .seq d _ _ | .seqi d _ _ | .clz d _ | .clzi d _ | .ctz d _ | .ctzi d _ | .popc d _
    | .popci d _ | .brev d _ | .brevi d _ | .bfx d _ _ _ _ | .bfxi d _ _ _ _ | .bfi d _ _ _ | .bfii d _ _ _
    | .mad d _ _ | .madi d _ _ | .mov d _ | .li d _ | .cget d _ _ | .cseta d _ _ | .cadd d _ _ | .candp d _ _
    | .cfrom d _ _ | .cclr d _ | .cchk d _ _ | .gnew d _ _ | .grev d _ | .ld d _ _ _ | .ldc d _ _
    | .lda d _ _ _ | .amo _ _ _ d _ _ | .amof _ _ d _ _ | .cas _ _ d _ _ | .ldaq _ _ d _ | .barr d _
    | .waitm _ _ d _ _ | .kpopc d _ | .kff d _ | .vbscale _ d _ _ _ | .vred _ d _ _ _ | .vballot _ d _
    | .mgang d _ _ _ | .mqry d _ _ _ | .rkflr d _ _ | .epost d _ _ | .ewait d _ | .ecan d _ | .estat d _
    | .ttick d | .tspawn d _ _ | .tsig d _ | .fopen d _ _ | .fclose d _ | .fwait d _ | .fcan d _
    | .qenq d _ _ _ _ | .qdeq d _ _ | .qres d _ _ _ | .qcmt d _ _ | .qflush d _ | .tyield d | .sbar d _ _
    | .sdom d _ _ | .hadd d _ | .hsub d _ | .hand d _ | .hor d _ | .hxor d _ | .hshl d _ | .hshr d _
    | .hmov d _ | .haddi d _ _ | .handi d _ _ | .hshli d _ _ | .hshri d _ _ | .hli d _ | .hld d _ _ => [gu d]
  | .echk form => match form with | .read d _ _ => [gu d] | .mark _ _ => []
  | .call _ | .callr _ => [(.g, 1)]
  | .loop a _ => [gu a]
  | .enter _ | .leave => [(.g, 2)]
  | .pget d port => [gu d, (.g, 48 + port.toNat)]
  | .kand d _ _ | .kor d _ _ | .kxor d _ _ | .kandn d _ _ | .knot d _ | .kset d _ | .vcmp _ d _ _ _ _
    | .vfcmp _ d _ _ _ | .vfclass _ d _ _ | .hkand d _ | .hkor d _ => [ku d]
  | .kmov form => match form with | .kk d _ | .kg d _ => [ku d] | .gk d _ => [gu d]
  | .vadd _ d _ _ _ | .vsub _ d _ _ _ | .vmul _ d _ _ _ | .vmulh _ d _ _ _ | .vmad _ d _ _ _
    | .vand _ d _ _ _ | .vor _ d _ _ _ | .vxor _ d _ _ _ | .vshl _ d _ _ _ | .vshr _ d _ _ _
    | .vsar _ d _ _ _ | .vmin _ d _ _ _ | .vmax _ d _ _ _ | .vabs _ d _ _ | .vsel _ d _ _ _ | .vpopc _ d _ _
    | .vclz _ d _ _ | .vadds _ d _ _ _ | .vsubs _ d _ _ _ | .vmovs _ d _ _ | .vext _ d _ _ _
    | .vfadd _ d _ _ _ | .vfsub _ d _ _ _ | .vfmul _ d _ _ _ | .vfma _ d _ _ _ | .vfms _ d _ _ _
    | .vfmin _ d _ _ _ | .vfmax _ d _ _ _ | .vfabs _ d _ | .vfneg _ d _ | .vfdiv _ d _ _ | .vfsqrt _ d _
    | .vrcp _ d _ | .vrsq _ d _ | .vexp2 _ d _ | .vlog2 _ d _ | .vsinpi _ d _ | .vcospi _ d _ | .vtanh _ d _
    | .vsigm _ d _ | .verf _ d _ | .vgumb _ d _ | .vcvt _ d _ _ _ _ _ _ _ | .vcvtsr _ d _ _ _ _ _
    | .vpack _ d _ _ _ | .vscale _ d _ _ _ _ | .vrint _ d _ _ _ | .vld _ d _ _ | .vlds _ d _ _ _
    | .vgath _ d _ _ _ _ _ | .vexpld _ d _ _ | .vlda _ d _ _ | .vperm _ d _ _ _ | .vshuf _ d _ _
    | .vrot _ d _ _ | .vbcst _ d _ | .vscan _ d _ _ _ _ _ | .vsscan _ d _ _ _ _ _ _ | .vxchg d _ _
    | .vchain _ d _ _ _ _ | .vcprs _ d _ _ | .vexpd _ d _ _ | .vgetx d _ | .vdot4 _ d _ _ _ _
    | .vdot8 _ d _ _ _ _ | .vdoth _ d _ _ _ | .vdott _ d _ _ _ _ => [vu d]
  | .vrng _ d _ _ => [vu d, (.v, d.val + 1), (.v, d.val + 2), (.v, d.val + 3)]
  | .vunpk _ d _ ty => vus d.val ty.count
  | .rkget _ d _ _ => [vu d, (.v, d.val + 1)]
  | .sclk d form => match form with | .read => [gu d] | .wait _ => []
  | .hvfadd d _ | .hvfmul d _ | .hvmov d _ => [vu d]
  | _ => []

/-- Registers an instruction reads; a guarded destination keeps lanes and counts as read. -/
def srcs : Instr → List RUse
  | .nop | .trap _ | .bkpt _ | .eret _ _ | .mfsr _ _ | .isync | .idle | .ident _ _ | .br _ | .call _ | .rdv _
    | .rdvh _ _ | .puboff | .pubon | .clzi _ _ | .ctzi _ _ | .popci _ _ | .brevi _ _ | .li _ _ | .waitld _
    | .fence _ _ | .barr _ _ | .kset _ _ | .mzero _ _ _ | .mwait _ | .tend | .ttick _ | .tsig _ _ | .tyield _
    | .hnop | .hli _ _ => []
  | .mtsr _ a | .hpact _ a | .callr a | .jmpr a | .loop a _ | .brw a _ _ | .wvote _ _ a | .addi _ a _
    | .subi _ a _ | .muli _ a _ | .mulhiS _ a _ | .mulhiZ _ a _ | .diviS _ a _ | .diviZ _ a _ | .remiS _ a _
    | .remiZ _ a _ | .andi _ a _ | .ori _ a _ | .xori _ a _ | .andni _ a _ | .shli _ a _ | .shri _ a _
    | .sari _ a _ | .roli _ a _ | .miniS _ a _ | .miniZ _ a _ | .maxiS _ a _ | .maxiZ _ a _ | .sltiS _ a _
    | .sltiZ _ a _ | .seqi _ a _ | .clz _ a | .ctz _ a | .popc _ a | .brev _ a | .bfxi _ a _ _ _ | .mov _ a
    | .cget _ a _ | .cadd _ a _ | .candp _ a _ | .cclr _ a | .grev _ a | .ld _ a _ _ | .ldc _ a _
    | .lda _ a _ _ | .pref a _ | .binit a _ | .bexp a _ | .bwait a _ | .vgetx _ a | .mqry _ a _ _
    | .ewait _ a | .ecan _ a | .estat _ a | .fclose _ a | .fwait _ a | .fcan _ a | .sbar _ a _ | .sdom _ a _
    | .hmov _ a | .haddi _ a _ | .handi _ a _ | .hshli _ a _ | .hshri _ a _ | .hld _ a _ => [gu a]
  | .tlbinv _ _ a b | .bcc a b _ | .subStream _ _ a b | .unsub a b _ | .resub _ a b | .add _ a b _
    | .sub _ a b _ | .mul _ a b | .mulhS _ a b | .mulhZ _ a b | .divS _ a b | .divZ _ a b | .remS _ a b
    | .remZ _ a b | .and _ a b _ | .or _ a b _ | .xor _ a b _ | .andn _ a b _ | .shl _ a b | .shr _ a b
    | .sar _ a b | .rol _ a b | .minS _ a b | .minZ _ a b | .maxS _ a b | .maxZ _ a b | .sltS _ a b
    | .sltZ _ a b | .seq _ a b | .bfx _ a b _ _ | .cseta _ a b | .cfrom _ a b | .cchk _ a b | .gnew _ a b
    | .amo _ _ _ _ a b | .amof _ _ _ a b | .strl _ _ a b | .amonr _ _ _ a b | .waitm _ _ _ a b
    | .msend _ _ _ a b | .mgang _ a b _ | .rkinit _ a b | .rkmrg a b | .epost _ a b | .tspawn _ a b
    | .fopen _ a b | .qenq _ a b _ _ | .qcmt _ a b => [gu a, gu b]
  | .echk form => match form with | .read _ a _ => [gu a] | .mark a b => [gu a, gu b]
  | .csave _ b _ | .crest _ b _ | .ldaq _ _ _ b | .mfmt b | .mtbl _ _ b | .rkchain _ b | .rkflr _ b _
    | .qres _ b _ _ | .qflush _ b => [gu b]
  | .hpload _ src => match src with | .mem b => [gu b] | .fetch a => [gu a]
  | .hpqry _ what => match what with | .digest a => [gu a] | _ => []
  | .bk a b _ | .kand _ a b | .kor _ a b | .kxor _ a b | .kandn _ a b => [ku a, ku b]
  | .ret => [(.g, 1)]
  | .enter _ | .leave => [(.g, 2)]
  | .bfi d a b _ | .mad d a b | .cas _ _ d a b | .mpass d a b _ | .mlist d a b | .mstc d a b | .ssend d a b
    | .ssenda d a b => [gu d, gu a, gu b]
  | .bfii d a _ _ | .madi d a _ | .st d a _ _ | .stc d a _ | .hadd d a | .hsub d a | .hand d a | .hor d a
    | .hxor d a | .hshl d a | .hshr d a | .hst d a _ => [gu d, gu a]
  | .pget _ port => [(.g, 48 + port.toNat)]
  | .knot _ a | .kpopc _ a | .kff _ a => [ku a]
  | .kmov form => match form with | .kk _ a | .gk _ a => [ku a] | .kg _ a => [gu a]
  | .vadd k d a b _ | .vsub k d a b _ | .vmul k d a b _ | .vmulh k d a b _ | .vmad k d a b _
    | .vand k d a b _ | .vor k d a b _ | .vxor k d a b _ | .vshl k d a b _ | .vshr k d a b _
    | .vsar k d a b _ | .vmin k d a b _ | .vmax k d a b _ | .vsel k d a b _ | .vadds k d a b _
    | .vsubs k d a b _ | .vfadd k d a b _ | .vfsub k d a b _ | .vfmul k d a b _ | .vfma k d a b _
    | .vfms k d a b _ | .vfmin k d a b _ | .vfmax k d a b _ | .vfdiv k d a b | .vscale k d a b _ _
    | .vdot4 k d a b _ _ | .vdot8 k d a b _ _ | .vdoth k d a b _ | .vdott k d a b _ _ => [ku k, vu d, vu a, su b]
  | .vabs k d a _ | .vpopc k d a _ | .vclz k d a _ | .vmovs k d a _ | .vext k d a _ _ | .vfabs k d a
    | .vfneg k d a | .vfsqrt k d a | .vrcp k d a | .vrsq k d a | .vexp2 k d a | .vlog2 k d a | .vsinpi k d a
    | .vcospi k d a | .vtanh k d a | .vsigm k d a | .verf k d a | .vgumb k d a | .vcvt k d a _ _ _ _ _ _
    | .vrint k d a _ _ | .vscan k d a _ _ _ _ | .vchain k d a _ _ _ | .vcprs k d a _ | .vexpd k d a _ => [ku k, vu d, vu a]
  | .vcmp k _ a b _ _ | .vfcmp k _ a b _ => [ku k, vu a, su b]
  | .vfclass k _ a _ | .vred k _ a _ _ | .vballot k _ a => [ku k, vu a]
  | .vrng k d a b => [ku k, vu d, (.v, d.val + 1), (.v, d.val + 2), (.v, d.val + 3), vu a, (.v, a.val + 1), (.v, a.val + 2), (.v, a.val + 3), gu b]
  | .vcvtsr k d a b _ _ _ => [ku k, vu d, vu a, vu b]
  | .vpack k d a ty _ => ku k :: vu d :: vus a.val ty.count
  | .vunpk k d a ty => ku k :: vu a :: vus d.val ty.count
  | .vbscale k _ a _ b32 => ku k :: vus a.val (if b32 then 2 else 1)
  | .vld k d a b | .vst k d a b | .vlds k d a b _ | .vsts k d a b _ | .vcmpst k d a b | .vexpld k d a b
    | .vlda k d a b => [ku k, vu d, gu a, gu b]
  | .vgath k d a b _ _ _ | .vscat k d a b _ _ _ => [ku k, vu d, vu a, gu b]
  | .vperm k d a b two => ku k :: vu d :: vu b :: vus a.val (if two then 2 else 1)
  | .vshuf k d a form => ku k :: vu d :: vu a :: (match form with | .xor _ => [] | .ziplo b | .ziphi b | .unzipe b | .unzipo b => [vu b])
  | .vrot k d a n => ku k :: vu d :: vu a :: (match n with | .imm _ => [] | .g r => [gu r])
  | .vbcst k d src => ku k :: vu d :: (match src with | .lane a _ => [vu a] | .g r => [gu r])
  | .vsscan k d a b _ _ _ _ => [ku k, ku b, vu d, vu a]
  | .vxchg _ a _ | .vtblw _ a => [vu a]
  | .vputx d a => [gu d, vu a]
  | .mldc d b => [gu d, gu b]
  | .rkins k d b => [ku k, vu d, (.v, d.val + 1), gu b]
  | .rkget k d a b => [ku k, vu d, (.v, d.val + 1), gu a, gu b]
  | .rkbnd form => match form with | .put a => [gu a] | .clr => []
  | .qdeq _ b form => gu b :: (match form with | .plain a => [gu a] | .block => [])
  | .sclk _ form => match form with | .read => [] | .wait a => [gu a]
  | .hvfadd d a | .hvfmul d a => [vu d, vu a]
  | .hvmov _ a => [vu a]
  | .hkand d a | .hkor d a => [ku d, ku a]
  | _ => []

end Sys2Proof.Machine
end

