-- ==== Sys2Proof/Machine/Collect.lean ====
section
/-!
DEFINITION. Shared operations of control flow and streams: where a branch goes (R126, R150, R151), divergence of members
(R140, R141), and the gathering of what the participants of a collective, a vote or a BRW contribute (R147, R159, R308).
-/
namespace Sys2Proof.Machine

/-- A format-B target (R126). -/
def relTo (pc : BitVec 12) (off : BitVec 17) : BitVec 12 := pc + off.setWidth 12

/-- Where a branch word goes when core `c` executes it at `pc`: `none` for a word that is no branch, `some none` when it
is not taken. -/
def branchOf (c : Core) (now : Nat) (pc : BitVec 12) : Instr → Option (Option (BitVec 12))
  | .br off => some (some (relTo pc off))
  | .bcc a b off => some (if (c.readG now a.val).int ≠ (c.readG now b.val).int then some (relTo pc off) else none)
  | .bk a b off => some (if c.readK now a.val &&& c.readK now b.val ≠ 0 then some (relTo pc off) else none)
  | .call off => some (some (relTo pc off))
  | .callr a => some (some ((c.readG now a.val).int.setWidth 12))
  | .ret => some (some ((c.readG now 1).int.setWidth 12))
  | .jmpr a => some (some ((c.readG now a.val).int.setWidth 12))
  | .loop a off =>
    -- a write to g0 is discarded, and LOOP of g0 is never taken (R151)
    some (if a.val ≠ 0 ∧ (c.readG now a.val).int - 1 ≠ 0 then some (relTo pc off) else none)
  | _ => none

/-- A fetching core's end of a branch: the transfer. -/
def State.branchOwn (s : State) (t : Option (BitVec 12)) : State := s.finish t

/-- A member leaves its weave and fetches from its own store (R129, R141, R156). -/
def State.goOwn (s : State) (t : BitVec 12) : State :=
  (s.detach s.cur).upd (fun c => { c with pc := t, readyAt := c.readyAt + 2 })
/-- It leaves at the item in issue. -/
def State.leaveTo (s : State) (t : BitVec 12) : State := (s.finish none).goOwn t

/-- What a member does by its policy after branch item `it`, whose effects are done, when its own next PC is not the
published one (R141). -/
def State.diverge (s : State) (it : Item) (own : BitVec 12) : State :=
  match s.c.w.policy with
  | .dormant => s.upd (fun c => { c with w := { c.w with st := .dormant, wake := some own } })
  | .detach => s.goOwn own
  | .trap => s.takeTrap { cause := Cause.weave.code, epc := it.pc, eword := it.word
                          einfo := BitVec.ofNat 64 (1 * 4096 + own.toNat), eseq := s.c.ringHead }

/-- A member's end of BCC, BK and LOOP: its own next PC against the one that follows from TAKEN (R140). -/
def State.branchItem (s : State) (t : Option (BitVec 12)) : State :=
  let it := s.c.latch.item
  let own := t.getD (it.pc + 1)
  if own = it.next then s.finish none else (s.finish none).diverge it own

/-- A member's end of JMPR: its own next PC waits for the next item, whose PC is the published one (R140). -/
def State.jumpItem (s : State) (own : BitVec 12) : State :=
  let it := s.c.latch.item
  (s.finish none).upd (fun c => { c with w := { c.w with jump := some (own, it) } })

/-- A plain branch, its other effects done (R140). -/
def State.branchEnd (s : State) (t : Option (BitVec 12)) : State :=
  if s.c.latch.src = .item then s.branchItem t else s.branchOwn t

/-! ## Gathering -/

/-- Whether the executing word belongs to a weave's stream: an item, or a word a publisher issues in public code (R135,
R308). Any other runs as on a core alone, BRW and WVOTE of a publisher's system mode too. (DESIGN CHOICE, log entry 69) -/
def State.inStream (s : State) : Bool :=
  let c := s.c
  match c.latch.src with
  | .item => true
  | .own | .rewrite => c.publishes && c.w.st == .publisher
  | .replay _ => false

/-- The publisher of the executing word's stream. -/
def State.streamPub (s : State) : Nat := if s.c.latch.src = .item then s.c.w.pub else s.cur

/-- A contribution added once. -/
def addVote (vs : List (Nat × List Nat)) (core : Nat) (ws : List Nat) : List (Nat × List Nat) :=
  if vs.any (fun v => v.1 == core) then vs else vs ++ [(core, ws)]

/-- What a core contributes: SIZE, RANK, and its words. -/
def Core.vote (c : Core) (src : Source) (ws : List Nat) : List Nat :=
  c.w.size :: (if src = .item then c.w.rank else 0) :: ws

/-- Contributes to the collective at hand; the publisher publishes it first. -/
def contribute (ws : List Nat) : M Unit := do
  let s ← get
  let s := if s.c.latch.src = .item then s else s.publishOnce
  let p := s.streamPub
  let v := s.c.vote s.c.latch.src ws
  let n := s.cur
  set (s.updC p (fun c => { c with w := { c.w with votes := addVote c.w.votes n v } }))

/-- Every participant's contribution, once all have made theirs; until then the core is stalled. A core outside a
stream is a weave of one, rank 0 of size 1 (R308). -/
def gathered (ws : List Nat) : M (List (Nat × List Nat)) := do
  let s ← get
  if !s.inStream then return [(s.cur, 1 :: 0 :: ws)]
  contribute ws
  let s ← get
  holdIf (!s.allIn s.streamPub) .members
  return (s.getC s.streamPub).w.votes

/-- The publisher leaves a collective last, when every member has passed it. -/
def gatherEnd : M Unit := do
  let s ← get
  if s.inStream && s.c.latch.src != .item then
    holdIf (s.c.w.followers.any (fun f => (s.getC f.2).w.stream != [])) .members

/-- This core's rank in the collective at hand. -/
def State.myRank (s : State) : Nat := if s.inStream && s.c.latch.src == .item then s.c.w.rank else 0

/-- The words of rank `r` among contributions. -/
def ofRank (vs : List (Nat × List Nat)) (r : Nat) : Option (List Nat) :=
  (vs.find? (fun v => v.2.getD 1 0 == r)).map (fun v => v.2.drop 2)

/-- The contributions in rank order, or WEAVE KIND 5 when SIZE fields differ or the ranks are not 0 to SIZE - 1, each
once (R308). -/
def ranked (vs : List (Nat × List Nat)) : M (List (List Nat)) := do
  let c := (← get).c
  let size := ((vs.map (fun v => v.2.getD 0 0)).head?).getD 1
  let ok := vs.all (fun v => v.2.getD 0 0 == size) && vs.length == size &&
    (List.range size).all (fun r => (ofRank vs r).isSome)
  raiseIf (!ok) .weave (5 * 4096 + c.wordPc.toNat)
  return (List.range size).map (fun r => (ofRank vs r).getD [])


/-- Whether ranks 0 to `r` have contributed to publisher `p`'s collective, and the SIZE and RANK fields of all who have or still
may leave no WEAVE KIND 5. (DEDUCED, log entry 87) -/
def State.chainIn (s : State) (p r : Nat) : Bool :=
  let vs := (s.getC p).w.votes
  let late := (s.getC p).w.followers.filter (fun f =>
    !vs.any (fun v => v.1 == f.2) && !((s.getC f.2).w.stream == [] && !(s.participants p).contains f))
  let all := vs.map (fun v => (v.2.getD 0 0, v.2.getD 1 0)) ++ late.map (fun f => ((s.getC f.2).w.size, (s.getC f.2).w.rank))
  all.all (fun x => x.1 == all.length) && (List.range all.length).all (fun q => all.any (fun x => x.2 == q))
    && (List.range (r + 1)).all (fun q => (ofRank vs q).isSome)

/-- The contributions of ranks 0 to the core's own, as soon as they are there (R360). -/
def chained (ws : List Nat) : M (List (List Nat)) := do
  let s ← get
  if !s.inStream then return [ws]
  contribute ws
  let s ← get
  let p := s.streamPub
  let vs := (s.getC p).w.votes
  if s.chainIn p s.myRank then return (List.range (s.myRank + 1)).map (fun r => (ofRank vs r).getD [])
  else
    holdIf (!s.allIn p) .members
    ranked vs

/-- The path a BRW starts with and whether the other follows, from the conditions gathered (R147). -/
def startBrw (pc target join : BitVec 12) (own : Option Bool) (conds : List Bool) : Brw × BitVec 12 :=
  let any0 := conds.any (! ·)
  let any1 := conds.any (·)
  let f : Brw := { target := target, join := join, path := !any0, more := any0 && any1, cond := own.getD false,
                   mine := match own with | none => false | some c => c == !any0 }
  (f, if any0 then pc + 1 else target)

end Sys2Proof.Machine
end

