-- ==== Sys2Proof/Machine/Operands.lean ====
section
/-!
DEFINITION. Operand forms: immediates and shifted operands of scalar words (R104 to R107), effective addresses, vector
sources and guards (R31, R235 to R238, R250), and the integer functions of R104 to R108.
-/
namespace Sys2Proof.Machine

/-! ## Scalar operands -/

/-- sext(imm17, 17) mod 2^64 (R104). -/
def simm (imm : BitVec 17) : Word := imm.signExtend 64
/-- The second operand after its shift (R106). -/
def State.rdSh (s : State) (b : GReg) (sh : BitVec 6) : Word := s.rdI b <<< sh.toNat
/-- An integer result as an effect. -/
def intTo (d : GReg) (lat : Nat) (f : State → Word) : M Unit := modify (fun s => s.wrI d (f s) lat)
/-- A mask result as an effect, latency 1 (R111). -/
def maskTo (d : KReg) (f : State → Mask) : M Unit := modify (fun s => s.wrK d (f s) 1)

/-! ## Integer functions (R104, R105, R108) -/

def alMulhS (a b : Word) : Word := BitVec.ofInt 64 (a.toInt * b.toInt / 2 ^ 64)
def alMulhZ (a b : Word) : Word := BitVec.ofNat 64 (a.toNat * b.toNat / 2 ^ 64)
/-- Truncated quotient; the corners of R105. -/
def alDivS (a b : Word) : Word := if b = 0 then BitVec.allOnes 64 else BitVec.ofInt 64 (a.toInt.tdiv b.toInt)
def alDivZ (a b : Word) : Word := if b = 0 then BitVec.allOnes 64 else BitVec.ofNat 64 (a.toNat / b.toNat)
def alRemS (a b : Word) : Word := if b = 0 then a else BitVec.ofInt 64 (a.toInt.tmod b.toInt)
def alRemZ (a b : Word) : Word := if b = 0 then a else BitVec.ofNat 64 (a.toNat % b.toNat)
/-- A shift amount is b[5:0]. -/
def sh6 (b : Word) : Nat := b.toNat % 64
def alShl (a b : Word) : Word := a <<< sh6 b
def alShr (a b : Word) : Word := a >>> sh6 b
def alSar (a b : Word) : Word := a.sshiftRight (sh6 b)
def alRol (a b : Word) : Word := a.rotateLeft (sh6 b)
def alMinS (a b : Word) : Word := if a.toInt ≤ b.toInt then a else b
def alMinZ (a b : Word) : Word := if a.toNat ≤ b.toNat then a else b
def alMaxS (a b : Word) : Word := if a.toInt ≥ b.toInt then a else b
def alMaxZ (a b : Word) : Word := if a.toNat ≥ b.toNat then a else b
def alSltS (a b : Word) : Word := if a.toInt < b.toInt then 1 else 0
def alSltZ (a b : Word) : Word := if a.toNat < b.toNat then 1 else 0
def alSeq (a b : Word) : Word := if a = b then 1 else 0
def alClz (x : Word) : Word := if x = 0 then 64 else BitVec.ofNat 64 (63 - x.toNat.log2)
def alCtz (x : Word) : Word := if x = 0 then 64 else BitVec.ofNat 64 ((x &&& (0 - x)).toNat.log2)
def alPopc (x : Word) : Word := BitVec.ofNat 64 (popcountNat 64 x.toNat)
/-- Bit i moved to bit n - 1 - i. -/
def revBits (n x : Nat) : Nat := (List.range n).foldl (fun r i => r * 2 + x / 2 ^ i % 2) 0
def alBrev (x : Word) : Word := BitVec.ofNat 64 (revBits 64 x.toNat)
/-- BFX of R108: w bits of a at pos, bits above 63 reading as zero. -/
def alBfx (a : Word) (pos w : Nat) (sx : Bool) : Word :=
  let f := a.toNat / 2 ^ pos % 2 ^ w
  if sx then BitVec.ofInt 64 (sextInt f w) else BitVec.ofNat 64 f
/-- BFI of R108: the low w bits of a put at pos of d. -/
def alBfi (d a : Word) (pos w : Nat) : Word :=
  let m := BitVec.ofNat 64 ((2 ^ w - 1) * 2 ^ pos)
  (d &&& ~~~m) ||| (BitVec.ofNat 64 (a.toNat % 2 ^ w * 2 ^ pos) &&& m)

/-! ## Addresses -/

/-- An effective address: a sum mod 2^64. -/
def addEa (base : Nat) (off : Int) : Nat := ((base + off) % 2 ^ 64).toNat
/-- A capability's address with a signed offset in bytes. -/
def eaOf (c : TReg) (off : Int) : Nat := addEa (capAddr c) off

/-! ## Vector operands -/

/-- Lane values of the second source: a vector register, or bits 31:0 of a g register in every lane (R250). -/
def State.rdSrc (s : State) (b : VSrc) : Vec :=
  match b with
  | .v r => s.rdV r
  | .g r => Vector.replicate 16 ((s.rdI r).setWidth 32)

/-- Register `i` places on: the four registers of VRNG and the groups of VPACK and VUNPK. -/
def vregAdd (r : VReg) (i : Nat) : VReg := ⟨(r.val + i) % 384, Nat.mod_lt _ (by decide)⟩

/-- Width of an element type, and whether it is signed (R250). -/
def vtBits : VType → Nat
  | .z8 | .s8 => 8 | .z16 | .s16 => 16 | .z32 | .s32 => 32
def vtS : VType → Bool
  | .s8 | .s16 | .s32 => true | _ => false
/-- Element `j` of width `w` of a lane (R236). -/
def elemAt (w : Nat) (x : Lane) (j : Nat) : Nat := x.toNat / 2 ^ (w * j) % 2 ^ w
/-- A lane built of elements of width `w`, each reduced mod 2^w. -/
def laneOf (w : Nat) (f : Nat → Nat) : Lane :=
  BitVec.ofNat 32 ((List.range (32 / w)).foldl (fun n j => n + f j % 2 ^ w * 2 ^ (w * j)) 0)

/-- Whether a lane is active under a mask. -/
def laneOn (m : Mask) (l : Nat) : Bool := m.getLsbD l
def laneAt (v : Vec) (l : Nat) : Lane := v.getD l 0
/-- Active lanes of a mask, in order. -/
def lanesOf (m : Mask) : List Nat := (List.range 16).filter (fun l => m.getLsbD l)
/-- A vector built lane by lane. -/
def vecOf (f : Nat → Lane) : Vec := Vector.ofFn (fun (i : Fin 16) => f i.val)
/-- A lane-wise result under a guard: inactive lanes keep the old value. -/
def mergeVec (m : Mask) (old : Vec) (f : Nat → Lane) : Vec := vecOf (fun l => if laneOn m l then f l else laneAt old l)
/-- A mask built lane by lane under a guard: inactive lanes give 0. -/
def maskOf (m : Mask) (f : Nat → Bool) : Mask :=
  BitVec.ofNat 16 ((List.range 16).foldl (fun n l => if laneOn m l && f l then n + 2 ^ l else n) 0)

end Sys2Proof.Machine
end

