-- ==== Sys2Proof/Machine/Atm.lean ====
section
/-!
DEFINITION. The ATM group (R211 to R218).
-/
namespace Sys2Proof.Machine

/-- The release and acquire parts of an order-scope code (R211). -/
def relPart : Order → Option Scope
  | .rel s | .ar s => some s
  | _ => none
def acqPart : Order → Option Scope
  | .acq s | .ar s => some s
  | _ => none

/-- The core waits until its earlier accesses in scope have been performed (R205). -/
def performM (sc : Scope) : M Unit := do
  modify (fun s => s.releaseAt s.cur sc)
  let s ← get
  holdIf (s.c.sq.any (fun e => inScope s.cur sc e.home) || s.asyncIn s.cur (fun t => inScope s.cur sc (.core t))) .queue
/-- A release whose write the core itself holds (R205, R211): what earlier releases hold back comes before it too. -/
def releaseM (sc : Scope) : M Unit := do
  performM sc
  holdIf ((← get).c.sq.any (fun e => match e.op with | .release _ => true | _ => false)) .queue
def releaseOpt : Option Scope → M Unit
  | some sc => releaseM sc
  | none => pure ()
/-- An acquire (R205). -/
def acquireOpt : Option Scope → M Unit
  | some sc => modify (fun s => s.acquireAt s.cur sc)
  | none => pure ()

/-- Where an atomic goes: the windows of R163 that take atomics, or a translated address (R211).
(DEDUCED, log entry 19) -/
def locateAt (a : Acc) (ea size : Nat) : M Loc :=
  match regionOf ea with
  | some (.window .istore _ _) | some (.window .mistore _ _) | some (.window .acc _ _) =>
    raise .xlate ((⟨4, 0⟩ : XFail).einfo ea)
  | _ => locateM a ea size

/-- The checks of an ATM word (R188, R211, R213): `hostOk` says whether a host window takes it. -/
def atomCheck (c : TReg) (ea size : Nat) (need : BitVec 12) (a : Acc) (hostOk : Bool) : M Loc := do
  let _ ← capcheck c ea size need
  stepLocal ea
  let l ← locateAt a ea size
  raiseIf (l.host && !hostOk) .xlate ((⟨4, 0⟩ : XFail).einfo ea)
  raiseIf (decide (ea % size ≠ 0)) .align ea
  raiseIf l.remote .remote ea
  return l

/-- The core waits for an atomic's result: 6 cycles at its own scratchpad with an empty queue, else the round trip
(R212). -/
def State.atomWait (s : State) (quick : Bool) : State :=
  if quick then s.upd (fun c => { c with readyAt := max c.readyAt (s.cycle + 6) }) else s.block 0x160

/-- One read and update of `size` bytes at one instant (R212, R214, R216), after the release part: what was there. `upd`
gives the new value, if there is one; a host window answers through `host`, a RoCEv2 operation and its operands. -/
def atomAt (l : Loc) (ea size : Nat) (upd : Word → Option Word) (host : Nat × Word × Word) : M Word := do
  let s ← get
  if s.c.inStack ea then
    let x ← stackGranule l ea
    let bs := leBytes x.val.toNat 16
    let old := BitVec.ofNat 64 (leNat ((bs.drop (ea % 16)).take size))
    match upd old with
    | some new => modify (fun s => s.putLine s.cur (ea / 16) { x with
        val := BitVec.ofNat 128 (leNat (bs.take (ea % 16) ++ leBytes new.toNat size ++ bs.drop (ea % 16 + size)))
        tag := false, dirty := true })
    | none => pure ()
    modify (·.atomWait false)
    return old
  else
    let home := homeOf l.key
    let quick := home == .core s.cur && s.c.sq == []
    inOrder home
    let s ← get
    if l.host then
      match s.hostAmo s.c.ctx l.key host.1 host.2.1 host.2.2 with
      | some (old, s) => do
        set (s.atomWait false)
        return old
      | none => raise .remote ea
    else
      raiseIf (s.poisoned l.key size) .mcheck (s.mcheckInfo l.key ea)
      let s := s.arriveBytes s.cur s.c.seq (fun a => decide (l.key ≤ a) && decide (a < l.key + size))
      let old := BitVec.ofNat 64 (leNat (readBytes s.mem l.key size))
      let s := match upd old with
        | some new => s.writeAt s.c.ctx l.key (leBytes new.toNat size)
        | none => s
      set (s.atomWait quick)
      return old

/-- An atomic that returns a result: checks, release part, the update at the home, acquire part (R211 to R216). -/
def atomTo (d b : GReg) (size : AtSize) (order : Order) (hostOk : Bool) (upd : Word → Option Word)
    (host : Nat × Word × Word) : M Unit := do
  let c := (← get).rdG b
  let ea := capAddr c
  let l ← atomCheck c ea (atBytes size) (permR ||| permW ||| permA) .atomic hostOk
  releaseOpt (relPart order)
  let old ← atomAt l ea (atBytes size) upd host
  setI d old 1
  acquireOpt (acqPart order)

/-- Low bits of a word, by an atomic's size. -/
def lowOf (size : AtSize) (x : Word) : Word :=
  match size with | .z32 => (x.setWidth 32).setWidth 64 | .z64 => x

def isAddSwap : AmoOp → Bool
  | .add | .swap => true
  | _ => false

/-- AMO (R214); a host window takes an 8-byte add or swap (R213). -/
def execAmo (op : AmoOp) (size : AtSize) (order : Order) (d a b : GReg) (s : State) : Host.Outcome State Fault Refusal :=
  let x := s.rdI a
  run (atomTo d b size order (size == .z64 && isAddSwap op) (fun old => some (amoNew op size old x))
    (if op = .swap then 0 else 1, x, 0)) s

/-- The FP32 operations of R215. -/
def amofNew (op : AmofOp) (old x : Lane) : Lane :=
  match op with
  | .add => (fAdd false .rne old x).1
  | .min => (fMinMax false false old x).1
  | .max => (fMinMax true false old x).1

/-- AMOF: no flags and no FTZ (R215). -/
def execAmof (op : AmofOp) (order : Order) (d a b : GReg) (s : State) : Host.Outcome State Fault Refusal :=
  let x := s.rdI a
  run (atomTo d b .z32 order false (fun old => some ((amofNew op (old.setWidth 32) (x.setWidth 32)).setWidth 64)) (0, 0, 0)) s

/-- CAS: gD is expected value and destination (R216). -/
def execCas (size : AtSize) (order : Order) (d a b : GReg) (s : State) : Host.Outcome State Fault Refusal :=
  let x := s.rdI a
  let want := s.rdI d
  run (atomTo d b size order (size == .z64) (fun old => if old = lowOf size want then some x else none) (2, x, want)) s

/-- LDAQ (R217). -/
def execLdaq (size : AtSize) (scope : Scope) (d b : GReg) (s : State) : Host.Outcome State Fault Refusal :=
  run (do
    let c := (← get).rdG b
    let ea := capAddr c
    let l ← atomCheck c ea (atBytes size) permR .load true
    if l.host && !(← get).c.inStack ea then
      inOrder .hub
      let (bs, _) ← loadBytes l ea (atBytes size)
      setI d (BitVec.ofNat 64 (leNat bs)) 1
    else
      let old ← atomAt l ea (atBytes size) (fun _ => none) (0, 0, 0)
      setI d old 1
    acquireOpt (some scope)) s

/-- A release that does not block: a marker before the write it holds (R205, R218). -/
def markerOpt : Option Scope → M Unit
  | some sc => modify (·.enqueue (.release sc) .hub)
  | none => pure ()
def markerRoom : Option Scope → Nat
  | some _ => 2
  | none => 1

/-- STRL: a release, then a store with the tag cleared (R217). -/
def execStrl (size : AtSize) (scope : Scope) (a b : GReg) (s : State) : Host.Outcome State Fault Refusal :=
  run (do
    let s ← get
    let c := s.rdG b
    let x := s.rdI a
    let ea := capAddr c
    let n := atBytes size
    let l ← atomCheck c ea n permW .store true
    if s.c.inStack ea then
      releaseM scope
      storeBytes l ea (leBytes x.toNat n) false
    else
      roomFor 2
      markerOpt (some scope)
      storeBytes l ea (leBytes x.toNat n) false) s

/-- AMONR: AMO without a result, not blocking once queued (R218). On the core's own stack it acts on the stack cache. -/
def execAmonr (op : AmoOp) (size : AtSize) (order : Order) (a b : GReg) (s : State) : Host.Outcome State Fault Refusal :=
  run (do
    let s ← get
    let c := s.rdG b
    let x := s.rdI a
    let ea := capAddr c
    let l ← atomCheck c ea (atBytes size) (permR ||| permW ||| permA) .atomic (size == .z64 && isAddSwap op)
    if s.c.inStack ea then
      releaseOpt (relPart order)
      let _ ← atomAt l ea (atBytes size) (fun old => some (amoNew op size old x)) (0, 0, 0)
    else if l.host then
      raiseIf (!s.hostAnswers l.key 8) .remote ea
      roomFor (markerRoom (relPart order))
      markerOpt (relPart order)
      modify (·.enqueue (.hostAmo l.key op x) .hub)
    else
      raiseIf (s.poisoned l.key (atBytes size)) .mcheck (s.mcheckInfo l.key ea)
      roomFor (markerRoom (relPart order))
      markerOpt (relPart order)
      modify (·.enqueue (.amo op size l.key x) (homeOf l.key))) s

end Sys2Proof.Machine
end

