-- ==== Sys2Proof/Machine/Ctl.lean ====
section
/-!
DEFINITION. The CTL group (R148 to R153): branches, calls, LOOP, and the frames of the stack.
-/
namespace Sys2Proof.Machine

/-- The target a branch word takes on the executing core (R126, R150). -/
def State.branchTo (s : State) (i : Instr) : Option (BitVec 12) := (branchOf s.c s.cycle s.c.wordPc i).getD none

/-- "Link": PC + 1 to G[1], latency 1 (R150). -/
def State.link (s : State) : State := s.wrI 1 ((s.c.wordPc + 1).setWidth 64) 1

/-- BR (R150). -/
def execBr (off : BitVec 17) (s : State) : Host.Outcome State Fault Refusal := .next (s.finish (s.branchTo (.br off)))

/-- BCC: taken when the operands differ (R150, R140). -/
def execBcc (a b : GReg) (off : BitVec 17) (s : State) : Host.Outcome State Fault Refusal :=
  .next (s.branchEnd (s.branchTo (.bcc a b off)))

/-- BK: taken when the masks share a bit (R150, R140). -/
def execBk (a b : KReg) (off : BitVec 17) (s : State) : Host.Outcome State Fault Refusal :=
  .next (s.branchEnd (s.branchTo (.bk a b off)))

/-- CALL (R150). -/
def execCall (off : BitVec 17) (s : State) : Host.Outcome State Fault Refusal :=
  .next (s.link.finish (s.branchTo (.call off)))

/-- CALLR reads gA before the link is written (R150). -/
def execCallr (a : GReg) (s : State) : Host.Outcome State Fault Refusal :=
  .next (s.link.finish (s.branchTo (.callr a)))

/-- RET (R150). -/
def execRet (s : State) : Host.Outcome State Fault Refusal := .next (s.finish (s.branchTo .ret))

/-- JMPR (R150, R140). -/
def execJmpr (a : GReg) (s : State) : Host.Outcome State Fault Refusal :=
  .next (if s.c.latch.src = .item then s.jumpItem ((s.rdI a).setWidth 12) else s.branchOwn (s.branchTo (.jmpr a)))

/-- LOOP decrements and tests (R151). -/
def execLoop (a : GReg) (off : BitVec 17) (s : State) : Host.Outcome State Fault Refusal :=
  .next ((s.wrI a (s.rdI a - 1) 1).branchEnd (s.branchTo (.loop a off)))

/-- A capability with its address replaced, the tag kept (R114). -/
def withAddr (c : TReg) (x : Word) : TReg := ⟨BitVec.ofNat 128 (c.val.toNat / 2 ^ 64 * 2 ^ 64 + x.toNat), c.tag⟩

/-- ENTER's effect (R152). (DEDUCED, log entry 49) -/
def enterFrame (n : Nat) : M Unit := do
  let s ← get
  let c := s.c.readG s.cycle 2
  let old := capAddr c
  let new : Int := (old : Int) - 16 * n
  let ea := (new % 2 ^ 64).toNat
  raiseIf (decide (old % 16 ≠ 0)) .align old
  raiseIf (decide (new < s.c.slim.toNat)) .stack ea
  let l ← access c ea 16 permW .store
  storeBytes l ea (leBytes old 16) false
  setG 2 (withAddr c (BitVec.ofNat 64 ea)) 1

/-- ENTER (R152). -/
def execEnter (n : BitVec 10) (s : State) : Host.Outcome State Fault Refusal := run (enterFrame n.toNat) s

/-- LEAVE's effect (R153). -/
def leaveFrame : M Unit := do
  let s ← get
  let c := s.c.readG s.cycle 2
  let ea := capAddr c
  let l ← access c ea 8 permR .load
  let (bs, _) ← loadBytes l ea 8
  let link := leNat bs
  raiseIf (decide (link ≤ ea) || decide (s.c.sbase.toNat < link) || decide (link % 16 ≠ 0)) .stack link
  setG 2 (withAddr c (BitVec.ofNat 64 link)) 1

/-- LEAVE (R153). -/
def execLeave (s : State) : Host.Outcome State Fault Refusal := run leaveFrame s

end Sys2Proof.Machine
end

