-- ==== Sys2Proof/Machine/Cap.lean ====
section
/-!
DEFINITION. The CAP group but its grant writes (R113 to R119).
-/
namespace Sys2Proof.Machine

/-- CGET (R113): `base` and `length` apply the first two tests of R102; a fault's EINFO holds the capability's address.
(DESIGN CHOICE, log entry 65) -/
def execCget (d a : GReg) (field : CapField) (s : State) : Host.Outcome State Fault Refusal :=
  run (do
    let c := (← get).rdG a
    let x ← match field with
      | .addr => pure (capAddr c)
      | .gid => pure (capGid c)
      | .perm => pure (capPerm c).toNat
      | .gen => pure (capGen c).toNat
      | .tag => pure (if c.tag then 1 else 0)
      | .base => do
        let e ← capLive c (capAddr c)
        pure e.base
      | .length => do
        let e ← capLive c (capAddr c)
        pure e.len
    setI d (BitVec.ofNat 64 x)) s

/-- CSETA (R114). -/
def execCseta (d a b : GReg) (s : State) : Host.Outcome State Fault Refusal :=
  run (modify (fun s => s.wrG d (withAddr (s.rdG a) (s.rdI b)) 1)) s

/-- CADD (R115). -/
def execCadd (d a : GReg) (imm : BitVec 17) (s : State) : Host.Outcome State Fault Refusal :=
  run (modify (fun s => s.wrG d (withAddr (s.rdG a) ((s.rdG a).int + simm imm)) 1)) s

/-- Bits 91:80 of a register narrowed by a mask (R116). -/
def narrowed (c : TReg) (perms : BitVec 12) : TReg :=
  ⟨c.val &&& ~~~((~~~perms).setWidth 128 <<< 80), c.tag⟩

/-- CANDP (R116). -/
def execCandp (d a : GReg) (perms : BitVec 12) (s : State) : Host.Outcome State Fault Refusal :=
  run (modify (fun s => s.wrG d (narrowed (s.rdG a) perms) 1)) s

/-- A grant id from a register, below the table's size (R103, R117, R120, R121). -/
def grantId (a : GReg) : M Nat := do
  let s ← get
  let id := (s.rdI a).toNat % 2 ^ 16
  raiseIf (decide (2 ^ (s.getX s.c.ctx).log2n ≤ id)) .stalegrant id
  return id

/-- CFROM (R117). -/
def execCfrom (d a b : GReg) (s : State) : Host.Outcome State Fault Refusal :=
  run (do
    let s ← get
    let p ← if s.c.sys && b.val == 0 then pure (0xFFF : BitVec 12)
      else do
        let c := s.rdG b
        let _ ← capcheck c (capAddr c) 0 permD
        pure (capPerm c)
    let id ← grantId a
    let e ← grantEntry id
    raiseIf (!e.valid) .stalegrant id
    setG d (mkCap e.gen (e.perm &&& p) id e.base) 1) s

/-- CCLR (R118). -/
def execCclr (d a : GReg) (s : State) : Host.Outcome State Fault Refusal :=
  run (modify (fun s => s.wrG d ⟨(s.rdG a).val, false⟩ 1)) s

/-- The causes CCHK reports as values (R119). -/
def capCause (x : BitVec 8) : Bool :=
  x == Cause.tag.code || x == Cause.stalegrant.code || x == Cause.perm.code || x == Cause.bounds.code

/-- CCHK: the check of R102 as a value (R119). A grant table that cannot be read faults as any use of it does. -/
def execCchk (d a b : GReg) (s : State) : Host.Outcome State Fault Refusal :=
  run (do
    let s ← get
    let c := s.rdG b
    let x := (s.rdI a).toNat
    match (capcheck c (capAddr c) (x % 2 ^ 52) (BitVec.ofNat 12 (x / 2 ^ 52))).on s with
    | (.ok _, t) => do
      set t
      setI d 0
    | (.error (.trap t), u) => do
      set u
      if capCause t.cause then setI d (t.cause.setWidth 64) else throw (.trap t)
    | (.error e, u) => do
      set u
      throw e) s

end Sys2Proof.Machine
end

