-- ==== Sys2Proof/Machine/Ring.lean ====
section
/-!
DEFINITION. Words that take a fault-ring entry (R455 to R458): a vector or matrix word at issue and at replay, what a
fault leaves, and FPX (R245).
-/
namespace Sys2Proof.Machine

/-- A fault of a vector word, as its ring entry holds it (R455). -/
structure VFault where
  cause : BitVec 8
  cls : BitVec 8 := 1
  count : Nat
  addr : Word
  /-- Counted as E5 does (R525). -/
  e5 : Bool := false
  deriving DecidableEq, Repr

/-- Whether an undelivered vector fault has stopped the vector unit (R245, R290). -/
def Core.unitStopped (c : Core) : Bool := c.ring.any (fun e => e.2.status == 1 && e.2.cls == 1 && !e.2.told)

/-- Whether the slot the next ring word takes still holds status 1 or 2 (R455). -/
def Core.slotBusy (c : Core) : Bool :=
  match mfind c.ring (c.ringHead.toNat % 64) with
  | some r => r.status != 0
  | none => false

/-- The PC a ring entry of the word in issue holds: a replayed word keeps its first entry's (R455, R458). -/
def Core.ringPc (c : Core) : BitVec 12 :=
  match c.latch.src with
  | .replay q => ((c.ringAt q).map (·.pc)).getD c.wordPc
  | _ => c.wordPc

/-- The next ring entry, for the word in issue (R455). -/
def Core.newEntry (c : Core) (status : BitVec 8) : RingEntry where
  seq := c.ringHead
  status := status
  cls := if matrixWord c.latch.word then 2 else 1
  eword := c.latch.word
  pc := c.ringPc
  half := c.latch.half
/-- An entry is written, and RINGHEAD advances. -/
def Core.pushEntry (c : Core) (r : RingEntry) : Core :=
  { c with ring := mset c.ring (c.ringHead.toNat % 64) r, ringHead := c.ringHead + 1 }
def Core.takeEntry (c : Core) (status : BitVec 8) : Core := c.pushEntry (c.newEntry status)
/-- The entry that a later fault of the word in issue goes to: the one it is about to take, or the one a replay resolves
(R455, R458). -/
def Core.ownEntry (c : Core) : RingEntry := match c.latch.src with
  | .replay q => ((c.ringAt q).getD (c.newEntry 0)).done
  | _ => c.newEntry 0

/-- The entry of a sequence number, when the ring holds it, resolved. -/
def Core.resolve (c : Core) (seq : BitVec 32) : Core :=
  match c.ringAt seq with
  | some r => { c with ring := mset c.ring (seq.toNat % 64) r.done }
  | none => c

/-- A fault recorded against a new entry of the word in issue; PEND is set (R245, R290, R456). -/
def Core.ringFault (c : Core) (f : VFault) : Core :=
  { c.pushEntry (({ c.newEntry 0 with e5 := f.e5 } : RingEntry).failed f.cause f.cls f.count f.addr) with tr := { c.tr with pend := true } }

/-- A word that takes a ring entry. `body` starts at an element and says whether it faulted; a word held at issue has
changed nothing. -/
def ringWordM (body : Nat → M (Option VFault)) : M Unit := do
  let s ← get
  match s.c.latch.src with
  | .replay q =>
    if s.c.tr.pend && !s.c.tr.exl then throw .deliver
    -- R458: a faulted VMEM word goes on where it stopped; a new fault takes an entry of its own
    let start := match s.c.ringAt q with
      | some r => if r.status = 1 then r.count.toNat else 0
      | none => 0
    match ← body start with
    | none => modify (·.upd (·.resolve q))
    | some f =>
      if s.c.slotBusy then do set s; holdOn .slot
      else modify (·.upd (fun c => (if f.cause = Cause.fpx.code then c.resolve q else c).ringFault f))
  | _ =>
    if s.c.tr.pend && !s.c.tr.exl then throw .deliver
    holdIf s.c.slotBusy .slot
    if s.c.tr.pend && s.c.unitStopped then modify (·.upd (·.takeEntry 2))
    else
      match ← body 0 with
      | none => modify (·.upd (·.takeEntry 0))
      | some f => modify (·.upd (·.ringFault f))

/-- An instruction that takes a ring entry. -/
def runRing (body : Nat → M (Option VFault)) (s : State) : Host.Outcome State Fault Refusal := run (ringWordM body) s

/-- A vector word that cannot fault. -/
def runVec (f : State → State) (s : State) : Host.Outcome State Fault Refusal :=
  runRing (fun _ => do modify f; return none) s

/-! ## FPX (R243, R245) -/

/-- The union of the flags of some lanes. -/
def orFlags (ls : List Nat) (fl : Nat → FFlags) : FFlags := ls.foldl (fun x l => x ||| fl l) 0

/-- The record of an FPX: the enabled flags raised and the lanes `ls` that raised them, with a count (R245). -/
def fpxRecord (en : FFlags) (count : Nat) (ls : List Nat) (fl : Nat → FFlags) : Option VFault :=
  let hot := ls.filter (fun l => fl l &&& en != 0)
  if hot = [] then none
  else some { cause := Cause.fpx.code, count := count
              addr := BitVec.ofNat 64 ((orFlags ls fl &&& en).toNat + hot.foldl (fun n l => n + 2 ^ (16 + l)) 0) }

/-- Flags of the active lanes raised: FPFLAGS collects them, and an enabled one faults the word (R243, R245). -/
def raiseFlags (m : Mask) (fl : Nat → FFlags) : M (Option VFault) := do
  let s ← get
  let ls := lanesOf m
  set (s.upd (fun c => { c with fpflags := c.fpflags ||| orFlags ls fl }))
  return fpxRecord s.c.fpEnable ls.length ls fl

/-- A guarded FP word: each active lane's result and flags, from the state at issue. -/
def fpVec (k : KReg) (d : VReg) (lat : Nat) (f : State → Nat → FRes) : M (Option VFault) := do
  let s ← get
  let m := s.rdK k
  let r : Vec := vecOf (fun l => if laneOn m l then (f s l).1 else 0)
  let fl : List FFlags := (List.range 16).map (fun l => if laneOn m l then (f s l).2 else 0)
  set (s.wrV d (mergeVec m (s.rdV d) (laneAt r)) lat)
  raiseFlags m (fun l => fl.getD l 0)

end Sys2Proof.Machine
end

