-- ==== Sys2Proof/Machine/Syn.lean ====
section
/-!
DEFINITION. The SYN group (R210, R219 to R233).
-/
namespace Sys2Proof.Machine

/-- What woke the executing word from a wait, when it waits so (`none` while it sleeps). -/
def wokenFrom (w : Wait) : M (Option Word) := ask (fun s => if s.c.wait = some w then s.c.woken else none)

/-! ## FENCE -/

/-- FENCE: dirty stack lines are written back; then its release and acquire parts, and for SEQ the earlier writes in
scope (R205, R210). -/
def execFence (kind : FenceKind) (scope : Scope) (s : State) : Host.Outcome State Fault Refusal :=
  run (do
    modify (fun s => s.flushStack s.cur)
    match kind with
    | .acq => acquireOpt (some scope)
    | .rel => do
      roomFor 1
      markerOpt (some scope)
    | .ar => do
      roomFor 1
      markerOpt (some scope)
      acquireOpt (some scope)
    | .seq => do
      performM scope
      acquireOpt (some scope)) s

/-! ## Barriers -/

/-- The copy of a barrier the executing core uses (R219), and its scope (R204). -/
def State.barUnitOf (s : State) (bar : Nat) : Nat := barUnit (dieOfCore s.cur) bar
def barScope (bar : Nat) : Scope := if bar < 192 then .die else .pkg

/-- BINIT (R223). -/
def execBinit (a : GReg) (bar : BitVec 8) (s : State) : Host.Outcome State Fault Refusal :=
  run (do
    let s ← get
    let x := (s.rdI a).toNat
    let n := bar.toNat
    raiseIf (decide (x = 0) || decide (4608 < x)) .bounds (barInfo 1 n)
    let u := s.barUnitOf n
    let b := s.getBar s.c.ctx u n
    let s := s.setBar s.c.ctx u n { b with count := x, arrived := 0, pending := 0, broken := false }
    set (((s.admitHeld s.c.ctx u n).testBar s.c.ctx u n).block 0x170)) s

/-- BEXP: after the core's earlier queued writes, tested at the unit (R221, R224). -/
def execBexp (a : GReg) (bar : BitVec 8) (s : State) : Host.Outcome State Fault Refusal :=
  run (do
    let x := ((← get).rdI a).toInt
    modify (fun s => s.drainAll s.cur)
    let s ← get
    holdIf (s.unsent s.cur) .queue
    let n := bar.toNat
    let u := s.barUnitOf n
    let b := s.getBar s.c.ctx u n
    if pendingOk (b.pending + x) then
      set (((s.setBar s.c.ctx u n { b with pending := b.pending + x }).testBar s.c.ctx u n).block 0x171)
    else do
      set (s.breakBar s.c.ctx u n)
      raise .bounds (barInfo 2 n)) s

/-- BARR: a release, then an arrival; an excess arrival waits for the next phase (R225). -/
def execBarr (d : GReg) (bar : BitVec 8) (s : State) : Host.Outcome State Fault Refusal :=
  run (do
    let n := bar.toNat
    let u := (← get).barUnitOf n
    let ctx := (← get).c.ctx
    match ← wokenFrom (.barArrive ctx u n) with
    | some phase => setI d phase
    | none => do
      -- an excess arrival that the unit holds has passed its tests
      holdIf (decide ((← get).c.wait = some (.barArrive ctx u n))) (.barArrive ctx u n)
      releaseM (barScope n)
      let s ← get
      let b := s.getBar ctx u n
      raiseIf (decide (b.count = 0)) .bounds (barInfo 4 n)
      raiseIf b.broken .bounds (barInfo 3 n)
      if b.arrived < b.count then
        set ((s.setBar ctx u n { b with arrived := b.arrived + 1 }).testBar ctx u n)
        setI d (if b.phase then 1 else 0)
        modify (·.block 0x172)
      else do
        set (s.setBar ctx u n { b with heldBy := b.heldBy.filter (fun m => m != s.cur) ++ [s.cur] })
        holdOn (.barArrive ctx u n)) s

/-- BWAIT: the phase test first, then a broken barrier (R226). -/
def execBwait (a : GReg) (bar : BitVec 8) (s : State) : Host.Outcome State Fault Refusal :=
  run (do
    let s ← get
    let n := bar.toNat
    let u := s.barUnitOf n
    let b := s.getBar s.c.ctx u n
    let w := Wait.barrier s.c.ctx u n
    let woken ← wokenFrom w
    if woken.isSome ∨ b.phase ≠ (s.rdI a).getLsbD 0 then acquireOpt (some (barScope n))
    else do
      raiseIf b.broken .bounds (barInfo 3 n)
      holdOn w) s

/-! ## WAITM -/

/-- The checks of WAITM (R227): only translated memory and scratchpads can be watched. -/
def waitmCheck (c : TReg) (ea size : Nat) : M Loc := atomCheck c ea size permR .load false

/-- The watched value, performed at the home after the core's own queued writes to it. -/
def waitmRead (l : Loc) (ea size : Nat) : M Word := do
  if (← get).c.inStack ea then
    let (bs, _) ← loadBytes l ea size
    return BitVec.ofNat 64 (leNat bs)
  else
    modify (fun s => s.drainUpTo s.cur (fun e => e.touches l.key size))
    let s ← get
    holdIf (s.c.sq.any (fun e => e.touches l.key size)) .queue
    raiseIf (s.poisoned l.key size) .mcheck (s.mcheckInfo l.key ea)
    return BitVec.ofNat 64 (leNat (readBytes s.mem l.key size))

/-- WAITM: the access is checked once, and translated for each read; the core sleeps until the value differs (R227).
(DESIGN CHOICE, log entry 25) -/
def execWaitm (size : AtSize) (scope : Scope) (d a b : GReg) (s : State) : Host.Outcome State Fault Refusal :=
  run (do
    let s ← get
    let c := s.rdG b
    let want := lowOf size (s.rdI a)
    let ea := capAddr c
    let n := atBytes size
    let l ← match s.c.wait with
      | some (.memory _ _) => do
        let l ← locateM .load ea n
        raiseIf l.remote .remote ea
        pure l
      | _ => waitmCheck c ea n
    let v ← waitmRead l ea n
    if v = want then holdOn (.memory l.key (capGid c))
    else do
      modify (·.block 0x173)
      setI d v
      acquireOpt (some scope)) s

/-! ## Message ports -/

/-- MSEND: checked as an 8-byte store to the target's scratchpad window, then queued as a deposit (R231, R437). -/
def execMsend (async core : Bool) (port : BitVec 3) (a b : GReg) (s : State) : Host.Outcome State Fault Refusal :=
  run (do
    if core then privileged
    stepLocalPost
    let s ← get
    let t := (s.rdI a).toNat % 2 ^ 13
    let ea := (if core then 0x00F1 else 0x00F5) * 2 ^ 48 + t * 2 ^ 20
    let l ← locateM .store ea 8
    raiseIf l.remote .remote ea
    roomFor 1
    let target := (l.key - spadBase) / 0x100000
    modify (fun s => s.enqueue (.deposit target (s.getC target).task port.toNat (s.rdI b) async ea) (homeOf l.key))) s

/-- A waiting `.a` deposit is applied once its port is free, the lowest sender first (R232, R234).
(DESIGN CHOICE, log entry 26) -/
def State.applyAsync (s : State) (core port : Nat) : State :=
  let c := s.getC core
  if c.portfull.getLsbD port then s
  else
    match (c.asyncs.filter (fun x => x.2.1 == port)).foldl (fun (b : Option (Nat × Nat × Word × Nat)) x => match b with
        | none => some x
        | some y => if x.1 < y.1 then some x else b) none with
    | none => s
    | some x => (s.updC core (fun c => { c with asyncs := c.asyncs.filter (fun y => y != x) })).applyDeposit core port x.2.2.1

/-- PGET (R233). -/
def execPget (d : GReg) (port : BitVec 3) (s : State) : Host.Outcome State Fault Refusal :=
  run (do
    let s ← get
    let n := port.toNat
    holdIf (!s.c.portfull.getLsbD n) (.port n)
    setI d (s.c.readG s.cycle (48 + n)).int
    modify (fun s => (s.upd (fun c => { c with portfull := c.portfull &&& ~~~(BitVec.ofNat 16 (2 ^ n)) })).applyAsync s.cur n)) s

end Sys2Proof.Machine
end

