-- ==== Sys2Proof/Machine/Mtx.lean ====
section
/-!
DEFINITION. The MTX group (R334 to R342): posts and their checks, gangs, MWAIT, MTBL and MQRY.
-/
namespace Sys2Proof.Machine

/-- An instruction of group 0x10: it takes a ring entry and reports nothing through it itself (R331, R455). -/
def runMtx (m : M Unit) (s : State) : Host.Outcome State Fault Refusal := runRing (fun _ => do m; return none) s

/-! ## What a post reads (R320) -/

/-- Bytes read granule by granule, as blocking loads of the poster. -/
def readBlock (ea n : Nat) : M (List Byte) :=
  (List.range (n / 16)).foldlM (fun bs i => do
    let at' := ea + 16 * i
    let l ← locateM .load at' 16
    raiseIf l.remote .remote at'
    let (b, _) ← loadBytes l at' 16
    return bs ++ b) []

/-- The same byte by byte, where the address is no multiple of a granule. -/
def readOdd (ea n : Nat) : M (List Byte) :=
  (List.range n).foldlM (fun bs i => do
    let l ← locateM .load (ea + i) 1
    raiseIf l.remote .remote (ea + i)
    let (b, _) ← loadBytes l (ea + i) 1
    return bs ++ b) []

/-- The format block at FMTCAP, under R102. -/
def readFmt : M (List Byte) := do
  let c := (← get).c.fmtcap
  let _ ← capcheck c (capAddr c) 64 permR
  stepLocal (capAddr c)
  readBlock (capAddr c) 64

/-- FORMAT's EINFO (R315). -/
def formatInfo (kind wh : Nat) : Nat := kind * 2 ^ 60 + wh
def formatIf (x : Option Nat) (kind : Nat) : M Unit :=
  match x with
  | some o => raise .format (formatInfo kind o)
  | none => pure ()

/-- An operand range's capability and locality (R102, R437). -/
def operandCheck (c : TReg) (ea n : Nat) (need : BitVec 12) : M Unit := do
  let _ ← capcheck c ea n need
  stepLocal ea

/-- The first tests of R102 and the permissions, where bounds come later (R337). -/
def operandLive (c : TReg) (need : BitVec 12) : M Unit := do
  let e ← capLive c (capAddr c)
  raiseIf (need &&& ~~~(capPerm c &&& e.perm) != 0) .perm (capAddr c)

/-- Where an operand may lie: a translated address, or a scratchpad of the cluster; any other window is XLATE KIND 4. The entry
keeps the address and finds its home again when it executes (R323, R331). -/
def operandBase (a : Acc) (ea n : Nat) : M Nat := do
  if 2 ^ 55 ≤ ea then
    let l ← locateM a ea 16
    raiseIf (!spadInCluster (meOfIndex (← get).cur 0) l.key n) .xlate ((⟨4, 0⟩ : XFail).einfo ea)
    raiseIf l.remote .remote ea
  return ea

/-! ## Acceptance (R320) -/

/-- Whether a format names T4, and the table it takes. -/
def tableFor (m : Me) (code nib : Nat) : BitVec 256 := if code = 7 then mget 0 m.tabs nib else 0

/-- An entry placed in a free slot of an ME's table: earlier MTBLs of the core have arrived, its code tables are copied,
OUT goes up. A full table, or an OUT of 63, holds the core. -/
def postEntry (me : Nat) (e : MeEntry) (codeA nibA codeB nibB : Nat) : M Nat := do
  let s ← get
  holdIf (decide (63 ≤ s.c.out)) .passes
  holdIf (decide (16 ≤ (s.getM me).entries.length)) .accept
  let mine := (s.getM me).mtbl.filter (fun x => x.2.2 == s.cur)
  let s := s.updM me (fun m => mine.foldl (fun m x => m.takeTable x) m)
  let m := s.getM me
  let id := s.nextMe + 1
  let e := { e with
    id := id, core := s.cur, ctx := s.c.ctx, task := s.c.task, sys := s.c.sys, ring := s.c.ownEntry
    tabA := tableFor m codeA nibA, tabB := tableFor m codeB nibB, arr := m.nextArr, since := s.cycle }
  let s := { s with nextMe := id }
  let s := s.updM me (fun m => { m with entries := m.entries ++ [e], nextArr := m.nextArr + 1 })
  set (((s.upd (fun c => { c with out := c.out + 1 })).markReady me).block 0x510)
  return id

/-- What every post fills in later. -/
def blankEntry (kind : MeKind) : MeEntry := { id := 0, core := 0, ctx := 0, task := none, sys := false, kind := kind }

/-! ## Words -/

/-- MFMT (R334). -/
def execMfmt (b : GReg) (s : State) : Host.Outcome State Fault Refusal :=
  runMtx (do
    let c := (← get).rdG b
    let _ ← capcheck c (capAddr c) 64 permR
    raiseIf (decide (capAddr c % 64 ≠ 0)) .align (capAddr c)
    modify (·.upd (fun k => { k with fmtcap := c }))) s

/-- The status of MGANG (R335). -/
def State.gangStatus (s : State) (x y : Nat) (n : Nat) : Nat × List Nat :=
  let slot := fun i => if i < 4 then x / 2 ^ (16 * i) % 2 ^ 16 else y / 2 ^ (16 * (i - 4)) % 2 ^ 16
  let ms := (List.range n).map slot
  let rest := (List.range 6).filter (fun i => decide (n ≤ i))
  let task := match s.c.task with | some t => s.task? t | none => none
  let width := match task with | some t => t.width | none => 0
  let cores := ms.filterMap (fun m => match task with | some t => (t.memberCore m).map Prod.fst | none => none)
  if ms.any (fun m => decide (8192 ≤ m)) ∨ rest.any (fun i => decide (slot i ≠ 0)) then (2, [])
  else if ms.any (fun m => decide (width ≤ m)) ∨ cores.length ≠ n then (1, [])
  else if (cores.map quadOfCore).eraseDups.length ≠ n ∨ cores.any (fun k => decide (clusterOfCore k ≠ clusterOfCore s.cur))
      ∨ !ms.contains s.c.member then (3, [])
  else (0, ms)

/-- MGANG (R335); with n = 0 the gang is cleared. -/
def execMgang (d a b : GReg) (n : BitVec 3) (s : State) : Host.Outcome State Fault Refusal :=
  runMtx (do
    let s ← get
    let r := if n = 0 then (0, []) else s.gangStatus (s.rdI a).toNat (s.rdI b).toNat n.toNat
    setI d (BitVec.ofNat 64 r.1)
    modify (·.upd (fun c => { c with gang := r.2, gangPosts := 0 }))) s

/-- The cores of the gang as they stand at a gang post; a slot that no longer resolves is FORMAT KIND 4 (R335, R336). -/
def gangCores : M (List Nat) := do
  let s ← get
  raiseIf (s.c.gang == []) .format (formatInfo 4 0)
  let task := match s.c.task with | some t => s.task? t | none => none
  let held := fun (m : Nat) => match task with
    | some t => (match t.memberCore m with | some (k, true) => some k | _ => none)
    | none => none
  formatIf ((List.range s.c.gang.length).find? (fun i => (held (s.c.gang.getD i 0)).isNone)) 4
  return s.c.gang.filterMap held

/-- The gang, the operand ranges and their places of a pass with format block `f` (R336, R320): the gang's cores, and where A, its
scales, B and its scales lie. -/
def passOperands (f : List Byte) (k : Nat) (ca cb : TReg) (gang : Bool) : M (List Nat × Nat × Nat × Nat × Nat) := do
  let cores ← if gang then gangCores else pure []
  let ea := capAddr ca
  let eb := capAddr cb
  let na := footBytes f 8 0 k
  let nb := footBytes f 12 1 k
  let hasA := byteAt f 3 % 16 = 1
  let hasB := byteAt f 3 / 16 = 1
  let ns := 32 * (k / 2 ^ byteAt f 4)
  operandCheck ca ea na (permR ||| permM)
  if hasA then operandCheck ca (field f 16 8) ns (permR ||| permM)
  operandCheck cb eb nb (permR ||| permM)
  if hasB then operandCheck cb (field f 24 8) ns (permR ||| permM)
  raiseIf (decide (ea % 16 ≠ 0)) .align ea
  raiseIf (decide (eb % 16 ≠ 0)) .align eb
  let xa ← operandBase .load ea na
  let xsa ← if hasA then operandBase .load (field f 16 8) ns else pure 0
  let xb ← operandBase .load eb nb
  let xsb ← if hasB then operandBase .load (field f 24 8) ns else pure 0
  return (cores, xa, xsa, xb, xsb)

/-- K of a pass, and the first bad bit of its descriptor (R316, R327). -/
def passK (desc : Word) : Nat := 32 * (bitsOf desc.toNat 23 16 + 1)
def passWordBad (f : List Byte) (desc : Word) (gang : Bool) : Option Nat :=
  let rank := decide (byteAt f 2 = 0x0D)
  let kmax := match rowOfCode (byteAt f 0) with | some r => r.kmax | none => 0
  passDescBad desc.toNat rank gang kmax (if rank then rankRows (byteAt f 7) else 1)

/-- MPASS's post (R336). -/
def passPost (d a b : GReg) (gang : Bool) : M Unit := do
  let f ← readFmt
  let s ← get
  let desc := s.rdI d
  formatIf (passFmtBad f (passK desc) false) 1
  formatIf (passWordBad f desc gang) 2
  let (cores, xa, xsa, xb, xsb) ← passOperands f (passK desc) (s.rdG a) (s.rdG b) gang
  releaseM .cluster
  let rank := decide (byteAt f 2 = 0x0D)
  let me := if gang then meOfCore s.cur else meOfIndex s.cur (bitsOf desc.toNat 10 8)
  let _ ← postEntry me { blankEntry (.pass rank xa xb xsa xsb) with
      desc := desc, fmt := f, capA := s.rdG a, capB := s.rdG b, prio := bitsOf desc.toNat 15 12
      bound := if rank then s.c.bound else none, gang := cores, nth := s.c.gangPosts + 1 }
    (byteAt f 0) (byteAt f 40 % 16) (byteAt f 1) (byteAt f 40 / 16)
  if rank then modify (·.upd (fun c => { c with bound := none }))
  if gang then modify (·.upd (fun c => { c with gangPosts := c.gangPosts + 1 }))

/-- A gang post just accepted joins its latch, its ring entry taken (R324, R331, R455). -/
def State.joinGang (s : State) (seq : BitVec 32) : State :=
  let me := meOfCore s.cur
  match (s.getM me).entries.find? (fun e => e.core == s.cur && e.ring.seq == seq && e.gang != [] && e.gangId == 0) with
  | some e => s.gangPost me e.id
  | none => s

/-- MPASS (R336). -/
def execMpass (d a b : GReg) (gang : Bool) (s : State) : Host.Outcome State Fault Refusal :=
  run (do
    let seq := s.c.ownEntry.seq
    ringWordM (fun _ => do passPost d a b gang; return none)
    if gang then modify (·.joinGang seq)) s

/-- The first bad byte of a list header (R328). -/
def listHeaderBad (h : List Byte) : Option Nat :=
  if field h 0 2 = 0 ∨ 4096 < field h 0 2 then some 0
  else if 5 < byteAt h 2 then some 2
  else if 16 ≤ byteAt h 3 then some 3
  else nonzeroIn h 4 31

/-- The locality of what a list pass will read (R437): the scales its format block names, and the operands of its entries. -/
def listLocal (f : List Byte) (ed count : Nat) : M Unit := do
  if (← get).c.strict then
    if byteAt f 3 % 16 = 1 then stepLocal (field f 16 8)
    if byteAt f 3 / 16 = 1 then stepLocal (field f 24 8)
    (List.range count).forM (fun i => do
      let x ← readBlock (ed + 32 + 32 * i) 32
      stepLocal (field x 8 8)
      stepLocal (field x 16 8))

/-- A list pass's header and the place of the list, with the checks of its capabilities (R328, R337). -/
def listOperands (f : List Byte) (cd ca cb : TReg) : M (List Byte × Nat) := do
  let ed := capAddr cd
  -- the header decides the size of the list, so its own 32 bytes are checked before it is read
  operandCheck cd ed 32 permR
  let h ← if ed % 32 = 0 then readBlock ed 32 else readOdd ed 32
  formatIf (listHeaderBad h) 3
  operandCheck cd ed (32 + 32 * field h 0 2) permR
  operandLive ca (permR ||| permM)
  operandLive cb (permR ||| permM)
  raiseIf (decide (ed % 32 ≠ 0)) .align ed
  listLocal f ed (field h 0 2)
  let at' ← operandBase .load ed (32 + 32 * field h 0 2)
  return (h, at')

/-- The first entry of a list pass is read at its post (R328). -/
def State.firstListEntry (s : State) (me id : Nat) : State :=
  match s.entry? me id with
  | some e => let x := s.readListEntry me e 0
    (x.2.2.updEntry me id (fun e => { e with cur := x.1, fail := x.2.1, rdy := none })).markReady me
  | none => s

/-- MLIST (R328, R337). -/
def execMlist (d a b : GReg) (s : State) : Host.Outcome State Fault Refusal :=
  runMtx (do
    let f ← readFmt
    let s ← get
    formatIf (passFmtBad f 32 true) 1
    let (h, at') ← listOperands f (s.rdG d) (s.rdG a) (s.rdG b)
    releaseM .cluster
    let me := meOfIndex s.cur (byteAt h 2)
    let id ← postEntry me { blankEntry (.list (field h 0 2) at') with
        fmt := f, capD := s.rdG d, capA := s.rdG a, capB := s.rdG b, prio := byteAt h 3 }
      (byteAt f 0) (byteAt f 40 % 16) (byteAt f 1) (byteAt f 40 / 16)
    modify (·.firstListEntry me id)) s

/-- MZERO (R338). -/
def execMzero (tile cm1 : BitVec 6) (me : BitVec 3) (s : State) : Host.Outcome State Fault Refusal :=
  runMtx (do
    let _ ← postEntry (meOfIndex s.cur me.toNat) (blankEntry (.zero tile.toNat (cm1.toNat + 1))) 0 0 0 0) s

/-- The checks of MLDC and MSTC, and the entry's parts (R339). -/
def tileCheck (d b : GReg) (store : Bool) : M (List Byte × Word × TReg × Nat) := do
  let f ← readFmt
  let s ← get
  formatIf (tileFmtBad f store) 1
  let desc := s.rdI d
  let w := widthOfCode (byteAt f 5)
  formatIf (tileDescBad desc.toNat w) 2
  let c := s.rdG b
  let ea := capAddr c
  let n := 31 * bitsOf desc.toNat 63 32 + 4 * w
  operandCheck c ea n (if store then permW else permR)
  raiseIf (decide (ea % 16 ≠ 0)) .align ea
  let x ← operandBase (if store then .store else .load) ea n
  return (f, desc, c, x)

/-- MLDC (R339). -/
def execMldc (d b : GReg) (s : State) : Host.Outcome State Fault Refusal :=
  runMtx (do
    let (f, desc, c, x) ← tileCheck d b false
    let _ ← postEntry (meOfIndex s.cur (bitsOf desc.toNat 10 8)) { blankEntry (.ldc x) with desc := desc, fmt := f, capB := c }
      (byteAt f 5) (byteAt f 40) 0 0) s

/-- MSTC (R339). -/
def execMstc (d a b : GReg) (s : State) : Host.Outcome State Fault Refusal :=
  runMtx (do
    let (f, desc, c, x) ← tileCheck d b true
    let seq := (s.rdI a).setWidth 32
    let _ ← postEntry (meOfIndex s.cur (bitsOf desc.toNat 10 8)) { blankEntry (.stc x seq) with desc := desc, fmt := f, capB := c }
      0 0 0 0) s

/-- MWAIT: OUT at most n, then an acquire at PKG (R323, R340). -/
def execMwait (n : BitVec 6) (s : State) : Host.Outcome State Fault Refusal :=
  runMtx (do
    holdIf (decide (n.toNat < (← get).c.out)) .passes
    acquireOpt (some .pkg)) s

/-- MTBL (R341). -/
def execMtbl (me tbl : BitVec 3) (b : GReg) (s : State) : Host.Outcome State Fault Refusal :=
  runMtx (do
    let c := (← get).rdG b
    let ea := capAddr c
    let _ ← capcheck c ea 32 permR
    stepLocal ea
    raiseIf (decide (ea % 32 ≠ 0)) .align ea
    let l ← locateM .load ea 16
    raiseIf l.remote .remote ea
    let bs ← readBlock ea 32
    modify (fun s => s.updM (meOfIndex s.cur me.toNat) (fun m => { m with
      mtbl := m.mtbl ++ [(tbl.toNat, BitVec.ofNat 256 (leNat bs), s.cur)] }))) s

/-- MQRY's value (R342). -/
def State.mqry (s : State) (what : MqWhat) (x : Nat) : Word :=
  let m := s.getM (meOfIndex s.cur x)
  match what with
  | .out => BitVec.ofNat 64 s.c.out
  | _ =>
    if 5 < x then BitVec.allOnes 64
    else match what with
    | .free => BitVec.ofNat 64 (16 - m.entries.length)
    | .skip => (mget 0 m.skips s.c.ctx).setWidth 64
    | .done => (mget 0 m.dones s.c.ctx).setWidth 64
    | .out => 0
    | .busy => BitVec.ofNat 64 ((List.range 64).foldl (fun n t => if m.entries.any (fun e => e.touches t) then n + 2 ^ t else n) 0)

/-- MQRY (R342). -/
def execMqry (d a : GReg) (what : MqWhat) (clr : Bool) (s : State) : Host.Outcome State Fault Refusal :=
  runMtx (do
    let s ← get
    let x := (s.rdI a).toNat % 8
    let v := s.mqry what x
    if clr && decide (x ≤ 5) then
      set (s.updM (meOfIndex s.cur x) (fun m => match what with
        | .skip => { m with skips := mput 0 m.skips s.c.ctx 0 }
        | .done => { m with dones := mput 0 m.dones s.c.ctx 0 }
        | _ => m))
    modify (·.block 0x511)
    setI d v) s

end Sys2Proof.Machine
end

