-- ==== Sys2Proof/Machine/VCvt.lean ====
section
/-!
DEFINITION. The VCVT group (R276 to R282) and the VDOT group with its code tables (R274, R275, R283 to R287).
-/
namespace Sys2Proof.Machine

/-- A vector code table of the core (R274). -/
def Core.vtable (c : Core) (t : BitVec 2) : BitVec 256 := mget 0 c.vtab t.toNat

/-- A lane whose elements come with flags. -/
def laneFlags (w : Nat) (f : Nat → Nat × FFlags) : FRes :=
  (laneOf w (fun j => (f j).1), (List.range (32 / w)).foldl (fun x j => x ||| (f j).2) 0)

/-- Which source element gives destination element `j`, if the word converts it (R277). -/
def cvtFrom (ws wd slot j : Nat) : Option Nat :=
  let n := 32 / max ws wd
  if ws < wd then some (n * slot + j)
  else if n * slot ≤ j ∧ j < n * slot + n then some (j - n * slot) else none

/-- VCVT (R277). -/
def execVcvt (k : KReg) (d a : VReg) (src dst : Fmt) (rm : Rm) (sat : Bool) (slot : BitVec 3) (tbl : BitVec 2) (s : State) :
    Host.Outcome State Fault Refusal :=
  runRing (fun _ => fpVec k d 3 (fun s l =>
    laneFlags dst.width (fun j => match cvtFrom src.width dst.width slot.toNat j with
      | some i => cvtVal (fmtVal src (s.c.vtable tbl) (elemAt src.width (laneAt (s.rdV a) l) i)) dst (roundOf rm) sat 0
      | none => (elemAt dst.width (laneAt (s.rdV d) l) j, 0)))) s

/-- VCVTSR (R278). -/
def execVcvtsr (k : KReg) (d a b : VReg) (dst : Fmt) (sat : Bool) (slot : BitVec 3) (s : State) :
    Host.Outcome State Fault Refusal :=
  runRing (fun _ => fpVec k d 3 (fun s l =>
    laneFlags dst.width (fun j =>
      if j = slot.toNat then cvtVal (f32Val (laneAt (s.rdV a) l)) dst .sr sat (laneAt (s.rdV b) l).toNat
      else (elemAt dst.width (laneAt (s.rdV d) l) j, 0)))) s

/-- Width, limits and sign of the pack types (R279). -/
def packBits : PackType → Nat
  | .z8 | .s8 => 8 | .z4 | .s4 => 4
def packS : PackType → Bool
  | .s8 | .s4 => true | _ => false
def packRange (ty : PackType) : Int × Int :=
  if packS ty then (-(2 ^ (packBits ty - 1)), 2 ^ (packBits ty - 1) - 1) else (0, 2 ^ packBits ty - 1)

/-- VPACK (R279). -/
def execVpack (k : KReg) (d a : VReg) (ty : PackType) (sat : Bool) (s : State) : Host.Outcome State Fault Refusal :=
  runVec (fun s =>
    s.wrV d (mergeVec (s.rdK k) (s.rdV d) (fun l => laneOf (packBits ty) (fun j =>
      let v := (laneAt (s.rdV (vregAdd a j)) l).toInt
      ((if sat then satInt v (packRange ty).1 (packRange ty).2 else v) % 2 ^ packBits ty).toNat))) 3) s

/-- VUNPK (R279). -/
def execVunpk (k : KReg) (d a : VReg) (ty : PackType) (s : State) : Host.Outcome State Fault Refusal :=
  runVec (fun s =>
    let n := 32 / packBits ty
    (List.range n).foldl (fun (t : State) j =>
      t.upd (·.writeV t.cycle (vregAdd d j).val (mergeVec (s.rdK k) (s.rdV (vregAdd d j)) (fun l =>
        let e := elemAt (packBits ty) (laneAt (s.rdV a) l) j
        if packS ty then BitVec.ofInt 32 (sextInt e (packBits ty)) else BitVec.ofNat 32 e)) 3 (decide (j + 1 = n)))) s) s

/-- A value times 2^e, rounded once; beyond 2^400 the outcome no longer changes (R280). -/
def fScale (ftz : Bool) (x : Lane) (e : Int) : FRes :=
  match f32Val x with
  | .nan sg => if sg then invalid else (nan32, 0)
  | .inf _ => (x, 0)
  | .fin neg m e0 => if m = 0 then (x, 0) else round32 ftz .rne neg false m (e0 + satInt e (-400) 400)

/-- VSCALE (R280). -/
def execVscale (k : KReg) (d a : VReg) (b : VSrc) (inv : Bool) (e8 : Option (BitVec 2)) (s : State) :
    Host.Outcome State Fault Refusal :=
  runRing (fun _ => fpVec k d 3 (fun s l =>
    let x := laneAt (s.rdV a) l
    let y := laneAt (s.rdSrc b) l
    let go := fun (e : Int) => fScale s.c.ftz x (if inv then -e else e)
    match e8 with
    | none => go y.toInt
    | some j =>
      let c := elemAt 8 y j.toNat
      if c = 255 then invalid else go ((c : Int) - 127))) s

/-- A value rounded to an integral FP32 value (R281). -/
def fRint (rm : Round) (inexact : Bool) (x : Lane) : FRes :=
  match f32Val x with
  | .nan sg => if sg then invalid else (nan32, 0)
  | .inf _ => (x, 0)
  | .fin neg m e =>
    if m = 0 ∨ 0 ≤ e then (x, 0)
    else
      let r := roundAt rm neg false 0 m e 0
      ((round32 false .rne neg false r.1 0).1, if inexact && r.2 then flPE else 0)

/-- VRINT (R281). -/
def execVrint (k : KReg) (d a : VReg) (rm : Rm) (x : Bool) (s : State) : Host.Outcome State Fault Refusal :=
  runRing (fun _ => fpVec k d 3 (fun s l => fRint (roundOf rm) x (laneAt (s.rdV a) l))) s

/-- The code VBSCALE gives a block (R282). -/
def blockScale (emax : Int) (vs : List FVal) : Nat :=
  if vs.any (fun v => v.isNan || v.isInf) then 0xFF
  else
    let ls := vs.filterMap (fun v => if v.isZero then none else some ((v.mag.1.log2 : Int) + v.mag.2))
    match ls with
    | [] => 0x7F
    | x :: r => (satInt (r.foldl max x - emax) (-127) 127 + 127).toNat

/-- emax of the targets (R282). -/
def bsEmax : BsTarget → Int
  | .e4m3 => 8 | .e5m2 => 15 | .e2m1 => 2

/-- VBSCALE (R282). -/
def execVbscale (k : KReg) (d : GReg) (a : VReg) (target : BsTarget) (b32 : Bool) (s : State) :
    Host.Outcome State Fault Refusal :=
  runVec (fun s =>
    let ls := lanesOf (s.rdK k)
    let vals := fun (r : VReg) => ls.map (fun l => f32Val (laneAt (s.rdV r) l))
    s.wrI d (BitVec.ofNat 64 (blockScale (bsEmax target) (vals a ++ (if b32 then vals (vregAdd a 1) else [])))) 3) s

/-! ## VDOT -/

/-- An exact integer dot product added to vD (R284). -/
def dotInt (k : KReg) (d a : VReg) (b : VSrc) (w : Nat) (as bs : Bool) (s : State) : Host.Outcome State Fault Refusal :=
  runVec (fun s =>
    s.wrV d (mergeVec (s.rdK k) (s.rdV d) (fun l =>
      let e := fun (sg : Bool) (x : Lane) (j : Nat) => if sg then sextInt (elemAt w x j) w else (elemAt w x j : Int)
      BitVec.ofInt 32 ((List.range (32 / w)).foldl (fun (n : Int) j =>
        n + e as (laneAt (s.rdV a) l) j * e bs (laneAt (s.rdSrc b) l) j) (laneAt (s.rdV d) l).toNat))) 5) s

/-- VDOT4 (R284). -/
def execVdot4 (k : KReg) (d a : VReg) (b : VSrc) (as bs : Bool) (s : State) : Host.Outcome State Fault Refusal :=
  dotInt k d a b 8 as bs s
/-- VDOT8 (R284). -/
def execVdot8 (k : KReg) (d a : VReg) (b : VSrc) (as bs : Bool) (s : State) : Host.Outcome State Fault Refusal :=
  dotInt k d a b 4 as bs s

/-- rne32(x + the sum of products), one rounding, with the special cases of R285. -/
def dotSum (ftz : Bool) (x : FVal) (ps : List (FVal × FVal)) : FRes :=
  let ops := x :: (ps.map Prod.fst ++ ps.map Prod.snd)
  let wild := ps.any (fun p => (p.1.isInf && p.2.isZero) || (p.1.isZero && p.2.isInf))
  let adds := (x :: (ps.filter (fun p => !p.1.isNan && !p.2.isNan)).map (fun p => p.1.times p.2)).filter (fun v => !v.isNan)
  let clash := adds.any (fun v => v.isInf && v.neg) && adds.any (fun v => v.isInf && !v.neg)
  if ops.any (·.isSig) || wild || clash then invalid
  else if ops.any (·.isNan) then (nan32, 0)
  else sum32 ftz .rne (adds.all (fun v => v.isZero && v.neg)) adds

/-- VDOTH (R285). -/
def execVdoth (k : KReg) (d a : VReg) (b : VSrc) (f16 : Bool) (s : State) : Host.Outcome State Fault Refusal :=
  runRing (fun _ => fpVec k d 5 (fun s l =>
    let v := fun (x : Lane) (j : Nat) => if f16 then f16Val (elemAt 16 x j) else bf16Val (elemAt 16 x j)
    dotSum s.c.ftz (f32Val (laneAt (s.rdV d) l)) ((List.range 2).map (fun j =>
      (v (laneAt (s.rdV a) l) j, v (laneAt (s.rdSrc b) l) j))))) s

/-- VDOTT (R286). -/
def execVdott (k : KReg) (d a : VReg) (b : VSrc) (tbl : BitVec 2) (half : Bool) (s : State) :
    Host.Outcome State Fault Refusal :=
  runRing (fun _ => fpVec k d 5 (fun s l =>
    dotSum s.c.ftz (f32Val (laneAt (s.rdV d) l)) ((List.range 4).map (fun j =>
      (fmtVal .t4 (s.c.vtable tbl) (elemAt 4 (laneAt (s.rdV a) l) ((if half then 4 else 0) + j)),
       e4m3Val (elemAt 8 (laneAt (s.rdSrc b) l) j)))))) s

/-- The table VTBLW writes (R287). -/
def tableFrom (v : Vec) : BitVec 256 :=
  BitVec.ofNat 256 ((List.range 8).foldl (fun n i => n + (laneAt v i).toNat * 2 ^ (32 * i)) 0)

/-- VTBLW (R287, R275). -/
def execVtblw (tbl : BitVec 2) (a : VReg) (s : State) : Host.Outcome State Fault Refusal :=
  runVec (fun s => s.upd (fun c => { c with vtab := mput 0 c.vtab tbl.toNat (tableFrom (s.rdV a)) })) s

end Sys2Proof.Machine
end

