-- ==== Sys2Proof/Machine/EngCard.lean ====
section
/-!
DEFINITION. Cards and shapes: their layouts and checks (R369 to R374, R384, R396, R468, R540), element addresses (R373),
footprints (R378) and the grants a card names (R377).
-/
namespace Sys2Proof.Machine

/-! ## Cards -/

def cardOp (c : List Byte) : Nat := byteAt c 0
def cardScope (c : List Byte) : Scope :=
  match byteAt c 1 % 8 with
  | 0 => .core | 1 => .cluster | 2 => .die | 3 => .pkg | _ => .sys
def cardFs (c : List Byte) : Option Nat := if bitOf (byteAt c 1) 3 then some (byteAt c 2) else none
def cardBar (c : List Byte) : Option Nat := if bitOf (byteAt c 1) 4 then some (byteAt c 3) else none
def cardTags (c : List Byte) : Bool := bitOf (byteAt c 1) 5
def cardComb (c : List Byte) : Bool := bitOf (byteAt c 1) 6
def cardCtl (c : List Byte) : Nat := field c 56 8
/-- Rounding and saturation of CONVERT (R370). -/
def cardRm (c : List Byte) : Round :=
  match cardCtl c / 2 ^ 40 % 8 with
  | 0 => .rne | 1 => .rtz | 2 => .rdn | _ => .rup
def cardSat (c : List Byte) : Bool := bitOf (cardCtl c) 43
def cardPrio (c : List Byte) : Nat := if cardOp c = 0x10 ∨ 0x20 ≤ cardOp c then 0 else cardCtl c / 2 ^ 36 % 16

/-- A range of bytes that must be zero, as checks in order. -/
def zeroBytes (c : List Byte) (lo hi : Nat) : List (Nat × Bool) :=
  (List.range (hi + 1 - lo)).map (fun i => (lo + i, byteAt c (lo + i) == 0))

def scopeOk (c : List Byte) : Bool := decide (byteAt c 1 % 8 ≤ 4)

/-- The first bad byte of a copy card (R369 to R371). -/
def copyCardBad (c : List Byte) : Option Nat :=
  firstBad <|
    [(0, decide (1 ≤ cardOp c) && decide (cardOp c ≤ 6)),
     (1, scopeOk c && decide (byteAt c 1 < 128) && (!cardTags c || cardOp c == 1))]
    ++ zeroBytes c 30 31 ++ [(61, decide (byteAt c 61 % 8 ≤ 3) && decide (byteAt c 61 < 16))] ++ zeroBytes c 62 63

def routeK (c : List Byte) : Nat := byteAt c 10 % 16
def routeMode (c : List Byte) : Nat := byteAt c 10 / 16
def routeTau (c : List Byte) : Lane := BitVec.ofNat 32 (field c 12 4)
def routeTable (c : List Byte) : Nat := field c 56 8

/-- The first bad byte of a ROUTE card (R384). (DEDUCED, log entry 31) -/
def routeCardBad (c : List Byte) : Option Nat :=
  firstBad
    [(0, cardOp c == 0x10), (1, scopeOk c && decide (byteAt c 1 < 128) && !cardTags c),
     (10, decide (1 ≤ routeK c) && decide (routeK c ≤ 8) && decide (routeMode c ≤ 2)), (11, byteAt c 11 == 0),
     (12, decide (field c 12 4 / 2 ^ 23 % 256 ≠ 255) && (routeMode c != 2 || decide (field c 12 4 % 2 ^ 31 = 0)))]

/-- The first bad byte of a CTXSET card (R396). -/
def ctxsetCardBad (c : List Byte) : Option Nat :=
  firstBad <|
    [(0, cardOp c == 0x20), (1, decide (byteAt c 1 ≤ 4)), (2, decide (byteAt c 2 < 16))] ++ zeroBytes c 3 7
    ++ [(8, decide (field c 8 8 % 64 = 0))] ++ zeroBytes c 16 23 ++ zeroBytes c 26 63

/-- The first bad byte of a CCB (R395). -/
def ccbBad (b : List Byte) : Option Nat :=
  firstBad <|
    [(0, decide (byteAt b 0 ≤ 16))] ++ zeroBytes b 1 7 ++ zeroBytes b 68 71 ++ zeroBytes b 114 115
    ++ [(116, decide (field b 116 4 % 64 = 0))]

/-- The first bad byte of a Shell card (R468). -/
def shellCardBad (c : List Byte) : Option Nat :=
  firstBad <|
    [(0, cardOp c == 0x30 || cardOp c == 0x31), (1, scopeOk c && decide (byteAt c 1 < 16)), (3, decide (byteAt c 3 < 16))]
    ++ zeroBytes c 4 7 ++ [(8, decide (field c 8 8 % 0x10000 = 0))] ++ zeroBytes c 26 63

/-! ## Shapes (R372 to R374) -/

/-- A 64-bit signed stride. -/
def strideAt (b : List Byte) (i : Nat) : Int := sextInt (field b (44 + 8 * i) 8) 64

def Shape.fmt? (h : Shape) : Option Fmt := fmtOf h.fmt
def Shape.width (h : Shape) : Nat := match h.fmt? with | some f => f.width | none => 0
def Shape.isRank (h : Shape) : Bool := h.fmt == 0x0D
def Shape.is4 (h : Shape) : Bool := h.width == 4
/-- N of R373. -/
def Shape.count (h : Shape) : Nat := h.ext.foldl (· * ·) 1
/-- The unit of alignment of R374. -/
def Shape.unit (h : Shape) : Nat := if h.isRank then 16 else max 1 (h.width / 8)

/-- A shape entry, or the offset of its first bad byte (R374). -/
def shapeOf (b : List Byte) : Except Nat Shape :=
  let n := byteAt b 0
  let m := min n 9
  let h : Shape := ⟨n, byteAt b 1, (List.range m).map (fun i => field b (8 + 4 * i) 4), (List.range m).map (strideAt b)⟩
  match firstBad ([(0, decide (1 ≤ n) && decide (n ≤ 9)), (1, (fmtOf (byteAt b 1)).isSome)] ++ zeroBytes b 2 7
      ++ zeroBytes b (8 + 4 * m) 43 ++ zeroBytes b (44 + 8 * m) 115 ++ zeroBytes b 116 127) with
  | some o => .error o
  | none =>
    match firstBad [(8, decide (h.count < 2 ^ 48) && (!h.is4 || decide (h.ext.headD 0 % 2 = 0))),
        (44, (!h.is4 || h.str.headD 0 == 0) && (!h.isRank || h.str.headD 0 % 16 == 0))] with
    | some o => .error o
    | none => .ok h

/-- A base and strides in units of the element (R374). -/
def Shape.aligned (h : Shape) (base : Nat) : Bool :=
  decide (base % h.unit = 0) && h.str.all (fun x => x % (h.unit : Int) == 0)

/-- Coordinates of element t, the innermost first (R373). -/
def coords : List Nat → Nat → List Nat
  | [], _ => []
  | e :: r, t => t % max e 1 :: coords r (t / max e 1)

/-- The byte address of coordinates, and whether a 4-bit element is the high half of its byte (R373, R263). -/
def Shape.at (h : Shape) (base : Nat) (cs : List Nat) : Nat × Bool :=
  let off : Int := ((cs.zip h.str).map (fun x => (x.1 : Int) * x.2)).foldl (· + ·) 0
  let c0 := if h.is4 then cs.headD 0 else 0
  ((((base : Int) + off + (c0 / 2 : Nat)) % 2 ^ 64).toNat, c0 % 2 == 1)
def Shape.elem (h : Shape) (base t : Nat) : Nat × Bool := h.at base (coords h.ext t)
/-- Element r of row i: the outermost coordinate is i (R375). -/
def Shape.rowElem (h : Shape) (base r i : Nat) : Nat × Bool :=
  h.at base (coords (h.ext.dropLast) r ++ [i])
/-- Elements of a row (R375). -/
def Shape.rowLen (h : Shape) : Nat := h.ext.dropLast.foldl (· * ·) 1

/-- The bounding range of R378; none when it is empty. -/
def Shape.range (h : Shape) (base : Nat) : Option (Int × Int) :=
  if h.count = 0 then none
  else
    let ts := (h.ext.zip h.str).map (fun x => ((x.1 : Int) - 1) * x.2)
    let lo := ts.foldl (fun n x => n + min 0 x) 0
    let hi := ts.foldl (fun n x => n + max 0 x) 0
    let size : Nat := if h.is4 then h.ext.headD 0 / 2 else if h.isRank then 512 else h.width / 8
    some ((base : Int) + lo, (base : Int) + hi + size)

/-! ## Relations between card and shapes (R375, R376, R540) -/

/-- Rows of a GATHER or SCATTER: the elements of the list side over those of a row. -/
def rowsOf (list rows : Shape) : Nat := list.count / max rows.rowLen 1

def badWhere (xs : List (Nat × Bool)) : Option Nat :=
  xs.foldl (fun (b : Option Nat) x => if !x.2 then b else match b with | none => some x.1 | some y => some (min x.1 y)) none

/-- CONVERT's formats (R375). -/
def convertible (h : Shape) : Bool := !(h.fmt == 7 || h.fmt == 0x0B || h.fmt == 0x0D)

/-- The lowest card offset of a breach, for a copy card. FILL has one shape, its destination. -/
def copyRelBad (c : List Byte) (src dst : Shape) : Option Nat :=
  let op := cardOp c
  let moves := op == 1 || op == 2 || op == 3
  let size := dst.width / 8
  let line := fun (h : Shape) => h.n == 1 && h.str.headD 0 == ((h.width / 8 : Nat) : Int) && !h.isRank && !h.is4
  badWhere
    [(1, cardTags c && !(line src && line dst && field c 8 8 % 16 == 0 && field c 16 8 % 16 == 0
          && dst.count * size % 16 == 0)),
     (4, op == 5 && src.fmt != 0x0A),
     (6, moves && src.isRank != dst.isRank),
     (6, !moves && dst.isRank),
     (6, moves && src.width != dst.width),
     (6, (op == 1 || op == 5 || op == 6) && src.count != dst.count),
     (6, op == 2 && (src.rowLen == 0 || dst.count % max src.rowLen 1 != 0)),
     (6, op == 3 && (dst.rowLen == 0 || src.count % max dst.rowLen 1 != 0)),
     (6, op == 6 && !(convertible src && convertible dst)),
     (6, op == 5 && !(dst.fmt == 0x0A && dst.n == 1 && dst.str.headD 0 == 1 && dst.ext.headD 0 % 8 == 0
          && field c 16 8 % 8 == 0))]

def floatShape (h : Shape) : Bool := h.fmt == 1 || h.fmt == 2 || h.fmt == 3

/-- The same for ROUTE (R384). -/
def routeRelBad (c : List Byte) (sc ix wt : Shape) : Option Nat :=
  let pre := routeMode c == 2
  let T := sc.ext.getLastD 0
  let outOk := fun (h : Shape) => h.n == 2 && h.ext == [routeK c, T]
  badWhere
    [(4, if pre then !(sc.n == 1 && sc.isRank) else !(sc.n == 2 && floatShape sc)),
     (6, !(outOk ix && ix.fmt == 0x0C)),
     (8, !(outOk wt && floatShape wt)),
     (10, !pre && decide (sc.ext.headD 0 < routeK c))]

/-! ## Footprints and grants -/

/-- A grant a card names: which of R390, its id, the permissions it needs, the ranges it bounds. -/
structure GrantUse where
  which : Nat
  gid : Nat
  need : BitVec 12
  ranges : List (Int × Int)
  deriving DecidableEq, Repr

def rangeAt (a n : Nat) : Option (Int × Int) := if n = 0 then none else some ((a : Int), (a : Int) + (n : Int))

/-- The ranges of a copy card: source, destination, index, extra (R378). -/
def copyRanges (c : List Byte) (src dst : Shape) :
    Option (Int × Int) × Option (Int × Int) × Option (Int × Int) × Option (Int × Int) :=
  let op := cardOp c
  let m := if op = 2 then rowsOf dst src else if op = 3 then rowsOf src dst else 0
  (if op = 4 then none else src.range (field c 8 8), dst.range (field c 16 8), rangeAt (field c 32 8) (4 * m),
   rangeAt (field c 40 8) (field c 48 8))

/-- The grants of a copy card (R377). -/
def copyGrants (c : List Byte) (src dst : Shape) : List GrantUse :=
  let op := cardOp c
  let r := copyRanges c src dst
  let t := fun (p : BitVec 12) => if cardTags c then p else 0
  (if op = 4 then [] else
    [⟨1, field c 24 2, permE ||| (if op = 5 then permI else 0) ||| t permCL, [r.1, r.2.2.2].filterMap id⟩])
  ++ [⟨2, field c 26 2, permF ||| t permCS, [r.2.1].filterMap id⟩]
  ++ (if op = 2 ∨ op = 3 then [⟨3, field c 28 2, permE, [r.2.2.1].filterMap id⟩] else [])

/-- The ranges of a ROUTE card: score, table, index, weight, histogram (R387). -/
def routeRanges (c : List Byte) (sc ix wt : Shape) (e hist : Nat) : List (Int × Int) × List (Int × Int) :=
  let q := routeTable c
  ([sc.range (field c 16 8), if q = 0 then none else rangeAt q (48 + 8 * e)].filterMap id,
   [ix.range (field c 24 8), wt.range (field c 32 8), if q = 0 then none else rangeAt hist (4 * e)].filterMap id)

def routeGrants (c : List Byte) (sc ix wt : Shape) (e hist : Nat) : List GrantUse :=
  let r := routeRanges c sc ix wt e hist
  [⟨1, field c 52 2, permE, r.1⟩,
   ⟨2, field c 54 2, permF ||| (if routeTable c = 0 then 0 else permR ||| permQ), r.2⟩]

/-- The grants a job names, from its card (R377, R384, R396, R468). -/
def Job.uses (j : Job) : List GrantUse :=
  let c := j.card
  match cardOp c, j.shapes with
  | 0x10, [sc, ix, wt] => routeGrants c sc ix wt j.eqE j.eqHist
  | 0x20, _ => [⟨1, field c 24 2, permE, (rangeAt (field c 8 8) 128).toList⟩]
  | 0x30, _ => [⟨2, field c 24 2, permF, (rangeAt (field c 8 8) (field c 16 8)).toList⟩]
  | 0x31, _ => [⟨1, field c 24 2, permE, (rangeAt (field c 8 8) (field c 16 8)).toList⟩]
  | _, [src, dst] => copyGrants c src dst
  | _, _ => []

/-- A failed check of R377: the cause, and its EINFO (R390 step 7). -/
abbrev GrantFail := Cause × Nat

/-- One grant checked against the current table; `gen` is the generation an earlier check recorded. -/
def State.grantTest (s : State) (places : List TlbPlace) (ctx : Nat) (u : GrantUse) (gen : Option (BitVec 8)) :
    Except GrantFail (BitVec 8) × State :=
  let info := u.which * 2 ^ 60 + u.gid
  if 2 ^ (s.getX ctx).log2n ≤ u.gid then (.error (.stalegrant, info), s)
  else match s.grantInMem places ctx u.gid with
  | (.error f, s) => (.error f, s)
  | (.ok g, s) =>
    if !g.valid ∨ (gen.isSome ∧ gen ≠ some g.gen) then (.error (.stalegrant, info), s)
    else if u.need &&& ~~~g.perm ≠ 0 then (.error (.perm, info), s)
    else if u.ranges.any (fun r => decide (r.1 < (g.base : Int)) || decide (((g.base + g.len : Nat) : Int) < r.2))
    then (.error (.bounds, info), s)
    else (.ok g.gen, s)

/-- Every grant in order: the generations found. -/
def State.grantTests (s : State) (places : List TlbPlace) (ctx : Nat) (gens : List (Nat × Nat × BitVec 8)) :
    List GrantUse → Except GrantFail (List (Nat × Nat × BitVec 8)) × State
  | [] => (.ok [], s)
  | u :: r =>
    match s.grantTest places ctx u ((gens.find? (fun g => g.1 == u.which)).map (fun g => g.2.2)) with
    | (.error f, s) => (.error f, s)
    | (.ok g, s) =>
      match s.grantTests places ctx gens r with
      | (.error f, s) => (.error f, s)
      | (.ok gs, s) => (.ok ((u.which, u.gid, g) :: gs), s)

/-- The die of an engine (R21). -/
def dieOfEng (e : Nat) : Nat := if e < 64 then e / 16 else e % 4
/-- Engine 72 translates through the hub. -/
def engPlaces (e : Nat) : List TlbPlace := if e = 72 then [.hub] else diePlaces (dieOfEng e)

end Sys2Proof.Machine
end

