-- ==== Sys2Proof/Machine/Sfu.lean ====
section
/-!
DEFINITION. The special-function unit: the functions of R246, R247, R249 and R261 to the last bit, `sesame` (R9, R248),
the VSFU group (R259 to R261), and VFDIV and VFSQRT (R258). Transcendental values are computed in fixed point with `fxP`
fraction bits, far beyond what rounding to 24 bits can need, and rounded with a sticky bit, since they are irrational.
-/
namespace Sys2Proof.Machine

/-! ## Fixed point -/

/-- Fraction bits. -/
def fxP : Nat := 720
def fxOne : Int := 2 ^ fxP
def fxMul (a b : Int) : Int := a * b / 2 ^ fxP
def fxDiv (a b : Int) : Int := a * 2 ^ fxP / b

/-- A sum of terms, each made from the one before: `step k t` is term k + 1. -/
def fxSeries (n : Nat) (t0 : Int) (step : Nat → Int → Int) : Int :=
  ((List.range n).foldl (fun (st : Int × Int) k => (st.1 + st.2, step k st.2)) (0, t0)).1

/-- Σ z^(2k+1) / (2k+1), with the sign alternating or not: atan z or atanh z. -/
def fxAtan (alt : Bool) (n : Nat) (z : Int) : Int :=
  let z2 := fxMul z z
  ((List.range n).foldl (fun (st : Int × Int) (k : Nat) =>
    (st.1 + st.2 / (2 * k + 1), if alt then -(fxMul st.2 z2) else fxMul st.2 z2)) (0, z)).1

def fxPi : Int := 16 * fxAtan true 160 (fxOne / 5) - 4 * fxAtan true 60 (fxOne / 239)
def fxLn2 : Int := 2 * fxAtan false 240 (fxOne / 3)

/-- e^r for |r| at most 1. -/
def fxExp1 (r : Int) : Int := fxSeries 170 fxOne (fun k t => fxMul t r / (k + 1))
/-- ln of a value in [1, 2). -/
def fxLn1 (m : Int) : Int := 2 * fxAtan false 240 (fxDiv (m - fxOne) (m + fxOne))
def fxSin (x : Int) : Int :=
  let x2 := fxMul x x
  fxSeries 120 x (fun k t => -(fxMul t x2) / ((2 * k + 2) * (2 * k + 3)))
def fxCos (x : Int) : Int :=
  let x2 := fxMul x x
  fxSeries 120 fxOne (fun k t => -(fxMul t x2) / ((2 * k + 1) * (2 * k + 2)))

/-- Integer square root of a fixed-point value. -/
def fxSqrt (x : Int) : Int := isqrt (x.toNat * 2 ^ fxP)

/-- m x 2^e in fixed point, truncated. -/
def fxOf (m : Nat) (e : Int) : Int :=
  if 0 ≤ e + fxP then (m * 2 ^ (e + fxP).toNat : Nat) else (m / 2 ^ (-(e + fxP)).toNat : Nat)

/-- ln of a positive fixed-point value. -/
def fxLn (x : Int) : Int :=
  let n : Int := (x.toNat.log2 : Int) - fxP
  let m := if 0 ≤ n then x / 2 ^ n.toNat else x * 2 ^ (-n).toNat
  fxLn1 m + n * fxLn2

/-- 2^f for a fixed-point x: the fraction part's power, and the exponent. -/
def fxExp2 (x : Int) : Int × Int := (fxExp1 (fxMul (x % fxOne) fxLn2), x / fxOne)
/-- e^x likewise. -/
def fxExp (x : Int) : Int × Int :=
  let n := x / fxLn2
  (fxExp1 (x - n * fxLn2), n)

/-! ## Rounding of the values -/

/-- An irrational magnitude y x 2^n, y in fixed point. -/
def fxRound (ftz neg : Bool) (y n : Int) : FRes := round32 ftz .rne neg true y.toNat (n - fxP)
/-- A signed irrational. -/
def fxSigned (ftz : Bool) (y : Int) : FRes := fxRound ftz (decide (y < 0)) y.natAbs 0
/-- A magnitude just below 1, far above the largest number, or far below the smallest. -/
def nearOne (ftz neg : Bool) : FRes := round32 ftz .rne neg true (2 ^ 64 - 1) (-64)
def nearHuge (ftz : Bool) : FRes := round32 ftz .rne false true 1 300
def nearZero (ftz : Bool) : FRes := round32 ftz .rne false true 1 (-400)

/-! ## The functions of R247 -/

/-- The functions of R247, and the Sieve's natural exponential (R386). -/
inductive SfuFn | rcp | rsq | exp2 | log2 | sinpi | cospi | tanh | sigm | erf | exp
  deriving DecidableEq, Repr

def one32 : Lane := 0x3F800000

/-- Results at infinities and zeros (R247). -/
def sfuSpecial (f : SfuFn) (neg inf : Bool) : FRes :=
  match f, inf with
  | .rcp, true => (zero32 neg, 0)
  | .rcp, false => (inf32 neg, flDZ)
  | .rsq, true => if neg then invalid else (0, 0)
  | .rsq, false => (inf32 neg, flDZ)
  | .exp2, true | .exp, true => if neg then (0, 0) else (inf32 false, 0)
  | .exp2, false | .exp, false => (one32, 0)
  | .log2, true => if neg then invalid else (inf32 false, 0)
  | .log2, false => (inf32 true, flDZ)
  | .sinpi, true => invalid
  | .sinpi, false => (zero32 neg, 0)
  | .cospi, true => invalid
  | .cospi, false => (one32, 0)
  | .tanh, true | .erf, true => (if neg then 0xBF800000 else one32, 0)
  | .tanh, false | .erf, false => (zero32 neg, 0)
  | .sigm, true => if neg then (0, 0) else (one32, 0)
  | .sigm, false => (0x3F000000, 0)

/-- sin(pi a) or cos(pi a) of a finite nonzero a: a mod 2 is r x 2^-k. -/
def sfuTrig (ftz cosine neg : Bool) (m : Nat) (e : Int) : FRes :=
  let k := (-e).toNat
  let num : Int := (if neg then -(m : Int) else m) * 2 ^ e.toNat
  let r := (num % 2 ^ (k + 1)).toNat
  -- halves of the period: r is j half-turns when 2r = j 2^k
  if 2 * r % 2 ^ k = 0 then
    let j := 2 * r / 2 ^ k
    if cosine then (if j = 0 then (one32, 0) else if j = 2 then (0xBF800000, 0) else (0, 0))
    else (if j = 1 then (one32, 0) else if j = 3 then (0xBF800000, 0) else (zero32 neg, 0))
  else
    let x := fxMul fxPi (fxOf r (-k))
    fxSigned ftz (if cosine then fxCos x else fxSin x)

/-- |tanh| of m x 2^e, at most 40. -/
def fxTanh (m : Nat) (e : Int) : Int :=
  let t := fxExp (2 * fxOf m e)
  let y := t.1 * 2 ^ t.2.toNat
  fxDiv (y - fxOne) (y + fxOne)

/-- 1 / (1 + e^-x). -/
def fxSigm (x : Int) : Int :=
  let t := fxExp (-x)
  let y := if 0 ≤ t.2 then t.1 * 2 ^ t.2.toNat else t.1 / 2 ^ (-t.2).toNat
  fxDiv fxOne (fxOne + y)

/-- |erf| of a magnitude below 6: 2/sqrt(pi) e^(-x^2) times the sum of 2^n x^(2n+1) / (2n+1)!!. -/
def fxErf (x : Int) : Int :=
  let x2 := fxMul x x
  let sm := fxSeries 500 x (fun k t => 2 * fxMul t x2 / (2 * k + 3))
  let t := fxExp (-x2)
  fxDiv (fxMul (2 * sm) (t.1 / 2 ^ (-t.2).toNat)) (fxSqrt fxPi)

/-- |m x 2^e| exceeds n. -/
def magOver (m : Nat) (e : Int) (n : Nat) : Bool :=
  if 0 ≤ e then decide (n < m * 2 ^ e.toNat) else decide (n * 2 ^ (-e).toNat < m)

/-- A special function of an FP32 value, correctly rounded (R246, R247). (PRESUMED, log entry 51) -/
def sfu (f : SfuFn) (ftz : Bool) (x : Lane) : FRes :=
  match f32Val x with
  | .nan sg => if sg then invalid else (nan32, 0)
  | .inf neg => sfuSpecial f neg true
  | .fin neg m e =>
    if m = 0 then sfuSpecial f neg false
    else
      let sx := if neg then -(fxOf m e) else fxOf m e
      match f with
      | .rcp =>
        let q := divMag (1, 0) (m, e)
        round32 ftz .rne neg q.2.2 q.1 q.2.1
      | .rsq =>
        if neg then invalid
        else
          let q := rsqrtMag m e
          round32 ftz .rne false q.2.2 q.1 q.2.1
      | .exp2 =>
        if magOver m e 300 then (if neg then nearZero ftz else nearHuge ftz)
        else if sx % fxOne = 0 then round32 ftz .rne false false 1 (sx / fxOne)
        else
          let t := fxExp2 sx
          fxRound ftz false t.1 t.2
      | .exp =>
        if magOver m e 300 then (if neg then nearZero ftz else nearHuge ftz)
        else
          let t := fxExp sx
          fxRound ftz false t.1 t.2
      | .log2 =>
        if neg then invalid
        else if m = 2 ^ m.log2 then
          let n : Int := (m.log2 : Int) + e
          round32 ftz .rne (decide (n < 0)) false n.natAbs 0
        else
          let n : Int := (m.log2 : Int) + e
          fxSigned ftz (fxDiv (fxLn1 (fxOf m (-(m.log2 : Int)))) fxLn2 + n * fxOne)
      | .sinpi => sfuTrig ftz false neg m e
      | .cospi => sfuTrig ftz true neg m e
      | .tanh => if magOver m e 40 then nearOne ftz neg else fxRound ftz neg (fxTanh m e) 0
      | .sigm =>
        if magOver m e 140 then (if neg then nearZero ftz else nearOne ftz false) else fxRound ftz false (fxSigm sx) 0
      | .erf => if magOver m e 6 then nearOne ftz neg else fxRound ftz neg (fxErf (fxOf m e)) 0

/-! ## VGUMB -/

/-- u(x) of R249 as 2 x (x >> 8) + 1 over 2^25. -/
def uniNum (x : Lane) : Nat := 2 * (x.toNat / 256) + 1

/-- -ln(-ln(u(x))), in fixed point (R261). -/
def fxGumb (x : Lane) : Int := -(fxLn (-(fxLn (fxOf (uniNum x) (-25)))))
def gumb (ftz : Bool) (x : Lane) : FRes := fxSigned ftz (fxGumb x)

/-! ## Words of the SFU -/

/-- An SFU word issues when the SFU is free, and occupies it for 4 cycles (R246). -/
def sfuTake : M Unit := do
  modify (fun s => s.advance s.c.sfuFree)
  modify (fun s => s.upd (fun c => { c with sfuFree := s.cycle + 4 }))

/-- A guarded unary word of the SFU (R259). -/
def sfuWord (k : KReg) (d a : VReg) (f : Bool → Lane → FRes) (s : State) : Host.Outcome State Fault Refusal :=
  runRing (fun _ => do
    sfuTake
    fpVec k d 12 (fun s l => f s.c.ftz (laneAt (s.rdV a) l))) s

/-- VRCP (R259). -/
def execVrcp (k : KReg) (d a : VReg) (s : State) : Host.Outcome State Fault Refusal := sfuWord k d a (sfu .rcp) s
/-- VRSQ (R259). -/
def execVrsq (k : KReg) (d a : VReg) (s : State) : Host.Outcome State Fault Refusal := sfuWord k d a (sfu .rsq) s
/-- VEXP2 (R259). -/
def execVexp2 (k : KReg) (d a : VReg) (s : State) : Host.Outcome State Fault Refusal := sfuWord k d a (sfu .exp2) s
/-- VLOG2 (R259). -/
def execVlog2 (k : KReg) (d a : VReg) (s : State) : Host.Outcome State Fault Refusal := sfuWord k d a (sfu .log2) s
/-- VSINPI (R259). -/
def execVsinpi (k : KReg) (d a : VReg) (s : State) : Host.Outcome State Fault Refusal := sfuWord k d a (sfu .sinpi) s
/-- VCOSPI (R259). -/
def execVcospi (k : KReg) (d a : VReg) (s : State) : Host.Outcome State Fault Refusal := sfuWord k d a (sfu .cospi) s
/-- VTANH (R259). -/
def execVtanh (k : KReg) (d a : VReg) (s : State) : Host.Outcome State Fault Refusal := sfuWord k d a (sfu .tanh) s
/-- VSIGM (R259). -/
def execVsigm (k : KReg) (d a : VReg) (s : State) : Host.Outcome State Fault Refusal := sfuWord k d a (sfu .sigm) s
/-- VERF (R259). -/
def execVerf (k : KReg) (d a : VReg) (s : State) : Host.Outcome State Fault Refusal := sfuWord k d a (sfu .erf) s
/-- VGUMB (R261). -/
def execVgumb (k : KReg) (d a : VReg) (s : State) : Host.Outcome State Fault Refusal := sfuWord k d a gumb s

/-- VRNG (R260). -/
def execVrng (k : KReg) (d a : VReg) (b : GReg) (s : State) : Host.Outcome State Fault Refusal :=
  runRing (fun _ => do
    sfuTake
    let s ← get
    let m := s.rdK k
    let key := s.rdI b
    let src := fun i l => laneAt (s.rdV (vregAdd a i)) l
    let out := fun l => sesame (src 0 l) (src 1 l) (src 2 l) (src 3 l) (key.setWidth 32) ((key >>> 32).setWidth 32)
    let put := fun (i : Nat) (f : Nat → Lane) (last : Bool) (t : State) =>
      t.upd (·.writeV t.cycle (vregAdd d i).val (mergeVec m (s.rdV (vregAdd d i)) f) 12 last)
    modify (fun t =>
      put 3 (fun l => (out l).2.2.2) true (put 2 (fun l => (out l).2.2.1) false
        (put 1 (fun l => (out l).2.1) false (put 0 (fun l => (out l).1) false t))))
    return none) s

/-- VFDIV (R258). -/
def execVfdiv (k : KReg) (d a : VReg) (b : VSrc) (s : State) : Host.Outcome State Fault Refusal :=
  runRing (fun _ => do
    sfuTake
    fpVec k d 12 (fun s l => fDiv s.c.ftz (laneAt (s.rdV a) l) (laneAt (s.rdSrc b) l))) s

/-- VFSQRT (R258). -/
def execVfsqrt (k : KReg) (d a : VReg) (s : State) : Host.Outcome State Fault Refusal :=
  runRing (fun _ => do
    sfuTake
    fpVec k d 12 (fun s l => fSqrt s.c.ftz (laneAt (s.rdV a) l))) s

end Sys2Proof.Machine
end

