-- ==== Sys2Proof/Machine/EngJob.lean ====
section
/-!
DEFINITION. Engine jobs (R365 to R387): registration and its barrier and scope, readiness, parking and failing, the
elements of copy jobs, the tokens of ROUTE jobs, and the repeated grant check (R122, R377).
-/
namespace Sys2Proof.Machine

/-! ## Registration (R366, R379, R380) -/

/-- Whether one range list meets another (R379). -/
def Job.conflicts (j e : Job) : Bool := meetsAny j.writes (e.reads ++ e.writes) || meetsAny j.reads e.writes

/-- BYTES: what a job adds to its barrier (R370, R384). -/
def Job.bytes (j : Job) : Int :=
  match cardOp j.card, j.shapes with
  | 0x10, [_, ix, wt] => ((ix.count * 4 + wt.count * wt.width / 8 : Nat) : Int)
  | _, _ => sextInt (cardCtl j.card) 36

/-- Who makes an engine's accesses: the first poster's core, mode and task (R163, R165). -/
def Job.party (j : Job) : Party :=
  { core := (j.posters.headD (0, 0, 0)).1, sys := j.sys, task := j.task, ctx := j.ctx, places := engPlaces j.eng }

/-- The copy of a die-local barrier that a job uses: the one on the home die of its first destination element (R380). -/
def State.jobUnit (s : State) (j : Job) (bar : Nat) : Nat :=
  let first := match cardOp j.card, j.shapes with
    | 0x10, [_, ix, _] => (ix.elem (field j.card 24 8) 0).1
    | _, [_, dst] => (dst.elem (field j.card 16 8) 0).1
    | _, _ => 0
  let die := match (s.locate j.party .store first 8).1 with
    | .ok l => ((homeOf l.key).die?).getD (dieOfEng j.eng)
    | .error _ => dieOfEng j.eng
  barUnit die bar

def Job.handle (j : Job) : Nat := (j.posters.headD (0, 0, 0)).2.2.toNat

/-- A Shell's job (R468). -/
def Job.shell (j : Job) : Bool := decide (68 ≤ j.eng) && decide (j.eng < 72)

/-- A job parks, or fails when repeating cannot help (R381), with one record (R382); one the host serves parks until it answers
(R470). -/
def State.parkJob (s : State) (id : Nat) (cause : Cause) (addr detail : Nat) : State :=
  match s.job? id with
  | none => s
  | some j =>
    let fails := j.shell || (cause == .xlate && (detail / 2 ^ 60 == 4 || detail / 2 ^ 60 == 5))
    let detail := if cause = .stalegrant then detail % 2 ^ 16 else detail
    let s := s.updJ id (fun j => { j with st := .parked, cause := cause.code, waits := none })
    match s.servedBy j.ctx cause.code detail j.shell with
    | some fn => (s.park (.job id) j.ctx fn cause.code addr detail).2
    | none =>
      let s := s.faultRecord j.ctx (record j.handle cause.code j.eng (cardOp j.card) (if fails then 2 else 1) j.count addr detail)
      if fails then s.endJob id .failed else s

/-- A job's bytes leave PENDING (R221, R380); the caller has tested the range. -/
def State.barTake (s : State) (j : Job) (n : Nat) : State :=
  match j.bar with
  | none => s
  | some (u, bar) =>
    let b := s.getBar j.ctx u bar
    if n = 0 then s else (s.setBar j.ctx u bar { b with pending := b.pending - n }).testBar j.ctx u bar

/-- Whether a barrier can lose so many bytes. -/
def State.barHolds (s : State) (j : Job) (n : Nat) : Bool :=
  match j.bar with
  | none => true
  | some (u, bar) => let b := s.getBar j.ctx u bar; pendingOk (b.pending - n)

/-- The generations that the grants of a job have now: those its engine records at acceptance (R377). -/
def State.recordGens (s : State) (j : Job) : Job × State :=
  let r := j.grants.foldl (fun (a : List (Nat × Nat × BitVec 8) × State) u =>
    match a.2.grantInMem (engPlaces j.eng) j.ctx u.2.1 with
    | (.ok g, s) => (a.1 ++ [(u.1, u.2.1, g.gen)], s)
    | (.error _, s) => (a.1 ++ [u], s)) ([], s)
  ({ j with grants := r.1 }, r.2)

/-- A card is registered: it takes the next place in its context's order, its posters' slots name it, its scope counts
it, its barrier gains its bytes (R377, R379, R380). -/
def State.registerJob (s : State) (j : Job) : State :=
  let id := s.nextJob + 1
  let (j, s) := s.recordGens j
  let j := { j with id := id, st := .queued }
  let s := { s with nextJob := id, jobs := mset s.jobs id j }
  let s := j.posters.foldl (fun s p => s.updC p.1 (fun c => match mfind c.jobs p.2.1 with
    | some sl => { c with
        jobs := mset c.jobs p.2.1 { sl with job := some id }
        woken := if c.wait = some (.card p.2.1) then some (p.2.2.setWidth 64) else c.woken }
    | none => c)) s
  let s := match j.fs with
    | some n => s.scopeAdd j.ctx n
    | none => s
  match cardBar j.card with
  | none => s
  | some bar =>
    let u := s.jobUnit j bar
    let b := s.getBar j.ctx u bar
    let s := s.updJ id (fun j => { j with bar := some (u, bar) })
    if pendingOk (b.pending + j.bytes) then
      (s.setBar j.ctx u bar { b with pending := b.pending + j.bytes }).testBar j.ctx u bar
    else (s.breakBar j.ctx u bar).parkJob id .bounds 0 (barInfo 2 bar)

/-- Live jobs of a context (R379). -/
def State.liveJobs (s : State) (ctx : Nat) : List Job := (mvals s.jobs).filter (fun j => j.ctx == ctx && j.st.live)

/-- No edge from an earlier live job (R379); a context whose tasks are being saved starts nothing (R463). -/
def State.jobReady (s : State) (j : Job) : Bool :=
  j.st == .queued && decide ((s.getX j.ctx).stage < 2) &&
    (s.liveJobs j.ctx).all (fun e => decide (j.id ≤ e.id) || !j.conflicts e)

/-- The job an engine starts next (R365). -/
def State.engineBest (s : State) (eng : Nat) : Option Job :=
  (mvals s.jobs).foldl (fun (b : Option Job) j =>
    if j.eng = eng ∧ s.jobReady j then
      match b with
      | none => some j
      | some x => if x.prio < j.prio ∨ (x.prio = j.prio ∧ j.id < x.id) then some j else b
    else b) none
def State.engineJob (s : State) (eng : Nat) : Option Job := (mvals s.jobs).find? (fun j => j.eng == eng && j.st == .running)

/-! ## Accesses of a job -/

/-- Why a job's step ends: a fault with its address and detail, a wait for a pass, or a full
queue. -/
inductive JStop | fault (cause : Cause) (addr detail : Nat) | wait | full
  deriving DecidableEq, Repr
/-- A step of a job. -/
abbrev JM (α : Type) := ExceptT JStop (StateM State) α

def jfail {α : Type} (c : Cause) (addr detail : Nat) : JM α := throw (.fault c addr detail)

/-- Where an engine's access goes: inside the footprints (R378), through the windows or the tables, with the page bits of
R174; an ILOAD reads through R and X and writes instruction stores, which nothing else does (R184). -/
def engLoc (j : Job) (a : Acc) (ea size : Nat) : JM Loc := do
  let s ← get
  let rs := if a = .load then j.reads else j.writes
  if !rs.any (fun r => decide (r.1 ≤ ea) && decide (ea + size ≤ r.2)) then jfail .footprint ea s.openInfo.toNat
  let iload := cardOp j.card == 5
  let xl := fun (f : XFail) => JStop.fault .xlate ea (f.einfo ea)
  match regionOf ea with
  | some .translated =>
    let need : PageNeed := if a = .load && iload then { r := true, x := true } else a.need
    match s.xlate (engPlaces j.eng) j.ctx ea need with
    | (.error f, s) => do
      set s
      throw (xl f)
    | (.ok pa, s) => do
      set s
      if isHost pa && !s.hostAnswers pa size then jfail .remote ea ea
      return { key := pa, tagless := isHost pa, host := isHost pa }
  | some (.window .near _ _) => throw (xl ⟨4, 0⟩)
  | r =>
    if a ≠ .load && !iload && (match r with
        | some (.window .istore _ _) | some (.window .mistore _ _) => true
        | _ => false) then throw (xl ⟨4, 0⟩)
    else match s.locate j.party a ea size with
    | (.error f, _) => throw (xl f)
    | (.ok l, _) => do
      if l.remote then jfail .remote ea ea
      if s.tileBusy l.key then throw .wait
      return l

/-- Bytes of one granule read by an engine, with the granule's tag (R380). -/
def engRead (j : Job) (ea size : Nat) : JM (List Byte × Bool) := do
  let l ← engLoc j .load ea size
  let s ← get
  if s.poisoned l.key size then jfail .mcheck ea (s.mcheckInfo l.key ea)
  else match s.physRead l.key size with
    | some (bs, t) => do
      set t
      return (bs, s.tagAt l.key && !l.tagless)
    | none => jfail .remote ea ea

/-- A range cut at granules. -/
def granules (ea n : Nat) : List (Nat × Nat) :=
  (List.range ((ea + n - 1) / 16 - ea / 16 + 1)).map (fun i =>
    let lo := max ea (16 * (ea / 16 + i))
    (lo, min (ea + n) (16 * (ea / 16 + i) + 16) - lo))
def engBytes (j : Job) (ea n : Nat) : JM (List Byte) :=
  (granules ea n).foldlM (fun bs p => do
    let (b, _) ← engRead j p.1 p.2
    return bs ++ b) []

/-- A write ready to be performed: where, its bytes, the granule's tag, the bytes it takes off the barrier. -/
structure EngWrite where
  loc : Loc
  bytes : List Byte
  tag : Bool := false
  take : Nat

/-- A write's place, tested before anything is written (R381). -/
def engWrite (j : Job) (ea : Nat) (bs : List Byte) (tag : Bool := false) : JM EngWrite := do
  let l ← engLoc j .store ea bs.length
  if tag && l.tagless then jfail .xlate ea ((⟨5, 0⟩ : XFail).einfo ea)
  return ⟨l, bs, tag, bs.length⟩

/-- Writes performed granule by granule, each subtracted from PENDING once performed (R380). When the barrier cannot lose
the bytes, nothing is written. -/
def engCommit (j : Job) (ws : List EngWrite) : JM Unit := do
  let s ← get
  let n := ws.foldl (fun n w => n + w.take) 0
  if !s.barHolds j n then jfail .bounds 0 (barInfo 2 ((cardBar j.card).getD 0))
  else
    set (ws.foldl (fun s (w : EngWrite) =>
      let s := if w.loc.host then s.hostStore j.ctx w.loc.key w.bytes
        else s.perform j.ctx (cellsAt w.loc.key w.bytes) (if w.loc.tagless then [] else [(w.loc.key / 16, w.tag)])
      s.barTake j w.take) s)

/-! ## Elements of the copy operations (R375, R376) -/

/-- An element's code at an address (4-bit formats: a half of a byte). -/
def engElem (j : Job) (w : Nat) (at' : Nat × Bool) : JM Nat := do
  let (b, _) ← engRead j at'.1 (max 1 (w / 8))
  let x := leNat b
  return if w = 4 then (if at'.2 then x / 16 else x % 16) else x

/-- The write of an element's code. The byte of two 4-bit elements counts once, with its high half. -/
def engPut (j : Job) (w : Nat) (at' : Nat × Bool) (x : Nat) : JM EngWrite := do
  if w = 4 then
    let l ← engLoc j .store at'.1 1
    let old ← match (← get).physRead l.key 1 with
      | some (bs, s) => do
        set s
        pure (byteAt bs 0)
      | none => jfail .remote at'.1 at'.1
    let new := if at'.2 then old % 16 + 16 * (x % 16) else old / 16 * 16 + x % 16
    return ⟨l, leBytes new 1, false, if at'.2 then 1 else 0⟩
  else engWrite j at'.1 (leBytes x (w / 8))

/-- A ranked list moved whole: k from the source's header (R375). -/
def engList (j : Job) (src dst : Nat) : JM (List EngWrite) := do
  let h ← engBytes j src 16
  let k := byteAt h 0
  if k = 0 ∨ 62 < k then jfail .format src (formatInfo 5 0)
  let bs ← engBytes j src (16 + 8 * k)
  (granules dst (16 + 8 * k)).mapM (fun p => engWrite j p.1 ((bs.drop (p.1 - dst)).take p.2))

/-- Source and destination of element t (R375): a GATHER's or SCATTER's row index is read here. -/
def elemPair (j : Job) (src dst : Shape) (t : Nat) : JM ((Nat × Bool) × (Nat × Bool)) := do
  let c := j.card
  let a := field c 8 8
  let b := field c 16 8
  let row := fun (r : Nat) => do
    let x ← engBytes j ((field c 32 8 + 4 * (t / max r 1)) % 2 ^ 64) 4
    return leNat x
  if cardOp c = 2 then do
    let i ← row src.rowLen
    return (src.rowElem a (t % max src.rowLen 1) i, dst.elem b t)
  else if cardOp c = 3 then do
    let i ← row dst.rowLen
    return (src.elem a t, dst.rowElem b (t % max dst.rowLen 1) i)
  else return (src.elem a t, dst.elem b t)

/-- Bytes moved are charged to the context (R416). -/
def chargeCopy (j : Job) (n : Nat) : JM Unit :=
  modify (fun s => s.updX j.ctx (fun x => { x with usedCopy := x.usedCopy + n }))

/-- Writes performed, and their bytes charged as moved. -/
def moveAll (j : Job) (ws : List EngWrite) : JM Unit := do
  engCommit j ws
  chargeCopy j (ws.foldl (fun n w => n + w.take) 0)

/-- Elements that one step of a copy performs: a COPY with TAGS moves a granule, an ILOAD a word (R375, R376). -/
def copyUnit (c : List Byte) (dst : Shape) : Nat := if cardTags c then 16 / max 1 (dst.width / 8) else if cardOp c = 5 then 8 else 1
def Job.unit (j : Job) : Nat := match cardOp j.card, j.shapes with
  | 0x10, _ => 1
  | _, [_, dst] => copyUnit j.card dst
  | _, _ => 1

/-- Elements from t on, performed as one: their number. -/
def copyStep (j : Job) (src dst : Shape) (t : Nat) : JM Nat := do
  let c := j.card
  let w := dst.width
  if cardTags c then do
    let sz := max 1 (w / 8)
    let (b, tag) ← engRead j (field c 8 8 + t * sz) 16
    let x ← engWrite j (field c 16 8 + t * sz) b tag
    moveAll j [x]
    return copyUnit c dst
  else if cardOp c = 5 then do
    let bs ← (List.range 8).mapM (fun i => engElem j 8 (src.elem (field c 8 8) (t + i)))
    let x ← engWrite j (field c 16 8 + t) (bs.map (BitVec.ofNat 8))
    moveAll j [x]
    return copyUnit c dst
  else if cardOp c = 4 then do
    let x ← engPut j w (dst.elem (field c 16 8) t) (field c 8 8 % 2 ^ w)
    moveAll j [x]
    return 1
  else do
    let p ← elemPair j src dst t
    if dst.isRank then do
      let ws ← engList j p.1.1 p.2.1
      moveAll j ws
    else do
      let v ← engElem j src.width p.1
      let y := match cardOp c, src.fmt?, dst.fmt? with
        | 6, some f, some g => cvtVal (fmtVal f 0 v) g (cardRm c) (cardSat c) 0
        | _, _, _ => (v, 0)
      let x ← engPut j w p.2 y.1
      moveAll j [x]
      modify (fun s => s.updJ j.id (fun j => { j with flags := j.flags ||| y.2.setWidth 6 }))
    return 1

/-! ## ROUTE (R385 to R387) -/

/-- A candidate: its value and its expert. -/
abbrev Cand := Lane × Nat

/-- Larger first, ties to the lower expert (R386). -/
def candBefore (a b : Cand) : Bool := decide (ord32 b.1 < ord32 a.1) || (ord32 a.1 == ord32 b.1 && decide (a.2 < b.2))
def candInsert (x : Cand) : List Cand → List Cand
  | [] => [x]
  | y :: r => if candBefore x y then x :: y :: r else y :: candInsert x r
/-- The k largest of a list (R386). -/
def topK (k : Nat) (xs : List Cand) : List Cand := xs.foldl (fun l x => (candInsert x l).take k) []

/-- A pairwise tree sum; an absent partner is +0 (R386). -/
def pairSums : List Lane → List Lane
  | a :: b :: r => (fAdd false .rne a b).1 :: pairSums r
  | [a] => [(fAdd false .rne a 0).1]
  | [] => []
def treeSum : Nat → List Lane → Lane
  | 0, xs => xs.headD 0
  | n + 1, xs => match xs with
    | _ :: _ :: _ => treeSum n (pairSums xs)
    | _ => xs.headD 0

/-- smax of R386. -/
def smax (ys : List Lane) : List Lane :=
  let m := ys.foldl (fun m y => if ord32 m < ord32 y then y else m) negInf32
  let zs := ys.map (fun y => (sfu .exp false (fSub false .rne y m).1).1)
  let t := treeSum zs.length zs
  zs.map (fun z => (fDiv false z t).1)

def capInf (x : Lane) : Lane := if x = 0x7F800000 then 0x7F7FFFFF else x

/-- n(e) of a score (R386): the value, and whether it was a NaN. -/
def routeValue (c : List Byte) (f : Fmt) (raw t e : Nat) : Lane × Bool :=
  let nan := (fmtVal f 0 raw).isNan
  let x := if nan then negInf32 else capInf (BitVec.ofNat 32 (cvtVal (fmtVal f 0 raw) .f32 .rne false 0).1)
  let tau := routeTau c
  if tau.toNat % 2 ^ 31 = 0 then (x, nan)
  else
    let w := (sesame (BitVec.ofNat 32 t) (BitVec.ofNat 32 e) (BitVec.ofNat 32 (field c 48 4)) 0
      (BitVec.ofNat 32 (field c 40 4)) (BitVec.ofNat 32 (field c 44 4))).1
    (capInf (fAdd false .rne x (fMul false .rne tau (gumb false w).1).1).1, nan)

/-- The chosen experts of a token, with their weights (R386), and the bytes read for it. -/
def routeChoose (j : Job) (sc : Shape) (t : Nat) : JM (List Cand × Nat) := do
  let c := j.card
  let k := routeK c
  if routeMode c = 2 then
    let at' := (sc.elem (field c 16 8) t).1
    let h ← engBytes j at' 16
    let n := min k (byteAt h 1)
    let body ← if n = 0 then pure [] else engBytes j (at' + 16) (8 * n)
    let es : List Cand := (List.range n).map (fun i => (capInf (BitVec.ofNat 32 (field body (8 * i) 4)), field body (8 * i + 4) 4))
    let es := es.filter (fun x => x.1 != negInf32)
    match es.find? (fun x => decide (routeTable c ≠ 0) && decide (j.eqE ≤ x.2)) with
    | some _ => jfail .bounds at' (← get).openLayout
    | none => return ((smax (es.map Prod.fst)).zip (es.map Prod.snd), 16 + 8 * n)
  else
    let n := sc.ext.headD 0
    let f := sc.fmt?.getD .f32
    let xs ← (List.range n).mapM (fun e => do
      let raw ← engElem j sc.width (sc.elem (field c 16 8) (t * n + e))
      return (routeValue c f raw t e, e))
    if xs.any (fun x => x.1.2) then modify (fun s => s.updJ j.id (fun j => { j with flags := j.flags ||| 0x20 }))
    let cs : List Cand := xs.map (fun x => (x.1.1, x.2))
    let ch :=
      if cs.all (fun x => x.1 == negInf32) then []
      else if routeMode c = 0 then topK k (((smax (cs.map Prod.fst)).zip (cs.map Prod.snd)).filter (fun x => decide (0 < ord32 x.1)))
      else
        let ch := topK k (cs.filter (fun x => x.1 != negInf32))
        (smax (ch.map Prod.fst)).zip (ch.map Prod.snd)
    return (ch, n * sc.width / 8)

/-- The dispatch record of R387. -/
def routeRecord (j : Job) (t s p : Nat) : List Byte :=
  leBytes t 4 ++ leBytes s 1 ++ [0, 0, 0] ++ leBytes p 4 ++ [0, 0, 0, 0]
    ++ leBytes (field j.table 16 8 + t * field j.table 24 8) 8
    ++ leBytes (field j.table 32 8 + (t * routeK j.card + s) * field j.table 40 8) 8

/-- One slot's record claimed and committed as sender d, and its counter raised (R387); E1 raises it twice (R521). -/
def routeSend (j : Job) (t slot : Nat) (x : Cand) : JM Unit := do
  let ea := field j.table (48 + 8 * x.2) 8
  let s ← get
  if ea % 64 ≠ 0 then jfail .align ea ea
  match s.ctxRead j.ctx ea 128 with
  | (.error f, _) => jfail f.1 f.2.2 f.2.1
  | (.ok b, s) => do
    let (home, s) := s.queueHome j.ctx ea
    let b := s.descNow home b
    let d := qdescOf b
    match qdescBad d (qliveOf b) b with
    | some o => jfail .format ea (formatInfo 11 o)
    | none => do
      let snd := j.eng - 64
      if d.launchq || decide (byteAt b 28 ≤ snd) then jfail .format ea (formatInfo 11 28)
      let (k, s) := s.activate j.ctx ea home b
      let race := match s.queue? k with
        | some q => q.racing d snd s.cycle (s.getX q.ctx).ccb.cto && s.pick 0x600 2 == 1
        | none => false
      match s.claimOn k (claimant j.ctx snd) with
      | (.full, _) => throw .full
      | (cl, s) => do
        set s
        let at' := j.eqHist + 4 * x.2
        let l ← engLoc j .atomic at' 4
        -- a 4-byte atomic has no RoCEv2 form (R213)
        if l.host then jfail .xlate at' ((⟨4, 0⟩ : XFail).einfo at')
        modify (fun s =>
          let s := (s.amoAt j.ctx .add .z32 l.key (if race then 2 else 1)).2
          let rec' := routeRecord j t slot x.1.toNat
          match race, cl with
          | true, .slot no off => s.commitRaced k no off (claimant j.ctx snd) rec'
          | _, _ => s.commitOn k cl rec')

/-- One token: its choice, its outputs, its records (R386, R387); a record moves 32 bytes and its counter 4 (R416).
(DEDUCED, log entry 31) -/
def routeStep (j : Job) (sc ix wt : Shape) (t : Nat) : JM Nat := do
  let c := j.card
  let k := routeK c
  let (ch, n) ← routeChoose j sc t
  let ws ← (List.range k).mapM (fun s => do
    let x := ch[s]?
    let wf := wt.fmt?.getD .f32
    let p := match x with
      | some y => cvtVal (f32Val y.1) wf .rne false 0
      | none => (0, 0)
    modify (fun st => st.updJ j.id (fun j => { j with flags := j.flags ||| p.2.setWidth 6 }))
    let a ← engPut j 32 (ix.elem (field c 24 8) (t * k + s)) (match x with | some y => y.2 | none => 2 ^ 32 - 1)
    let b ← engPut j wt.width (wt.elem (field c 32 8) (t * k + s)) p.1
    return [a, b])
  engCommit j (ws.foldr (· ++ ·) [])
  if routeTable c ≠ 0 then ((List.range ch.length).zip ch).forM (fun y => routeSend j t y.1 y.2)
  modify (fun s => s.updX j.ctx (fun x => { x with
    usedSieve := x.usedSieve + n + k * (4 + wt.width / 8) + (if routeTable c = 0 then 0 else 36 * ch.length) }))
  return 1

/-- The queue table at a ROUTE job's start, which must agree with what the post read (R385). -/
def routeStart (j : Job) : JM Unit := do
  let q := routeTable j.card
  if q = 0 then pure ()
  else do
    let b ← engBytes j q (48 + 8 * j.eqE)
    let e := field b 0 4
    let bad := decide (e ≠ j.eqE) || decide (field b 8 8 ≠ j.eqHist) || (routeMode j.card != 2 &&
      (match j.shapes with | sc :: _ => sc.ext.headD 0 != e | [] => false))
    if bad then jfail .format q (← get).openLayout
    modify (fun s => s.updJ j.id (fun j => { j with table := b }))

/-! ## Running -/

/-- Elements or tokens in all (R375, R386). Cards of other units have one step of their own. -/
def Job.total (j : Job) : Nat :=
  match cardOp j.card, j.shapes with
  | 0x10, sc :: _ => sc.ext.getLastD 0
  | 3, [src, _] => src.count
  | _, [_, dst] => dst.count
  | _, _ => 1

/-- One step of a running job: how many elements it performed. -/
def Job.unitStep (j : Job) : JM Nat :=
  match cardOp j.card, j.shapes with
  | 0x10, [sc, ix, wt] => routeStep j sc ix wt j.count
  | _, [src, dst] => copyStep j src dst j.count
  | _, _ => throw .wait

/-- Steps of a job, until it ends, stops, parks or waits. A step that faults or waits has had no effect on memory
(R381): a ROUTE token is taken back whole. (DEDUCED, log entry 30) -/
def State.jobRun (s : State) (id : Nat) : Nat → State
  | 0 => s
  | n + 1 =>
    match s.job? id with
    | none => s
    | some j =>
      if j.st ≠ .running ∨ j.total ≤ j.count then s
      else match (j.unitStep : StateM State (Except JStop Nat)) s with
      | (.ok k, s) => (s.updJ id (fun j => { j with count := j.count + k, waits := none })).jobRun id n
      | (.error .wait, t) => if cardOp j.card = 0x10 then s else t
      | (.error .full, _) => s.updJ id (fun j => { j with waits := some (j.waits.getD s.cycle) })
      | (.error (.fault c a d), t) =>
        let s := if cardOp j.card = 0x10 then s else t
        let s := match j.bar with
          -- the update the barrier refuses breaks it (R221)
          | some (u, bar) => if c = Cause.bounds ∧ d = barInfo 2 bar then s.breakBar j.ctx u bar else s
          | none => s
        s.parkJob id c a d

/-- The repeated check of R377 (R122): none when every grant still passes. -/
def State.jobGrants (s : State) (j : Job) : Option GrantFail × State :=
  match s.grantTests (engPlaces j.eng) j.ctx j.grants j.uses with
  | (.error f, s) => (some f, s)
  | (.ok _, s) => (none, s)

/-- The jobs of a context that name a grant, or any grant, and have elements to come repeat the check; one that fails parks
(R99, R122). -/
def State.recheckGrant (s : State) (ctx : Nat) (gid : Option Nat) : State :=
  (mvals s.jobs).foldl (fun s j =>
    if j.ctx = ctx ∧ j.uses.any (fun u => gid.isNone || gid == some u.gid) ∧ (j.st = .queued ∨ (j.st = .running ∧ j.count < j.total)) then
      match s.jobGrants j with
      | (some f, s) => s.parkJob j.id f.1 0 f.2
      | (none, s) => s
    else s) s

/-- Whether an engine's translations lie in a TLBINV's scope, used by core `n` (R197). -/
def engInScope (n : Nat) (sc : Scope) (eng : Nat) : Bool :=
  match sc with
  | .core | .cluster => false
  | .die => eng != 72 && dieOfEng eng == dieOfCore n
  | .pkg | .sys => true

/-- Running jobs whose translations are gone go on to their next element, which is translated again; one that fails parks
(R197, R381). -/
def State.retranslate (s : State) (p : Job → Bool) : State :=
  (mvals s.jobs).foldl (fun s j => if j.st = .running ∧ p j then s.jobRun j.id 1 else s) s

/-- A job starts: the grants again, for ROUTE the table, then it runs as far as the device has come (R365, R377, R385). -/
def State.startJob (s : State) (j : Job) : State :=
  match s.jobGrants j with
  | (some f, s) => s.parkJob j.id f.1 0 f.2
  | (none, s) =>
    let s := s.updJ j.id (fun j => { j with st := .running })
    if cardOp j.card = 0x10 then
      match (routeStart j : StateM State (Except JStop Unit)) s with
      | (.ok _, s) => s
      | (.error .wait, s) | (.error .full, s) => s.updJ j.id (fun j => { j with st := .queued })
      | (.error (.fault c a d), s) => s.parkJob j.id c a d
    else s
def State.startOn (s : State) (eng : Nat) : State :=
  if (s.engineJob eng).isSome then s
  else match s.engineBest eng with
    | none => s
    | some j =>
      let s := s.startJob j
      s.jobRun j.id (s.pick 0x610 (j.total - j.count + 1))

end Sys2Proof.Machine
end

