-- ==== Sys2Proof/Machine/Eng.lean ====
section
/-!
DEFINITION. The ENG group (R388 to R394): posts and their checks (R390, R540, R396, R468), waits, cancels and status; and
the engines' events (rows 305 to 318).
-/
namespace Sys2Proof.Machine

/-! ## The checks of a post (R390) -/

def raiseFail {α : Type} (f : GrantFail) : M α := raise f.1 f.2

/-- Step 6: one shape entry, read by the engine (R372, R374). -/
def readShape (eng idx kind : Nat) : M Shape := do
  let s ← get
  let x := s.getX s.c.ctx
  raiseIf (decide (x.ccb.shapeCount ≤ idx)) .format (formatInfo kind 0xFF)
  let va := (x.ccb.shapeBase + 128 * idx) % 2 ^ 64
  let b ← (granules va 128).foldlM (fun bs p => do
    let s ← get
    match s.xlate (engPlaces eng) s.c.ctx p.1 { r := true } with
    | (.error f, s) => do
      set s
      raise .xlate (f.einfo va)
    | (.ok pa, s) => do
      set s
      match s.physRead pa p.2 with
      | some (x, s) => do
        set s
        return bs ++ x
      | none => raise .remote p.1) []
  match shapeOf b with
  | .error o => raise .format (formatInfo kind o)
  | .ok h => return h

/-- A base and strides in units of the element (R374). -/
def alignShape (h : Shape) (base : Nat) : M Unit := raiseIf (!h.aligned base) .align base

/-- Step 7: the grants, whose generations the job keeps (R377). -/
def postGrants (eng : Nat) (us : List GrantUse) : M (List (Nat × Nat × BitVec 8)) := do
  let s ← get
  match s.grantTests (engPlaces eng) s.c.ctx [] us with
  | (.error f, s) => do
    set s
    raiseFail f
  | (.ok gs, s) => do
    set s
    return gs

/-- The job a card makes, before it is registered. -/
def blankJob (s : State) (eng : Nat) (card : List Byte) (shapes : List Shape) : Job :=
  { id := 0, eng := eng, ctx := s.c.ctx, card := card, posters := [], task := s.c.task, sys := s.c.sys, shapes := shapes
    reads := [], writes := [], grants := [], st := .queued, cause := 0, flags := 0, count := 0, prio := cardPrio card
    fs := cardFs card, bar := none }

/-- Ranges as natural numbers, once their grants have bounded them. -/
def natRanges (xs : List (Option (Int × Int))) : List (Nat × Nat) := (xs.filterMap id).map (fun r => (r.1.toNat, r.2.toNat))

/-- An ILOAD from user mode reaches no word from 3,584 on (R164). -/
def iloadReach (lo hi : Nat) : Bool :=
  let off := lo % 2 ^ 20
  (decide (lo / 2 ^ 48 = 0xF2) || decide (lo / 2 ^ 48 = 0xF6)) &&
    ((decide (off < 0x8000) && decide (0x7000 < off + (hi - lo))) || decide (2 ^ 20 + 0x7000 < off + (hi - lo)))

/-- A copy card (R369 to R378, R540). -/
def copyPost (eng : Nat) (card : List Byte) : M Job := do
  formatIf (copyCardBad card) 6
  let fill := cardOp card == 4
  let dstOf := readShape eng (field card 6 2) 8
  let (src, dst) ← if fill then do
      let d ← dstOf
      pure (d, d)
    else do
      let a ← readShape eng (field card 4 2) 7
      let d ← dstOf
      pure (a, d)
  if !fill then alignShape src (field card 8 8)
  alignShape dst (field card 16 8)
  formatIf (copyRelBad card src dst) 6
  let gs ← postGrants eng (copyGrants card src dst)
  let s ← get
  let r := copyRanges card src dst
  let writes := natRanges [r.2.1]
  if cardOp card == 5 && !s.c.sys && writes.any (fun w => iloadReach w.1 w.2) then
    raise .xlate ((⟨4, 0⟩ : XFail).einfo (field card 16 8))
  return { blankJob s eng card [src, dst] with
    reads := natRanges [r.1, r.2.2.1, r.2.2.2], writes := writes, grants := gs }

/-- E and the histogram address of a ROUTE card's table, under the source grant (R385, R390 step 7). -/
def routeHead (eng : Nat) (card : List Byte) : M (Nat × Nat) := do
  let q := routeTable card
  if q = 0 then return (0, 0)
  else do
    let _ ← postGrants eng [⟨1, field card 52 2, permE, (rangeAt q 16).toList⟩]
    let b ← (granules q 16).foldlM (fun bs p => do
      let s ← get
      -- an engine has no near windows (R163)
      match (match regionOf p.1 with
        | some (.window .near _ _) => (Except.error (⟨4, 0⟩ : XFail), s)
        | _ => s.locate { core := s.cur, sys := s.c.sys, task := s.c.task, ctx := s.c.ctx, places := engPlaces eng } .load p.1 p.2) with
      | (.error f, s) => do
        set s
        raise .xlate (f.einfo p.1)
      | (.ok l, s) => do
        set s
        raiseIf l.remote .remote p.1
        match s.physRead l.key p.2 with
        | some (x, s) => do
          set s
          return bs ++ x
        | none => raise .remote p.1) []
    let e := field b 0 4
    raiseIf (decide (e = 0) || decide (4096 < e)) .format (formatInfo 6 56)
    return (e, field b 8 8)

/-- A ROUTE card (R384, R385, R387, R540). -/
def routePost (eng : Nat) (card : List Byte) : M Job := do
  formatIf (routeCardBad card) 6
  let sc ← readShape eng (field card 4 2) 7
  let ix ← readShape eng (field card 6 2) 8
  let wt ← readShape eng (field card 8 2) 9
  alignShape sc (field card 16 8)
  alignShape ix (field card 24 8)
  alignShape wt (field card 32 8)
  formatIf (routeRelBad card sc ix wt) 6
  let h ← routeHead eng card
  let gs ← postGrants eng (routeGrants card sc ix wt h.1 h.2)
  let r := routeRanges card sc ix wt h.1 h.2
  return { blankJob (← get) eng card [sc, ix, wt] with
    reads := natRanges (r.1.map some), writes := natRanges (r.2.map some), grants := gs, eqE := h.1, eqHist := h.2 }

/-- A CTXSET card and the CCB it names (R396). -/
def ctxsetPost (card : List Byte) : M Job := do
  privileged'
  formatIf (ctxsetCardBad card) 6
  let a := field card 8 8
  let gs ← postGrants 72 [⟨1, field card 24 2, permE, (rangeAt a 128).toList⟩]
  let s ← get
  match s.ctxRead s.c.ctx a 128 with
  | (.error f, t) => do
    set t
    raise f.1 f.2.1
  | (.ok b, t) => do
    set t
    formatIf (ccbBad b) 6
    return { blankJob t 72 card [] with grants := gs, table := b }
where
  /-- PRIV after the card is read (R396). -/
  privileged' : M Unit := do
    let s ← get
    if !s.c.sys then raise .priv s.openInfo.toNat

/-- A Shell card (R468). -/
def shellPost (eng : Nat) (card : List Byte) : M Job := do
  formatIf (shellCardBad card) 6
  let j := blankJob (← get) eng card []
  let gs ← postGrants eng j.uses
  return { j with grants := gs }

/-- A RESUME card (R383): its handle must name a parked job of the poster, at that job's engine. -/
def resumePost (eng : Nat) (card : List Byte) : M (Nat × Word) := do
  formatIf (firstBad (zeroBytes card 1 7)) 6
  let s ← get
  let h := field card 8 8
  match (match mfind s.c.jobs (h % 32) with
    | some sl => if h < 2 ^ 32 ∧ sl.seq = h / 32 % 2 ^ 20 ∧ sl.eng = h / 2 ^ 25 ∧ sl.eng = eng then sl.job.bind s.job? else none
    | none => none) with
  | none => raise .format (formatInfo 6 8)
  | some j => do
    raiseIf (j.st != .parked) .format (formatInfo 6 8)
    formatIf (firstBad (zeroBytes card 16 63)) 6
    return (j.id, BitVec.ofNat 64 h)

/-- The first free slot after the one last allocated, and the handle it makes (R368). -/
def takeSlot (eng : Nat) (sc : Scope) : M (Nat × BitVec 32) := do
  let s ← get
  let c := s.c
  match ((List.range 32).map (fun i => (c.lastSlot + 1 + i) % 32)).find? (fun n =>
      match mfind c.jobs n with | some sl => sl.job.isNone | none => true) with
  | none => holdOn .slot
  | some n => do
    let seq := c.postSeq % 2 ^ 20
    set (s.upd (fun c => { c with
      lastSlot := n, postSeq := (c.postSeq + 1) % 2 ^ 20, jobs := mset c.jobs n ⟨seq, eng, none, 0, sc⟩ }))
    return (n, BitVec.ofNat 32 (eng * 2 ^ 25 + seq * 32 + n))

/-- A card that may combine joins an open window for the same 64 bytes, engine and context, or opens one (R367). -/
def State.combine (s : State) (j : Job) : State :=
  let cl := clusterOfCore s.cur
  let same := fun (x : Combine) => x.cluster == cl && x.job.eng == j.eng && x.job.ctx == j.ctx && x.job.card == j.card &&
    !x.closed && decide (s.cycle < x.opened + 64)
  if s.combs.any same then
    { s with combs := s.combs.map (fun (x : Combine) =>
        if same x then { x with job := { x.job with posters := x.job.posters ++ j.posters } } else x) }
  else { s with combs := s.combs ++ [⟨cl, j, s.cycle, false⟩] }

/-- Steps 1 to 4 of R390: the engine window, PRIV of the Shell's engines, and the card, read as it stands. -/
def epostCard (a b : GReg) : M (Nat × List Byte) := do
  let s0 ← get
  let cb := s0.rdG b
  let ea := capAddr cb
  let _ ← capcheck cb ea 64 permW
  stepLocalPost
  let eng ← match regionOf ea with
    | some (.window .eng u 0) => if u ≤ 72 then pure u else raise .xlate ((⟨4, 0⟩ : XFail).einfo ea)
    | _ => raise .xlate ((⟨4, 0⟩ : XFail).einfo ea)
  if 68 ≤ eng ∧ eng ≤ 71 ∧ !s0.c.sys then raise .priv s0.openInfo.toNat
  let ca := s0.rdG a
  let _ ← capcheck ca (capAddr ca) 64 permR
  raiseIf (decide (capAddr ca % 64 ≠ 0)) .align (capAddr ca)
  let card ← readBlock (capAddr ca) 64
  return (eng, card)

/-- Steps 5 to 7 of R390: the job a card of each kind of engine makes. -/
def cardJob (eng : Nat) (card : List Byte) : M Job :=
  if eng = 72 then ctxsetPost card else if 68 ≤ eng then shellPost eng card
  else if 64 ≤ eng then routePost eng card else copyPost eng card

/-- EPOST (R366 to R368, R390): checked in order, released, and registered; with COMB the poster waits for its window. -/
def execEpost (d a b : GReg) (s : State) : Host.Outcome State Fault Refusal :=
  run (do
    let s0 ← get
    match s0.c.wait, s0.c.woken with
    | some (.card _), some h => setI d h
    | some (.card n), none => holdOn (.card n)
    | _, _ => do
      let (eng, card) ← epostCard a b
      if cardOp card = 7 ∧ eng < 68 then do
        let r ← resumePost eng card
        releaseM (cardScope card)
        modify (fun s => (s.updJ r.1 (fun j => { j with st := .queued })).block 0x600)
        setI d r.2
      else do
        let j ← cardJob eng card
        releaseM (cardScope card)
        let (n, h) ← takeSlot eng (cardScope card)
        let s ← get
        let j := { j with posters := [(s.cur, n, h)] }
        if cardComb card then do
          modify (fun s => s.combine j)
          holdOn (.card n)
        else if 1024 ≤ (s.liveJobs s.c.ctx).length then do
          -- the card is at acceptance, and stays as it was checked (R379)
          modify (fun s => { s with combs := s.combs ++ [⟨clusterOfCore s.cur, j, s.cycle, true⟩] })
          holdOn (.card n)
        else do
          modify (fun s => (s.registerJob j).block 0x601)
          setI d (h.setWidth 64)) s

/-! ## Status (R389 to R393) -/

/-- The slot a handle names, while it holds the handle's SEQ (R368). -/
def Core.handleSlot (c : Core) (h : Nat) : Option JobSlot :=
  (mfind c.jobs (h % 32)).filter (fun sl => sl.seq == h / 32 % 2 ^ 20 && sl.eng == h / 2 ^ 25 % 128)

/-- The job a handle names, and the status word (R368, R389). -/
def State.handleJob (s : State) (h : Nat) : Option Job × Word :=
  match s.c.handleSlot h with
  | none => (none, unknownJob)
  | some sl =>
    match sl.job.bind s.job? with
    | some j => (some j, j.word)
    | none => (none, sl.final)

/-- EWAIT (R391): an end is acquired at the scope of its card (R204). -/
def execEwait (d a : GReg) (s : State) : Host.Outcome State Fault Refusal :=
  run (do
    let s ← get
    let h := (s.rdI a).toNat % 2 ^ 32
    let r := s.handleJob h
    match r.1 with
    | some j => do
      holdIf (j.st != .parked) (.job (BitVec.ofNat 32 h))
      setI d r.2
    | none => do
      acquireOpt ((s.c.handleSlot h).map (·.scope))
      setI d r.2) s

/-- ECAN (R392): an engine stands at an element boundary between two steps, so it has acted at once. -/
def execEcan (d a : GReg) (s : State) : Host.Outcome State Fault Refusal :=
  run (do
    let s ← get
    let r := s.handleJob ((s.rdI a).toNat % 2 ^ 32)
    match r.1 with
    | some j => modify (fun s => (s.endJob j.id .cancelled).block 0x602)
    | none => pure ()
    setI d r.2) s

/-- ESTAT (R393). -/
def execEstat (d a : GReg) (s : State) : Host.Outcome State Fault Refusal :=
  run (do
    let s ← get
    setI d (s.handleJob ((s.rdI a).toNat % 2 ^ 32)).2
    modify (·.block 0x603)) s

/-! ## Events -/

/-- COMBINE_WINDOW_EXPIRY (R367). -/
def execCombineWindowExpiry (idx : Nat) (s : State) : Host.Outcome State Fault Refusal :=
  .next (match s.combs[idx]? with
    | some x => if x.opened + 64 ≤ s.cycle then { s with combs := s.combs.set idx { x with closed := true } } else s
    | none => s)

/-- A forwarded card of an operation is registered for the posters that still wait for it; a full directory holds it
(R366, R367, R379). -/
def State.forward (s : State) (op idx : Nat) : State :=
  match s.combs[idx]? with
  | none => s
  | some x =>
    if !x.closed ∨ cardOp x.job.card ≠ op ∨ 1024 ≤ (s.liveJobs x.job.ctx).length then s
    else
      let ps := x.job.posters.filter (fun p => (s.getC p.1).wait == some (.card p.2.1))
      let s := { s with combs := s.combs.eraseIdx idx }
      if ps = [] then s else s.registerJob { x.job with posters := ps }

/-- The card a core waits at acceptance with, if it has been forwarded. -/
def State.heldCard (s : State) (core slot : Nat) : Option Nat :=
  (List.range s.combs.length).find? (fun i => match s.combs[i]? with
    | some x => x.closed && x.job.posters.any (fun p => p.1 == core && p.2.1 == slot)
    | none => false)

/-- POST_ACCEPTANCE (R366): the poster goes on with its handle; a card the full directory holds is registered once there is
room (R379). -/
def execPostAcceptance (core : Nat) (s : State) : Host.Outcome State Fault Refusal :=
  .next (match (s.getC core).wait, (s.getC core).woken with
    | some (.card _), some _ => { s with turns := .core core :: s.turns }
    | some (.card n), none => match s.heldCard core n with
      | some i => s.forward ((s.combs[i]?.map (fun x => cardOp x.job.card)).getD 0) i
      | none => s
    | _, _ => s)

/-- COPY (R375). -/
def execCopy (idx : Nat) (s : State) : Host.Outcome State Fault Refusal := .next (s.forward 1 idx)
/-- GATHER (R375). -/
def execGather (idx : Nat) (s : State) : Host.Outcome State Fault Refusal := .next (s.forward 2 idx)
/-- SCATTER (R375). -/
def execScatter (idx : Nat) (s : State) : Host.Outcome State Fault Refusal := .next (s.forward 3 idx)
/-- FILL (R375). -/
def execFill (idx : Nat) (s : State) : Host.Outcome State Fault Refusal := .next (s.forward 4 idx)
/-- ILOAD (R375). -/
def execIload (idx : Nat) (s : State) : Host.Outcome State Fault Refusal := .next (s.forward 5 idx)
/-- CONVERT (R375). -/
def execConvert (idx : Nat) (s : State) : Host.Outcome State Fault Refusal := .next (s.forward 6 idx)
/-- ROUTE (R384). -/
def execRoute (idx : Nat) (s : State) : Host.Outcome State Fault Refusal := .next (s.forward 0x10 idx)

/-- RESUME (R383): a job its poster has resumed restarts at its cursor when its engine comes to it. -/
def execResume (id : Nat) (s : State) : Host.Outcome State Fault Refusal :=
  .next (match s.job? id with
    | some j => if (s.engineBest j.eng).map (·.id) = some id ∧ j.cause ≠ 0 then s.startOn j.eng else s
    | none => s)

/-- JOB_START (R365). -/
def execJobStart (eng : Nat) (s : State) : Host.Outcome State Fault Refusal := .next (s.startOn eng)

/-- JOB_COMPLETE (R380): the job's remaining elements, then its end. -/
def execJobComplete (eng : Nat) (s : State) : Host.Outcome State Fault Refusal :=
  .next (match s.engineJob eng with
    | none => s
    | some j =>
      let s := s.jobRun j.id (j.total - j.count)
      match s.job? j.id with
      | some k => if k.st = .running ∧ k.total ≤ k.count then s.endJob k.id .done else s
      | none => s)

/-- ROUTE_TOKEN (R386, R387). -/
def execRouteToken (die : Nat) (s : State) : Host.Outcome State Fault Refusal :=
  .next (match s.engineJob (64 + die) with
    | some j => s.jobRun j.id 1
    | none => s)

/-- SIEVE_DEADLOCK (R387): DLCYC cycles on a full queue with no dequeue. -/
def execSieveDeadlock (die : Nat) (s : State) : Host.Outcome State Fault Refusal :=
  .next (match s.engineJob (64 + die) with
    | some j =>
      match j.waits with
      | some t =>
        let x := s.getX j.ctx
        if max t x.deqAt + x.ccb.dlcyc ≤ s.cycle then s.parkJob j.id .deadlock (s.free 0x620).toNat s.openInfo.toNat else s
      | none => s
    | none => s)

end Sys2Proof.Machine
end

