-- ==== Sys2Proof/Machine/Grant.lean ====
section
/-!
DEFINITION. Writes of the grant table: GNEW and GREV (R120 to R123), and the emptying of grant caches that a GRANTBASE
write shares with them (R99).
-/
namespace Sys2Proof.Machine

/-- The listed cores of a context. -/
def State.coresOf (s : State) (ctx : Nat) : List Nat := (s.cores.filter (fun e => e.2.ctx == ctx)).map Prod.fst

/-- Every queued store and outstanding load of the context's cores is performed, as far as it may be (R122). -/
def State.performAll (s : State) (ctx : Nat) : State :=
  (s.coresOf ctx).foldl (fun s n => (s.drainAll n).arriveWhere n (fun _ => true)) s

/-- A queue entry of an access that passed the check of R102: not a deposit, not a marker. -/
def SqEntry.checked (e : SqEntry) : Bool := match e.op with
  | .deposit _ _ _ _ _ _ | .release _ => false
  | _ => true
/-- Whether an access checked under a grant of the context is still to be performed (R122): a queued store, a granule of a send on
its way, a WAITM asleep under that grant; under any grant when none is named (R99). -/
def State.grantPending (s : State) (ctx : Nat) (gid : Option Nat) : Bool :=
  s.sends.any (fun x => x.ctx == ctx) || (s.coresOf ctx).any (fun n => (s.getC n).sq.any SqEntry.checked ||
    (match (s.getC n).wait with | some (.memory _ g) => gid.isNone || gid == some g | _ => false))

/-- The wait of R122, after the entry has been written and has left every cache; the word keeps its grant and its result
meanwhile. -/
def grantWait (gid : Option Nat) (result : TReg) : M Unit := do
  let ctx := (← get).c.ctx
  modify (·.performAll ctx)
  holdIf ((← get).grantPending ctx gid) (.grant gid result)

/-- What a word that waits so has already done: its grant and its result. -/
def grantDone : M (Option (Option Nat × TReg)) := ask (fun s => match s.c.wait with | some (.grant g x) => some (g, x) | _ => none)

/-- An entry leaves every grant cache of the context (R120, R121); all of them when no id is named (R99). -/
def State.dropGrant (s : State) (ctx : Nat) (gid : Option Nat) : State :=
  { s with cores := s.cores.map (fun e => (e.1, { e.2 with
      gcache := e.2.gcache.filter (fun l => !(l.ctx == ctx && (gid.isNone || gid == some l.gid))) })) }

/-- The entry of a grant in memory, for a write in queue order (R201); its page needs R and W. (DESIGN CHOICE, log entry 60) -/
def entryPlace (gid : Nat) : M Nat := do
  let s ← get
  let va := (s.getX s.c.ctx).grantVa gid
  match s.xlate (corePlaces s.cur) s.c.ctx va { r := true, w := true } with
  | (.error f, s) => do
    set s
    raise .xlate (f.einfo va)
  | (.ok pa, s) => do
    set s
    raiseIf (s.poisoned pa 32) .mcheck (s.mcheckInfo pa va)
    raiseIf (isHost pa && !s.hostAnswers pa 32) .remote va
    inOrder (homeOf pa)
    modify (fun s => if isHost pa then s.sendRead pa 32 else s)
    return pa

/-- Bytes of an entry written, in memory or through a host window (R169, R504). -/
def State.putEntry (s : State) (pa : Nat) (bs : List Byte) : State :=
  if isHost pa then s.hostStore s.c.ctx pa bs else s.writeAt s.c.ctx pa bs

/-- An entry just written leaves the caches, and the jobs that name it repeat their check (R122). -/
def State.entryWritten (s : State) (id : Nat) : State :=
  (s.dropGrant s.c.ctx (some id)).recheckGrant s.c.ctx (some id)

/-- GNEW (R120, R122). -/
def execGnew (d a b : GReg) (s : State) : Host.Outcome State Fault Refusal :=
  run (do
    privileged
    match ← grantDone with
    | some (id, x) => do
      grantWait id x
      setG d x 1
    | none => do
      let c := s.rdG b
      let ea := capAddr c
      let _ ← capcheck c ea 32 permR
      stepLocal ea
      raiseIf (decide (ea % 32 ≠ 0)) .align ea
      let id ← grantId a
      let r ← readBlock ea 32
      let pa ← entryPlace id
      let perm := field r 16 2 % 2 ^ 11
      let gen := BitVec.ofNat 8 (byteAt ((← get).physBytes (pa + 18) 1) 0)
      modify (fun s => (((s.putEntry pa (r.take 16 ++ leBytes perm 2)).putEntry (pa + 19) [r.getD 19 0 &&& 1]).entryWritten id).block 0x630)
      let x := if bitOf (byteAt r 19) 0 then mkCap gen (BitVec.ofNat 12 perm) id (field r 0 8) else TReg0
      grantWait (some id) x
      setG d x 1) s

/-- GREV (R121, R122). -/
def execGrev (d a : GReg) (s : State) : Host.Outcome State Fault Refusal :=
  run (do
    privileged
    match ← grantDone with
    | some (id, x) => do
      grantWait id x
      setG d x 1
    | none => do
      let id ← grantId a
      let pa ← entryPlace id
      let gen : Byte := BitVec.ofNat 8 (byteAt ((← get).physBytes (pa + 18) 1) 0) + 1
      modify (fun s => ((s.putEntry (pa + 18) [gen]).entryWritten id).block 0x631)
      let x := TReg.ofInt (gen.setWidth 64)
      grantWait (some id) x
      setG d x 1) s

end Sys2Proof.Machine
end

