-- ==== Sys2Proof/Machine/Issue.lean ====
section
/-!
DEFINITION. What a core does before a word executes: where the word comes from (R126 to R133, R458, R483), the Husk slots
(R479 to R483), decode and its priorities (R61), the checks and waits of issue (R43 to R55, R182, R456, R457), and what a
member does with the items of its stream (R138 to R147).
-/
namespace Sys2Proof.Machine

/-! ## Fetch -/

/-- The word fetch sees at an index: until the core makes a new store visible, the old or the new one (R185, R186). -/
def State.fetchWord (s : State) : Word :=
  let i := s.c.pc.toNat
  let now := s.istoreWord s.cur i
  match mfind s.c.istale i with
  | some old => if old = now ∨ s.pick 0x300 2 = 0 then now else old
  | none => now

/-! ## Husk slots -/

/-- The filled slots of a set with their package-wide numbers: owner 0 to 7, vendor 8 to 15 (R478). -/
def HuskSet.slots (h : HuskSet) : List (Nat × HSlot × Image) :=
  (match h.owner with | some i => i.slots.map (fun k => (k.idx, k, i)) | none => []) ++
  (match h.vendor with | some i => i.slots.map (fun k => (k.idx + 8, k, i)) | none => [])

/-- The bit of a mode filter for a core's role (R480). -/
def Core.roleBit (c : Core) : Option Nat :=
  match c.w.st with
  | .alone => some 2
  | .publisher => some 3
  | .member | .detached => some 4
  | .dormant | .waiting => none

/-- The slot that acts on a word (R479). -/
def Core.slotFor (c : Core) (w : Word) : Option (Nat × HSlot × Image) :=
  match c.roleBit with
  | none => none
  | some role =>
    c.husk.slots.foldl (fun (b : Option (Nat × HSlot × Image)) x =>
      let k := x.2.1
      if w &&& k.mask = k.value ∧ k.filter.getLsbD (if c.sys then 1 else 0) ∧ k.filter.getLsbD role then
        match b with
        | none => some x
        | some y => if y.2.1.prio < k.prio ∨ (y.2.1.prio = k.prio ∧ y.1 < x.1) then some x else b
      else b) none

/-- The words a rewrite entry makes of a word (R482). -/
def HRewrite.apply (e : HRewrite) (w : Word) : List Word :=
  let f : Nat := ((List.range 64).zip e.lut).foldl (fun n bl =>
    let x := ((List.range 6).zip bl.2.1).foldl (fun x js => x + (if w.getLsbD js.2 then 2 ^ js.1 else 0)) 0
    if bl.2.2.getLsbD x then n + 2 ^ bl.1 else n) 0
  (List.range e.n).map (fun i =>
    let m := e.mask.getD i 0
    ((e.tmpl.getD i 0) &&& ~~~m) ||| ((BitVec.ofNat 64 f).rotateRight (e.rot.getD i 0) &&& m))

/-! ## Privilege (R60, R449) -/

/-- The register numbers MFSR and MTSR know. -/
def srKnown (r : Nat) : Bool := decide (r < 0x20) || (decide (0x100 ≤ r) && decide (r < 0x180))
/-- System registers a user-mode MFSR may not read. -/
def srSysRead (sr : BitVec 12) : Bool := (decide (0x005 ≤ sr.toNat) && decide (sr.toNat ≤ 0x00D)) || decide (0x100 ≤ sr.toNat)
/-- System registers a user-mode MTSR may not write. -/
def srSysWrite (sr : BitVec 12) : Bool :=
  srSysRead sr || sr == 0x003 || (decide (0x016 ≤ sr.toNat) && decide (sr.toNat ≤ 0x018))

/-- Instructions that raise PRIV in user mode. -/
def needsSys : Instr → Bool
  | .eret _ _ | .idle | .tlbinv _ _ _ _ | .echk (.mark _ _) | .csave _ _ _ | .crest _ _ _ | .hpload _ _ | .hpact _ _
  | .gnew _ _ _ | .grev _ _ | .msend _ true _ _ _ => true
  | .mfsr _ sr => srSysRead sr
  | .mtsr sr _ => srSysWrite sr
  | _ => false

/-! ## Registers of a decoded word -/

def usesOf : Decoded → List RUse
  | .full _ i => dsts i ++ srcs i
  | .pair _ h1 h0 => dsts h1 ++ srcs h1 ++ dsts h0 ++ srcs h0
def dstsOf : Decoded → List RUse
  | .full _ i => dsts i
  | .pair _ h1 h0 => dsts h1 ++ dsts h0
def srcsOf : Decoded → List RUse
  | .full _ i => srcs i
  | .pair _ h1 h0 => srcs h1 ++ srcs h0
def sysOf : Decoded → Bool
  | .full _ i => needsSys i
  | .pair _ _ _ => false
def schedOf : Decoded → Sched
  | .full s _ => s
  | .pair st _ _ => { stall := st.setWidth 3 }

/-- The g register VGETX and VPUTX take a register number from (R303). -/
def indexOf : Decoded → List GReg
  | .full _ (.vgetx _ a) => [a]
  | .full _ (.vputx d _) => [d]
  | _ => []
/-- The registers a word names by value. -/
def Core.valueUses (c : Core) (now : Nat) (d : Decoded) : List RUse :=
  (indexOf d).map (fun a => (.v, (c.readG now a.val).int.toNat % 512))
/-- Whether the index of VGETX or VPUTX is still to come from an asynchronous load, or in interlocked mode from any
producer: its value is not known before the word's own wait. -/
def Core.indexOpen (c : Core) (d : Decoded) : Bool :=
  (indexOf d).any (fun a => c.loads.any (fun l => l.file == .g && l.reg == gKey c.sys a.val)
    || (c.mode.getLsbD 0 && c.prods.any (fun p => p.file == .g && p.reg == gKey c.sys a.val)))

/-! ## Hazards -/

def RFile.code : RFile → Nat
  | .g => 0 | .v => 1 | .k => 2

/-- A register of a mode's own view: system mode has its own g60 to g63 (R95). -/
def Core.keyOf (c : Core) (u : RUse) : RUse := match u.1 with
  | .g => (.g, gKey c.sys u.2)
  | _ => u

/-- How far a register's producer falls short of its latency at the core's static position (R44, R52). `skip` names
producers E3 does not report (R523). -/
def Core.short (c : Core) (skip : Producer → Bool) (u : RUse) : Nat :=
  let k := c.keyOf u
  c.prods.foldl (fun n p =>
    if p.file = k.1 ∧ p.reg = k.2 ∧ c.spos < p.spos + p.lat ∧ !skip p then p.spos + p.lat - c.spos else n) 0

/-- A register still waiting for an asynchronous load whose token the word does not name (R52). -/
def Core.asyncOpen (c : Core) (sbwait : BitVec 7) (u : RUse) : Bool :=
  let k := c.keyOf u
  c.loads.any (fun l => l.file == k.1 && l.reg == k.2 && (l.token == 0 || !sbwait.getLsbD (l.token - 1)))

/-- STALLCHK's EINFO, when the word must not issue in checked mode (R52): the lowest register of the lowest file. One that is
short of its latency and awaits a load as well reports the load. (DESIGN CHOICE, log entry 64) -/
def Core.stallchk (c : Core) (skip : Producer → RUse → Bool) (us : List RUse) (sbwait : BitVec 7) : Option Nat :=
  us.foldl (fun b u =>
    let sh := c.short (fun p => skip p u) u
    let tok := c.asyncOpen sbwait u
    if tok ∨ sh ≠ 0 then
      let x := u.1.code * 512 + u.2
      let info := (if tok then 2 ^ 24 else sh % 256 * 2 ^ 16) + x
      match b with
      | none => some info
      | some y => if x < y % 2 ^ 16 then some info else b
    else b) none

/-- E3 (R523): below vendor generation 2, a pair one cycle after a STALL1 = 0 pair whose H1 produced a register that
this word's H0 reads. -/
def Core.e3 (c : Core) (now : Nat) (d : Decoded) (p : Producer) (u : RUse) : Bool :=
  match d with
  | .pair _ _ h0 => p.h1 && decide (c.vgen < 2) && decide (c.spos = p.spos + 1) && decide (now + p.lat = p.due + 1)
      && (srcs h0).contains u
  | .full _ _ => false

/-- The word waits for the tokens its SBWAIT names (R43, R47): their loads arrive, their producers complete. -/
def State.waitTokens (s : State) (sb : BitVec 7) : State :=
  let named := fun (t : Nat) => decide (t ≠ 0) && sb.getLsbD (t - 1)
  if sb = 0 then s
  else
    let s := s.arriveWhere s.cur (fun l => named l.token)
    s.advance (s.c.prods.foldl (fun n p => if named p.token then max n p.due else n) s.cycle)

/-- A SBSET token at 15 holds the word until the token drops (R47). -/
def State.waitRoom (s : State) (t : Nat) : State :=
  if t = 0 ∨ mget 0 s.c.tokens t < 15 then s
  else
    match s.c.prods.filter (fun p => p.token == t) with
    | p :: r => s.advance (r.foldl (fun n q => min n q.due) p.due)
    | [] => match (List.range s.c.loads.length).find? (fun j => (s.c.loads[j]?.map (·.token)) == some t) with
      | some j => s.arriveLoad s.cur j
      | none => s

/-- Interlocked mode: every register the word names has its final value (R53). -/
def State.interlock (s : State) (us : List RUse) : State :=
  let ks := us.map s.c.keyOf
  let s := s.arriveWhere s.cur (fun l => ks.contains (l.file, l.reg))
  s.advance (s.c.prods.foldl (fun n p => if ks.contains (p.file, p.reg) then max n p.due else n) s.cycle)

/-- Whether the word reads or writes a register that a faulted or unexecuted word was to write (R456). -/
noncomputable def Core.touchesFaulted (c : Core) (us : List RUse) : Bool :=
  c.ring.any (fun e => e.2.status != 0 && !e.2.told &&
    (match decode e.2.eword with
     | .ok d => (dstsOf d).any (fun u => us.contains u)
     | .error _ => false))

/-- Whether a scalar word writes a g or k register read by an older vector or matrix word still incomplete: an accepted
matrix word, a VLDA whose sectors have not all arrived, or a word whose fault or removal no trap has covered yet (R457). -/
noncomputable def State.sourceBusy (s : State) (d : Decoded) : Bool :=
  let c := s.c
  let reads := fun (r : RingEntry) => match decode r.eword with
    | .ok od => (dstsOf d).any (fun u => u.1 != .v && u != (.g, 0) && (srcsOf od).contains u)
    | .error _ => false
  if ringWord c.latch.word then false
  else c.loads.any (fun l => l.file == .v && reads l.ring)
    || (c.tr.pend && !c.tr.exl && c.ring.any (fun e => e.2.status != 0 && !e.2.told && reads e.2))
    || (decide (c.out ≠ 0) && (List.range 6).any (fun x =>
      (s.getM (meOfIndex s.cur x)).entries.any (fun e => e.core == s.cur && reads e.ring)))

/-! ## Issue -/

/-- What the step does after issue: nothing more, or one word. -/
inductive Ready | done (s : State) | run (d : Decoded) (s : State)

/-- The word put in issue. -/
def State.latched (s : State) (src : Source) (w : Word) (it : Item) (sched : Sched) : State :=
  s.upd (fun c => { c with latch := { valid := true, src := src, word := w, sched := sched, item := it, half := false } })

/-- Words taken at decode, whatever their registers: TRAP and BKPT, a system register the device does not know, and in user
mode a privileged word. No wait of issue stands before them, and their SBSET and SBWAIT take no effect (R60, R61, R449,
R472). -/
def Core.decodeTrap (c : Core) (d : Decoded) : Bool :=
  (sysOf d && !c.sys) || (match d with
    | .full _ (.trap _) | .full _ (.bkpt _) => true
    | .full _ (.mfsr _ r) | .full _ (.mtsr r _) => !srKnown r.toNat
    | _ => false)

/-- What registers alone stop at decode: STALLCHK in checked mode (R52), or an imprecise trap that is due (R456). -/
noncomputable def State.decodeStop (s : State) (d : Decoded) (us : List RUse) : Option State :=
  let c := s.c
  let checked := !c.mode.getLsbD 0 && c.mode.getLsbD 1
  match if checked then c.stallchk (c.e3 s.cycle d) us c.latch.sched.sbwait else none with
  | some info => some (s.trapPrecise ⟨Cause.stallchk.code, BitVec.ofNat 64 info, true, none⟩)
  | none => if c.tr.pend && !c.tr.exl && c.touchesFaulted us then some s.deliver else none

/-- A decoded word meets the conditions of issue: PRIV before STALLCHK (R61), waits, traps that are due. A word that has had
its effect met them. -/
noncomputable def State.hazards (s : State) (d : Decoded) : Ready :=
  let c := s.c
  if c.decodeTrap d || c.committed then .run d s
  else
    let vs := if c.indexOpen d then [] else c.valueUses s.cycle d
    match s.decodeStop d (usesOf d ++ vs) with
    | some s => .done s
    | none =>
      if s.sourceBusy d then .done (s.holdAt .passes)
      else
        let il := c.mode.getLsbD 0
        let s := if il then s.interlock (usesOf d) else s.waitTokens c.latch.sched.sbwait
        -- a register named by a value is the one the index names now that it may be read (R303)
        let vs := s.c.valueUses s.cycle d
        match s.decodeStop d vs with
        | some s => .done s
        | none =>
          let s := if il then s.interlock vs else s.waitRoom c.latch.sched.sbset.toNat
          match s.c.mchk with
          | some info => .done ((s.upd (fun c => { c with mchk := none })).trapPrecise ⟨Cause.mcheck.code, info, false, none⟩)
          | none => .run d s

/-- The skew of two cores (R131). -/
def skew (a b : Nat) : Nat :=
  if quadOfCore a = quadOfCore b then 3 else if clusterOfCore a = clusterOfCore b then 6
  else if dieOfCore a = dieOfCore b then 14 else 30

/-! ## The publisher's part -/

/-- Whether members hold the publisher: a hold that has arrived, or a full stream buffer (R132, R133).
(DESIGN CHOICE, log entry 53) -/
def State.heldByMembers (s : State) : Bool :=
  (!s.c.sys && s.c.w.st == .publisher && s.c.w.holds != [])
    || (s.c.publishes && s.c.w.followers.any (fun f => decide (2 * skew s.cur f.2 + 1 ≤ (s.getC f.2).w.stream.length)))

/-- Whether the publisher only publishes: inside a BRW path its own condition is not on (R147). -/
def Core.offPath (c : Core) : Bool :=
  c.publishes && (match c.w.brw with | f :: _ => !f.mine | [] => false)

/-- The lowest-ranked participant of the current path. -/
def State.leader (s : State) : Option (Nat × Nat) :=
  (s.participants s.cur).foldl (fun (b : Option (Nat × Nat)) f => match b with
    | none => some f
    | some x => if f.1 < x.1 then some f else b) none

/-- A word of a path the publisher does not execute is published without effect; what it branches on is the
participants' (R147), and RDV and RDVH fault there (R157). CALLR and RET, no plain branches, go where the lowest-ranked
participant's registers send them too, and with no participant left a branch on registers is not taken. (DESIGN CHOICE, log
entry 58) -/
def State.publishOnly (s : State) (d : Decoded) : State :=
  match d with
  | .full _ (.rdv _) | .full _ (.rdvh _ _) =>
    s.trapPrecise ⟨Cause.weave.code, BitVec.ofNat 64 (4 * 4096 + s.c.pc.toNat), false, none⟩
  | .full _ (.brw _ j off) =>
    if 8 ≤ s.c.w.brw.length then s.trapPrecise ⟨Cause.weave.code, BitVec.ofNat 64 (3 * 4096 + s.c.pc.toNat), false, none⟩
    else
    let s := s.publishOnce
    if !s.allIn s.cur then s.holdAt .members
    else
      let t := relTo s.c.pc off
      let r := startBrw s.c.pc t (t + j.setWidth 12) none (s.c.w.votes.map (fun v => v.2.getD 2 0 != 0))
      (s.upd (fun c => { c with w := { c.w with brw := r.1 :: c.w.brw } })).finish (some r.2)
  | .full _ (.wvote _ _ _) | .full _ (.vxchg _ _ _) | .full _ (.vchain _ _ _ _ _ _) | .full _ (.rkchain _ _) =>
    let s := s.publishOnce
    if !s.allIn s.cur || s.c.w.followers.any (fun f => (s.getC f.2).w.stream != []) then s.holdAt .members
    else s.finish none
  | .full _ (.br off) | .full _ (.call off) => s.finish (some (relTo s.c.pc off))
  | .full _ i =>
    match s.leader with
    | none => s.finish none
    | some l =>
      match branchOf (s.getC l.2) s.cycle s.c.pc i with
      | none => s.finish none
      | some _ =>
        if !s.caughtUp l.2 then s.holdAt .members
        else s.finish ((branchOf (s.getC l.2) s.cycle s.c.pc i).getD none)
  | .pair _ _ _ => s.finish none

/-- A word from any source, decoded (R59). -/
noncomputable def State.decodeWord (s : State) (src : Source) (w : Word) (it : Item) : Ready :=
  match decode w with
  | .error _ => .run (.full {} (.unassignedEncoding w)) (s.latched src w it {})
  | .ok d =>
    let s := s.latched src w it (schedOf d)
    if (src = .own ∨ src = .rewrite) ∧ s.c.offPath ∧ !s.c.decodeTrap d then .done (s.publishOnly d) else s.hazards d

/-- DELAY (R481): its cycles follow the waits that R43 gives the word by its own fields and registers; then the word is decoded
as though no slot had matched. -/
noncomputable def State.delayWord (s : State) (src : Source) (w : Word) (n : Nat) : Ready :=
  let after := fun (s : State) => ((s.upd (fun c => { c with delayed := true })).advance (s.cycle + n)).decodeWord src w {}
  match decode w with
  | .error _ => after s
  | .ok d =>
    let s := s.latched src w {} (schedOf d)
    if s.c.decodeTrap d then after s
    else if s.sourceBusy d then .done (s.holdAt .passes)
    else if s.c.mode.getLsbD 0 then after (s.interlock (usesOf d))
    else after ((s.waitTokens s.c.latch.sched.sbwait).waitRoom s.c.latch.sched.sbset.toNat)

/-- A word no Husk slot has matched yet (R479, R481). -/
noncomputable def State.slotWord (s : State) (src : Source) (w : Word) : Ready :=
  match s.c.slotFor w with
  | none => s.decodeWord src w {}
  | some (n, k, im) =>
    let info := BitVec.ofNat 64 (n + k.arg * 256)
    match k.action with
    | 1 => .done ((s.latched src w {} {}).trapPrecise ⟨Cause.patch.code, info, true, none⟩)
    | 2 => .done ((s.latched src w {} {}).trapPrecise ⟨Cause.emul.code, info, true, some (BitVec.ofNat 12 (im.blobAt + 8 * k.arg))⟩)
    | 3 =>
      match im.rewrites.find? (fun e => e.idx == k.arg) with
      | some e =>
        let ws := e.apply w
        let s := s.upd (fun c => { c with rewriteQ := ws })
        match ws with
        | x :: _ => s.decodeWord .rewrite x {}
        | [] => s.decodeWord src w {}
      | none => s.decodeWord src w {}
    | 4 =>
      if s.c.delayed then s.decodeWord src w {} else s.delayWord src w k.arg
    | 5 => .run (.full {} .nop) ((s.latched src 0 {} {}).upd (fun c => { c with latch := { c.latch with quiet := true } }))
    | _ => s.decodeWord src w {}

/-! ## Items -/

/-- Items at which a dormant member faults (R142), by their word: RDV, RDVH, VXCHG, VCHAIN, RKCHAIN, TEND. -/
def Item.wakesDormant (it : Item) : Bool :=
  let g := bitsOf it.word.toNat 62 58
  let f := bitsOf it.word.toNat 57 52
  !it.trapi && !it.word.getLsbD 63 &&
    ((g == 2 && (f == 3 || f == 4)) || (g == 0x0E && (f == 7 || f == 8)) || (g == 0x11 && f == 3) || (g == 0x13 && f == 0))

/-- Target and join of a BRW item (R147, R158). -/
noncomputable def Item.brw? (it : Item) : Option (BitVec 12 × BitVec 12) :=
  if it.trapi then none
  else match decode it.word with
  | .ok (.full _ (.brw _ j off)) => some (relTo it.pc off, relTo it.pc off + j.setWidth 12)
  | _ => none

/-- A member's frames as an item of a depth and path finds them: frames of BRWs that are over fall away, and the path now
published is noted. -/
def Weave.atDepth (w : Weave) (depth : Nat) (path : Bool) : Weave :=
  match w.brw.drop (w.brw.length - depth) with
  | f :: r => { w with brw := { f with path := path } :: r }
  | [] => { w with brw := [] }

/-- A member that takes part again, wherever the stream stands: on the sides being published, and after a fault that ended its
dormancy on every side that follows (R141, R142). -/
def Weave.rejoin (w : Weave) (both : Bool) : Weave :=
  { w with st := .member, wake := none
           brw := w.brw.map (fun (f : Brw) => { f with mine := true, cond := f.path, both := f.both || both }) }

/-- The item leaves the stream unexecuted; a BRW that begins so is remembered. -/
noncomputable def State.dropItem (s : State) : State := s.upd (fun c => { c with w := { c.w with
  stream := c.w.stream.drop 1
  brw := match c.w.stream.head?.bind Item.brw? with
    | some (t, j) => { target := t, join := j, path := false, more := false, mine := false, cond := false } :: c.w.brw
    | none => c.w.brw } })

/-- WEAVE KIND 2 at an item: the dormancy ends, and the item stands for the return (R142). -/
def State.dormantFault (s : State) (it : Item) (wake : BitVec 12) : State :=
  let s := (s.latched .item it.word it {}).upd (fun c => { c with w := c.w.rejoin true })
  s.trapPrecise ⟨Cause.weave.code, BitVec.ofNat 64 (2 * 4096 + wake.toNat), false, none⟩

/-- Where a member off the published path would go on: at its own side's first word, or past the join. R142 gives such a member no
wake PC; this stands for it in EINFO. (DESIGN CHOICE, log entry 80) -/
def Weave.pathWake (w : Weave) : BitVec 12 :=
  match w.brw with
  | f :: _ => if f.mine && f.cond && !f.path then f.target else f.join
  | [] => 0

/-- The next item of a member's stream, its last branch settled (R131, R141, R142, R144, R147). -/
noncomputable def State.takeItem (s : State) (it : Item) : Ready :=
  let s := s.upd (fun c => { c with w := c.w.atDepth it.depth it.path })
  let w := s.c.w
  if w.st = .dormant ∧ w.wake ≠ some it.pc then
    .done (if it.wakesDormant then s.dormantFault it (w.wake.getD 0) else s.dropItem)
  else if w.st ≠ .dormant ∧ !w.onPath it.depth it.path then
    .done (if it.wakesDormant then s.dormantFault it w.pathWake else s.dropItem)
  else
    let s := if w.st = .dormant then s.upd (fun c => { c with w := c.w.rejoin false }) else s
    if it.trapi then
      let s := (s.latched .item it.word it {}).takeTrap {
        cause := it.cause, epc := it.pc, eword := it.word, einfo := it.einfo, eseq := s.c.ringHead, goto := it.entry }
      -- a hook's RETRY leaves the item where it stands (R485)
      .done (if s.c.w.handler.isSome then s.upd (fun c => { c with w := { c.w with
        stream := c.w.stream.drop 1, handler := some false } }) else s)
    else s.decodeWord .item it.word it

/-- The next item of a member's stream: a JMPR executed before it is first compared with its PC (R140, R141). -/
noncomputable def State.issueItem (s : State) (it : Item) : Ready :=
  match s.c.w.jump with
  | none => s.takeItem it
  | some (own, j) =>
    let s := s.upd (fun c => { c with w := { c.w with jump := none } })
    if own = it.pc then s.takeItem it
    else
      let s := s.diverge j own
      if s.c.w.st = .dormant then s.takeItem it else .done s

/-! ## The current core's turn -/

/-- Whether a core takes its words from a stream: a member or dormant core outside its handler. -/
def Core.subscribed (c : Core) : Bool :=
  (c.w.st == .member || c.w.st == .dormant) && !c.sys && c.w.handler.isNone

/-- The earliest cycle of the next word (R43): time stands there, and results due by then are written.
(DESIGN CHOICE, log entry 14) -/
def State.atIssue (s : State) : State := s.advance s.c.readyAt

/-- Whether the core is parked at its word until the host answers (R470). -/
def Core.parked (c : Core) : Bool := match c.wait with | some (.answer _) => c.woken.isNone | _ => false

/-- The current core issues its next word (R43): an item, a replayed ring entry, an output word of a rewrite, or the
word at its PC. The PRIV of the system region is taken before decode (R61, R127), so a publisher's is its own fault and no trap
item. (DESIGN CHOICE, log entry 81) -/
noncomputable def State.issue (s : State) : Ready :=
  let c := s.c
  if c.run != .running || c.parked then .done s.idleCycle
  else
  match c.replayQ with
  | q :: _ =>
    match c.ringAt q with
    | some r =>
      if r.marked then .done (s.upd (fun c => { c with
        ring := mset c.ring (q.toNat % 64) r.done, replayQ := c.replayQ.drop 1 }))
      else s.atIssue.decodeWord (.replay q) r.eword {}
    | none => .done (s.upd (fun c => { c with replayQ := c.replayQ.drop 1 }))
  | [] =>
    if c.w.st = .waiting ∧ c.w.handler.isNone then .done s.idleCycle
    else if c.subscribed then
      match c.w.stream with
      | [] => .done s.idleCycle
      | it :: _ => (s.advance (max c.readyAt (it.at' + skew c.w.pub s.cur))).issueItem it
    else
      let s := s.atIssue
      if s.heldByMembers then .done (s.holdAt .members)
      else match c.rewriteQ with
      | w :: _ => s.decodeWord .rewrite w {}
      | [] =>
        if !c.sys ∧ 3584 ≤ c.pc.toNat then
          .done ((s.latched .own s.fetchWord {} {}).trapPrecise ⟨Cause.priv.code, s.openInfo, false, none⟩)
        else s.slotWord .own s.fetchWord

end Sys2Proof.Machine
end

