-- ==== Sys2Proof/Machine/Place.lean ====
section
/-!
DEFINITION. Placement and start of tasks (R402 to R404, R437, R461, R465): which cores a task may take, which launch comes
next, and what each member core is set to.
-/
namespace Sys2Proof.Machine

/-! ## Cores (R24, R402, R465) -/

/-- A core no task holds, on which the Hamper may place one (R453). -/
def State.coreFree (s : State) (n : Nat) : Bool :=
  decide (n < nCores) && (s.getC n).task.isNone && (s.getC n).run != .halted

/-- No task of another context is on the core's cluster (R465). -/
def State.clusterOk (s : State) (ctx n : Nat) : Bool :=
  s.cores.all (fun e => !(decide (e.1 < nCores) && decide (clusterOfCore e.1 = clusterOfCore n) && e.2.task.isSome
    && e.2.ctx != ctx))

/-- The core is not claimed for another launch's placement (R402). -/
def State.unclaimed (s : State) (lid n : Nat) : Bool :=
  (mvals s.ham.launches).all (fun l => l.lid == lid || !l.claim.contains n)

/-- The unit a shape confines members to (R24). -/
def shapeUnit (shape n : Nat) : Nat :=
  match shape with
  | 0 => quadOfCore n | 1 => clusterOfCore n | 2 => dieOfCore n | _ => 0
def oneUnit (shape : Nat) (cores : List Nat) : Bool :=
  cores.all (fun n => shapeUnit shape n == shapeUnit shape (cores.headD 0))

/-- The channels of a woven task fit their route budgets (R134, R402). -/
def State.routeFree (s : State) (p q : Nat) : Bool := (crossings p q).all (fun b => decide (s.channelsAt b < b.budget))
def State.wovenFits (s : State) : List Nat → Bool
  | [] => true
  | p :: qs => qs.all (s.routeFree p)

/-- Whether a launch's next task may start on these cores, member by member. How the Hamper spreads a PKG task over dies
R24 leaves open: any cores will do. (DESIGN CHOICE, log entry 59) -/
def State.placeOk (s : State) (l : Launch) (cores : List Nat) : Bool :=
  decide (cores.length = lpbWidth l.lpb) && decide cores.Nodup && oneUnit (lpbShape l.lpb) cores &&
  cores.all (fun n => s.coreFree n && s.clusterOk l.ctx n && s.unclaimed l.lid n) &&
  (!lpbWoven l.lpb || s.wovenFits cores)

/-! ## Which launch (R402) -/

/-- Whether tasks of a launch are still to start. -/
def Launch.left (l : Launch) : Bool := l.st == .ready && (l.retry != [] || l.ranges.any (fun r => decide (r.2.1 < r.2.2)))

/-- The next task of a launch for a die: index, attempts made, signals, and the launch without it (R403, R461). -/
def Launch.take (l : Launch) (die : Nat) : Option ((Nat × Nat × SMap Word) × Launch) :=
  match l.retry with
  | x :: r => some (x, { l with retry := r })
  | [] => match nextIndex l.ranges die with
    | some (i, rs) => some ((i, 0, []), { l with ranges := rs })
    | none => none

/-- Whether a die has, or may take from another, an index of a launch (R403). -/
def Launch.offers (l : Launch) (die : Nat) : Bool :=
  l.retry != [] || (if lpbShape l.lpb ≤ 2 then nextIndex l.ranges die else claimIndex l.ranges die).isSome

/-- Whether some placement of a launch's next task exists: the cores it has claimed, all free; else member 0 on a die with an index, the others in its unit, and where
the task is woven within reach of its routes. -/
def State.canPlace (s : State) (l : Launch) : Bool :=
  if l.claim ≠ [] then l.claim.all (fun n => s.coreFree n && s.clusterOk l.ctx n)
  else
  let free := (List.range nCores).filter (fun n => s.coreFree n && s.clusterOk l.ctx n && s.unclaimed l.lid n)
  let sh := lpbShape l.lpb
  free.any (fun p => l.offers (dieOfCore p) &&
    decide (lpbWidth l.lpb ≤ (free.filter (fun q => shapeUnit sh q == shapeUnit sh p &&
      (q == p || !lpbWoven l.lpb || s.routeFree p q))).length))

/-- Order within a level: since when, then launch number. -/
def Launch.before (a b : Launch) : Bool := decide (a.since < b.since) || (a.since == b.since && decide (a.lid < b.lid))

/-- Whether launch `a` stands before launch `b` in one FIFO of one level: the context's, or for merged child launches their
die's (R402, R410). -/
def Launch.ahead (a b : Launch) : Bool := a.level == b.level && a.die == b.die && a.before b

/-- Whether a launch's next task is the one to place: no launch with tasks left stands before it, and no head of a higher level
can be placed; a task that holds a claim starts on its cores whatever else waits (R402). (DEDUCED, log entry 32) -/
def State.isNext (s : State) (l : Launch) : Bool :=
  let others := (mvals s.ham.launches).filter (fun e => e.ctx == l.ctx && e.lid != l.lid && e.left)
  l.claim != [] ||
  (others.all (fun e => !e.ahead l) &&
   (others.filter (fun e => decide (l.level < e.level) && others.all (fun f => !f.ahead e))).all (fun e => !s.canPlace e))

/-- Whether the ladder or a budget keeps a context from being dispatched (R416, R463). -/
def Ctx.serves (x : Ctx) : Bool := decide (x.stage = 0) && decide (x.exh = 0)

/-- Whether a task of a context waits for cores at a level or above (R228, R229, R427). -/
def State.tasksWait (s : State) (ctx level : Nat) : Bool :=
  (mvals s.ham.launches).any (fun l => l.ctx == ctx && l.left && decide (level ≤ l.level))

/-- Whether a saved task is ready (R229). -/
def State.savedReady (s : State) (v : Saved) : Bool :=
  v.ready || (match s.task? v.tid with
    | some t => !s.tasksWait t.ctx 0 && s.ham.saved.all (fun w => w.tid == v.tid || !w.ready ||
        (match s.task? w.tid with | some u => u.ctx != t.ctx | none => true))
    | none => false)

/-- The position of the ready saved task of a context that is restored first (R229). -/
def State.firstReady (s : State) (ctx : Nat) : Option Nat :=
  ((List.range s.ham.saved.length).zip s.ham.saved).findSome? (fun x =>
    match s.task? x.2.tid with
    | some t => if t.ctx = ctx ∧ s.savedReady x.2 then some x.1 else none
    | none => none)

/-! ## Start (R404) -/

/-- A capability of a grant with the entry's full permissions, as CFROM makes it; untagged zero where CFROM fails. -/
def State.grantCap (s : State) (ctx gid : Nat) (addr : Option Nat) : TReg × State :=
  if 2 ^ (s.getX ctx).log2n ≤ gid then (TReg0, s)
  else match s.grantInMem [.hub] ctx gid with
    | (.ok e, s) => (if e.valid then mkCap e.gen e.perm gid (addr.getD e.base) else TReg0, s)
    | (.error _, s) => (TReg0, s)

/-- What the members of a starting task share: entry, g3, g5, the stack grant, and whether stores of a HOSTQ launch are
acquired at SYS. -/
structure StartInfo where
  g3 : TReg
  g5 : Word
  g6 : Word
  g7 : Word
  stack : TReg
  deriving DecidableEq, Repr

def State.startInfo (s : State) (l : Launch) (index : Nat) : StartInfo × State :=
  let (g3, s) := s.grantCap l.ctx (lpbGrant l.lpb) none
  let (stack, s) := s.grantCap l.ctx (s.getX l.ctx).ccb.stackGrant (some 0)
  let (g5, s) :=
    if l.ptrs ≠ [] then (l.ptrs.getD index 0, s)
    else if lpbPtab l.lpb then
      match s.ctxBytes l.ctx ((lpbParam l.lpb + 8 * index) % 2 ^ 64) 8 with
      | (some b, s) => (BitVec.ofNat 64 (leNat b), s)
      | (none, s) => (s.free 0x240, s)
    else (BitVec.ofNat 64 (lpbParam l.lpb), s)
  let blk := l.block.getD (0, 0, 0)
  ({ g3 := g3, g5 := g5, g6 := blk.2.1, g7 := blk.2.2, stack := stack }, s)

/-- A member core as R404 sets it. (DEDUCED, log entry 24; DEDUCED, log entry 33) -/
def Core.started (c : Core) (now n : Nat) (t : Task) (l : Launch) (x : Ctx) (i : StartInfo) (m : Nat) : Core :=
  let sbase := (x.ccb.stackBase + (n + 1) * x.ccb.stackBytes) % 2 ^ 64
  let slim := (sbase + 2 ^ 64 - x.ccb.stackBytes) % 2 ^ 64
  let g : SMap TReg := c.g.filter (fun e => decide (64 ≤ e.1))
  let g := mput TReg0 g 2 (if i.stack.tag then ⟨i.stack.val + BitVec.ofNat 128 sbase, true⟩ else TReg0)
  let g := mput TReg0 g 3 i.g3
  let g := mput TReg0 g 4 (TReg.ofInt (BitVec.ofNat 64 t.index))
  let g := mput TReg0 g 5 (TReg.ofInt i.g5)
  let g := mput TReg0 g 6 (TReg.ofInt i.g6)
  let g := mput TReg0 g 7 (TReg.ofInt i.g7)
  let strict := match l.plan with | some p => p.strict | none => false
  let rec' := match l.plan with | some p => p.recs.getD m (0, 16) | none => (0, 16)
  { c with
    run := .running, pc := BitVec.ofNat 12 (lpbEntry l.lpb), sys := false
    g := g, v := [], k := [], prods := [], tokens := [], readyAt := now, loads := [], mchk := none, stack := [], istale := []
    latch := {}, rewriteQ := [], replayQ := [], wait := none, woken := none
    tr := { c.tr with exl := false, pend := false }
    ring := c.ring.map (fun (e : Nat × RingEntry) => (e.1, { e.2.done with told := false }))
    mode := (c.mode &&& 3) ||| (if strict then 4 else 0)
    slim := BitVec.ofNat 64 (slim / 16 * 16), sbase := BitVec.ofNat 64 (sbase / 16 * 16), fpctl := 0, fpflags := 0
    ctx := l.ctx, task := some t.tid, taskid := BitVec.ofNat 64 t.index, launchid := BitVec.ofNat 64 l.lid
    fscope := BitVec.ofNat 64 (lpbScope l.lpb), cancelf := false, member := m, rdvto := 0x100000
    portfull := 0, asyncs := [], vtab := [], w := {}, fmtcap := TReg0, gang := [], gangPosts := 0, bound := none, out := 0
    jobs := [], lastSlot := 31, retries := 0, delayed := false
    stepOn := l.plan.isSome, dom := rec'.1, slotW := rec'.2
    recAddr := BitVec.ofNat 64 (lpbStep l.lpb + 64 + 32 * m), stepNo := 0, loose := false, sclk0 := now, arrived := false
    sbarPc := 0, released := false }

/-- Members 1 to N-1 of a woven task follow member 0 (R137). -/
def State.weaveTask (s : State) (l : Launch) (cores : List Nat) : State :=
  match cores with
  | [] => s
  | [_] => s
  | p :: qs =>
    let n := cores.length
    let s := s.updC p (fun c => { c with w := { c.w with
      st := .publisher, size := n, followers := ((List.range qs.length).zip qs).map (fun x => (x.1 + 1, x.2)) } })
    ((List.range qs.length).zip qs).foldl (fun s x => s.updC x.2 (fun c => { c with w := { c.w with
      st := .member, size := n, rank := x.1 + 1, chan := 0, policy := lpbPolicy l.lpb, pub := p } })) s

/-- A task's record and its cores at start; its launch is given without the task (R404, R461). -/
def State.startOnCores (s : State) (l : Launch) (x : Nat × Nat × SMap Word) (cores : List Nat) : State :=
  let tid := s.ham.nextTid
  let mems := (List.range cores.length).zip cores
  let t : Task := {
    tid := tid, lid := l.lid, ctx := l.ctx, index := x.1, width := cores.length, mem := mems.map (fun m => (m.1, m.2, true))
    attempt := x.2.1 + 1, signals := x.2.2, claims := []
    doms := match l.plan with | some p => p.doms | none => []
    stepTo := match l.plan with | some p => p.timeout | none => 0
    canAt := none, killed := false }
  let s := s.chargeCores l.ctx
  let s := { s with ham := { s.ham with
    nextTid := tid + 1, tasks := mset s.ham.tasks tid t
    launches := mset s.ham.launches l.lid { l with live := l.live + 1, claim := [], asked := none, placeAt := s.cycle } } }
  let (i, s) := s.startInfo l x.1
  let s := mems.foldl (fun s m =>
    let s := s.boundary m.2
    s.setC m.2 ((s.getC m.2).started s.cycle m.2 t l (s.getX l.ctx) i m.1)) s
  if lpbWoven l.lpb then s.weaveTask l cores else s

end Sys2Proof.Machine
end

