-- ==== Sys2Proof/Machine/SysReg.lean ====
section
/-!
DEFINITION. What reading a system register gives (R449): the registers of a core, of its context, and the management
registers 0x100 to 0x17F (R518).
-/
namespace Sys2Proof.Machine

/-- ESTATUS (R451). -/
def TrapRegs.estatus (t : TrapRegs) : Word :=
  BitVec.ofNat 64 ((if t.pend then 8 else 0) + (if t.exl then 4 else 0) + (if t.pm then 2 else 0) + (if t.ehalf then 1 else 0))

/-- SCLK at a cycle (R434): saturating. -/
def Core.sclk (c : Core) (now : Nat) : Nat := min (now - c.sclk0) (2 ^ 32 - 1)

/-- COMM (R435): odd steps communicate. -/
def Core.comm (c : Core) : Bool := decide (c.stepNo % 2 = 1)

/-- STEPCLK (R434). After the core's step task it keeps STEP, LOOSE and COMM until the next task, with SCLK 0. (DESIGN CHOICE,
log entry 84) -/
def Core.stepclk (c : Core) (now : Nat) : Word :=
  if c.stepOn || c.task.isNone then
    BitVec.ofNat 64 (c.stepNo % 2 ^ 30 * 2 ^ 34 + (if c.loose then 2 ^ 33 else 0) + (if c.comm then 2 ^ 32 else 0)
      + (if c.stepOn then c.sclk now else 0))
  else 0

/-- BUDGETSTAT (R416): CREM counts whole units of 2^16 core-cycles. -/
def State.budgetstat (s : State) (ctx : Nat) : Word :=
  let x := s.getX ctx
  let used := x.usedCore + s.busyCores ctx * (s.cycle - x.chargedAt)
  let crem := if x.ccb.coreBud = 0 then 2 ^ 24 - 1 else min ((x.ccb.coreBud - used) / 2 ^ 16) (2 ^ 24 - 1)
  BitVec.ofNat 64 (crem * 2 ^ 40 + x.periods.toNat * 2 ^ 8 + x.exh.toNat)

/-- HPGEN's layout (R493). -/
def HuskSet.word (h : HuskSet) : Word :=
  BitVec.ofNat 64 (h.actn.toNat * 2 ^ 32 + (match h.owner with | some i => i.gen.toNat * 2 ^ 16 | none => 0)
    + (match h.vendor with | some i => i.gen.toNat | none => 0))

/-- A management register (R518); a number the table does not list reads 0. -/
def State.mgmtRead (s : State) (r : Nat) : Word :=
  let h := s.host
  match r with
  | 0x100 => BitVec.ofNat 64 ((if h.ready then 1 else 0) + h.bootSlot % 8 * 2 + h.recovery.toNat * 256)
  | 0x101 => Config.sensor s.tick 0 &&& 0xFFFFFFFFFF
  | 0x102 => BitVec.ofNat 64 h.tlim
  | 0x103 => Config.sensor s.tick 1
  | 0x104 => BitVec.ofNat 64 h.plim
  | 0x105 => BitVec.ofNat 64 h.clk
  | 0x106 => h.throts.setWidth 64
  | 0x107 => h.eccc
  | 0x108 => h.eccu
  | 0x109 => Config.sensor s.tick 2
  | 0x10A => Config.idCert h.idIndex
  | _ => 0

/-- Register `r` of core `n` (R449), for the numbers the table lists. -/
def State.srRead (s : State) (n r : Nat) : Word :=
  let c := s.getC n
  let x := s.getX c.ctx
  match r with
  | 0x000 => BitVec.ofNat 64 n
  | 0x001 => 0xA1
  | 0x002 => BitVec.ofNat 64 c.ctx
  | 0x003 => c.mode.setWidth 64
  | 0x004 => c.w.word
  | 0x005 => c.tr.trapvec.setWidth 64
  | 0x006 => c.tr.epc.setWidth 64
  | 0x007 => c.tr.ecause
  | 0x008 => c.tr.eword
  | 0x009 => c.tr.einfo
  | 0x00A => c.tr.eseq
  | 0x00B => c.tr.estatus
  | 0x00C => c.slim
  | 0x00D => c.sbase
  | 0x00E => c.fpctl
  | 0x00F => c.fpflags.setWidth 64
  | 0x010 => BitVec.ofNat 64 s.cycle
  | 0x011 => c.stepclk s.cycle
  | 0x012 => c.taskid
  | 0x013 => c.launchid
  | 0x014 => c.fscope
  | 0x015 => if c.cancelf then 1 else 0
  | 0x016 => x.grantbase
  | 0x017 => x.xbase
  | 0x018 => x.duty
  | 0x019 => s.budgetstat c.ctx
  | 0x01A => c.husk.word
  | 0x01B => c.ringHead.setWidth 64
  | 0x01C => BitVec.ofNat 64 c.loads.length
  | 0x01D => c.portfull.setWidth 64
  | 0x01E => c.rdvto.setWidth 64
  | 0x01F => BitVec.ofNat 64 c.member
  | _ => if 0x100 ≤ r ∧ r < 0x180 then s.mgmtRead r else 0

end Sys2Proof.Machine
end

