-- ==== Sys2Proof/Machine/Save.lean ====
section
/-!
DEFINITION. Save records (R466), and the saving and restoring of tasks by the Shell (R229, R464, R467): a saved task's
cores and scratchpads stand under core numbers of their own, from `nCores` on, until they are given real cores again.
-/
namespace Sys2Proof.Machine

/-! ## The core save record (R466) -/

/-- Bytes the record's layout does not name. -/
def gapBytes (tick at' n : Nat) : List Byte := (List.range n).map (fun i => Config.freeByte tick (at' + i))

/-- A ring entry (R455). -/
def RingEntry.bytes (r : RingEntry) : List Byte :=
  leBytes r.seq.toNat 4 ++ [r.status, r.cause, r.cls, 0] ++ leBytes r.eword.toNat 8
    ++ leBytes (r.pc.toNat + (if r.half then 2 ^ 15 else 0)) 2 ++ [0, 0] ++ leBytes r.count.toNat 4 ++ leBytes r.addr.toNat 8

def ringOfBytes (b : List Byte) (told : Bool) : RingEntry where
  seq := BitVec.ofNat 32 (field b 0 4)
  status := BitVec.ofNat 8 (byteAt b 4)
  cause := BitVec.ofNat 8 (byteAt b 5)
  cls := BitVec.ofNat 8 (byteAt b 6)
  eword := BitVec.ofNat 64 (field b 8 8)
  pc := BitVec.ofNat 12 (field b 16 2)
  half := bitOf (field b 16 2) 15
  count := BitVec.ofNat 32 (field b 20 4)
  addr := BitVec.ofNat 64 (field b 24 8)
  told := told

/-- The bytes of a 512-bit vector register, lane 0 first. -/
def vecBytes (v : Vec) : List Byte := (v.toList.map (fun (x : BitVec 32) => leBytes x.toNat 4)).foldr (· ++ ·) []
def vecOfBytes (b : List Byte) : Vec := Vector.ofFn (fun (i : Fin 16) => BitVec.ofNat 32 (field b (4 * i.val) 4))

/-- A number whose bit `i` is a property of `i`. -/
def bitsWhere (n : Nat) (p : Nat → Bool) : Nat := (List.range n).foldl (fun x i => if p i then x + 2 ^ i else x) 0

/-- Concatenation. -/
def flat (xs : List (List Byte)) : List Byte := xs.foldr (· ++ ·) []

/-- The record of core `n` with a mode byte and its stepping-specific block's number; with the scratchpad or without. -/
def State.coreRecord (s : State) (n : Nat) (mode : Byte) (token : Nat) (spad : Bool) : List Byte :=
  let c := s.getC n
  let g := fun (k : Nat) => mget TReg0 c.g k
  flat ((List.range 32).map (fun r => leBytes (s.srRead n r).toNat 8))
    ++ flat ((List.range 16).map (fun r => leBytes (c.k' r).toNat 2))
    ++ [mode] ++ List.replicate 0xDF 0
    ++ (List.range 0xE00).map (fun i => Config.blobByte token i)
    ++ flat ((List.range 64).map (fun r => leBytes (g r).val.toNat 16))
    ++ leBytes (bitsWhere 64 (fun r => (g r).tag)) 8 ++ gapBytes s.tick 0x1408 0x38
    ++ flat ((List.range 4).map (fun r => leBytes (g (64 + r)).val.toNat 16))
    ++ leBytes (bitsWhere 4 (fun r => (g (64 + r)).tag)) 1 ++ gapBytes s.tick 0x1481 0x37F
    ++ flat ((List.range 64).map (fun i => (mget {} c.ring i).bytes))
    ++ flat ((List.range 384).map (fun r => vecBytes (c.v' r)))
    ++ flat ((List.range 4).map (fun t => leBytes (mget 0 c.vtab t).toNat 32)) ++ gapBytes s.tick 0x8080 0x80
    ++ (if spad then
          (List.range 0x1000).map (fun i => BitVec.ofNat 8 (bitsWhere 8 (fun j => s.tags.contains (spadKey n 0 / 16 + 8 * i + j))))
            ++ gapBytes s.tick 0x9100 0x6F00 ++ readBytes s.mem (spadKey n 0) 0x80000
        else [])

/-- The stepping-specific block of a record names what it stands for by its bytes; none where this device wrote no such
block. -/
def State.blobOf (s : State) (b : List Byte) : Option Core :=
  (s.ham.blobs.find? (fun e => (List.range 64).all (fun i => b.getD i 0 == Config.blobByte e.1 i))).map Prod.snd

/-- A core loaded from a record's architected blocks and its stepping-specific block (R476): what is counted elsewhere
(CYCLE, BUDGETSTAT, HPGEN), the task's numbers and the mode stay. A block this device did not write leaves the fields it
would hold free. -/
def State.loadRecord (s : State) (n : Nat) (b : List Byte) (spad : Bool) : State :=
  let c := s.getC n
  let sr := fun (r : Nat) => BitVec.ofNat 64 (field b (8 * r) 8)
  let blob := s.blobOf ((b.drop 0x200).take 64)
  let est := sr 0x0B
  let clk := (sr 0x11).toNat
  let greg := fun (off i : Nat) (tags : Nat) => (⟨BitVec.ofNat 128 (field b (off + 16 * i) 16), bitOf tags i⟩ : TReg)
  let g := (List.range 4).foldl (fun m i => mput TReg0 m (64 + i) (greg 0x1440 i (field b 0x1480 1)))
    ((List.range 63).foldl (fun m i => mput TReg0 m (i + 1) (greg 0x1000 (i + 1) (field b 0x1400 8))) [])
  let s := s.setC n { c with
    mode := (sr 3).setWidth 3
    tr := { trapvec := (sr 5).setWidth 12, epc := (sr 6).setWidth 12, ecause := sr 7 &&& 0xDFF, eword := sr 8, einfo := sr 9
            eseq := sr 0xA &&& 0xFFFFFFFF
            exl := est.getLsbD 2, pm := est.getLsbD 1, ehalf := est.getLsbD 0, pend := est.getLsbD 3 }
    slim := sr 0xC &&& ~~~(0xF : Word), sbase := sr 0xD &&& ~~~(0xF : Word), fpctl := sr 0xE &&& 0x1F01, fpflags := (sr 0xF).setWidth 5
    cancelf := (sr 0x15).getLsbD 0, ringHead := (sr 0x1B).setWidth 32, portfull := (sr 0x1D).setWidth 16
    rdvto := (sr 0x1E).setWidth 32
    stepNo := if c.stepOn then clk / 2 ^ 34 % 2 ^ 30 else c.stepNo
    loose := if c.stepOn then bitOf clk 33 else c.loose
    sclk0 := if c.stepOn then s.cycle - clk % 2 ^ 32 else c.sclk0
    g := g
    k := (List.range 15).foldl (fun m i => mput 0 m (i + 1) (BitVec.ofNat 16 (field b (0x100 + 2 * (i + 1)) 2))) []
    v := (List.range 384).foldl (fun m i => mput vec0 m i (vecOfBytes ((b.drop (0x2000 + 64 * i)).take 64))) []
    vtab := (List.range 4).foldl (fun m i => mput 0 m i (BitVec.ofNat 256 (field b (0x8000 + 32 * i) 32))) []
    ring := (List.range 64).foldl (fun m i => mput {} m i (ringOfBytes ((b.drop (0x1800 + 32 * i)).take 32)
      (!est.getLsbD 3 || (match blob with | some o => (mget {} o.ring i).told | none => false)))) []
    fmtcap := match blob with
      | some o => o.fmtcap
      | none => ⟨BitVec.ofNat 128 ((s.free 0x250).toNat + (s.free 0x251).toNat * 2 ^ 64), false⟩
    w := match blob with | some o => { c.w with brw := o.w.brw, stream := o.w.stream } | none => c.w
    gang := match blob with | some o => o.gang | none => if s.pick 0x252 2 = 0 then [] else (List.range (s.pick 0x253 7)).map (fun i => s.pick (0x254 + i) nCores)
    gangPosts := match blob with | some o => o.gangPosts | none => s.pick 0x25C (2 ^ 16)
    bound := match blob with | some o => o.bound | none => if s.pick 0x25D 2 = 0 then none else some ((s.free 0x25E).setWidth 32)
    jobs := match blob with | some o => o.jobs | none => []
    lastSlot := match blob with | some o => o.lastSlot | none => s.pick 0x25F 32 }
  if spad then
    let tags := (List.range 0x8000).map (fun i => (spadKey n 0 / 16 + i, bitOf (byteAt b (0x8100 + i / 8)) (i % 8)))
    { s.replaced (spadKey n 0) 0x80000 with
      mem := writeBytes s.mem (spadKey n 0) ((b.drop 0x10000).take 0x80000), tags := setTags s.tags tags }
  else s

/-! ## Moving what a core holds -/

def inSpad (n key : Nat) : Bool := decide (spadKey n 0 ≤ key) && decide (key < spadKey (n + 1) 0)

/-- The contents of scratchpad `a`, with tags and errors, take the place of those of scratchpad `b`. -/
def State.copySpad (s : State) (a b : Nat) : State :=
  let shift := fun (k : Nat) => k - spadKey a 0 + spadKey b 0
  let shiftG := fun (g : Nat) => g - spadKey a 0 / 16 + spadKey b 0 / 16
  let move := fun (m : NSet) => ((m.filter (fun g => inSpad a (16 * g))).map shiftG).foldl (fun m g => nins g m)
    (m.filter (fun g => !inSpad b (16 * g)))
  { s with
    mem := writeCells (s.mem.filter (fun x => !inSpad b x.1)) ((s.mem.filter (fun x => inSpad a x.1)).map (fun x => (shift x.1, x.2)))
    tags := move s.tags, poison := move s.poison }

/-- A core's new number, from old and new pairs. -/
def numberIn (ps : List (Nat × Nat)) (n : Nat) : Nat := match ps.find? (fun p => p.1 == n) with | some p => p.2 | none => n
/-- A home address in a scratchpad follows its core. -/
def moveKey (f : Nat → Nat) (k : Nat) : Nat :=
  if spadBase ≤ k ∧ k < istoreBase then spadKey (f ((k - spadBase) / 0x100000)) ((k - spadBase) % 0x100000) else k

def Weave.renumber (f : Nat → Nat) (w : Weave) : Weave := { w with
  pub := f w.pub
  followers := w.followers.map (fun (x : Nat × Nat) => (x.1, f x.2))
  regs := w.regs.map (fun (r : Reg) => { r with core := f r.core })
  holds := (w.holds.map f).foldl (fun m n => nins n m) []
  votes := w.votes.map (fun (x : Nat × List Nat) => (f x.1, x.2)) }

def Job.renumber (f : Nat → Nat) (j : Job) : Job :=
  { j with posters := j.posters.map (fun (p : Nat × Nat × BitVec 32) => (f p.1, p.2)) }

/-- Every mention of cores of a task under their new numbers. -/
def State.renumber (s : State) (tid : Nat) (f : Nat → Nat) : State :=
  let s := s.updT tid (fun t => { t with mem := t.mem.map (fun (m : Nat × Nat × Bool) => (m.1, f m.2.1, m.2.2)) })
  { s with
    cores := s.cores.map (fun e => (e.1, { e.2 with
      w := if e.2.task = some tid then e.2.w.renumber f else e.2.w
      asyncs := if e.2.task = some tid then e.2.asyncs.map (fun (x : Nat × Nat × Word × Nat) => (f x.1, x.2)) else e.2.asyncs }))
    jobs := s.jobs.map (fun e => (e.1, if e.2.task = some tid then e.2.renumber f else e.2))
    combs := s.combs.map (fun (x : Combine) => if x.job.task = some tid then { x with job := x.job.renumber f } else x)
    sends := s.sends.map (fun (x : Send) => if x.task = some tid then { x with target := f x.target, key := moveKey f x.key } else x)
    ham := { s.ham with saved := s.ham.saved.map (fun (v : Saved) =>
      if v.tid = tid then { v with watch := v.watch.map (fun g => moveKey f (16 * g) / 16) } else v) } }

/-- The records of cores under new numbers, with their scratchpads. What is left at an old number holds no task. -/
def State.moveCores (s : State) (tid : Nat) (ps : List (Nat × Nat)) (f : Core → Core → Core) : State :=
  let s := ps.foldl (fun s p => (s.copySpad p.1 p.2).setC p.2 (f (s.getC p.2) (s.getC p.1))) s
  s.renumber tid (numberIn ps)

/-! ## Saving (R464) -/

/-- What the Shell waits for, brought about: the queue drains, loads arrive, the stack cache is written back. -/
def State.settleForSave (s : State) (n : Nat) : State := ((s.drainAll n).arriveWhere n (fun _ => true)).flushStack n

/-- Whether a member can be saved at its word boundary: nothing of it is under way, it has not just left a wait, and no card
or parked activity of its own is unanswered; alone it has no accepted ME entry. (DEDUCED, log entry 36) -/
def State.canSave (s : State) (whole : Bool) (n : Nat) : Bool :=
  let c := s.getC n
  c.sq.isEmpty && c.loads.isEmpty && c.woken.isNone && (whole || decide (c.out = 0)) &&
  (match c.wait with | some (.card _) | some (.answer _) => false | _ => true)

/-- Clusters of cores, each once. -/
def clustersOf (cores : List Nat) : List Nat := (cores.map clusterOfCore).eraseDups
/-- The MEs of a cluster. -/
def mesOf (cl : Nat) : List Nat := (List.range 6).map (fun x => cl * 6 + x)

/-- No pass runs on a cluster's MEs (R344, R464). -/
def State.mesQuiet (s : State) (cl : Nat) : Bool := (mesOf cl).all (fun m => (s.getM m).entries.all (fun e => !e.started))

/-- Tile memory of an ME. -/
def State.tileCells (s : State) (me : Nat) : List Host.Cell :=
  s.mem.filter (fun x => decide (accKey me 0 ≤ x.1) && decide (x.1 < accKey (me + 1) 0))

/-- A saved task's entries leave an ME and the latches and reservations of its gangs. -/
def State.takeEntries (s : State) (me tid : Nat) : State :=
  let mine := (s.getM me).entries.filter (fun e => e.task == some tid)
  mine.foldl (fun s e => s.leaveGang e.id) (s.updM me (fun m => { m with entries := m.entries.filter (fun e => e.task != some tid) }))

/-- MEs and barriers saved with a context go to the first of its saved tasks that stood on the cluster or the die; what was
saved there before of the same ME keeps its entries. -/
def State.capture (s : State) (ctx tid : Nat) (cores : List Nat) : State :=
  let mine := fun (v : Saved) => v.whole && (match s.task? v.tid with | some t => t.ctx == ctx | none => false)
  let firstOn := fun (p : Nat → Bool) => ((s.ham.saved.find? (fun (v : Saved) => mine v && v.was.any (fun w => p w.2))).map (·.tid)).getD tid
  let s := (clustersOf cores).foldl (fun s cl =>
    let h := firstOn (fun n => clusterOfCore n == cl)
    (mesOf cl).foldl (fun s m =>
      let now := s.getM m
      let cells := s.tileCells m
      let s := { s with ham := { s.ham with saved := s.ham.saved.map (fun (v : Saved) =>
        if v.tid = h then
          let old := ((v.mes.find? (fun (x : Nat × Me × List Host.Cell) => x.1 == m)).map (fun (x : Nat × Me × List Host.Cell) => x.2.1.entries)).getD []
          let own := (now.entries.filter (fun (e : MeEntry) => e.task == some tid)).map (fun (e : MeEntry) => { e with since := s.cycle - e.since })
          { v with mes := v.mes.filter (fun (x : Nat × Me × List Host.Cell) => x.1 != m) ++ [(m, { now with entries := old ++ own }, cells)] }
        else v) } }
      s.takeEntries m tid) s) s
  ((cores.map dieOfCore).eraseDups).foldl (fun s d =>
    let h := firstOn (fun n => dieOfCore n == d)
    let bars := ((s.getX ctx).bars.filter (fun b => b.1 / 256 == d)).map (fun b => (d, b.1 % 256, b.2))
    { s with ham := { s.ham with saved := s.ham.saved.map (fun (v : Saved) =>
      if v.tid = h then { v with bars := v.bars.filter (fun x => x.1 != d) ++ bars } else v) } }) s

/-- A saved core: its words are all done but the one it stands at, which it will execute again. -/
def savedCore (now : Nat) (old : Core) : Core := { old.completeAll with
  run := .idle, wait := none, woken := none, latch := {}, loads := [], gcache := [], stack := [], istale := []
  sclk0 := now - old.sclk0, since := 0, w := { old.w with since := now - old.w.since } }

/-- A task saved by the Shell (R229, R464, R467): with its matrix engines, or alone. Where it cannot be saved yet, only
what the Shell waits for has happened. -/
def State.stash (s : State) (tid : Nat) (whole ready : Bool) (watch : Option Nat) : State :=
  match s.task? tid with
  | none => s
  | some t =>
    let live := (t.mem.filter (fun m => m.2.2)).map (fun m => m.2.1)
    let s := live.foldl (fun s n => s.settleForSave n) s
    if !live.all (s.canSave whole) || live.any (fun n => decide (nCores ≤ n)) || (whole && !(clustersOf live).all s.mesQuiet) then s
    else
      let s := s.chargeCores t.ctx
      let base := max nCores (mfresh s.cores)
      let ps := live.zip ((List.range live.length).map (fun i => base + i))
      let v : Saved := {
        tid := tid, was := (t.mem.filter (fun m => m.2.2)).map (fun m => (m.1, m.2.1)), mes := [], bars := [], watch := watch
        whole := whole, ready := ready, pins := [], diePins := [] }
      let s := { s with ham := { s.ham with saved := s.ham.saved ++ [v] } }
      let s := if whole then s.capture t.ctx tid live else s
      let s := s.moveCores tid ps (fun _ old => savedCore s.cycle old)
      live.foldl (fun s n => (s.updC n (fun c => { c with
        run := .idle, task := none, wait := none, woken := none, latch := {}, rewriteQ := [], replayQ := [], asyncs := []
        prods := [], tokens := [], mchk := none, stack := [], w := {}, stepOn := false, arrived := false, delayed := false })).boundary n) s

/-! ## Restoring (R229, R441, R467) -/

/-- The same unit before and after, one to one. -/
def oneToOne (unit : Nat → Nat) (ps : List (Nat × Nat)) : Bool :=
  ps.all (fun a => ps.all (fun b => (unit a.1 == unit b.1) == (unit a.2 == unit b.2)))

/-- Whether the cores follow R467: clusters one to one onto free clusters, a die's clusters on one die, quads and positions
kept, and clusters shared with a task already restored where that task went. -/
def State.mapOk (s : State) (v : Saved) (ps : List (Nat × Nat)) : Bool :=
  oneToOne clusterOfCore ps && ps.all (fun a => ps.all (fun b => dieOfCore a.1 != dieOfCore b.1 || dieOfCore a.2 == dieOfCore b.2)) &&
  ps.all (fun p => p.1 % 24 == p.2 % 24 &&
    (match v.pins.find? (fun x => x.1 == clusterOfCore p.1) with
     | some x => x.2 == clusterOfCore p.2
     | none => s.cores.all (fun e => !(decide (e.1 < nCores) && clusterOfCore e.1 == clusterOfCore p.2 && e.2.task.isSome))) &&
    (match v.diePins.find? (fun x => x.1 == dieOfCore p.1) with
     | some x => x.2 == dieOfCore p.2
     | none => true))

/-- An entry of a saved ME on another cluster, its waiting time counted on; its gang gathers again there. -/
def MeEntry.moved (f : Nat → Nat) (now : Nat) (e : MeEntry) : MeEntry :=
  { e with core := f e.core, gang := e.gang.map f, gangId := 0, since := now - e.since, rdy := none }

/-- Saved MEs return to a cluster (R467): the first task to come back brings tiles and tables, each its own entries. -/
def State.returnMes (s : State) (v : Saved) (cl cl' : Nat) : State :=
  let f := fun (n : Nat) => if clusterOfCore n = cl then cl' * 24 + n % 24 else n
  let pinned := v.pins.any (fun x => x.1 == cl)
  (v.mes.filter (fun x => x.1 / 6 == cl)).foldl (fun s x =>
    let m := cl' * 6 + x.1 % 6
    let mine := (x.2.1.entries.filter (fun e => e.task == some v.tid)).map (fun e => e.moved f s.cycle)
    if pinned then s.updM m (fun me => { me with entries := me.entries ++ mine, nextArr := max me.nextArr x.2.1.nextArr })
    else
      let clear := s.mem.filter (fun (y : Host.Cell) => !(decide (accKey m 0 ≤ y.1) && decide (y.1 < accKey (m + 1) 0)))
      let s := { s.replaced (accKey m 0) 0x100000 with mem := writeCells clear (x.2.2.map (fun (y : Host.Cell) => (y.1 - accKey x.1 0 + accKey m 0, y.2))) }
      s.updM m (fun me => { x.2.1 with
        entries := mine, reserved := none, mtbl := x.2.1.mtbl.map (fun y => (y.1, y.2.1, f y.2.2)), skips := me.skips, dones := me.dones, nextArr := max me.nextArr x.2.1.nextArr })) s

/-- The gang posts of a restored task gather again in their latches, in their order of arrival (R324, R467). -/
def State.rejoinGangs (s : State) (tid : Nat) : State :=
  s.mes.foldl (fun s m => (m.2.entries.filter (fun e => e.task == some tid && e.gang != [] && e.gangId == 0)).foldl
    (fun s e => s.gangPost m.1 e.id) s) s

/-- What the other saved tasks of the context learn when a task comes back: where shared clusters and dies have gone, and
their own ME entries. -/
def Saved.told (v w : Saved) (cls dies : List (Nat × Nat)) : Saved :=
  let on := fun (cl : Nat) => w.was.any (fun x => clusterOfCore x.2 == cl)
  let cls' := cls.filter (fun c => on c.1 && !w.pins.any (fun x => x.1 == c.1))
  let ds' := dies.filter (fun d => w.was.any (fun x => dieOfCore x.2 == d.1) && !w.diePins.any (fun x => x.1 == d.1))
  { w with
    pins := w.pins ++ cls', diePins := w.diePins ++ ds'
    mes := w.mes ++ (v.mes.filter (fun x => cls'.any (fun c => c.1 == x.1 / 6))).map (fun x =>
      (x.1, { x.2.1 with entries := x.2.1.entries.filter (fun e => e.task == some w.tid) }, [])) }

/-- Every domain of a step task with members holds its release (R441). -/
def Task.allHeld (t : Task) : Bool := !t.doms.isEmpty && t.doms.all (fun d => d.2.held || d.2.count == 0)
/-- Whether a task may be saved outside a ladder: a step task only between its steps (R441). -/
def Task.mayYield (t : Task) : Bool := t.doms.isEmpty || t.allHeld

/-- Jobs of a task that were parked for a save go on (R381). -/
def State.wakeJobs (s : State) (p : Job → Bool) : State :=
  { s with jobs := s.jobs.map (fun (e : Nat × Job) => (e.1,
      if e.2.st = .parked ∧ e.2.cause = 0 ∧ p e.2 then { e.2 with st := .queued } else e.2)) }

/-- Held releases of a task start again on their way, all for one cycle (R441). -/
def State.restartReleases (s : State) (tid : Nat) : State :=
  s.updT tid (fun t =>
    let at' := s.cycle + (t.doms.filter (fun d => d.2.held)).foldl (fun n d => max n (t.releaseDelay d.2)) 0
    { t with doms := t.doms.map (fun d => (d.1, if d.2.held then { d.2 with relAt := at' } else d.2)) })

/-- No boundary carries more channels than its budget (R134). -/
def State.routesFit (s : State) (cores : List Nat) : Bool :=
  s.subscriptions.all (fun x => !(cores.contains x.1 || cores.contains x.2)
    || (crossings x.1 x.2).all (fun b => decide (s.channelsAt b ≤ b.budget)))

/-- A saved task takes cores again (R229, R467), member by member of those still in it. -/
def State.unstash (s : State) (v : Saved) (cores : List Nat) : State :=
  match s.task? v.tid with
  | none => s
  | some t =>
    let live := (t.mem.filter (fun m => m.2.2)).map (fun m => m.2.1)
    let ps := (v.was.map Prod.snd).zip cores
    let s0 := s
    let s := s.chargeCores t.ctx
    let cls := (ps.map (fun p => (clusterOfCore p.1, clusterOfCore p.2))).eraseDups
    let dies := (ps.map (fun p => (dieOfCore p.1, dieOfCore p.2))).eraseDups
    let s := { s with ham := { s.ham with saved := (s.ham.saved.filter (fun (w : Saved) => w.tid != v.tid)).map (fun (w : Saved) =>
      if v.whole && w.whole && (match s.task? w.tid with | some u => u.ctx == t.ctx | none => false) then v.told w cls dies else w) } }
    let s := if v.whole then cls.foldl (fun s c => s.returnMes v c.1 c.2) s else s
    let s := v.bars.foldl (fun s b => match dies.find? (fun d => d.1 == b.1) with
      | some d => s.setBar t.ctx d.2 b.2.1 b.2.2
      | none => s) s
    let s := cores.foldl (fun s n => s.boundary n) s
    let s := s.moveCores v.tid (live.zip cores) (fun phys c => { c with
      run := .running, husk := phys.husk, readyAt := s.cycle, since := s.cycle, retries := 0, sfuFree := 0
      sclk0 := s.cycle - c.sclk0, loose := c.loose || (c.stepOn && !t.allHeld), w := { c.w with since := s.cycle - c.w.since } })
    let s := { s with cores := live.foldl (fun m n => merase m n) s.cores, mem := s.mem.filter (fun x => !live.any (fun n => inSpad n x.1)) }
    let s := ((s.restartReleases v.tid).rejoinGangs v.tid).wakeJobs (fun j => j.task == some v.tid)
    if s.routesFit cores then s else s0

/-- SAVED_TASK_RESTORE (R229): the first ready saved task of a context that may be served, on cores of its shape that are
free. -/
def State.restoreSaved (s : State) (idx : Nat) (cores : List Nat) : State :=
  match s.ham.saved[idx]? with
  | none => s
  | some v =>
    match s.task? v.tid with
    | none => s
    | some t =>
      let shape := match s.launch? t.lid with | some l => lpbShape l.lpb | none => 4
      if (s.getX t.ctx).serves && s.firstReady t.ctx == some idx && decide (cores.length = v.was.length) && decide cores.Nodup
          && oneUnit shape cores
          && cores.all (fun n => s.coreFree n && s.clusterOk t.ctx n &&
              (mvals s.ham.launches).all (fun l => l.ctx == t.ctx || !l.claim.contains n))
          && (!v.whole || s.mapOk v ((v.was.map Prod.snd).zip cores))
      then s.unstash v cores else s

end Sys2Proof.Machine
end

