-- ==== Sys2Proof/Machine/Ladder.lean ====
section
/-!
DEFINITION. Budgets and the pre-emption ladder (R416, R441, R463), and the Shell's cards (R468): what happens at each
deadline, how a period ends, how a save area is written and read.
-/
namespace Sys2Proof.Machine

/-! ## The ladder -/

/-- Whether a task is one of the saved ones. -/
def State.isSaved (s : State) (tid : Nat) : Bool := s.ham.saved.any (fun v => v.tid == tid)

/-- Tasks of a context that hold cores. -/
def State.resident (s : State) (ctx : Nat) : List Task :=
  (mvals s.ham.tasks).filter (fun t => t.ctx == ctx && t.mem.any (fun m => m.2.2 && decide (m.2.1 < nCores)))

/-- Stage 1 begins, unless the ladder already runs. (DEDUCED, log entry 36) -/
def State.startLadder (s : State) (ctx : Nat) (asked : Bool) : State :=
  s.updX ctx (fun x => { x with
    stage := if x.stage = 0 then 1 else x.stage, stageAt := if x.stage = 0 then s.cycle else x.stageAt, asked := x.asked || asked })

/-- Whether a task is away from its cores: one of the saved ones, or in a save area. -/
def State.isAway (s : State) (tid : Nat) : Bool := s.isSaved tid || s.ham.areas.any (fun a => a.2.any (fun v => v.tid == tid))

/-- The ladder ends: releases held start on their way, and jobs parked for it are queued again, but those of a task that is
away, which wait for its return. -/
def State.endLadder (s : State) (ctx : Nat) : State :=
  let s := s.updX ctx (fun x => { x with stage := 0, asked := false })
  let s := (s.resident ctx).foldl (fun s t => s.restartReleases t.tid) s
  s.wakeJobs (fun j => j.ctx == ctx && !(match j.task with | some t => s.isAway t | none => false))

/-- The Shells save what can be saved now of a list of tasks. -/
def State.stashAll (s : State) (ts : List Task) : State := ts.foldl (fun s t => s.stash t.tid true true none) s

/-- SAVE_DEADLINE and what follows it (R441, R463): in stage 1 step tasks whose releases are all held are saved; at the
deadline stage 2 begins, running jobs park and every task is saved; in stage 2 the Shells go on with those left. -/
def execSaveDeadline (ctx : Nat) (s : State) : Host.Outcome State Fault Refusal :=
  .next (
    let x := s.getX ctx
    if x.stage = 1 then
      if x.stageAt + x.ccb.saveDl ≤ s.cycle then
        let s := s.updX ctx (fun x => { x with stage := 2, stageAt := s.cycle })
        let s := { s with jobs := s.jobs.map (fun (e : Nat × Job) => (e.1,
          if e.2.ctx = ctx ∧ e.2.st = JobSt.running ∧ e.2.eng < 68 then { e.2 with st := JobSt.parked, cause := 0, waits := none } else e.2)) }
        s.stashAll (s.resident ctx)
      else s.stashAll ((s.resident ctx).filter (fun t => t.allHeld))
    else if x.stage = 2 then s.stashAll (s.resident ctx)
    else s)

/-- SECOND_DEADLINE (R463): a save that is not complete ends in the forced reset. -/
def execSecondDeadline (ctx : Nat) (s : State) : Host.Outcome State Fault Refusal :=
  .next (
    let x := s.getX ctx
    if x.stage = 2 ∧ x.stageAt + x.ccb.secondDl ≤ s.cycle ∧ s.resident ctx ≠ [] then s.forceReset ctx else s)

/-! ## Budgets (R416) -/

/-- Which budgets are used up: core-cycles, copy bytes, Sieve bytes, Ethernet bytes. A budget of 0 is unlimited (R395). -/
def Ctx.usedUp (x : Ctx) (which : Nat) : Bool :=
  match which with
  | 0 => x.ccb.coreBud != 0 && decide (x.ccb.coreBud ≤ x.usedCore)
  | 1 => x.ccb.copyBud != 0 && decide (x.ccb.copyBud ≤ x.usedCopy)
  | 2 => x.ccb.sieveBud != 0 && decide (x.ccb.sieveBud ≤ x.usedSieve)
  | 3 => x.ccb.ethBud != 0 && decide (x.ccb.ethBud ≤ x.usedEth)
  | _ => false

/-- BUDGET_EXHAUSTED (R416). -/
def execBudgetExhausted (ctx which : Nat) (s : State) : Host.Outcome State Fault Refusal :=
  .next (
    let s := s.chargeCores ctx
    if (s.getX ctx).usedUp which then
      (s.updX ctx (fun x => { x with exh := x.exh ||| BitVec.ofNat 4 (2 ^ which) })).startLadder ctx false
    else s)

/-- BUDGET_PERIOD (R396, R416): charges start from zero under the newest budgets; a ladder that only a budget started ends,
any other once no task of the context holds a core. -/
def execBudgetPeriod (ctx : Nat) (s : State) : Host.Outcome State Fault Refusal :=
  .next (
    let x := s.getX ctx
    if x.periodAt + x.ccb.period ≤ s.cycle then
      let s := s.updX ctx (fun x => { x with
        usedCore := 0, usedCopy := 0, usedSieve := 0, usedEth := 0, exh := 0, chargedAt := s.cycle
        periods := x.periods + 1, periodAt := s.cycle, budNext := none
        ccb := match x.budNext with
          | some b => { x.ccb with coreBud := b.coreBud, copyBud := b.copyBud, sieveBud := b.sieveBud, ethBud := b.ethBud }
          | none => x.ccb })
      (if x.stage ≠ 0 ∧ (s.resident ctx = [] ∨ (x.stage = 1 ∧ !x.asked)) then s.endLadder ctx else s).reportDrops
    else s)

/-! ## CTXSET (R395, R396) -/

def orDefault (x d : Nat) : Nat := if x = 0 then d else x

/-- The controls a CCB gives (R395). -/
def ccbOf (b : List Byte) : Ccb where
  lqCount := byteAt b 0
  lqAddr := field b 8 8
  shapeBase := field b 16 8
  shapeCount := field b 24 4
  yieldt := orDefault (field b 28 4) 8192
  dlcyc := orDefault (field b 32 4) 0x400000
  age := orDefault (field b 36 4) 0x10000
  cto := orDefault (field b 40 4) 4096
  cancelDl := orDefault (field b 44 4) 0x10000
  nodes := field b 48 8
  period := min (max (orDefault (field b 56 4) 400000) 40000) 40000000
  saveDl := orDefault (field b 60 4) 400000
  secondDl := orDefault (field b 64 4) 4000000
  coreBud := field b 72 8
  copyBud := field b 80 8
  sieveBud := field b 88 8
  ethBud := field b 96 8
  faultQ := field b 104 8
  stackGrant := field b 112 2
  stackBytes := field b 116 4
  stackBase := field b 120 8

/-- A CCB in force: limits and timers at once, budgets from the next period (R396). A new node table is read afresh. -/
def Ctx.setCcb (x : Ctx) (c : Ccb) : Ctx :=
  { x with
    ccb := { c with coreBud := x.ccb.coreBud, copyBud := x.ccb.copyBud, sieveBud := x.ccb.sieveBud, ethBud := x.ccb.ethBud }
    budNext := some c
    nodes := if x.ccb.nodes = c.nodes then x.nodes else [] }

/-- CTXSET (R396): the oldest card of engine 72. -/
def execCtxset (s : State) : Host.Outcome State Fault Refusal :=
  .next (match (mvals s.jobs).find? (fun j => j.eng == 72 && j.st == .queued) with
    | none => s
    | some j => (s.updX (byteAt j.card 2) (fun x => x.setCcb (ccbOf j.table))).endJob j.id .done)

/-! ## Save areas (R468) -/

/-- Bytes of the last block after its barriers, which are the device's own (R464). (DESIGN CHOICE, log entry 13) -/
def areaTail : Nat := Config.freeNat 0 0x270 % 0x1000000
/-- Where the task table stands, 64 bytes a task, and the barrier, queue and engine block behind it.
(DESIGN CHOICE, log entry 13) -/
def tableAt (cores mes : Nat) : Nat := 0x10000 + cores * 0x90000 + mes * 0x50000
def blockAt (cores mes tasks : Nat) : Nat := tableAt cores mes + 64 * max tasks 1
/-- The length of that block: 256 barriers, 32 step barriers a task, and what is the device's own (R219, R441, R464).
(DESIGN CHOICE, log entry 13) -/
def blockLen (tasks : Nat) : Nat := 2048 + 256 * max tasks 1 + areaTail
def areaSize (cores mes tasks : Nat) : Nat := blockAt cores mes tasks + blockLen tasks

/-- A saved core's record: CORE_ID and STEPCLK as they stood when it was saved, its own mode. -/
def State.savedRecord (s : State) (was n token : Nat) : List Byte :=
  let s := s.updC n (fun c => { c with sclk0 := s.cycle - c.sclk0 })
  leBytes was 8 ++ (s.coreRecord n (if (s.getC n).sys then 1 else 0) token true).drop 8

/-- The barriers a die's saved tasks use: those saved with them from its die, and the hub's (R219). -/
def State.savedBar (s : State) (ctx die : Nat) (vs : List Saved) (n : Nat) : Bar :=
  if n < 192 then
    (((vs.map (fun v => v.bars)).foldr (· ++ ·) []).find? (fun b => b.1 == die && b.2.1 == n)).elim {} (fun b => b.2.2)
  else s.getBar ctx 4 n

/-- A task's domain. -/
def State.domain? (s : State) (tid dom : Nat) : Option Domain := (s.task? tid).bind (fun t => mfind t.doms dom)

/-- The step barriers of a saved task, domain by domain, in the layout of R219 (R441). -/
def State.stepBytes (s : State) (v : Option Saved) : List Byte :=
  flat ((List.range 32).map (fun d => leBytes ((v.bind (fun v => s.domain? v.tid d)).elim ({} : Bar) Domain.bar).word.toNat 8))

/-- The area of saved tasks: header, records at multiples of 64 KiB, task table, and the barrier, queue and engine block. -/
def State.areaBytes (s : State) (ctx die : Nat) (vs : List Saved) (cores : List (Nat × Nat)) (mes : List (Nat × Me × List Host.Cell))
    (token : Nat) : List Byte :=
  leBytes 0x48534C4C 4 ++ leBytes 1 2 ++ leBytes 0xA1 2 ++ leBytes cores.length 4 ++ leBytes mes.length 4
    ++ leBytes (tableAt cores.length mes.length) 8 ++ leBytes (blockAt cores.length mes.length vs.length) 8 ++ List.replicate 0xFFE0 0
    ++ flat (((List.range cores.length).zip cores).map (fun x => s.savedRecord x.2.1 x.2.2 (2 * (s.ham.blobs.length + x.1))))
    ++ flat (mes.map (fun m => (List.range 0x40000).map (fun i => (m.2.2.find? (fun y => y.1 == accKey m.1 i)).elim 0 (fun y => y.2))
        ++ (List.range 0x1000).map (fun i => Config.blobByte token (0x100000 + i)) ++ gapBytes s.tick 0x41000 0xF000))
    ++ (List.range (64 * max vs.length 1)).map (fun i => Config.blobByte token i)
    ++ flat ((List.range 256).map (fun n => leBytes (s.savedBar ctx die vs n).word.toNat 8))
    ++ flat ((List.range (max vs.length 1)).map (fun i => s.stepBytes vs[i]?))
    ++ (List.range areaTail).map (fun i => Config.blobByte token (0x200000 + i))

/-- The first page of a range that the hub cannot write, as EINFO and faulting address. -/
def State.pagesBad (s : State) (ctx va n : Nat) : Option (Nat × Nat) :=
  (List.range (if n = 0 then 0 else (va + n - 1) / 0x10000 - va / 0x10000 + 1)).findSome? (fun i =>
    let lo := max va ((va / 0x10000 + i) * 0x10000)
    match (s.xlate [.hub] ctx lo { w := true }).1 with
    | .ok _ => none
    | .error f => some (f.einfo lo, lo))

/-- The Shell job of a die with an operation. -/
def State.shellJob (s : State) (die op : Nat) : Option Job :=
  (mvals s.jobs).find? (fun j => j.eng == 68 + die && cardOp j.card == op && (j.st == .queued || j.st == .running))

/-- A Shell job's grant, tested again when it starts (R370, R390). -/
def State.shellReady (s : State) (j : Job) : Option State × State :=
  if j.st = .running then (some s, s)
  else match s.jobGrants j with
    | (some f, s) => (none, s.parkJob j.id f.1 0 f.2)
    | (none, s) => (some (s.updJ j.id (fun j => { j with st := .running })), s)

/-- The saved tasks of a context that stood on a die. -/
def State.savedOn (s : State) (ctx die : Nat) (v : Saved) : Bool :=
  v.whole && v.was.any (fun w => dieOfCore w.2 == die) && (match s.task? v.tid with | some t => t.ctx == ctx | none => false)

/-- The live members of saved tasks: where each stood, and where its record is kept. -/
def State.savedCores (s : State) (vs : List Saved) : List (Nat × Nat) :=
  (vs.map (fun v => (v.was.map Prod.snd).zip (match s.task? v.tid with
    | some t => (t.mem.filter (fun m => m.2.2)).map (fun m => m.2.1)
    | none => []))).foldr (· ++ ·) []

/-- Saved tasks leave the device for an area; their cores' stepping-specific blocks are known by their numbers. -/
def State.giveOut (s : State) (ctx die token : Nat) (vs : List Saved) (cores : List (Nat × Nat)) : State :=
  { s with ham := { s.ham with
      saved := s.ham.saved.filter (fun v => !s.savedOn ctx die v)
      areas := s.ham.areas ++ [(token, vs)]
      blobs := s.ham.blobs ++ ((List.range cores.length).zip cores).map (fun (x : Nat × Nat × Nat) => (2 * (s.ham.blobs.length + x.1), s.getC x.2.2)) } }

/-- The area of a die's saved tasks is written, and they leave the device. -/
def State.writeArea (s : State) (die : Nat) (j : Job) : State :=
  let ctx := byteAt j.card 3
  let vs := s.ham.saved.filter (s.savedOn ctx die)
  let cores := s.savedCores vs
  let mes := (vs.map (fun v => v.mes)).foldr (· ++ ·) []
  let token := 2 * s.ham.areas.length + 1
  -- Shell saves have a reserve of their own (R416)
  let eth := (s.getX j.ctx).usedEth
  let s' := (s.ctxWrite j.ctx (field j.card 8 8) (s.areaBytes ctx die vs cores mes token)).updX j.ctx (fun x => { x with usedEth := eth })
  s'.giveOut ctx die token vs cores

/-- SAVE (R468): the ladder runs; when no task of the context holds a core of the die, the area is written. -/
def execSave (die : Nat) (s : State) : Host.Outcome State Fault Refusal :=
  .next (match s.shellJob die 0x30 with
    | none => s
    | some j =>
      match s.shellReady j with
      | (none, s) => s
      | (some s, _) =>
        let ctx := byteAt j.card 3
        let s := if (s.getX ctx).asked then s else s.startLadder ctx true
        if (s.resident ctx).any (fun t => t.mem.any (fun m => m.2.2 && dieOfCore m.2.1 == die)) then s
        else
          let vs := s.ham.saved.filter (s.savedOn ctx die)
          let va := field j.card 8 8
          let n := areaSize (s.savedCores vs).length (vs.map (fun v => v.mes.length)).sum vs.length
          if field j.card 16 8 < n then s.parkJob j.id .bounds va va
          else match s.pagesBad j.ctx va n with
          | some f => s.parkJob j.id .xlate f.2 f.1
          | none =>
            let s := s.writeArea die j
            let s := if s.resident ctx = [] then s.endLadder ctx else s
            s.endJob j.id .done)

/-- The registers and scratchpad of a saved core as its record in the area gives them. -/
def State.loadSaved (s : State) (n : Nat) (b : List Byte) : State :=
  let s := s.loadRecord n b true
  s.updC n (fun c => { c with sys := byteAt b 0x120 ≠ 0, sclk0 := s.cycle - c.sclk0 })

/-- The barriers of an area come back: the die's with the first of its tasks, the hub's while no task of the context is on the
device. -/
def State.openBars (s : State) (ctx die at' : Nat) (vs : List Saved) (b : List Byte) : State × List Saved :=
  let bar := fun (n : Nat) => (s.savedBar ctx die vs n).ofWord (BitVec.ofNat 64 (field b (at' + 8 * n) 8))
  let here := (List.range 192).map (fun n => (die, n, bar n))
  let vs := match vs with
    | v :: r => { v with bars := v.bars.filter (fun x => x.1 != die) ++ here } :: r.map (fun (v : Saved) => { v with bars := v.bars.filter (fun x => x.1 != die) })
    | [] => []
  let alone := s.resident ctx == [] && s.ham.saved.all (fun v => (match s.task? v.tid with | some t => t.ctx != ctx | none => true))
  (if alone then (List.range 64).foldl (fun s i => s.setBar ctx 4 (192 + i) (bar (192 + i))) s else s, vs)

/-- The step barriers of a task come back from an area (R441). -/
def State.openSteps (s : State) (tid : Nat) (b : List Byte) : State :=
  s.updT tid (fun t => { t with doms := t.doms.map (fun (e : Nat × Domain) =>
    (e.1, { e.2 with bar := e.2.bar.ofWord (BitVec.ofNat 64 (field b (8 * e.1) 8)) })) })

/-- The tasks of an area come back as ready saved tasks, their registers, scratchpads, tiles and barriers as its bytes give
them. -/
def State.openArea (s : State) (ctx die token : Nat) (vs : List Saved) (b : List Byte) : State :=
  let cores := (s.savedCores vs).map Prod.snd
  let s := ((List.range cores.length).zip cores).foldl (fun s x => s.loadSaved x.2 (b.drop (0x10000 + x.1 * 0x90000))) s
  let mes := (vs.map (fun v => v.mes)).foldr (· ++ ·) []
  let tiles := fun (m : Nat) => match ((List.range mes.length).zip mes).find? (fun x => x.2.1 == m) with
    | some x =>
      let r := (b.drop (0x10000 + cores.length * 0x90000 + x.1 * 0x50000)).take 0x40000
      (cellsAt (accKey m 0) r).filter (fun y => decide (y.2 ≠ 0))
    | none => []
  let (s, vs) := s.openBars ctx die (field b 24 8) vs b
  let s := ((List.range vs.length).zip vs).foldl (fun s x => s.openSteps x.2.tid (b.drop (field b 24 8 + 2048 + 256 * x.1))) s
  let vs := vs.map (fun (v : Saved) => { v with
    ready := true, mes := v.mes.map (fun (m : Nat × Me × List Host.Cell) => (m.1, m.2.1, tiles m.1)) })
  { s with ham := { s.ham with
    saved := s.ham.saved ++ vs.filter (fun (v : Saved) => (s.task? v.tid).isSome)
    areas := s.ham.areas.map (fun (e : Nat × List Saved) => if e.1 = token then (token, []) else e) } }

/-- The area this device wrote whose tail these bytes are, if its tasks have not been taken back.
(DESIGN CHOICE, log entry 13) -/
def State.areaOf (s : State) (tail : List Byte) : Option (Nat × List Saved) :=
  s.ham.areas.find? (fun (e : Nat × List Saved) => e.2 != [] && (List.range 64).all (fun i => tail.getD i 0 == Config.blobByte e.1 i))

/-- RESTORE (R468): the tasks an area holds become ready saved tasks. The task table's layout is the device's own: an area whose
table this device did not write, or whose tasks it has taken back, holds none it knows, and the job ends with nothing handed
over. (DESIGN CHOICE, log entry 37) -/
def execRestore (die : Nat) (s : State) : Host.Outcome State Fault Refusal :=
  .next (match s.shellJob die 0x31 with
    | none => s
    | some j =>
      match s.shellReady j with
      | (none, s) => s
      | (some s, _) =>
        let va := field j.card 8 8
        let len := field j.card 16 8
        if len < 0x10000 then s.parkJob j.id .bounds va va
        else match s.ctxRead j.ctx va 0x10000 with
        | (.error f, s) => s.parkJob j.id f.1 f.2.2 f.2.1
        | (.ok h, s) =>
          let n := max (tableAt (field h 8 4) (field h 12 4) + 64) (max (field h 16 8 + 64) (field h 24 8 + blockLen ((field h 24 8 - field h 16 8) / 64)))
          if field h 0 4 ≠ 0x48534C4C ∨ field h 4 2 ≠ 1 ∨ field h 6 2 ≠ 0xA1 then s.parkJob j.id .format va 0
          else if len < n then s.parkJob j.id .bounds va va
          else match s.ctxRead j.ctx va n with
          | (.error f, s) => s.parkJob j.id f.1 f.2.2 f.2.1
          | (.ok b, s) =>
            match s.areaOf (b.drop (field h 16 8)) with
            | none => s.endJob j.id .done
            | some (token, vs) => (s.openArea (byteAt j.card 3) die token vs b).endJob j.id .done)

end Sys2Proof.Machine
end

