-- ==== Sys2Proof/Machine/StepI.lean ====
section
/-!
DEFINITION. The STEP group (R434 to R448) and the steps of barrier units and fabric it rests on: releases, timeouts, and
the landing of what SSEND and SSENDA send.
-/
namespace Sys2Proof.Machine

/-- SLOT's EINFO (R439). -/
def slotInfo (kind slot sclk : Nat) : Nat := kind * 2 ^ 60 + slot * 2 ^ 32 + sclk
/-- The core's SCLK in the cycle of issue. -/
def State.mySclk (s : State) : Nat := s.c.sclk s.cycle
/-- A word that needs a step-mode task (R444). -/
def needStep : M Unit := do
  let s ← get
  raiseIf (!s.c.stepOn) .slot (slotInfo 5 0 0)

/-! ## Sends -/

/-- The source of a send: the core's own scratchpad, through its CORE window in system mode only (R163, R445). -/
def sendSource (c : TReg) (n : Nat) : M Nat := do
  let ea := capAddr c
  let _ ← capcheck c ea n permR
  let s ← get
  let own := s.ownSpad s.cur ea && decide (ea % 2 ^ 20 + n ≤ 0x80000)
    && (s.c.sys || (match regionOf ea with | some (.window .spad _ _) => false | _ => true))
  raiseIf (!own) .xlate ((⟨4, 0⟩ : XFail).einfo ea)
  return spadKey s.cur (ea % 2 ^ 20)

/-- The destination of a send: a member's scratchpad window, or in system mode a core's (R445). -/
def sendDest (c : TReg) (n : Nat) : M (Nat × Nat) := do
  let ea := capAddr c
  let _ ← capcheck c ea n permW
  let ok := match regionOf ea with
    | some (.window .mspad _ off) | some (.window .spad _ off) => decide (off + n ≤ 0x80000)
    | _ => false
  raiseIf (!ok) .xlate ((⟨4, 0⟩ : XFail).einfo ea)
  let l ← locateM .store ea 16
  raiseIf l.remote .remote ea
  return (l.key, ea)

/-- The granules of a block on their way (R443). -/
def State.sendBlock (s : State) (src key ea n : Nat) : State :=
  let target := (key - spadBase) / 0x100000
  { s with sends := s.sends ++ (List.range (n / 16)).map (fun i => {
      core := s.cur, ctx := s.c.ctx, ea := ea, target := target, task := (s.getC target).task, key := key + 16 * i
      bytes := readBytes s.mem (src + 16 * i) 16, no := s.tick, told := false }) }

/-- The effect of R445; `slot` is none for SSENDA. (DEDUCED, log entry 39) -/
def sendM (d a b : GReg) (slotted : Bool) : M Unit := do
  needStep
  let s ← get
  let g := (s.rdI d).toNat
  let n := g % 2 ^ 13
  let slot := bitsOf g 47 32
  let ca := s.rdG a
  let cb := s.rdG b
  let src ← sendSource ca n
  let (key, ea) ← sendDest cb n
  raiseIf (decide (capAddr ca % 16 ≠ 0)) .align (capAddr ca)
  raiseIf (decide (ea % 16 ≠ 0)) .align ea
  let w := s.c.slotW
  raiseIf (decide (n = 0) || decide (n % 16 ≠ 0) || decide (64 * w < n)) .slot (slotInfo 4 slot s.mySclk)
  modify (fun s => s.drainAll s.cur)
  let s ← get
  holdIf (s.unsent s.cur) .queue
  if slotted then do
    raiseIf (!s.c.comm) .slot (slotInfo 3 slot s.mySclk)
    if !s.c.loose then do
      raiseIf (decide (s.mySclk < slot * w)) .slot (slotInfo 1 slot s.mySclk)
      raiseIf (decide ((slot + 1) * w ≤ s.mySclk)) .slot (slotInfo 2 slot s.mySclk)
  raiseIf (s.poisoned src n) .mcheck (s.mcheckInfo src (capAddr ca))
  let s := s.sendBlock src key ea n
  set (s.upd (fun c => { c with readyAt := max c.readyAt (s.cycle + (n + 63) / 64) }))

/-- SSEND (R438, R445). -/
def execSsend (d a b : GReg) (s : State) : Host.Outcome State Fault Refusal := run (sendM d a b true) s
/-- SSENDA (R445). -/
def execSsenda (d a b : GReg) (s : State) : Host.Outcome State Fault Refusal := run (sendM d a b false) s

/-! ## SBAR (R446) -/

def State.setBarOf (s : State) (tid dom : Nat) (b : Bar) : State :=
  s.updT tid (fun t => match mfind t.doms dom with
    | some d => { t with doms := mset t.doms dom { d with bar := b } }
    | none => t)

/-- SBAR: arrives once in a phase, waits for the release, and gives STEP. A core whose phase has completed while it was away
returns at once (R440). -/
def execSbar (d a : GReg) (dom : BitVec 5) (s : State) : Host.Outcome State Fault Refusal :=
  run (do
    needStep
    let s ← get
    let n := dom.toNat
    raiseIf (decide (n ≠ s.c.dom)) .slot (slotInfo 6 0 s.mySclk)
    let tid := s.c.task.getD 0
    let woken ← wokenFrom (.step n)
    if s.c.released ∧ (s.c.sbarPc = s.c.wordPc ∨ woken.isSome) then do
      acquireOpt (some .pkg)
      modify (·.upd (fun c => { c with released := false }))
      setI d (BitVec.ofNat 64 (s.c.stepNo % 2 ^ 30))
    else do
      raiseIf woken.isSome .timeout n
      -- a core that waits has passed the test of BROKEN
      let bar := ((s.domain? tid n).map (·.bar)).getD {}
      raiseIf (bar.broken && decide (s.c.wait ≠ some (.step n))) .bounds (barInfo 3 (256 + n))
      if !s.c.arrived then do
        releaseM .pkg
        let s ← get
        let x := sextInt (bitsOf (s.rdI a).toNat 35 0) 36
        let bar := ((s.domain? tid n).map (·.bar)).getD {}
        if !pendingOk (bar.pending + x) then do
          set (s.setBarOf tid n { bar with broken := true })
          raise .bounds (barInfo 2 (256 + n))
        else
          let s := s.upd (fun c => { c with arrived := true, released := false, sbarPc := c.wordPc })
          set ((s.setBarOf tid n { bar with pending := bar.pending + x, arrived := bar.arrived + 1 }).testStep tid n)
      holdOn (.step n)) s

/-! ## SDOM and SCLK -/

/-- SDOM (R447). -/
def execSdom (d a : GReg) (what : SdWhat) (s : State) : Host.Outcome State Fault Refusal :=
  run (do
    let s ← get
    let x := s.domain? (s.c.task.getD 0) ((s.rdI a).toNat % 32)
    let num := fun (f : Domain → Nat) => match x with | some y => BitVec.ofNat 64 (f y) | none => (0 : Word)
    if !s.c.stepOn then setI d (BitVec.allOnes 64)
    else match what with
    | .size => setI d (num (·.count))
    | .first => setI d (num (·.first))
    | .stride => setI d (num (·.stride))
    | .rank => setI d (match x with
      | some y => match y.rank s.c.member with
        | some i => BitVec.ofNat 64 i
        | none => BitVec.allOnes 64
      | none => BitVec.allOnes 64)
    | .pend => do
      setI d (match x with | some y => BitVec.ofInt 64 y.bar.pending | none => 0)
      modify (·.block 0x720)
    | .arr => do
      setI d (num (·.bar.arrived))
      modify (·.block 0x721)
    | .w => setI d (BitVec.ofNat 64 s.c.slotW)
    | .recd => setI d s.c.recAddr) s

/-- SCLK (R448): a wait gives the count it ended at. -/
def execSclk (d : GReg) (form : SclkForm) (s : State) : Host.Outcome State Fault Refusal :=
  run (do
    let s ← get
    if !s.c.stepOn then setI d 0
    else match form with
    | .read => setI d (BitVec.ofNat 64 s.mySclk)
    | .wait a => do
      let v := (s.rdI a).toNat % 2 ^ 32
      holdIf (decide (s.mySclk < v)) (.clock v)
      setI d (BitVec.ofNat 64 (if s.c.wait = some (.clock v) then v else s.mySclk))) s

/-! ## Events -/

/-- STEP_RELEASE (R436, R441): delivered in its cycle, unless the context is being drained. -/
def execStepRelease (tid dom : Nat) (s : State) : Host.Outcome State Fault Refusal :=
  .next (match s.task? tid, s.domain? tid dom with
    | some t, some d =>
      if d.held ∧ d.relAt ≤ s.cycle ∧ (s.getX t.ctx).stage = 0 ∧ !s.isAway tid then s.deliverRelease tid dom else s
    | _, _ => s)

/-- STEP_TIMEOUT (R440): a core held in SBAR for longer than the step timeout. -/
def execStepTimeout (core : Nat) (s : State) : Host.Outcome State Fault Refusal :=
  .next (
    let c := s.getC core
    match c.wait, c.task.bind s.task? with
    | some (.step _), some t =>
      if c.woken.isNone ∧ c.since + t.stepTo < s.cycle then
        { s.updC core (fun c => { c with woken := some 2 }) with turns := .core core :: s.turns }
      else s
    | _, _ => s)

/-- Whether a granule may land: its sender's earlier granules for the same place have (R201, R443). -/
def State.mayLand (s : State) (idx : Nat) : Bool :=
  match s.sends[idx]? with
  | none => false
  | some x => (s.sends.take idx).all (fun y => !(y.core == x.core && y.key == x.key))

/-- A granule of this send: its sender's, of the same number. -/
def Send.same (x y : Send) : Bool := y.core == x.core && y.no == x.no
/-- A granule that finds nobody: the send it belongs to gets one REMOTE record (R445). (DEDUCED, log entry 39) -/
def State.failSend (s : State) (x : Send) : State :=
  if x.told then s
  else ({ s with sends := s.sends.map (fun (y : Send) => if x.same y then { y with told := true } else y) }).remoteRecord x.ctx x.ea

/-- SEND_LANDING (R443, R445): a granule is performed at its home and leaves PENDING, or finds nobody there. -/
def execSendLanding (idx : Nat) (s : State) : Host.Outcome State Fault Refusal :=
  .next (match s.sends[idx]? with
    | none => s
    | some x =>
      if !s.mayLand idx then s
      else
        let s := { s with sends := s.sends.eraseIdx idx }
        if s.depositOk x.target x.task then (s.writeAt x.ctx x.key x.bytes).stepLanded x.target x.bytes.length
        else s.failSend x)

/-- SCLK_WAIT_EXPIRY (R448): the awaited value is reached, and the core goes on. -/
def execSclkWaitExpiry (core : Nat) (s : State) : Host.Outcome State Fault Refusal :=
  .next (
    let c := s.getC core
    match c.wait with
    | some (.clock v) => if v ≤ c.sclk s.cycle then { s with turns := .core core :: s.turns } else s
    | _ => s)

end Sys2Proof.Machine
end

