-- ==== Sys2Proof/Machine/SysI.lean ====
section
/-!
DEFINITION. The SYS group (R196, R197, R471 to R477) but for the Husk words, and the writes of system registers (R449).
-/
namespace Sys2Proof.Machine

/-! ## NOP and traps -/

/-- NOP (R471). -/
def execNop (s : State) : Host.Outcome State Fault Refusal := run (pure ()) s
/-- TRAP (R472). -/
def execTrap (n : BitVec 16) (s : State) : Host.Outcome State Fault Refusal := run (raiseDecode .swtrap (n.setWidth 64)) s
/-- BKPT (R472). -/
def execBkpt (n : BitVec 16) (s : State) : Host.Outcome State Fault Refusal := run (raiseDecode .bkpt (n.setWidth 64)) s
/-- A word no entry assigns (R59). -/
def execUnassignedEncoding (_w : Word) (s : State) : Host.Outcome State Fault Refusal :=
  run (raiseDecode .illegal s.openInfo) s

/-- ERET (R458, R473). -/
def execEret (rpl kill : Bool) (s : State) : Host.Outcome State Fault Refusal :=
  runRaw (do
    privileged
    modify (·.awaitProducers)
    if kill then modify (fun s => s.killOrHalt s.cur (s.c.tr.ecause.setWidth 8))
    else modify (fun s =>
      let st := s.c.stallOf + 1
      s.upd (fun c => { c.eret rpl with
        spos := c.spos + st, readyAt := max c.readyAt (s.cycle + st), delayed := false
        retries := if c.retryPc = c.wordPc then c.retries else 0 }))) s

/-! ## System registers -/

/-- MFSR (R244, R449). -/
def execMfsr (d : GReg) (sr : BitVec 12) (s : State) : Host.Outcome State Fault Refusal :=
  run (do
    let s ← get
    if srSysRead sr && !s.c.sys then raiseDecode .priv s.openInfo
    if !srKnown sr.toNat then raiseDecode .illegal s.openInfo
    if sr = 0x00F then modify (·.awaitVector)
    modify (fun s => s.wrI d (s.srRead s.cur sr.toNat) 1)) s

/-- A DUTY write (R469): a field written with 2 or 3 keeps its old value. -/
def dutyWritten (old x : Word) : Word :=
  BitVec.ofNat 64 ((List.range 6).foldl (fun n i =>
    let f := bitsOf x.toNat (2 * i + 1) (2 * i)
    n + (if f < 2 then f else bitsOf old.toNat (2 * i + 1) (2 * i)) * 4 ^ i) 0)

/-- A write of a management register (R518): those the table lists as written. -/
def State.mgmtWrite (s : State) (r : Nat) (x : Word) : State :=
  match r with
  | 0x102 => { s with host := { s.host with tlim := min (max x.toNat 70) 105 } }
  | 0x104 => { s with host := { s.host with plim := min (max x.toNat 1000) 3200 } }
  | 0x107 => { s with host := { s.host with eccc := 0 } }
  | 0x10A => { s with host := { s.host with idIndex := x.toNat % 2 ^ 16 } }
  | _ => s

/-- Whether a scope's removal reaches a place where translations are held (R197). -/
def tlbScope (n : Nat) (sc : Scope) (p : TlbPlace) : Bool :=
  match sc, p with
  | .core, .core m => m == n
  | .core, _ => false
  | .cluster, .core m => clusterOfCore m == clusterOfCore n
  | .cluster, .cluster m => m == clusterOfCore n
  | .cluster, _ => false
  | .die, .core m => dieOfCore m == dieOfCore n
  | .die, .cluster m => m / 48 == dieOfCore n
  | .die, .walker m => m == dieOfCore n
  | .die, _ => false
  | .pkg, .rdma => false
  | .pkg, _ => true
  | .sys, _ => true

/-- Whether an access of a context at a physical address was translated through an entry. -/
def TlbEntry.maps (e : TlbEntry) (ctx pa : Nat) : Bool :=
  e.ctx == ctx && pteLeaf e.pte && decide (ptePA e.pte / 2 ^ leafLog e.level = pa / 2 ^ leafLog e.level)

/-- The waits and the removal of TLBINV at a scope, with what comes in the same instant as the removal (R172, R197): the core's
earlier stores are performed, then what cores in scope made through the entries that go; running engine jobs translate their next
element again. -/
def dropTlb (scope : Scope) (ctx : Option Nat) (p : TlbEntry → Bool) (first : State → State := id) : M Unit := do
  let here := (← get).cur
  modify (·.drainAll here)
  holdIf ((← get).c.sq.any SqEntry.checked) .queue
  let s ← get
  let goes := fun (e : TlbEntry) => tlbScope here scope e.place && p e
  let through := fun (x pa : Nat) => (s.tlb.filter goes).any (·.maps x pa)
  let cores := (s.cores.map Prod.fst).filter (fun n => tlbScope here scope (.core n))
  modify (fun s => cores.foldl (fun s n => (s.drainUpTo n (fun e => through e.ctx e.firstKey)).arriveWhere n (fun l =>
    l.sectors.any (fun x => x.bytes.any (fun b => through l.ctx b.2)))) s)
  let s ← get
  holdIf (cores.any (fun n => (s.getC n).sq.any (fun e => through e.ctx e.firstKey))) .queue
  modify (fun s =>
    let s := first s
    ({ s with tlb := s.tlb.filter (fun e => !goes e) }).retranslate (fun j =>
      engInScope here scope j.eng && (ctx.isNone || ctx == some j.ctx)))

/-- The effect of a write to a system register on the executing core (R449): reserved bits are dropped, what is not
writable is discarded. -/
def mtsrTo (sr : BitVec 12) (x : Word) : M Unit := do
  let ctx := (← get).c.ctx
  match sr.toNat with
  | 0x003 => do
    modify (·.awaitProducers)
    modify (·.upd (fun c => { c with mode := x.setWidth 3 }))
  | 0x005 => modify (·.upd (fun c => { c with tr := { c.tr with trapvec := x.setWidth 12 } }))
  | 0x006 => modify (·.upd (fun c => { c with tr := { c.tr with epc := x.setWidth 12 } }))
  | 0x007 => modify (·.upd (fun c => { c with tr := { c.tr with ecause := x &&& 0xDFF } }))
  | 0x008 => modify (·.upd (fun c => { c with tr := { c.tr with eword := x } }))
  | 0x009 => modify (·.upd (fun c => { c with tr := { c.tr with einfo := x } }))
  | 0x00A => modify (·.upd (fun c => { c with tr := { c.tr with eseq := x &&& 0xFFFFFFFF } }))
  | 0x00B => modify (·.upd (fun c => { c with tr := { c.tr with exl := x.getLsbD 2, pm := x.getLsbD 1, ehalf := x.getLsbD 0 } }))
  | 0x00C => modify (·.upd (fun c => { c with slim := x &&& ~~~(0xF : Word) }))
  | 0x00D => modify (·.upd (fun c => { c with sbase := x &&& ~~~(0xF : Word) }))
  | 0x00E => do
    modify (·.awaitVector)
    modify (·.upd (fun c => { c with fpctl := x &&& 0x1F01 }))
  | 0x00F => do
    modify (·.awaitVector)
    modify (·.upd (fun c => { c with fpflags := x.setWidth 5 }))
  | 0x016 => do
    if (← grantDone).isNone then
      modify (fun s => ((s.updX ctx (fun y => { y with grantbase := x &&& 0xFFFFFFFFFFFF001F })).dropGrant ctx none).recheckGrant ctx none)
    grantWait none TReg0
  | 0x017 => dropTlb .sys (some ctx) (fun e => e.ctx == ctx) (fun s => s.updX ctx (fun y => { y with xbase := x &&& 0x0000FFFFFFFF0000 }))
  | 0x018 => modify (·.updX ctx (fun y => { y with duty := dutyWritten y.duty x }))
  | 0x01D => modify (fun s => (List.range 8).foldl (fun s p => s.applyAsync s.cur p)
      (s.upd (fun c => { c with portfull := x.setWidth 16 })))
  | 0x01E => modify (·.upd (fun c => { c with rdvto := x.setWidth 32 }))
  | r => modify (fun s => s.mgmtWrite r x)

/-- A write of a system register by a word, with its privilege (R449). -/
def mtsrM (sr : BitVec 12) (x : Word) : M Unit := do
  let s ← get
  if srSysWrite sr && !s.c.sys then raiseDecode .priv s.openInfo
  if !srKnown sr.toNat then raiseDecode .illegal s.openInfo
  mtsrTo sr x

/-- MTSR (R449, R471). -/
def execMtsr (sr : BitVec 12) (a : GReg) (s : State) : Host.Outcome State Fault Refusal := run (mtsrM sr (s.rdI a)) s

/-- MODE_WRITE (R49, R50). -/
def execModeWrite (x : Word) (s : State) : Host.Outcome State Fault Refusal := run (mtsrM 0x003 x) s
/-- GRANTBASE_WRITE (R99). -/
def execGrantbaseWrite (x : Word) (s : State) : Host.Outcome State Fault Refusal := run (mtsrM 0x016 x) s
/-- XBASE_WRITE (R172). -/
def execXbaseWrite (x : Word) (s : State) : Host.Outcome State Fault Refusal := run (mtsrM 0x017 x) s
/-- DUTY_WRITE (R469). -/
def execDutyWrite (x : Word) (s : State) : Host.Outcome State Fault Refusal := run (mtsrM 0x018 x) s
/-- FPFLAGS_WRITE (R244): FPCTL or FPFLAGS. -/
def execFpflagsWrite (sr : BitVec 12) (x : Word) (s : State) : Host.Outcome State Fault Refusal := run (mtsrM sr x) s
/-- PORTFULL_WRITE (R230). -/
def execPortfullWrite (x : Word) (s : State) : Host.Outcome State Fault Refusal := run (mtsrM 0x01D x) s
/-- ECCC_CLEAR (R518). -/
def execEcccClear (x : Word) (s : State) : Host.Outcome State Fault Refusal := run (mtsrM 0x107 x) s
/-- REGISTER_WRITE (R449): a register without a row of its own. -/
def execRegisterWrite (sr : BitVec 12) (x : Word) (s : State) : Host.Outcome State Fault Refusal := run (mtsrM sr x) s

/-! ## ISYNC, TLBINV, IDLE -/

/-- ISYNC (R185, R186, R196). -/
def execIsync (s : State) : Host.Outcome State Fault Refusal :=
  run (do
    let mine := fun (s : State) (e : SqEntry) => match e.op with
      | .write cells _ => cells.any (fun y => decide (istoreKey s.cur 0 ≤ y.1) && decide (y.1 < istoreKey (s.cur + 1) 0))
      | _ => false
    modify (fun s => s.drainUpTo s.cur (mine s))
    let s ← get
    holdIf (s.c.sq.any (mine s)) .queue
    modify (·.upd (fun c => { c with istale := [] }))) s

/-- TLBINV (R197). -/
def execTlbinv (kind : TlbKind) (scope : Scope) (a b : GReg) (s : State) : Host.Outcome State Fault Refusal :=
  run (do
    privileged
    let page := bitsOf (s.rdI a).toNat 54 16 * 0x10000
    let ctx := (s.rdI b).toNat % 16
    match kind with
    | .page => dropTlb scope (some ctx) (fun e => e.ctx == ctx && e.va / 2 ^ leafLog e.level == page / 2 ^ leafLog e.level)
    | .ctx => dropTlb scope (some ctx) (fun e => e.ctx == ctx)
    | .all => dropTlb scope none (fun _ => true)) s

/-- IDLE (R474). -/
def execIdle (s : State) : Host.Outcome State Fault Refusal :=
  run (do
    privileged
    let s ← get
    match ← wokenFrom .idle with
    | some _ => pure ()
    | none => holdIf (!s.c.cancelf) .idle) s

/-! ## ECHK and IDENT -/

/-- The ring entry of a sequence among the 64 most recent (R475). -/
def Core.recentEntry (c : Core) (q : BitVec 32) : Option RingEntry :=
  if (c.ringHead - q).toNat = 0 ∨ 64 < (c.ringHead - q).toNat then none else c.ringAt q

/-- ECHK's wait: every ring entry has its final status (R475). -/
def ringSettled : M Unit := do
  modify (fun s => s.arriveWhere s.cur (fun l => l.file == .v))
  let s ← get
  holdIf (decide (s.c.out ≠ 0)) .passes

/-- ECHK (R475). -/
def execEchk (form : EchkForm) (s : State) : Host.Outcome State Fault Refusal :=
  match form with
  | .read d a hi => run (do
      ringSettled
      let s ← get
      match s.c.recentEntry ((s.rdI a).setWidth 32) with
      | some r => setG d ⟨BitVec.ofNat 128 (field r.bytes (if hi then 16 else 0) 16), false⟩ 1
      | none => setG d ⟨BitVec.allOnes 128, false⟩ 1) s
  | .mark a b => run (do
      privileged
      ringSettled
      let s ← get
      let q := (s.rdI a).setWidth 32
      let x := s.rdI b
      match s.c.recentEntry q with
      | some r =>
        if x.toNat % 4 < 3 then
          modify (·.upd (fun c => { c with ring := mset c.ring (q.toNat % 64) { r with
            status := BitVec.ofNat 8 (x.toNat % 4), cause := if x.toNat % 4 = 0 then 0 else r.cause, count := BitVec.ofNat 32 (x.toNat / 2 ^ 32) } }))
        else pure ()
      | none => pure ()) s

/-- IDENT (R477). -/
def execIdent (d : GReg) (what : IdWhat) (s : State) : Host.Outcome State Fault Refusal :=
  run (setI d (match what with
    | .part => 0x7A150004
    | .stepping => 0xA1
    | .counts => BitVec.ofNat 64 (288 * 2 ^ 32 + 1152 * 2 ^ 16 + 4 * 2 ^ 8)
    | .serialLo => Config.serial.setWidth 64
    | .serialHi => (Config.serial >>> 64).setWidth 64)) s

/-! ## CSAVE and CREST -/

/-- The checks and waits of CSAVE and CREST (R476): the record's address. -/
def recordPlace (b : GReg) (n : Nat) (need : BitVec 12) (a : Acc) : M Nat := do
  let s ← get
  let c := s.rdG b
  let ea := capAddr c
  let _ ← capcheck c ea n need
  stepLocal ea
  let l ← locateM a ea 16
  raiseIf (decide (ea % 0x10000 ≠ 0)) .align ea
  raiseIf l.remote .remote ea
  for i in List.range (n / 16) do
    let l ← locateM a (ea + 16 * i) 16
    raiseIf l.remote .remote (ea + 16 * i)
  holdIf (decide (s.c.out ≠ 0)) .passes
  modify (fun s => (s.drainAll s.cur).arriveWhere s.cur (fun _ => true))
  let s ← get
  holdIf (s.unsent s.cur) .queue
  let busy := fun (sl : JobSlot) => match sl.job.bind s.job? with
    | some j => j.st == .queued || j.st == .running
    | none => false
  holdIf ((mvals s.c.jobs).any busy) .slot
  return ea

def recordLen (spad : Bool) : Nat := if spad then 0x90000 else 0x8100

/-- CSAVE (R466, R476). -/
def execCsave (d b : GReg) (spad : Bool) (s : State) : Host.Outcome State Fault Refusal :=
  run (do
    let n := recordLen spad
    privileged
    let ea ← recordPlace b n permW .store
    modify (·.awaitProducers)
    let s ← get
    let token := 2 * s.ham.blobs.length
    let bs := s.coreRecord s.cur 0 token spad
    set { s with ham := { s.ham with blobs := s.ham.blobs ++ [(token, s.c)] } }
    storeRecord ea bs
    modify (·.block 0x640)
    setI d 0) s

/-- CREST (R466, R476). (DEDUCED, log entry 38) -/
def execCrest (d b : GReg) (spad : Bool) (s : State) : Host.Outcome State Fault Refusal :=
  run (do
    privileged
    let n := recordLen spad
    let ea ← recordPlace b n permR .load
    let bs ← readBlock ea n
    formatIf (if field bs 8 8 = 0xA1 then none else some 0) 14
    modify (fun s => (s.awaitProducers.loadRecord s.cur bs spad).block 0x641)
    setI d 0) s

end Sys2Proof.Machine
end

