-- ==== Sys2Proof/Machine/CoreEv.lean ====
section
/-!
DEFINITION. Steps of the cores' own hardware (rows 280 to 296, 339, 340): results, loads, queues, walks, imprecise traps, the
two-way traffic of weaves, deposits and WAITM. A step that is not due changes nothing. Where a step lets a core go on, the
core has the next turn.
-/
namespace Sys2Proof.Machine

/-- An operation of another core. -/
def State.asCore (s : State) (n : Nat) (f : State → State) : State := { f { s with cur := n } with cur := s.cur }

/-- The next turn is a core's. -/
def State.turnOf (s : State) (n : Nat) : State := { s with turns := .core n :: s.turns }

/-- RESULT_WRITE (R44, R47): results that are due are written and their tokens drop. -/
def execResultWrite (core idx : Nat) (s : State) : Host.Outcome State Fault Refusal :=
  .next (match (s.getC core).prods[idx]? with
    | some p => if p.due ≤ s.cycle then s.updC core (·.settle s.cycle) else s
    | none => s)

/-- LOAD_SECTOR_ARRIVAL (R48, R194). -/
def execLoadSectorArrival (core idx sector : Nat) (s : State) : Host.Outcome State Fault Refusal :=
  .next (s.arrive core idx sector)

/-- STORE_QUEUE_DRAIN (R191, R201): entry `idx` is performed at its home, if it may leave the queue. -/
def execStoreQueueDrain (core idx : Nat) (s : State) : Host.Outcome State Fault Refusal := .next (s.drain core idx)

/-- STACK_SPILL (R149). -/
def execStackSpill (core : Nat) (s : State) : Host.Outcome State Fault Refusal := .next (s.spillOne core)

/-- WALK_COMPLETE (R175): a walk of the core's context installs what it found. -/
def execWalkComplete (core va : Nat) (s : State) : Host.Outcome State Fault Refusal :=
  .next (s.xlate (corePlaces core) (s.getC core).ctx va {}).2

/-- SCRUB (R183): corrects what ECC corrects; no value any observer reads changes (R181). -/
def execScrub (_die : Nat) (s : State) : Host.Outcome State Fault Refusal := .next s

/-- IMPRECISE_TRAP_DELIVERY (R456). -/
def execImpreciseTrapDelivery (core : Nat) (s : State) : Host.Outcome State Fault Refusal :=
  .next (
    let c := s.getC core
    if c.tr.pend && !c.tr.exl && c.run == .running && !c.parked && !c.committed then s.asCore core State.deliver else s)

/-! ## Weaves -/

/-- ITEM (R131): a member that has an item has its turn. -/
def execItem (core : Nat) (s : State) : Host.Outcome State Fault Refusal :=
  .next (if (s.getC core).subscribed && !(s.getC core).w.stream.isEmpty then s.turnOf core else s)

/-- Whether a member stalls (R132): it waits, runs its handler, or may not issue yet. -/
def Core.stalls (c : Core) (now : Nat) : Bool := c.wait.isSome || c.w.handler.isSome || decide (now < c.readyAt)

/-- WEAVE_HOLD (R132). -/
def execWeaveHold (core : Nat) (s : State) : Host.Outcome State Fault Refusal :=
  .next (
    let c := s.getC core
    if c.w.st = .member ∧ c.stalls s.cycle ∧ (s.getC c.w.pub).w.followers.any (fun f => f.2 == core) then
      s.updC c.w.pub (fun p => { p with w := { p.w with holds := nins core p.w.holds } })
    else s)

/-- WEAVE_RELEASE (R132). -/
def execWeaveRelease (core : Nat) (s : State) : Host.Outcome State Fault Refusal :=
  .next (
    let c := s.getC core
    if (c.w.st = .member ∨ c.w.st = .dormant) ∧ c.wait.isNone ∧ c.w.handler.isNone then
      s.updC c.w.pub (fun p => { p with w := { p.w with holds := ndel core p.w.holds } })
    else s)

/-- REGISTRATION_ARRIVAL (R138). -/
def execRegistrationArrival (core : Nat) (s : State) : Host.Outcome State Fault Refusal := .next (s.arriveReg core)

/-- RDV_TIMEOUT (R139): a core WAITING too long is DETACHED and takes TIMEOUT at its next word; a publisher held too long at
an RDVH takes TIMEOUT there. -/
def execRdvTimeout (core : Nat) (s : State) : Host.Outcome State Fault Refusal :=
  .next (
    let c := s.getC core
    let trap := fun (s : State) (tag : BitVec 4) => s.takeTrap {
      cause := Cause.timeout.code, epc := s.c.pc, eword := (s.c.rewriteQ.head?).getD (s.istoreWord s.cur s.c.pc.toNat), einfo := tag.setWidth 64, eseq := s.c.ringHead }
    if c.rdvto = 0 ∨ c.run ≠ .running then s
    else if c.w.st = .waiting ∧ c.w.handler.isNone ∧ c.w.since + c.rdvto.toNat < s.cycle then
      s.asCore core (fun s => trap (s.detach core) c.w.waitTag)
    else match c.w.rdvh, c.wait with
      | some (tag, _), some .members =>
        if c.w.since + c.rdvto.toNat < s.cycle then s.asCore core (fun s => trap s tag) else s
      | _, _ => s)

/-- COLLECTIVE_ARRIVAL (R308): a core that waits at a collective looks at what has arrived. -/
def execCollectiveArrival (core : Nat) (s : State) : Host.Outcome State Fault Refusal :=
  .next (if (s.getC core).wait = some .members then s.turnOf core else s)

/-! ## Deposits and watched memory -/

/-- DEPOSIT_ARRIVAL (R231): the oldest deposit in a core's queue reaches its target, if nothing keeps it. -/
def execDepositArrival (core : Nat) (s : State) : Host.Outcome State Fault Refusal :=
  .next (
    let sq := (s.getC core).sq
    match (List.range sq.length).find? (fun i => match sq[i]? with
        | some e => (match e.op with | .deposit _ _ _ _ _ _ => true | _ => false)
        | none => false) with
    | some i => s.drain core i
    | none => s)

/-- ASYNC_DEPOSIT_APPLY (R232, R234). -/
def execAsyncDepositApply (core port : Nat) (s : State) : Host.Outcome State Fault Refusal :=
  .next (if port < 8 then s.applyAsync core port else s)

/-- WAITM_WAKE (R227): the core reads its watched value again. -/
def execWaitmWake (core : Nat) (s : State) : Host.Outcome State Fault Refusal :=
  .next (match (s.getC core).wait with | some (.memory _ _) => s.turnOf core | _ => s)

/-- WAITM_POLL (R227): at the latest every 256 cycles. -/
def execWaitmPoll (core : Nat) (s : State) : Host.Outcome State Fault Refusal :=
  .next (match (s.getC core).wait with
    | some (.memory _ _) => if (s.getC core).since + 256 ≤ s.cycle then s.turnOf core else s
    | _ => s)

/-! ## The Husk's own steps -/

/-- HUSK_SWITCH (R494): a core that runs no task switches at once. -/
def execHuskSwitch (core : Nat) (s : State) : Host.Outcome State Fault Refusal :=
  .next (if core < nCores ∧ (s.getC core).task.isNone then s.huskSwitch core else s)

/-- DELAY_EXPIRY (R481): a delayed word goes on to decode. -/
def execDelayExpiry (core : Nat) (s : State) : Host.Outcome State Fault Refusal :=
  .next (if (s.getC core).delayed && decide ((s.getC core).readyAt ≤ s.cycle) then s.turnOf core else s)

end Sys2Proof.Machine
end

