-- ==== Sys2Proof/Machine/Task.lean ====
section
/-!
DEFINITION. The TASK group (R417 to R428).
-/
namespace Sys2Proof.Machine

/-- The executing core's task and its launch. -/
def State.myTask (s : State) : Option Task := s.c.task.bind s.task?
def State.myLaunch (s : State) : Option Launch := s.myTask.bind (fun t => s.launch? t.lid)

/-! ## Ends, tickets, children, signals -/

/-- TEND (R417): what it waits for, then the end of the core's part. -/
def execTend (s : State) : Host.Outcome State Fault Refusal :=
  runRaw (do
    modify (fun s => ((s.drainAll s.cur).flushStack s.cur).arriveWhere s.cur (fun _ => true))
    let s ← get
    holdIf (s.unsent s.cur) .queue
    holdIf (decide (s.c.out ≠ 0)) .passes
    -- an imprecise trap that is due comes first (R456, R528)
    if s.c.tr.pend && !s.c.tr.exl then throw .deliver
    set ((s.finish none).endMember s.cur)) s

/-- TTICK (R418). -/
def execTtick (d : GReg) (s : State) : Host.Outcome State Fault Refusal :=
  run (do
    let s ← get
    let die := dieOfCore s.cur
    match s.myTask, s.myLaunch with
    | some t, some l =>
      match (if lpbShape l.lpb ≤ 2 then nextIndex l.ranges ((l.ranges.head?.map (fun r => r.1)).getD die) else claimIndex l.ranges die) with
      | some (i, rs) => do
        set ((s.updL l.lid (fun l => { l with ranges := rs })).updT t.tid (fun t => { t with claims := t.claims ++ [(die, i)] }))
        setI d (BitVec.ofNat 64 i)
      | none => setI d (BitVec.allOnes 64)
    | _, _ => setI d (BitVec.allOnes 64)
    modify (·.block 0x700)) s

/-- Bytes 0 to 15 and 24 to 127 of an LPB, by which offers merge (R410). -/
def offerKey (b : List Byte) : List Byte := b.take 16 ++ b.drop 24

/-- An offer to a die's aggregator (R410): it joins a window of 256 cycles, or opens one. It counts in its scope at once. -/
def State.offer (s : State) (die : Nat) (lpb : List Byte) (ptr : Word) : State :=
  let same := fun (o : Offer) => o.die == die && offerKey o.lpb == offerKey lpb && decide (o.ptrs.length < 4096) &&
    decide (s.cycle ≤ o.opened + 256)
  let offers :=
    if s.ham.offers.any same then s.ham.offers.map (fun (o : Offer) => if same o then { o with ptrs := o.ptrs ++ [ptr] } else o)
    else s.ham.offers ++ [{ die := die, lpb := lpb, ptrs := [ptr], opened := s.cycle }]
  ({ s with ham := { s.ham with offers := offers } }).scopeAdd (lpbCtx lpb) (lpbScope lpb)

/-- TSPAWN (R410, R419). -/
def execTspawn (d a b : GReg) (s : State) : Host.Outcome State Fault Refusal :=
  run (do
    let s ← get
    let c := s.rdG b
    let ea := capAddr c
    let _ ← capcheck c ea 128 permR
    stepLocal ea
    let _ ← locateM .load ea 16
    raiseIf (decide (ea % 16 ≠ 0)) .align ea
    let lpb ← readBlock ea 128
    formatIf (lpbBad lpb) 10
    formatIf (if lpbIndirect lpb then some 5 else none) 10
    let s ← get
    let die := dieOfCore s.cur
    if 4096 ≤ (s.ham.offers.filter (fun o => o.die == die)).length then setI d 1
    else do
      set (s.offer die lpb (s.rdI a))
      setI d 0
    modify (·.block 0x701)) s

/-- The record TSIG sets a bit of: in a weave the member's own, otherwise the task's (R409, R428). (DEDUCED, log entry 71) -/
def Core.signalRecord (c : Core) : Nat :=
  match c.w.st with
  | .publisher | .member => c.member + 1
  | _ => 0
/-- Whether a task's record holds an edge's signal, and the signal added (R409). -/
def Task.signalled (t : Task) (r e : Nat) : Bool := (mget 0 t.signals r).getLsbD e
def Task.signal (t : Task) (r e : Nat) : Task :=
  { t with signals := mput 0 t.signals r (mget 0 t.signals r ||| BitVec.ofNat 64 (2 ^ e)) }

/-- TSIG (R409, R420, R428): once per record and edge. -/
def execTsig (d : GReg) (e : BitVec 6) (s : State) : Host.Outcome State Fault Refusal :=
  run (do
    let s ← get
    match s.myTask, s.myLaunch with
    | some t, some l =>
      match s.edgeNode l e.toNat with
      | (none, s) => do
        set s
        setI d 2
      | (some n, s) => do
        set s
        let r := s.c.signalRecord
        if t.signalled r e.toNat then setI d 0
        else do
          releaseM .pkg
          modify (fun s => (s.updT t.tid (fun t => t.signal r e.toNat)).signalNode t.ctx n)
          setI d 1
    | _, _ => setI d 2
    modify (·.block 0x702)) s

/-! ## Finish scopes (R421) -/

def scopeOver : ScopeSt → Bool
  | .done | .failed | .cancelled => true
  | _ => false

/-- FOPEN: a finished scope becomes FREE first. -/
def execFopen (d a b : GReg) (s : State) : Host.Outcome State Fault Refusal :=
  run (do
    let s ← get
    let n := (s.rdI a).toNat % 256
    let p := (s.rdI b).toNat % 256
    if p = 0xFF ∧ !s.c.sys then raise .priv s.openInfo.toNat
    let ctx := s.c.ctx
    let f := s.getScope ctx n
    if f.st ≠ .free ∧ !scopeOver f.st then setI d 1
    else do
      let s := s.setScope ctx n {}
      if p ≠ 0xFF ∧ (s.getScope ctx p).st ≠ .opened then do
        set s
        setI d 2
      else do
        let s := if p = 0xFF then s else s.scopeAdd ctx p
        set (s.setScope ctx n { parent := p, st := .opened })
        setI d 0
    modify (·.block 0x703)) s

/-- FCLOSE. -/
def execFclose (d a : GReg) (s : State) : Host.Outcome State Fault Refusal :=
  run (do
    let s ← get
    let n := (s.rdI a).toNat % 256
    let f := s.getScope s.c.ctx n
    if f.st = .opened then do
      set ((s.setScope s.c.ctx n { f with st := .closed }).settleScope s.c.ctx n 257)
      setI d 0
    else setI d 1
    modify (·.block 0x704)) s

/-- FWAIT: SELF when the waiting task counts in the scope or below it. -/
def execFwait (d a : GReg) (s : State) : Host.Outcome State Fault Refusal :=
  run (do
    let s ← get
    let ctx := s.c.ctx
    let n := (s.rdI a).toNat % 256
    let f := s.getScope ctx n
    if s.c.task.isSome && s.scopeUnder ctx n 257 (s.c.fscope.toNat % 256) then setI d 7
    else
      match ← wokenFrom (.scope ctx n) with
      | some x => do
        acquireOpt (some .pkg)
        setI d x
      | none =>
        if scopeOver f.st then do
          acquireOpt (some .pkg)
          setI d f.word
          modify (·.block 0x705)
        else holdOn (.scope ctx n)) s

/-- FCAN. -/
def execFcan (d a : GReg) (s : State) : Host.Outcome State Fault Refusal :=
  run (do
    let s ← get
    let n := (s.rdI a).toNat % 256
    if (s.getScope s.c.ctx n).st = .free then setI d 1
    else do
      set (s.cancelScope s.c.ctx n)
      setI d 0
    modify (·.block 0x706)) s

/-! ## Record queues (R411 to R415, R422 to R426) -/

/-- A memory range within a grant, as the queue's ranges must lie (R411). -/
def rangeIn (e : Grant) (lo n : Nat) : M Unit :=
  raiseIf (decide (0 < n) && (decide (lo < e.base) || decide (e.base + e.len < lo + n))) .bounds lo

/-- The queue a capability names (R411): the checks of the queue words, and its key once active. -/
def queueOpen (b : GReg) : M (Nat × QDesc) := do
  let s ← get
  let c := s.rdG b
  let ea := capAddr c
  let e ← capcheck c ea 128 permQ
  stepLocalPost
  raiseIf (regionOf ea != some .translated) .xlate ((⟨if (regionOf ea).isNone then 1 else 4, 0⟩ : XFail).einfo ea)
  let l ← locateM .load ea 64
  raiseIf l.host .xlate ((⟨4, 0⟩ : XFail).einfo ea)
  raiseIf (decide (ea % 64 ≠ 0)) .align ea
  let _ ← locateM .load (ea + 64) 64
  let s ← get
  match s.ctxRead s.c.ctx ea 128 with
  | (.error f, _) => raise f.1 f.2.1
  | (.ok bs, s) => do
    let bs := s.descNow l.key bs
    let d := qdescOf bs
    let live := qliveOf bs
    formatIf (qdescBad d live bs) 11
    rangeIn e d.ring (d.cap * d.recSize)
    rangeIn e live.ovfBase (live.ovfCap * d.recSize)
    rangeIn e d.tmpl (if d.tmpl = 0 then 0 else 128)
    let (k, s) := s.activate s.c.ctx ea l.key bs
    set s
    return (k, d)

/-- The record a queue word reads through gA (R423, R424). -/
def queueRecord (a : GReg) (d : QDesc) : M (List Byte) := do
  let c := (← get).rdG a
  let _ ← access c (capAddr c) d.recSize permR .load
  readBlock (capAddr c) d.recSize

def badTicket : Word := 0xFFFFFFFFFFFFFFFD

/-- Senders of an active queue. -/
def State.senders (s : State) (k : Nat) : Nat := match s.queue? k with | some q => q.live.senders | none => 0

/-- QRES with n = 0 (R412): the sender's remaining slots go to the pool, in offset order. -/
def RQueue.giveBack (q : RQueue) (t snd : Nat) : RQueue :=
  let h := q.live.hdrs.getD snd (0, 0)
  { q with
    live := { q.live with hdrs := q.live.hdrs.set snd (h.1, 0) }
    blocks := q.blocks.map (fun (b : Block) => if b.st = .opened then
      { b with freed := (List.range t).filter (fun o => b.freed.contains o || (decide (h.1 ≤ o) && decide (o < h.1 + h.2))) } else b) }

/-- QRES (R422). -/
def execQres (d b : GReg) (snd : BitVec 4) (claim : Bool) (s : State) : Host.Outcome State Fault Refusal :=
  run (do
    let (k, ds) ← queueOpen b
    let s ← get
    if ds.launchq ∨ s.senders k ≤ snd.toNat then setI d badTicket
    else if claim then
      match s.claimOn k (claimant s.c.ctx snd.toNat) with
      | (.full, s) => do
        set s
        setI d (BitVec.allOnes 64)
      | (.ovf i, s) => do
        set s
        setI d (BitVec.ofNat 64 (0xFFFFFFFF * 2 ^ 32 + i % 2 ^ 32))
      | (.slot no off, s) => do
        set s
        setI d (match (s.queue? k).bind (fun q => q.blocks.find? (fun x => x.no == no)) with
          | some x => BitVec.ofNat 64 (x.batch.toNat * 2 ^ 32 + slotNo ds x off)
          | none => badTicket)
    else do
      set ((match s.queue? k with
        | some q => s.setQueue k (q.giveBack ds.t snd.toNat)
        | none => s).settleQueue k)
      setI d 0
    modify (·.block 0x707)) s

/-- The open claim of a context that a ticket names: a slot of a block, or an overflow index (R423). -/
def RQueue.ticket (q : RQueue) (d : QDesc) (ctx batch idx : Nat) : Option Claim :=
  if batch = 0xFFFFFFFF then
    (q.ovf.find? (fun (x : Nat × Nat × Bool) => x.1 % 2 ^ 32 == idx && contextOf x.2.1 == ctx && !x.2.2)).map (fun (x : Nat × Nat × Bool) => Claim.ovf x.1)
  else
    q.blocks.findSome? (fun (x : Block) => if x.batch.toNat = batch ∧ x.st ≠ .closed then
      (x.claims.find? (fun (c : Nat × Nat × Bool) => slotNo d x c.1 == idx && contextOf c.2.1 == ctx && !c.2.2)).map (fun (c : Nat × Nat × Bool) => Claim.slot x.no c.1)
    else none)

/-- QCMT (R413, R423). -/
def execQcmt (d a b : GReg) (s : State) : Host.Outcome State Fault Refusal :=
  run (do
    let (k, ds) ← queueOpen b
    let rec' ← queueRecord a ds
    let s ← get
    let tk := (s.rdI d).toNat
    match s.queue? k with
    | none => setI d 2
    | some q =>
      match q.ticket ds s.c.ctx (tk / 2 ^ 32) (tk % 2 ^ 32) with
      | some c => do
        set (s.commitOn k c rec')
        setI d 0
      | none =>
        match q.lates.find? (fun (x : BitVec 32 × Nat × Nat) =>
            x.1.toNat == tk / 2 ^ 32 && x.2.1 == tk % 2 ^ 32 && contextOf x.2.2 == s.c.ctx) with
        | none => setI d 2
        | some late =>
          match s.claimOn k late.2.2 with
          | (.full, _) => holdOn .queue
          | (c, s) => do
            let s := s.noteLate k c
            let s := match s.queue? k with
              | some q => s.setQueue k { q with lates := q.lates.erase late }
              | none => s
            set (s.commitOn k c rec')
            setI d 1
    modify (·.block 0x708)) s

/-- DEADLOCK for a core that QUEUE_DEADLOCK has woken (R414). -/
def deadlockM : M Unit := do
  match ← wokenFrom .enq with
  | some _ => do
    let s ← get
    raise .deadlock s.openInfo.toNat
  | none => pure ()

/-- QENQ (R397, R424). -/
def execQenq (d a b : GReg) (snd : BitVec 4) (w : Bool) (s : State) : Host.Outcome State Fault Refusal :=
  run (do
    deadlockM
    let (k, ds) ← queueOpen b
    let rec' ← queueRecord a ds
    let s ← get
    match s.queue? k with
    | none => setI d 3
    | some q =>
      if ds.launchq then
        if ds.hostq then setI d 3
        else if ds.cap ≤ (q.live.tail + 2 ^ 32 - q.live.head) % 2 ^ 32 then
          (if w then holdOn .enq else setI d 2)
        else do
          let s := s.ctxWrite q.ctx (ds.ring + q.live.tail % ds.cap * ds.recSize) rec'
          set ((s.setQueue k { q with live := { q.live with tail := (q.live.tail + 1) % 2 ^ 32 } }).syncQueue k)
          setI d 0
      else if q.live.senders ≤ snd.toNat then setI d 3
      else
        match s.claimOn k (claimant s.c.ctx snd.toNat) with
        | (.full, s) => do
          set s
          if w then holdOn .enq else setI d 2
        | (c, s) => do
          set (s.commitOn k c rec')
          setI d 0
    modify (·.block 0x709)) s

/-- The block at the head, when it is closed, and the oldest closed block not yet released (R425). -/
def RQueue.headBlock (q : RQueue) : Option Block :=
  match q.blocks with
  | b :: _ => if b.st = .closed then some b else none
  | [] => none
def RQueue.oldestClosed (q : RQueue) : Option Block := q.blocks.find? (fun b => b.st == .closed && !b.released)

/-- The head record of queue `q` is taken: HEAD advances, and with its last record the head block is released (R425). -/
def State.takeRecord (s : State) (k : Nat) (q : RQueue) (ds : QDesc) (x : Block) : State :=
  let head := (q.live.head + 1) % 2 ^ 32
  let s := (s.setQueue k { q with live := { q.live with head := head } }).updX q.ctx (fun y => { y with deqAt := s.cycle })
  if head = (x.no + 1) * ds.t % 2 ^ 32 then s.releaseBlock k x.batch else s.syncQueue k

/-- Where QDEQ copies a record to: any address the capability lets it write (R425). -/
def copyPlace (c : TReg) (n : Nat) : M Unit := do
  let ea := capAddr c
  let _ ← capcheck c ea n permW
  stepLocal ea
  (granParts ea n).forM (fun p => do
    let l ← locateM .store p.1 p.2
    raiseIf l.remote .remote p.1)

/-- QDEQ (R425). -/
def execQdeq (d b : GReg) (form : DeqForm) (s : State) : Host.Outcome State Fault Refusal :=
  run (do
    let (k, ds) ← queueOpen b
    let c ← match form with
      | .plain a => do
        let c := (← get).rdG a
        copyPlace c ds.recSize
        pure c
      | .block => pure TReg0
    let s ← get
    match s.queue? k with
    | none => setI d 3
    | some q =>
      if ds.launchq ∨ ds.tmpl ≠ 0 then setI d 3
      else
        match form with
        | .block => match q.oldestClosed with
          | none => setI d (BitVec.allOnes 64)
          | some x => do
            set (s.releaseBlock k x.batch)
            setI d (x.batch.setWidth 64)
        | .plain _ => match q.headBlock with
        | none => setI d 1
        | some x => do
          match s.ctxBytes q.ctx (ds.ring + q.live.head % ds.cap * ds.recSize) ds.recSize with
          | (none, _) => setI d 1
          | (some bs, s) => do
            set s
            roomFor (granParts (capAddr c) ds.recSize).length
            storeParts (capAddr c) bs
            modify (fun s => s.takeRecord k q ds x)
            setI d 0
    modify (·.block 0x70A)) s

/-- A flush marks the blocks it is to close: at its start all that are open or claimed, later those a late record has
entered (R426). -/
def RQueue.markFlush (q : RQueue) (now : Nat) (first : Bool) : RQueue :=
  { q with
    flushed := if first && q.blocks.all (fun b => b.flushAt.isNone) then 0 else q.flushed
    blocks := q.blocks.map (fun (b : Block) =>
      if b.st ≠ .closed ∧ b.flushAt.isNone ∧ (first ∨ b.lateIn) then { b with flushAt := some now } else b) }

/-- Marked blocks whose claims are all committed, or that have waited CTO cycles, close (R413, R426). -/
def State.flushBlocks (s : State) (k : Nat) : State :=
  match s.queue? k with
  | none => s
  | some q =>
    (q.blocks.filter (fun (b : Block) => b.st != .closed && (match b.flushAt with
      | some t => b.claims.all (fun c => c.2.2) || decide (t + (s.getX q.ctx).ccb.cto ≤ s.cycle)
      | none => false))).foldl (fun s b => s.closeBlock k b.no) s

/-- One turn of a flush: the blocks marked, those that can be closed, and what the close lets go on (R426). -/
def State.flushTurn (s : State) (k : Nat) (first : Bool) : State :=
  let s := match s.queue? k with
    | some q => s.setQueue k (q.markFlush s.cycle first)
    | none => s
  (s.flushBlocks k).settleQueue k

/-- QFLUSH (R426). (DEDUCED, log entry 35) -/
def execQflush (d b : GReg) (s : State) : Host.Outcome State Fault Refusal :=
  run (do
    deadlockM
    let (k, ds) ← queueOpen b
    let first := decide ((← get).c.wait ≠ some .enq)
    if first then releaseM .pkg
    -- a launch queue has no blocks: there is nothing to close
    if !ds.launchq then modify (·.flushTurn k first)
    let s ← get
    match s.queue? k with
    | none => setI d 0
    | some q => do
      holdIf (q.blocks.any (fun x => x.st != .closed && (x.flushAt.isSome || x.lateIn)) || !q.ovf.isEmpty) .enq
      if ds.node ≠ 0xFF then modify (·.signalNode q.ctx ds.node)
      setI d (BitVec.ofNat 64 q.flushed)) s

/-! ## TYIELD -/

/-- TYIELD (R427): the result is written before the task is saved. A step task is not saved here in mid-step (R441). -/
def execTyield (d : GReg) (s : State) : Host.Outcome State Fault Refusal :=
  match s.myTask, s.myLaunch with
  | some t, some l =>
    if t.mayYield && (s.tasksWait t.ctx l.level || s.ham.saved.any (fun v => v.tid != t.tid && s.savedReady v &&
        (match s.task? v.tid with
         | some u => u.ctx == t.ctx && (match s.launch? u.lid with | some m => decide (l.level ≤ m.level) | none => false)
         | none => false)))
    then
      let live := (t.mem.filter (fun m => m.2.2)).map (fun m => m.2.1)
      let s := live.foldl (fun s n => s.settleForSave n) s
      if (live.filter (fun n => n != s.cur)).all (s.canSave false) && s.c.sq.isEmpty && decide (s.c.out = 0) then
        .next (((s.wrI d 1 1).finish none).stash t.tid false true none)
      else .next (s.holdAt .yield)
    else run (setI d 0) s
  | _, _ => run (setI d 0) s

end Sys2Proof.Machine
end

