-- ==== Sys2Proof/Machine/Ham.lean ====
section
/-!
DEFINITION. Steps of the Hamper (R228, R229, R397 to R416): launch queues and code loads, dispatch, placement, deadlines of
blocks, windows and waits.
-/
namespace Sys2Proof.Machine

/-! ## Launch queues (R397, R400) -/

/-- Every core without a task receives what waits for a task boundary (R400, R494). -/
def State.idleBoundary (s : State) : State :=
  (List.range nCores).foldl (fun s n => if (s.getC n).task.isNone && (s.getC n).run != .halted then s.boundary n else s) s

/-- The first bad field of a code-load entry (R400): words beyond 3,583 are reported at offset 10. -/
def codeBad (b : List Byte) : Option Nat :=
  if field b 0 8 % 8 ≠ 0 then some 0
  else if 3584 < field b 10 2 + field b 12 2 ∨ 3583 < field b 10 2 then some 10
  else if field b 12 2 = 0 then some 12
  else nonzeroIn b 14 126

/-- Words of a code load, page by page, until a read fails: what was read, and the cause, detail and faulting address of the
failure. -/
def State.codeWords (s : State) (ctx va n : Nat) : (List Byte × Option (Cause × Nat × Nat)) × State :=
  (List.range (if n = 0 then 0 else (va + n - 1) / 0x10000 - va / 0x10000 + 1)).foldl
    (fun (acc : (List Byte × Option (Cause × Nat × Nat)) × State) i =>
      match acc.1.2 with
      | some _ => acc
      | none =>
        let lo := max va ((va / 0x10000 + i) * 0x10000)
        let hi := min (va + n) ((va / 0x10000 + i + 1) * 0x10000)
        match acc.2.xlate [.hub] ctx lo { r := true, x := true } with
        | (.error f, s) => ((acc.1.1, some (.xlate, f.einfo lo, lo)), s)
        | (.ok pa, s) =>
          match (List.range ((hi - lo) / 8)).find? (fun j => s.poisoned (pa + 8 * j) 8) with
            | some j => ((acc.1.1 ++ readBytes s.mem pa (8 * j), some (.mcheck, s.mcheckInfo (pa + 8 * j) (lo + 8 * j), lo + 8 * j)), s)
            | none => match s.physRead pa (hi - lo) with
              | some (b, s) => ((acc.1.1 ++ b, none), s)
              | none => ((acc.1.1, some (.remote, lo, lo)), s)) (([], none), s)

/-- Little-endian words of bytes. -/
def wordsOf (b : List Byte) : List Word := (List.range (b.length / 8)).map (fun i => BitVec.ofNat 64 (field b (8 * i) 8))

/-- Why a grant does not allow an access to a range (R102), as cause, detail and faulting address: none where it does. -/
def State.grantFault (s : State) (ctx gid lo n : Nat) (need : BitVec 12) : Option (Cause × Nat × Nat) × State :=
  if 2 ^ (s.getX ctx).log2n ≤ gid then (some (.stalegrant, gid, lo), s)
  else match s.grantInMem [.hub] ctx gid with
    | (.error f, s) => (some (f.1, f.2, (s.getX ctx).grantVa gid), s)
    | (.ok e, s) =>
      (if !e.valid then some (.stalegrant, gid, lo)
       else if need &&& ~~~e.perm ≠ 0 then some (.perm, lo, lo)
       else if lo < e.base ∨ e.base + e.len < lo + n then some (Cause.bounds, lo, lo)
       else none, s)

/-- A code load taken from a queue (R400). -/
def State.takeCode (s : State) (k ctx : Nat) (b : List Byte) : State :=
  match codeBad b with
  | some off => s.formatRecord ctx 15 off
  | none =>
    let va := field b 0 8
    let n := 8 * field b 12 2
    let (f, s) := s.grantFault ctx (field b 8 2) va n (permE ||| permI)
    let (r, s) := match f with
      | some f => (([], some f), s)
      | none => s.codeWords ctx va n
    let s := match r.2 with
      | some f => s.faultRecord ctx (record 0 f.1.code 0xFF 0 0 0 f.2.2 f.2.1)
      | none => s
    let l : CodeLoad := { queue := k, ctx := ctx, order := s.ham.nextLid, first := field b 10 2, words := wordsOf r.1, done := [] }
    ({ s with ham := { s.ham with loads := s.ham.loads ++ [l] } }).idleBoundary

/-- LAUNCH_TAKE (R397): the record at the head, and the head advances. -/
def execLaunchTake (ctx queue : Nat) (s : State) : Host.Outcome State Fault Refusal :=
  .next (
    let x := s.getX ctx
    if x.ccb.lqCount ≤ queue then s
    else
      let ea := x.ccb.lqAddr + 128 * queue
      match s.ctxBytes ctx ea 128 with
      | (none, s) => s
      | (some b, s) =>
        let (home, s) := s.queueHome ctx ea
        let b := s.descNow home b
        let d := qdescOf b
        if !d.launchq || (qdescBad d (qliveOf b) b).isSome then s
        else
          let (k, s) := s.activate ctx ea home b
          match s.queue? k with
          | none => s
          | some q =>
            let live := if d.hostq then { q.live with tail := field b 20 4 } else q.live
            if live.head = live.tail then s
            else match s.ctxBytes ctx (d.ring + live.head % d.cap * 128) 128 with
              | (none, s) => s
              | (some r, s) =>
                let s := (s.setQueue k { q with live := { live with head := (live.head + 1) % 2 ^ 32 } }).syncQueue k
                if byteAt r 127 = 1 then s.takeCode k ctx r
                else match lpbBad r with
                  | some off => s.badLpb ctx r off
                  | none => s.addLaunch r (some k) d.hostq none)

/-- LAUNCH_DISPATCH (R401). -/
def execLaunchDispatch (lid : Nat) (s : State) : Host.Outcome State Fault Refusal := .next (s.dispatch lid)

/-- AGE_PROMOTION (R402). -/
def execAgePromotion (lid : Nat) (s : State) : Host.Outcome State Fault Refusal :=
  .next (match s.launch? lid with
    | none => s
    | some l =>
      if l.left ∧ l.level < 15 ∧ l.since + (s.getX l.ctx).ccb.age ≤ s.cycle then
        s.updL lid (fun l => { l with level := l.level + 1, since := s.cycle })
      else s)

/-! ## Placement -/

/-- The placement of a launch's next task parks until the host answers: RETRY asks again, any other answer goes on as in the hardware
mode, which has no fault for it (R469, R470). (DESIGN CHOICE, log entry 40) -/
def State.parkPlace (s : State) (l : Launch) : State :=
  -- the manual names no cause, address or detail for this record: log entry 4
  let t := (s.park (.place l.lid) l.ctx 1 ((s.free 0x6A0).setWidth 8) (s.free 0x6A1).toNat (s.free 0x6A2).toNat).2
  t.updL l.lid (fun l => { l with asked := some false })

/-- TASK_START (R402 to R404, R461): the next task of the launch that is next, on cores it may take; saved tasks that are
ready come first (R229). -/
def execTaskStart (lid : Nat) (cores : List Nat) (s : State) : Host.Outcome State Fault Refusal :=
  .next (match s.launch? lid with
    | none => s
    | some l =>
      if l.left && (s.getX l.ctx).serves && (s.firstReady l.ctx).isNone && (l.claim == [] || l.claim == cores)
          && s.isNext l && s.placeOk l cores then
        if s.assisted l.ctx 1 && l.asked.isNone then s.parkPlace l
        else if l.asked == some false then s
        else match l.take (dieOfCore (cores.headD 0)) with
        | none => s
        | some (x, l) => s.startOnCores l x cores
      else s)

/-- RANGE_STEAL (R403): PKG and ANY launches only have ranges on several dies. -/
def execRangeSteal (lid die : Nat) (s : State) : Host.Outcome State Fault Refusal :=
  .next (match s.launch? lid with
    | none => s
    | some l => if l.st = .ready ∧ 3 ≤ lpbShape l.lpb ∧ die < 4 then s.updL lid (fun l => { l with ranges := stealRange l.ranges die }) else s)

/-- PLACEMENT_CLAIM (R402). -/
def execPlacementClaim (lid : Nat) (cores : List Nat) (s : State) : Host.Outcome State Fault Refusal :=
  .next (match s.launch? lid with
    | none => s
    | some l =>
      if l.left && (s.getX l.ctx).serves && decide (1 < lpbWidth l.lpb) && l.claim == []
          && decide (l.placeAt + (s.getX l.ctx).ccb.age < s.cycle)
          && decide (cores.length = lpbWidth l.lpb) && decide cores.Nodup && oneUnit (lpbShape l.lpb) cores
          && cores.all (fun n => decide (n < nCores) && (s.getC n).run != .halted && s.unclaimed lid n)
          && l.offers (dieOfCore (cores.headD 0)) && (!lpbWoven l.lpb || s.wovenFits cores)
      then s.updL lid (fun l => { l with claim := cores }) else s)

/-- SAVED_TASK_RESTORE (R229). -/
def execSavedTaskRestore (idx : Nat) (cores : List Nat) (s : State) : Host.Outcome State Fault Refusal :=
  .next (s.restoreSaved idx cores)

/-- WAITM_YIELD (R228): the task of a core that has slept in one WAITM for YIELDT cycles is saved while another waits, but a
step task not in mid-step (R441). -/
def execWaitmYield (core : Nat) (s : State) : Host.Outcome State Fault Refusal :=
  .next (
    let c := s.getC core
    match c.wait, c.task with
    | some (.memory key _), some tid =>
      let other := s.tasksWait c.ctx 0 || s.ham.saved.any (fun v => s.savedReady v &&
        (match s.task? v.tid with | some u => u.ctx == c.ctx | none => false))
      if core < nCores ∧ c.since + (s.getX c.ctx).ccb.yieldt ≤ s.cycle ∧ other ∧ (s.task? tid).any (·.mayYield) then s.stash tid false false (some (key / 16)) else s
    | _, _ => s)

/-! ## Deadlines -/

/-- CANCEL_DEADLINE (R407). -/
def execCancelDeadline (tid : Nat) (s : State) : Host.Outcome State Fault Refusal :=
  .next (match s.task? tid with
    | some t => match t.canAt with
      | some at' => if at' + (s.getX t.ctx).ccb.cancelDl ≤ s.cycle then s.killTask tid none Cause.cancel.code true else s
      | none => s
    | none => s)

/-- SPAWN_WINDOW_EXPIRY (R410): the `idx`-th window of a die closes. The table of pointers stays in the launch, for the spec gives
it no address. (DESIGN CHOICE, log entry 70) -/
def execSpawnWindowExpiry (die idx : Nat) (s : State) : Host.Outcome State Fault Refusal :=
  .next (match (s.ham.offers.filter (fun o => o.die == die))[idx]? with
    | none => s
    | some o =>
      if o.opened + 256 ≤ s.cycle ∨ 4096 ≤ o.ptrs.length then
        ({ s with ham := { s.ham with offers := s.ham.offers.erase o } }).newLaunch o.lpb none false o.ptrs o.ptrs.length none (some die)
      else s)

/-- Whether a block's flush timer has run out, by some cycles more (R413). -/
def RQueue.expired (q : RQueue) (b : Block) (now more : Nat) : Bool :=
  b.st != .closed && (match b.timer with
    | some t => decide (q.live.timer ≠ 0) && decide (t + q.live.timer + more ≤ now)
    | none => false)

/-- A block of a queue closes when a condition on it holds. -/
def State.closeWhen (s : State) (k no : Nat) (p : RQueue → Block → Bool) : State :=
  match s.queue? k with
  | none => s
  | some q =>
    match q.blocks.find? (fun b => b.no == no) with
    | none => s
    | some b => if p q b then (s.closeBlock k no).settleQueue k else s

/-- FLUSH_TIMER_EXPIRY (R413): the block closes if no claimed slot is uncommitted. -/
def execFlushTimerExpiry (queue block : Nat) (s : State) : Host.Outcome State Fault Refusal :=
  .next (s.closeWhen queue block (fun q b => q.expired b s.cycle 0 && b.claims.all (fun c => c.2.2)))

/-- COMMIT_TIMEOUT (R413): CTO cycles after the flush timer, or after QFLUSH asked. -/
def execCommitTimeout (queue block : Nat) (s : State) : Host.Outcome State Fault Refusal :=
  .next (s.closeWhen queue block (fun q b =>
    let cto := (s.getX q.ctx).ccb.cto
    q.expired b s.cycle cto || (b.st != .closed && (match b.flushAt with | some t => decide (t + cto ≤ s.cycle) | none => false))))

/-- QUEUE_DEADLOCK (R414): every core running a task of the context has waited DLCYC cycles with no dequeue. -/
def execQueueDeadlock (ctx : Nat) (s : State) : Host.Outcome State Fault Refusal :=
  .next (
    let x := s.getX ctx
    let cs := s.cores.filter (fun e => decide (e.1 < nCores) && e.2.task.isSome && e.2.ctx == ctx)
    let last := cs.foldl (fun n e => max n e.2.since) x.deqAt
    if cs ≠ [] ∧ cs.all (fun e => e.2.wait == some .enq) ∧ last + x.ccb.dlcyc ≤ s.cycle then
      let s := cs.foldl (fun s e => s.updC e.1 (fun c => { c with woken := some 0 })) s
      { s with turns := cs.map (fun e => Turn.core e.1) ++ s.turns }
    else s)

end Sys2Proof.Machine
end

