-- ==== Sys2Proof/Machine/Crypto.lean ====
section
/-!
DEFINITION. The digests and signatures the security processor checks (R489, R541): SHA-512 and ECDSA over P-521. The manual
names the two standards and gives none of their constants: log entry 7.
-/
namespace Sys2Proof.Machine

/-! ## SHA-512 -/

def shaKey0 : List Word := [
  0x428A2F98D728AE22, 0x7137449123EF65CD, 0xB5C0FBCFEC4D3B2F, 0xE9B5DBA58189DBBC,
  0x3956C25BF348B538, 0x59F111F1B605D019, 0x923F82A4AF194F9B, 0xAB1C5ED5DA6D8118,
  0xD807AA98A3030242, 0x12835B0145706FBE, 0x243185BE4EE4B28C, 0x550C7DC3D5FFB4E2,
  0x72BE5D74F27B896F, 0x80DEB1FE3B1696B1, 0x9BDC06A725C71235, 0xC19BF174CF692694,
  0xE49B69C19EF14AD2, 0xEFBE4786384F25E3, 0x0FC19DC68B8CD5B5, 0x240CA1CC77AC9C65]
def shaKey1 : List Word := [
  0x2DE92C6F592B0275, 0x4A7484AA6EA6E483, 0x5CB0A9DCBD41FBD4, 0x76F988DA831153B5,
  0x983E5152EE66DFAB, 0xA831C66D2DB43210, 0xB00327C898FB213F, 0xBF597FC7BEEF0EE4,
  0xC6E00BF33DA88FC2, 0xD5A79147930AA725, 0x06CA6351E003826F, 0x142929670A0E6E70,
  0x27B70A8546D22FFC, 0x2E1B21385C26C926, 0x4D2C6DFC5AC42AED, 0x53380D139D95B3DF,
  0x650A73548BAF63DE, 0x766A0ABB3C77B2A8, 0x81C2C92E47EDAEE6, 0x92722C851482353B]
def shaKey2 : List Word := [
  0xA2BFE8A14CF10364, 0xA81A664BBC423001, 0xC24B8B70D0F89791, 0xC76C51A30654BE30,
  0xD192E819D6EF5218, 0xD69906245565A910, 0xF40E35855771202A, 0x106AA07032BBD1B8,
  0x19A4C116B8D2D0C8, 0x1E376C085141AB53, 0x2748774CDF8EEB99, 0x34B0BCB5E19B48A8,
  0x391C0CB3C5C95A63, 0x4ED8AA4AE3418ACB, 0x5B9CCA4F7763E373, 0x682E6FF3D6B2B8A3,
  0x748F82EE5DEFB2FC, 0x78A5636F43172F60, 0x84C87814A1F0AB72, 0x8CC702081A6439EC]
def shaKey3 : List Word := [
  0x90BEFFFA23631E28, 0xA4506CEBDE82BDE9, 0xBEF9A3F7B2C67915, 0xC67178F2E372532B,
  0xCA273ECEEA26619C, 0xD186B8C721C0C207, 0xEADA7DD6CDE0EB1E, 0xF57D4F7FEE6ED178,
  0x06F067AA72176FBA, 0x0A637DC5A2C898A6, 0x113F9804BEF90DAE, 0x1B710B35131C471B,
  0x28DB77F523047D84, 0x32CAAB7B40C72493, 0x3C9EBE0A15C9BEBC, 0x431D67C49C100D4C,
  0x4CC5D4BECB3E42B6, 0x597F299CFC657E2A, 0x5FCB6FAB3AD6FAEC, 0x6C44198C4A475817]
/-- The round constants. -/
def shaKey : List Word := shaKey0 ++ shaKey1 ++ shaKey2 ++ shaKey3

/-- The eight chaining words. -/
structure Sha where
  a : Word
  b : Word
  c : Word
  d : Word
  e : Word
  f : Word
  g : Word
  h : Word
  deriving DecidableEq, Repr

def shaInit : Sha where
  a := 0x6A09E667F3BCC908
  b := 0xBB67AE8584CAA73B
  c := 0x3C6EF372FE94F82B
  d := 0xA54FF53A5F1D36F1
  e := 0x510E527FADE682D1
  f := 0x9B05688C2B3E6C1F
  g := 0x1F83D9ABFB41BD6B
  h := 0x5BE0CD19137E2179

/-- One round. -/
def shaRound (s : Sha) (kw : Word × Word) : Sha :=
  let t1 := s.h + (s.e.rotateRight 14 ^^^ s.e.rotateRight 18 ^^^ s.e.rotateRight 41) + ((s.e &&& s.f) ^^^ (~~~s.e &&& s.g)) + kw.1 + kw.2
  let t2 := (s.a.rotateRight 28 ^^^ s.a.rotateRight 34 ^^^ s.a.rotateRight 39) + ((s.a &&& s.b) ^^^ (s.a &&& s.c) ^^^ (s.b &&& s.c))
  ⟨t1 + t2, s.a, s.b, s.c, s.d + t1, s.e, s.f, s.g⟩

/-- The message schedule, newest word first. -/
def shaSchedule : Nat → List Word → List Word
  | 0, w => w
  | n + 1, w =>
    let x := w.getD 1 0
    let y := w.getD 14 0
    shaSchedule n (((x.rotateRight 19 ^^^ x.rotateRight 61 ^^^ x >>> 6) + w.getD 6 0
      + (y.rotateRight 1 ^^^ y.rotateRight 8 ^^^ y >>> 7) + w.getD 15 0) :: w)

/-- One block of 128 bytes. -/
def shaBlock (s : Sha) (b : List Byte) : Sha :=
  let w := (List.range 16).map (fun i => BitVec.ofNat 64 (beNat ((b.drop (8 * i)).take 8)))
  let r := (shaKey.zip (shaSchedule 64 w.reverse).reverse).foldl shaRound s
  ⟨s.a + r.a, s.b + r.b, s.c + r.c, s.d + r.d, s.e + r.e, s.f + r.f, s.g + r.g, s.h + r.h⟩

/-- The SHA-512 digest of some bytes, 64 bytes. (PRESUMED, log entry 7) -/
def sha512 (m : List Byte) : List Byte :=
  let pad := (239 - m.length % 128) % 128
  let b := m ++ [0x80] ++ List.replicate pad 0 ++ beBytes (8 * m.length) 16
  let r := (List.range (b.length / 128)).foldl (fun s i => shaBlock s ((b.drop (128 * i)).take 128)) shaInit
  [r.a, r.b, r.c, r.d, r.e, r.f, r.g, r.h].foldr (fun x acc => beBytes x.toNat 8 ++ acc) []

/-! ## ECDSA over P-521 -/

/-- The field, the group order, the coefficient b (a is -3) and the base point. -/
def ecP : Nat := 2 ^ 521 - 1
def ecN : Nat := 0x1FFFFFFFFFFFFFFFFFFFFFFFFFFFFFFFFFFFFFFFFFFFFFFFFFFFFFFFFFFFFFFFFFA51868783BF2F966B7FCC0148F709A5D03BB5C9B8899C47AEBB6FB71E91386409
def ecB : Nat := 0x51953EB9618E1C9A1F929A21A0B68540EEA2DA725B99B315F3B8B489918EF109E156193951EC7E937B1652C0BD3BB1BF073573DF883D2C34F1EF451FD46B503F00
def ecGx : Nat := 0xC6858E06B70404E9CD9E3ECB662395B4429C648139053FB521F828AF606B4D3DBAA14B5E77EFE75928FE1DC127A2FFA8DE3348B3C1856A429BF97E7E31C2E5BD66
def ecGy : Nat := 0x11839296A789A3BC0045C8A5FB42C7D1BD998F54449579B446817AFBD17273E662C97EE72995EF42640C550B9013FAD0761353C7086A272C24088BE94769FD16650

/-- x to the power k mod m, over the low bits of k. -/
def powMod (m x : Nat) : Nat → Nat → Nat
  | 0, _ => 1
  | n + 1, k => let r := powMod m (x * x % m) n (k / 2); if k % 2 = 1 then r * x % m else r
/-- The inverse mod a prime. -/
def invMod (m x : Nat) : Nat := powMod m (x % m) 521 (m - 2)

/-- A point of the curve; none is the neutral element. -/
abbrev EcPoint := Option (Nat × Nat)
def ecOn (x y : Nat) : Bool := decide (x < ecP) && decide (y < ecP) && y * y % ecP == (x * x % ecP * x + (ecP - 3) * x + ecB) % ecP

def ecAdd (p q : EcPoint) : EcPoint :=
  match p, q with
  | none, q => q
  | p, none => p
  | some (x1, y1), some (x2, y2) =>
    if x1 = x2 ∧ (y1 + y2) % ecP = 0 then none
    else
      let l := if x1 = x2 then (3 * x1 * x1 + (ecP - 3)) * invMod ecP (2 * y1) % ecP
               else (y2 + ecP - y1) * invMod ecP (x2 + ecP - x1) % ecP
      let x3 := (l * l + (ecP - x1) + (ecP - x2)) % ecP
      some (x3, (l * (x1 + ecP - x3) + (ecP - y1)) % ecP)

/-- k times a point, over the low bits of k. -/
def ecMul : Nat → Nat → EcPoint → EcPoint
  | 0, _, _ => none
  | n + 1, k, p =>
    let r := ecMul n (k / 2) (ecAdd p p)
    if k % 2 = 1 then ecAdd r p else r

/-- Whether a signature of 132 bytes (R489) over a message verifies against a public key of 133 bytes (R541).
(PRESUMED, log entry 7) -/
def ecdsaOk (key msg sig : List Byte) : Bool :=
  let x := beNat ((key.drop 1).take 66)
  let y := beNat (key.drop 67)
  let r := beNat (sig.take 66)
  let t := beNat (sig.drop 66)
  if key.length = 133 ∧ key.headD 0 = 4 ∧ ecOn x y ∧ sig.length = 132 ∧ 0 < r ∧ r < ecN ∧ 0 < t ∧ t < ecN then
    let w := invMod ecN t
    let e := beNat (sha512 msg)
    match ecAdd (ecMul 521 (e * w % ecN) (some (ecGx, ecGy))) (ecMul 521 (r * w % ecN) (some (x, y))) with
    | some (px, _) => px % ecN == r
    | none => false
  else false

end Sys2Proof.Machine
end

