-- ==== Sys2Proof/Machine/Husk.lean ====
section
/-!
DEFINITION. Husk images and their words: the checks of an image in the order of R491 (R486 to R490, R541), staging, the
activation of R494, and HPLOAD, HPACT and HPQRY (R497 to R499).
-/
namespace Sys2Proof.Machine

/-! ## Images (R486 to R490) -/

/-- The length an image's counts give (R486). -/
def imageLen (b : List Byte) : Nat :=
  64 + 32 * byteAt b 14 + 32 * byteAt b 15 + 1024 * byteAt b 16 + 8 * field b 20 2 + 140
/-- Where each part begins. -/
def imageHooksAt (b : List Byte) : Nat := 64 + 32 * byteAt b 14
def imageRewritesAt (b : List Byte) : Nat := imageHooksAt b + 32 * byteAt b 15
def imageBlobAt (b : List Byte) : Nat := imageRewritesAt b + 1024 * byteAt b 16
def imageKeyAt (b : List Byte) : Nat := imageBlobAt b + 8 * field b 20 2

/-- First words of a half's emulation words (R478): 128 each. -/
def halfBase (owner : Bool) : Nat := if owner then 3968 else 3840

/-- Whether bytes `lo` to `hi` are zero. -/
def zeroIn (b : List Byte) (lo hi : Nat) : Bool := ((b.drop lo).take (hi + 1 - lo)).all (fun x => x == 0)

/-- Header fields within their ranges (R486); the blob within the half's words (R489). -/
def headerOk (b : List Byte) : Bool :=
  let at' := field b 18 2
  let n := field b 20 2
  let base := halfBase (byteAt b 6 == 2)
  byteAt b 7 == 0 && decide (field b 10 2 < 2) && decide (1 ≤ field b 12 2) && decide (byteAt b 14 ≤ 8) && decide (byteAt b 15 ≤ 4)
    && decide (byteAt b 16 ≤ 8) && byteAt b 17 == 0 && decide (n ≤ 128) && zeroIn b 22 31 && zeroIn b 36 63
    && (n == 0 || (decide (base ≤ at') && decide (at' + n ≤ base + 128)))

/-- Priorities of a half (R478, R490). -/
def prioOk (owner : Bool) (p : Nat) : Bool := if owner then decide (p ≤ 7) else decide (8 ≤ p) && decide (p ≤ 15)

/-- A slot record (R487). -/
def slotOf (r : List Byte) : HSlot where
  mask := BitVec.ofNat 64 (field r 0 8)
  value := BitVec.ofNat 64 (field r 8 8)
  idx := byteAt r 16
  filter := BitVec.ofNat 5 (byteAt r 17)
  action := byteAt r 18
  prio := byteAt r 19
  arg := byteAt r 20

/-- A slot record's fields (R487) and the limits of an owner's (R490). -/
def slotOk (owner : Bool) (blob entries : Nat) (r : List Byte) : Bool :=
  let k := slotOf r
  k.value &&& ~~~k.mask == 0 && decide (k.idx ≤ 7) && decide (byteAt r 17 < 32) && prioOk owner k.prio && zeroIn r 21 31
    && (match k.action with
        | 1 => true
        | 2 => decide (k.arg ≤ 15) && decide (8 * k.arg + 7 < blob)
        | 3 => decide (k.arg ≤ 7) && decide (k.arg < entries)
        | 4 => decide (1 ≤ k.arg)
        | 5 => k.arg == 0
        | _ => false)
    && (!owner || (bitsOf k.mask.toNat 62 58 == 31 && !k.value.getLsbD 63 && decide (0x15 ≤ bitsOf k.value.toNat 62 58)
        && !k.filter.getLsbD 1))

/-- A hook record (R488). -/
def hookOf (r : List Byte) : HHook where
  cause := BitVec.ofNat 8 (byteAt r 0)
  classes := BitVec.ofNat 3 (byteAt r 1)
  filter := BitVec.ofNat 2 (byteAt r 2)
  action := byteAt r 3
  prio := byteAt r 4
  idx := byteAt r 5
  pcr := bitOf (byteAt r 6) 0
  lo := field r 8 2
  hi := field r 10 2
  arg := BitVec.ofNat 32 (field r 12 4)
  target := byteAt r 16
  add := BitVec.ofNat 64 (field r 24 8)

/-- The causes an owner's hook may name and write (R490). -/
def ownerCause (c : Nat) : Bool :=
  c == Cause.patch.code.toNat || c == Cause.emul.code.toNat || c == Cause.swtrap.code.toNat || c == Cause.bkpt.code.toNat

/-- A hook record's fields (R488) and the limits of an owner's (R490). -/
def hookOk (owner : Bool) (r : List Byte) : Bool :=
  let h := hookOf r
  let arg := h.arg.toNat
  decide (1 ≤ byteAt r 0) && decide (byteAt r 0 ≤ 0x1B) && decide (byteAt r 1 < 8) && decide (byteAt r 2 < 4) && prioOk owner h.prio
    && decide (h.idx ≤ 3) && decide (byteAt r 6 < 2) && byteAt r 7 == 0 && decide (h.lo ≤ 4095) && decide (h.lo ≤ h.hi) && zeroIn r 17 23
    && (match h.action with
        | 1 => decide (halfBase owner ≤ arg) && decide (arg < halfBase owner + 128)
        | 2 => decide (1 ≤ arg) && decide (arg ≤ 0x1B) && (!owner || ownerCause arg)
        | 3 => decide (1 ≤ arg % 2 ^ 16) && decide (1 ≤ arg / 2 ^ 16) && decide (arg / 2 ^ 16 ≤ 255)
        | 4 => arg == 0
        | _ => false)
    && (if h.action = 4 then decide (h.target ≤ 1) else h.target == 0 && h.add == 0)
    && (!owner || (!h.filter.getLsbD 1 && ownerCause (byteAt r 0)))

/-- A rewrite entry (R482); `i` is its index within the half. -/
def rewriteOf (i : Nat) (r : List Byte) : HRewrite where
  idx := i
  n := byteAt r 0
  rot := (List.range 4).map (fun j => byteAt r (8 + j))
  tmpl := (List.range 4).map (fun j => BitVec.ofNat 64 (field r (16 + 8 * j) 8))
  mask := (List.range 4).map (fun j => BitVec.ofNat 64 (field r (48 + 8 * j) 8))
  lut := (List.range 64).map (fun b => ((List.range 6).map (fun j => byteAt r (128 + 14 * b + j)), BitVec.ofNat 64 (field r (134 + 14 * b) 8)))

/-- A rewrite entry's fields (R482). -/
def rewriteOk (r : List Byte) : Bool :=
  let e := rewriteOf 0 r
  decide (1 ≤ e.n) && decide (e.n ≤ 4) && zeroIn r 1 7 && e.rot.all (fun x => decide (x < 64)) && zeroIn r 12 15 && zeroIn r 80 127
    && (e.tmpl.drop e.n).all (fun x => x == 0) && (e.mask.drop e.n).all (fun x => x == 0)
    && e.lut.all (fun b => b.1.all (fun x => decide (x < 64)))

/-- The records of an image. -/
def slotRecs (b : List Byte) : List (List Byte) := (List.range (byteAt b 14)).map (fun i => (b.drop (64 + 32 * i)).take 32)
def hookRecs (b : List Byte) : List (List Byte) := (List.range (byteAt b 15)).map (fun i => (b.drop (imageHooksAt b + 32 * i)).take 32)
def rewriteRecs (b : List Byte) : List (List Byte) :=
  (List.range (byteAt b 16)).map (fun i => (b.drop (imageRewritesAt b + 1024 * i)).take 1024)

/-- R490: every record well formed, no two naming one slot or hook. -/
def recordsOk (b : List Byte) : Bool :=
  let owner := byteAt b 6 == 2
  headerOk b && (slotRecs b).all (slotOk owner (field b 20 2) (byteAt b 16)) && (hookRecs b).all (hookOk owner) && (rewriteRecs b).all rewriteOk
    && decide ((slotRecs b).map (fun r => byteAt r 16)).Nodup && decide ((hookRecs b).map (fun r => byteAt r 5)).Nodup

/-! ## What every vendor image holds (R520) -/

/-- A table that passes the matched word on, bit by bit (R482). -/
def copyLut : List (List Nat × Word) := (List.range 64).map (fun b => ([b, 0, 0, 0, 0, 0], 0xAAAAAAAAAAAAAAAA))

/-- Rewrite entry 9 (R522): kpopc g56, kN; seq g56, g56, g0; bcc g56, g0, 1; the matched word. -/
def scanRewrite : HRewrite where
  idx := 1
  n := 4
  rot := [18, 0, 0, 0]
  tmpl := [0x20600000E0000000, 0x0D700000E0700000, 0x04100000E0000001, 0]
  mask := [0x1E0000, 0, 0, 0xFFFFFFFFFFFFFFFF]
  lut := copyLut

/-- Rewrite entry 10 (R526): shli g56, gA, 32; seq g56, g56, g0; add g56, gA, g56; rkbnd g56. The matched word's SBWAIT goes
with the first word, its other fields with the last. (DEDUCED, log entry 86) -/
def boundRewrite : HRewrite where
  idx := 2
  n := 4
  rot := [0, 0, 0, 0]
  tmpl := [0x0ED00000E0000020, 0x0D700000E0700000, 0x0C000000E0003800, 0x0000000000700000]
  mask := [0x3F8003FE0000, 0, 0x3FE0000, 0xFFFFFFFFFC01FFFF]
  lut := copyLut

/-- Slots 8, 9 and 10 by index, with the generation from which a vendor image holds them (R522, R523, R526). -/
def vendorSlots : List (Nat × HSlot) := [
  (2, { mask := 0x8000000000000000, value := 0x8000000000000000, idx := 0, filter := 31, action := 4, prio := 8, arg := 1 }),
  (3, { mask := 0xFFF0000000000040, value := 0x3840000000000040, idx := 1, filter := 31, action := 3, prio := 8, arg := 1 }),
  (4, { mask := 0xFFF0000000000001, value := 0x4460000000000000, idx := 2, filter := 31, action := 3, prio := 8, arg := 2 })]

/-- Hook 4, which a vendor image holds from generation 2 (R525). -/
def vendorHook : HHook where
  cause := Cause.xlate.code
  classes := 4
  filter := 3
  action := 4
  prio := 8
  idx := 0
  pcr := false
  lo := 0
  hi := 0
  arg := 0
  target := 1
  add := 0xFFFFFFFFFFFFFFFF

/-- An image with the records R520 gives it: a vendor image of a generation carries the repairs of its own and every lower
one. (DEDUCED, log entry 86) -/
def Image.repaired (m : Image) : Image :=
  if m.kind ≠ 1 then m
  else
    let g := m.gen.toNat
    let ks := (vendorSlots.filter (fun x => decide (x.1 ≤ g))).map (·.2)
    let hs := if 2 ≤ g then [vendorHook] else []
    let rs := (if 3 ≤ g then [scanRewrite] else []) ++ (if 4 ≤ g then [boundRewrite] else [])
    { m with
      slots := m.slots.filter (fun k => ks.all (fun x => x.idx != k.idx)) ++ ks
      hooks := m.hooks.filter (fun h => hs.all (fun x => x.idx != h.idx)) ++ hs
      rewrites := m.rewrites.filter (fun r => rs.all (fun x => x.idx != r.idx)) ++ rs }

/-- The image the bytes describe, with the digest of all of them. -/
def imageOf (b : List Byte) : Image := Image.repaired {
  kind := byteAt b 6
  gen := BitVec.ofNat 16 (field b 12 2)
  slots := (slotRecs b).map slotOf
  hooks := (hookRecs b).map hookOf
  rewrites := ((List.range (byteAt b 16)).zip (rewriteRecs b)).map (fun x => rewriteOf x.1 x.2)
  blobAt := field b 18 2
  blob := wordsOf ((b.drop (imageBlobAt b)).take (8 * field b 20 2))
  digest := sha512 b }

/-! ## Verification (R491, R492, R541) -/

/-- The public key of a kind; empty for none. -/
def State.keyOf (s : State) (kind : Nat) : List Byte := if kind = 1 then Config.vendorKey else s.sec.ownerKey
/-- The kind's counter (R492): the vendor's never falls below the fuses of manufacture. -/
def State.counterOf (s : State) (kind : Nat) : Nat :=
  if kind = 1 then max s.sec.vendorCtr Config.vendorCounter else s.sec.ownerCtr

/-- The first failing check of R491, 0 when an image passes. -/
def State.imageStatus (s : State) (b : List Byte) : Nat :=
  let n := imageLen b
  let kind := byteAt b 6
  let key := s.keyOf kind
  let keyAt := imageKeyAt b
  if !(b.take 4 == [0x48, 0x55, 0x53, 0x4B] && field b 4 2 == 1 && (kind == 1 || kind == 2) && field b 32 4 == n && decide (n ≤ 9804)
      && b.length == n) then 1
  else if key = [] ∨ (b.drop keyAt).take 8 ≠ (sha512 key).take 8 then 2
  else if !ecdsaOk key (b.take (keyAt + 8)) (b.drop (keyAt + 8)) then 3
  else if field b 8 2 ≠ 4 ∨ !bitOf (field b 10 2) 0 then 4
  else if field b 12 2 < s.counterOf kind then 5
  else if !recordsOk b then 6
  else 0

/-- An image checked and, with status 0, staged in place of any staged image of its kind. -/
def State.stageImage (s : State) (b : List Byte) : Nat × State :=
  let st := s.imageStatus b
  if st ≠ 0 then (st, s)
  else
    let im := imageOf b
    (0, { s with sec := if im.kind = 1 then { s.sec with stagedV := some im } else { s.sec with stagedO := some im } })

/-- A fetched image: it must be of the kind and generation asked for. -/
def State.stageFetched (s : State) (kind gen : Nat) (b : List Byte) : Nat × State :=
  if b = [] then (7, s)
  else if s.imageStatus b = 0 ∧ (byteAt b 6 ≠ kind ∨ field b 12 2 ≠ gen) then (7, s)
  else s.stageImage b

/-! ## Activation (R492 to R496) -/

/-- Cores that have not switched to the newest set, halted ones excluded (R494, R499), other than core `but`. -/
def State.unswitched (s : State) (but : Nat) : Nat :=
  let mine := s.cores.filter (fun e => decide (e.1 < nCores))
  let waits := fun (e : Nat × Core) => e.2.run != .halted && e.2.husk != s.sec.newest && e.1 != but
  let fresh := if ({} : HuskSet) = s.sec.newest then 0
    else nCores - mine.length - (if but < nCores ∧ (mfind s.cores but).isNone then 1 else 0)
  (mine.filter waits).length + fresh

/-- A new set takes the next activation number; cores without a task switch at once (R494). -/
def State.activateSet (s : State) (vendor owner : Option Image) : State :=
  ({ s with sec := { s.sec with newest := { actn := s.sec.newest.actn + 1, vendor := vendor, owner := owner } } }).idleBoundary

/-- The staged image of a kind and generation. -/
def Security.staged (c : Security) (kind gen : Nat) : Option Image :=
  match (if kind = 1 then c.stagedV else if kind = 2 then c.stagedO else none) with
  | some im => if im.gen.toNat = gen then some im else none
  | none => none

/-- An activation asked for by core `n`: its status and the state (R494, R498). -/
def State.activateImage (s : State) (n kind gen : Nat) : Nat × State :=
  if kind = 0 ∨ 3 < kind then (3, s)
  else if kind ≠ 3 ∧ (s.sec.staged kind gen).isNone then (1, s)
  else if s.unswitched n ≠ 0 then (2, s)
  else
    let set := s.sec.newest
    match kind, s.sec.staged kind gen with
    | 1, some im =>
      (0, ({ s with sec := { s.sec with stagedV := none, vendorCtr := im.gen.toNat } }).activateSet (some im) set.owner)
    | 2, some im =>
      (0, ({ s with sec := { s.sec with stagedO := none, ownerCtr := im.gen.toNat } }).activateSet set.vendor (some im))
    | _, _ => (0, s.activateSet set.vendor none)

/-! ## HPLOAD (R497) -/

/-- Bytes read as blocking loads, the last one shorter than a granule. -/
def readSpan (ea n : Nat) : M (List Byte) := do
  let b ← readBlock ea n
  let r := n % 16
  if r = 0 then return b
  else
    let at' := ea + n / 16 * 16
    let l ← locateM .load at' r
    raiseIf l.remote .remote at'
    let (t, _) ← loadBytes l at' r
    return b ++ t

/-- The image a capability names: the header, then the rest under the check of the whole. A length beyond an image's reads
no further. -/
def imageAt (b : GReg) : M (List Byte) := do
  let s ← get
  let c := s.rdG b
  let ea := capAddr c
  let _ ← capcheck c ea 64 permR
  stepLocal ea
  let l ← locateM .load ea 16
  raiseIf (decide (ea % 64 ≠ 0)) .align ea
  raiseIf l.remote .remote ea
  let h ← readBlock ea 64
  let n := field h 32 4
  if n < 64 ∨ 9804 < n then return h
  else
    let _ ← capcheck c ea n permR
    readSpan ea n

/-- The host's part of a fetch (R470, R497, R509): the core is parked until an answer, RESUME goes on with what HUSKDATA
brought, RETRY asks again, FAIL finds no image. -/
def hostImage : M (List Byte) := do
  let s ← get
  let park : M (List Byte) := do
    let s ← get
    -- the manual names no cause, address or detail for this record: log entry 4
    let r := s.park (.core s.cur) s.c.ctx 5 ((s.free 0x670).setWidth 8) (s.free 0x671).toNat (s.free 0x672).toNat
    set r.2
    holdOn (.answer r.1)
  match s.c.wait, s.c.woken with
  | some (.answer _), some x =>
    if x = 1 then do
      set { s with sec := { s.sec with fetched := [], fetchedTotal := 0 } }
      return s.sec.fetched
    else if x = 3 then return []
    else park
  | some (.answer a), none => holdOn (.answer a)
  | _, _ => park

/-- HPLOAD (R497). (DEDUCED, log entry 41) -/
def execHpload (d : GReg) (src : HpSrc) (s : State) : Host.Outcome State Fault Refusal :=
  run (do
    privileged
    match src with
    | .mem b => do
      let b ← imageAt b
      let r := (← get).stageImage b
      set (r.2.block 0x660)
      setI d (BitVec.ofNat 64 r.1)
    | .fetch a => do
      let s ← get
      let x := (s.rdI a).toNat
      let kind := bitsOf x 23 16
      let gen := x % 2 ^ 16
      let asked := match s.c.wait with | some (.answer _) => true | _ => false
      let b ← if asked || s.assisted s.c.ctx 5 then hostImage else pure (Config.flashImage kind gen)
      let r := (← get).stageFetched kind gen b
      set (r.2.block 0x661)
      setI d (BitVec.ofNat 64 r.1)) s

/-! ## HPACT and HPQRY -/

/-- HPACT (R498). (DEDUCED, log entry 42) -/
def execHpact (d a : GReg) (s : State) : Host.Outcome State Fault Refusal :=
  run (do
    privileged
    let s ← get
    let x := (s.rdI a).toNat
    let r := s.activateImage s.cur (bitsOf x 23 16) (x % 2 ^ 16)
    set (r.2.block 0x662)
    setI d (BitVec.ofNat 64 r.1)) s

/-- A word of an image's digest (R499): all ones for no image. -/
def digestWord (im : Option Image) (i : Nat) : Word :=
  match im with
  | some m => BitVec.ofNat 64 (field m.digest (8 * i) 8)
  | none => BitVec.allOnes 64

/-- HPQRY (R499). -/
def execHpqry (d : GReg) (what : HpQuery) (s : State) : Host.Outcome State Fault Refusal :=
  run (do
    let s ← get
    set (s.block 0x663)
    setI d (match what with
      | .gen => s.sec.newest.word
      | .pend => BitVec.ofNat 64 (s.unswitched nCores)
      | .stage => BitVec.ofNat 64 ((match s.sec.stagedV with | some m => m.gen.toNat | none => 0)
          + (match s.sec.stagedO with | some m => m.gen.toNat * 2 ^ 16 | none => 0))
      | .digest a =>
        let x := (s.rdI a).toNat
        let k := bitsOf x 9 8
        digestWord (if k = 1 then s.sec.newest.vendor else if k = 2 then s.sec.newest.owner else none) (x % 8))) s

end Sys2Proof.Machine
end

