-- ==== Sys2Proof/Machine/Host.lean ====
section
/-!
DEFINITION. The host link and the management unit: inbound RDMA (R502, R503), host windows (R505), TXC requests (R506 to
R512), answers to parked activities (R470, R509), boot, SMBus, JTAG, throttling (R513 to R519) and bit errors (R181).
-/
namespace Sys2Proof.Machine

/-! ## Inbound RDMA -/

/-- A range cut at page boundaries: address and length of each part. -/
def pageParts (va n : Nat) : List (Nat × Nat) :=
  (List.range (if n = 0 then 0 else (va + n - 1) / 0x10000 - va / 0x10000 + 1)).map (fun i =>
    let lo := max va ((va / 0x10000 + i) * 0x10000)
    (lo, min (va + n) ((va / 0x10000 + i + 1) * 0x10000) - lo))

/-- The parts of a range at their homes, or why one does not translate. -/
def State.rdmaParts (s : State) (ctx va n : Nat) (need : PageNeed) : Except (Cause × Nat × Nat) (List (Nat × Nat)) × State :=
  (pageParts va n).foldl (fun (acc : Except (Cause × Nat × Nat) (List (Nat × Nat)) × State) p =>
    match acc.1 with
    | .error _ => acc
    | .ok ps =>
      match regionOf p.1 with
      | some (.window _ _ _) => (.error (.xlate, XFail.einfo ⟨4, 0⟩ p.1, p.1), acc.2)
      | _ => match acc.2.xlate [.rdma] ctx p.1 need with
        | (.error f, s) => (.error (.xlate, f.einfo p.1, p.1), s)
        | (.ok pa, s) => (.ok (ps ++ [(pa, p.2)]), s)) (.ok [], s)

/-- The checks of an inbound access (R502): the key's form, the grant, the translation. (DEDUCED, log entry 43) -/
def State.rdmaCheck (s : State) (rkey : BitVec 32) (va n : Nat) (need : BitVec 12) (pn : PageNeed) :
    Except (Cause × Nat × Nat) (List (Nat × Nat)) × State :=
  let ctx := rkey.toNat / 2 ^ 28
  let gid := rkey.toNat % 2 ^ 16
  if bitsOf rkey.toNat 27 16 ≠ 0 then (.error (.stalegrant, gid, va), s)
  else match s.grantFault ctx gid va n need with
  | (some f, s) => (.error f, s)
  | (none, s) => s.rdmaParts ctx va n pn

/-- A failed check, as cause, detail and faulting address: the NAK, and the record with ENG 0xFD (R382, R502). -/
def State.rdmaNak (s : State) (qp : Nat) (rkey : BitVec 32) (f : Cause × Nat × Nat) : State :=
  (s.faultRecord (rkey.toNat / 2 ^ 28) (record 0 f.1.code 0xFD 0 0 0 f.2.2 f.2.1)).send (.nak qp)

/-- Completion records that waited for room go out once the host has moved a head (R510). -/
def State.pumpRings (s : State) : State :=
  (List.range 16).foldl (fun s c => match (s.getX c).ring with
    | some r => if r.waiting = [] then s else s.pushRing c r.waiting.length
    | none => s) s

/-- Bytes written at their homes, part by part. -/
def State.putParts (s : State) (ctx : Nat) : List (Nat × Nat) → List Byte → State
  | [], _ => s
  | (pa, n) :: r, bs =>
    let b := bs.take n
    (if isHost pa then s.hostStore ctx pa b else s.writeAt ctx pa b).putParts ctx r (bs.drop n)

/-- RDMA_WRITE (R502, R503). -/
def execRdmaWrite (qp : Nat) (rkey : BitVec 32) (va : Nat) (data : List Byte) (s : State) : Host.Outcome State Fault Refusal :=
  .next (
    if s.host.down then s
    else match s.rdmaCheck rkey va data.length permW { w := true } with
    | (.error f, s) => s.rdmaNak qp rkey f
    | (.ok ps, s) => ((s.putParts (rkey.toNat / 2 ^ 28) ps data).pumpRings).send (.response qp []))

/-- Why a part at an address cannot be read: an uncorrectable error, a host window that does not answer. -/
def State.partBad (s : State) (va : Nat) (p : Nat × Nat) : Option (Cause × Nat × Nat) :=
  if isHost p.1 then
    (if s.hostAnswers p.1 p.2 then none else some (.remote, va, va))
  else if s.poisoned p.1 p.2 then some (.mcheck, s.mcheckInfo p.1 va, va)
  else none

/-- The first part of a range that cannot be read. -/
def State.partsBad (s : State) (va n : Nat) (ps : List (Nat × Nat)) : Option (Cause × Nat × Nat) :=
  ((pageParts va n).zip ps).findSome? (fun x => s.partBad x.1.1 x.2)

/-- The bytes of parts, and what their reads send to a host window (R504). -/
def State.readParts (s : State) (ps : List (Nat × Nat)) : List Byte × State :=
  (flat (ps.map (fun p => s.physBytes p.1 p.2)), ps.foldl (fun s p => if isHost p.1 then s.sendRead p.1 p.2 else s) s)

/-- RDMA_READ (R502, R503). -/
def execRdmaRead (qp : Nat) (rkey : BitVec 32) (va len : Nat) (s : State) : Host.Outcome State Fault Refusal :=
  .next (
    if s.host.down then s
    else match s.rdmaCheck rkey va len permR { r := true } with
    | (.error f, s) => s.rdmaNak qp rkey f
    | (.ok ps, s) =>
      match s.partsBad va len ps with
      | some f => s.rdmaNak qp rkey f
      | none =>
        let r := s.readParts ps
        r.2.send (.response qp r.1))

/-- An inbound 8-byte atomic: `f` gives the new value of the old one; `op`, `arg` and `cmp` are what goes on to a host
window (R502, R503). -/
def State.rdmaAtomic (s : State) (qp : Nat) (rkey : BitVec 32) (va op : Nat) (arg cmp : Word) (f : Word → Word) : State :=
  if s.host.down then s
  else if va % 8 ≠ 0 then s.rdmaNak qp rkey (.align, va, va)
  else match s.rdmaCheck rkey va 8 (permR ||| permW ||| permA) { r := true, w := true } with
  | (.error e, s) => s.rdmaNak qp rkey e
  | (.ok ps, s) =>
    let ctx := rkey.toNat / 2 ^ 28
    let pa := (ps.headD (0, 8)).1
    if isHost pa then
      match s.hostAmo ctx pa op arg cmp with
      | some (old, s) => s.send (.response qp (leBytes old.toNat 8))
      | none => s.rdmaNak qp rkey (.remote, va, va)
    else match s.partBad va (pa, 8) with
    | some e => s.rdmaNak qp rkey e
    | none =>
      let old := BitVec.ofNat 64 (leNat (readBytes s.mem pa 8))
      (((s.writeAt ctx pa (leBytes (f old).toNat 8)).pumpRings).send (.response qp (leBytes old.toNat 8)))

/-- COMPARE_AND_SWAP (R502). -/
def execCompareAndSwap (qp : Nat) (rkey : BitVec 32) (va : Nat) (cmp new : Word) (s : State) : Host.Outcome State Fault Refusal :=
  .next (s.rdmaAtomic qp rkey va 2 new cmp (fun old => if old = cmp then new else old))

/-- FETCH_AND_ADD (R502). -/
def execFetchAndAdd (qp : Nat) (rkey : BitVec 32) (va : Nat) (x : Word) (s : State) : Host.Outcome State Fault Refusal :=
  .next (s.rdmaAtomic qp rkey va 1 x 0 (fun old => old + x))

/-- HOST_WINDOW_NAK (R505): the host refuses a write made for a store. -/
def execHostWindowNak (ctx addr : Nat) (s : State) : Host.Outcome State Fault Refusal :=
  .next (if isHost addr then s.remoteRecord ctx addr else s)

/-! ## TXC (R506 to R508) -/

/-- The answer of a request: its status, the reply's body, the state. -/
structure Answer where
  st : Nat
  body : List Byte := []
  next : State

/-- A TXC request: dropped unless it comes from an owner; sent its stored reply again, dropped, or executed by its sequence. A
context of 0xFF keeps a sequence of its own. (DEDUCED, log entry 44) -/
def State.txc (s : State) (src ctx seqn ty : Nat) (f : State → Answer) : State :=
  if s.host.down || !s.host.owners.contains src then s
  else if 16 ≤ ctx ∧ ctx ≠ 0xFF then s.send (.reply (txcRecord (ty + 0x80) 1 seqn ctx []))
  else
    let x := s.getX ctx
    let go :=
      let a := f s
      (a.next.updX ctx (fun x => { x with txcSeq := some seqn, txcReply := a.body, txcReplySt := a.st, txcReplyTy := ty + 0x80 })).send
        (.reply (txcRecord (ty + 0x80) a.st seqn ctx a.body))
    match x.txcSeq with
    | none => go
    | some q =>
      if seqn = q then s.send (.reply (txcRecord x.txcReplyTy x.txcReplySt seqn ctx x.txcReply))
      else if seqn < q then s
      else go

/-- A request that is carried out when a condition holds, BADREQ otherwise. -/
def State.answerIf (s : State) (ok : Bool) (next : State) (body : List Byte := []) : Answer :=
  if ok then { st := 0, body := body, next := next } else { st := 1, next := s }

/-- The management registers' numbers (R518). -/
def mgmtKnown (reg : BitVec 16) : Bool := decide (0x100 ≤ reg.toNat) && decide (reg.toNat < 0x180)

/-- MREAD (R507, R518). -/
def execMread (src ctx seqn : Nat) (reg : BitVec 16) (s : State) : Host.Outcome State Fault Refusal :=
  .next (s.txc src ctx seqn 1 (fun s => s.answerIf (mgmtKnown reg) s (leBytes (s.mgmtRead reg.toNat).toNat 8)))

/-- MWRITE (R507, R518). -/
def execMwrite (src ctx seqn : Nat) (reg : BitVec 16) (x : Word) (s : State) : Host.Outcome State Fault Refusal :=
  .next (s.txc src ctx seqn 2 (fun s => s.answerIf (mgmtKnown reg) (s.mgmtWrite reg.toNat x)))

/-- WINDOW (R504, R507): binds a host window; a length of 0 leaves nothing to reach. -/
def execWindow (src ctx seqn idx qp : Nat) (raddr : Word) (rkey : BitVec 32) (len : Nat) (s : State) : Host.Outcome State Fault Refusal :=
  .next (s.txc src ctx seqn 3 (fun s => s.answerIf (decide (idx < 256) && decide (len ≤ 0x200000000))
    { s with host := { s.host with windows := mset s.host.windows idx { qp := qp, raddr := raddr, rkey := rkey, len := len } } }))

/-- RINGSET (R510). -/
def execRingset (src ctx seqn : Nat) (addr : Word) (cap : Nat) (head : Word) (s : State) : Host.Outcome State Fault Refusal :=
  .next (s.txc src ctx seqn 4 (fun s => s.answerIf (decide (ctx < 16) && isHost addr.toNat && decide (1 ≤ cap) && decide (cap ≤ 65536))
    (s.updX ctx (fun x => { x with ring := some { addr := addr.toNat, cap := cap, head := head.toNat, tail := 0, waiting := [] } }))))

/-- ENROL (R511): only while no owner key is enrolled. -/
def execEnrol (src ctx seqn : Nat) (key : List Byte) (s : State) : Host.Outcome State Fault Refusal :=
  .next (s.txc src ctx seqn 5 (fun s => s.answerIf (s.sec.ownerKey.isEmpty && key.length == 133)
    { s with sec := { s.sec with ownerKey := key, ownerCtr := 0 } }))

/-- PREEMPT (R463). -/
def execPreempt (src ctx seqn : Nat) (s : State) : Host.Outcome State Fault Refusal :=
  .next (s.txc src ctx seqn 6 (fun s => s.answerIf (decide (ctx < 16)) (s.startLadder ctx true)))

/-- What RELEASE does (R511), in order. -/
def State.releaseAll (s : State) : State :=
  let s := (List.range 16).foldl (fun s c => s.forceReset c) s
  let s := { s with sec := { s.sec with ownerKey := [], stagedO := none } }
  let s := if s.sec.newest.owner.isSome then s.activateSet s.sec.newest.vendor none else s
  { s with mem := [], tags := [], poison := [], cores := s.cores.map (fun (e : Nat × Core) => (e.1, { e.2 with istale := [] })) }

/-- RELEASE (R511). -/
def execRelease (src ctx seqn : Nat) (s : State) : Host.Outcome State Fault Refusal :=
  .next (s.txc src ctx seqn 7 (fun s => s.answerIf true s.releaseAll))

/-- A value in a fixed number of bytes. -/
def fixedBytes (b : List Byte) (n : Nat) : List Byte := (List.range n).map (fun i => b.getD i 0)

/-- The signed part of an attestation report (R512): bytes 0 to 335. -/
def State.report (s : State) (nonce : List Byte) : List Byte :=
  let set := s.sec.newest
  let gen := fun (im : Option Image) => match im with | some m => leBytes m.gen.toNat 2 | none => [0, 0]
  let dig := fun (im : Option Image) => match im with | some m => fixedBytes m.digest 64 | none => List.replicate 64 0
  [0x41, 0x54, 0x53, 0x54] ++ leBytes 1 2 ++ leBytes 4 2 ++ leBytes 0xA1 2 ++ [if s.host.jtag then 1 else 0] ++ List.replicate 5 0
    ++ leBytes Config.serial.toNat 16 ++ fixedBytes nonce 32 ++ fixedBytes Config.firmwareDigest 64
    ++ leBytes set.actn.toNat 4 ++ leBytes (s.unswitched nCores) 4 ++ gen set.vendor ++ gen set.owner ++ List.replicate 4 0
    ++ dig set.vendor ++ dig set.owner ++ (if s.sec.ownerKey = [] then List.replicate 64 0 else sha512 s.sec.ownerKey)

/-- ATTEST (R512): the halves r and s big-endian (R4). -/
def execAttest (src ctx seqn : Nat) (nonce : List Byte) (s : State) : Host.Outcome State Fault Refusal :=
  .next (s.txc src ctx seqn 8 (fun s =>
    let r := s.report nonce
    let g := Config.identitySign (sha512 r)
    s.answerIf (nonce.length == 32) s (r ++ beBytes g.1 66 ++ beBytes g.2 66)))

/-! ## Parked activities (R470, R509) -/

/-- Whether an activity still stands: its core waits for its answer, its job is parked, its launch has a task to place. -/
def State.standing (s : State) (id : Nat) (p : Parked) : Bool :=
  match p.act with
  | .core n => (s.getC n).wait == some (.answer id)
  | .job j => match s.job? j with
    | some x => x.st == .parked
    | none => false
  | .place l => match s.launch? l with
    | some x => x.asked == some false && x.left
    | none => false

/-- The answer to an activity: 1 goes on after it, 2 repeats it, any other takes the hardware mode's fault. A core that
fetches an image reads the answer itself. -/
def State.answerCore (s : State) (n : Nat) (p : Parked) (answer : Nat) : State :=
  if p.fn = 5 then s.updC n (fun c => { c with woken := some (BitVec.ofNat 64 answer) })
  else match answer with
  | 1 => s.asCore n (fun s => s.finish none)
  | 2 => s.updC n (fun c => { c with latch := {}, wait := none, woken := none })
  | _ => s.asCore n (fun s => s.trapNow { cause := p.cause, einfo := p.detail })

/-- The same for an engine job, at its cursor; a Shell's card is one activity. -/
def State.answerJob (s : State) (j : Nat) (p : Parked) (answer : Nat) : State :=
  match s.job? j with
  | none => s
  | some x =>
    match answer with
    | 1 => if x.shell then s.endJob j .done else s.updJ j (fun j => { j with st := .queued, count := j.count + j.unit })
    | 2 => s.updJ j (fun j => { j with st := .queued })
    | _ =>
      let s := s.faultRecord x.ctx (record x.handle p.cause x.eng (cardOp x.card) (if x.shell then 2 else 1) x.count p.addr.toNat p.detail.toNat)
      if x.shell then s.endJob j .failed else s

/-- An activity leaves the parked ones with an answer. -/
def State.settleAct (s : State) (id : Nat) (p : Parked) (answer : Nat) : State :=
  let s := { s with host := { s.host with parked := merase s.host.parked id, answered := nins id s.host.answered } }
  if !s.standing id p then s
  else match p.act with
  | .core n => (s.answerCore n p answer).turnOf n
  | .job j => s.answerJob j p answer
  | .place l => s.updL l (fun x => { x with asked := if answer = 2 then none else some true })

/-- DREPLY (R509): the first answer is applied, a later one is STALE. -/
def execDreply (src ctx seqn act answer : Nat) (s : State) : Host.Outcome State Fault Refusal :=
  .next (s.txc src ctx seqn 9 (fun s =>
    if answer = 0 ∨ 3 < answer then { st := 1, next := s }
    else match mfind s.host.parked act with
    | some p => if s.standing act p then { st := 0, next := s.settleAct act p answer } else { st := 2, next := s.settleAct act p 3 }
    | none => { st := if s.host.answered.contains act then 2 else 1, next := s }))

/-- PARKED_ACTIVITY_TIMEOUT (R470): after the second deadline the hardware mode's fault is taken. -/
def execParkedActivityTimeout (act : Nat) (s : State) : Host.Outcome State Fault Refusal :=
  .next (match mfind s.host.parked act with
    | some p => if p.at' + (s.getX p.ctx).ccb.secondDl < s.cycle then s.settleAct act p 3 else s
    | none => s)

/-- DUTY_RECORD_REPEAT (R509): every 4,000,000 cycles. -/
def execDutyRecordRepeat (act : Nat) (s : State) : Host.Outcome State Fault Refusal :=
  .next (match mfind s.host.parked act with
    | some p =>
      if p.sentAt + 4000000 ≤ s.cycle ∧ s.standing act p then
        ({ s with host := { s.host with parked := mset s.host.parked act { p with sentAt := s.cycle } } }).tell 0x41 p.ctx (p.body act)
      else s
    | none => s)

/-- HUSKDATA (R507, R509): a chunk of an image; a new total begins a new image, of which nothing is known yet. -/
def execHuskdata (src ctx seqn off total : Nat) (data : List Byte) (s : State) : Host.Outcome State Fault Refusal :=
  .next (s.txc src ctx seqn 0xA (fun s => s.answerIf (decide (data.length ≤ 8184) && decide (total ≤ 9804) && decide (off + data.length ≤ total))
    (let old := if s.sec.fetchedTotal = total ∧ s.sec.fetched.length = total then s.sec.fetched
                else (List.range total).map (fun i => Config.freeByte s.tick i)
     { s with sec := { s.sec with fetched := old.take off ++ data ++ old.drop (off + data.length), fetchedTotal := total } })))

/-! ## Datagrams (R506 to R508) -/

/-- The request a body of a type stands for, read little-endian (R4, R507); the widths R507 does not give are the
model's. (DESIGN CHOICE, log entry 85) -/
noncomputable def requestBody (src ctx seqn ty : Nat) (b : List Byte) : Option Instr :=
  let n := b.length
  match ty with
  | 1 => if n = 2 then some (.mread src ctx seqn (BitVec.ofNat 16 (field b 0 2))) else none
  | 2 => if n = 10 then some (.mwrite src ctx seqn (BitVec.ofNat 16 (field b 0 2)) (BitVec.ofNat 64 (field b 2 8))) else none
  | 3 => if n = 26 then some (.window src ctx seqn (field b 0 2) (field b 2 4) (BitVec.ofNat 64 (field b 6 8))
      (BitVec.ofNat 32 (field b 14 4)) (field b 18 8)) else none
  | 4 => if n = 20 then some (.ringset src ctx seqn (BitVec.ofNat 64 (field b 0 8)) (field b 8 4)
      (BitVec.ofNat 64 (field b 12 8))) else none
  | 5 => if n = 133 then some (.enrol src ctx seqn b) else none
  | 6 => if n = 0 then some (.preempt src ctx seqn) else none
  | 7 => if n = 0 then some (.release src ctx seqn) else none
  | 8 => if n = 32 then some (.attest src ctx seqn b) else none
  | 9 => if n = 8 then some (.dreply src ctx seqn (field b 0 4) (field b 4 4)) else none
  | 10 => if 8 ≤ n then some (.huskdata src ctx seqn (field b 0 4) (field b 4 4) (b.drop 8)) else none
  | _ => none

/-- What a datagram holds: no record, a record that asks for nothing the device knows, or a request. -/
inductive Datagram | foreign | bad (src ctx seqn ty : Nat) | request (i : Instr)
  deriving DecidableEq, Repr

/-- A datagram read by its header (R506): without the magic it is no TXC record; with a reserved field or the status not zero, a
body not of the length stated, at most 8,192, or no request of R507 it is a bad request. (DESIGN CHOICE, log entry 85) -/
noncomputable def datagramOf (src : Nat) (d : List Byte) : Datagram :=
  if d.length < 32 ∨ d.take 4 ≠ [0x54, 0x58, 0x43, 0x01] then .foreign
  else
    let ty := field d 4 2
    let ctx := byteAt d 16
    let seqn := field d 8 8
    let body := d.drop 32
    let ok := byteAt d 6 == 0 && byteAt d 7 == 0 && byteAt d 17 == 0 && field d 20 12 == 0 && field d 18 2 == body.length
      && decide (body.length ≤ 8192)
    match if ok then requestBody src ctx seqn ty body else none with
    | some i => .request i
    | none => .bad src ctx seqn ty

/-- A bad request: BADREQ, under the sequence rule of every request (R507, R508). -/
def State.badRequest (s : State) (src ctx seqn ty : Nat) : State := s.txc src ctx seqn ty (fun s => { st := 1, next := s })

/-- Where a request to the management controller arrives: SMBus, port 0, port 1; a request listed as a row of its own
came on port 0 (R508). -/
def Turn.port : Turn → Option Nat
  | .event (.smbusAccess _ _ _ _) => some 0
  | .datagram second _ _ => some (if second then 2 else 1)
  | .event (.mread _ _ _ _) | .event (.mwrite _ _ _ _ _) | .event (.window _ _ _ _ _ _ _ _) | .event (.ringset _ _ _ _ _ _)
  | .event (.enrol _ _ _ _) | .event (.preempt _ _ _) | .event (.release _ _ _) | .event (.attest _ _ _ _)
  | .event (.dreply _ _ _ _ _) | .event (.huskdata _ _ _ _ _ _) => some 1
  | _ => none
/-- Whether a turn takes no time of its own, so that the next one is in the same cycle. -/
def Turn.instant : Turn → Bool
  | .core _ | .idle _ => false
  | _ => true

/-- Requests that reach the management controller in one cycle apply in order of their port (R508). -/
def orderTurns (ts : List Turn) : List Turn :=
  if (ts.head?.bind Turn.port).isNone then ts
  else
    match (List.range 3).findSome? (fun p => (ts.takeWhile Turn.instant).find? (fun t => t.port == some p)) with
    | some t => t :: ts.erase t
    | none => ts

/-! ## Boot and management -/

/-- POWER_GOOD (R493, R513): reset; the boot ROM takes a firmware slot, the firmware zeroes memory, activates the vendor image
of the flash and sets READY. Counters and the owner's key stay. (DEDUCED, log entry 45) -/
def execPowerGood (s : State) : Host.Outcome State Fault Refusal :=
  .next (
    let s0 : State := { State.reset with
      tick := s.tick, turns := s.turns
      sec := { vendorCtr := s.sec.vendorCtr, ownerCtr := s.sec.ownerCtr, ownerKey := s.sec.ownerKey }
      host := { out := s.host.out } }
    let slot := if Config.firmwareOk 0 then some 0 else if Config.firmwareOk 1 then some 1 else none
    match slot with
    | none => { s0 with host := { s0.host with down := true, recovery := Config.recoveryCode, bootSlot := s0.pick 0x680 8 } }
    | some k =>
      let b := Config.flashImage 1 Config.flashVendorGen
      let s1 := if Config.flashVendorGen ≠ 0 ∧ b ≠ [] ∧ byteAt b 6 = 1 ∧ s0.imageStatus b = 0 then
          ({ s0 with sec := { s0.sec with vendorCtr := field b 12 2 } }).activateSet (some (imageOf b)) none
        else s0
      { s1 with host := { s1.host with ready := true, bootSlot := k } })

/-- SMBUS_ACCESS (R506, R516): a management register by number, or the owner list. -/
def execSmbusAccess (wr : Bool) (reg : BitVec 16) (x : Word) (owners : Option (List Nat)) (s : State) :
    Host.Outcome State Fault Refusal :=
  .next (match owners with
    | some l => { s with host := { s.host with owners := l } }
    | none =>
      if wr then (if mgmtKnown reg then s.mgmtWrite reg.toNat x else s)
      else s.send (.smbus (if mgmtKnown reg then s.mgmtRead reg.toNat else 0)))

/-- JTAG_UNLOCK (R515): a token signed by a vendor key, known by the fused hash. -/
def execJtagUnlock (token key sig : List Byte) (s : State) : Host.Outcome State Fault Refusal :=
  .next (if sha512 key = sha512 Config.vendorKey ∧ ecdsaOk key token sig then { s with host := { s.host with jtag := true } } else s)

/-- Whether some die or the hub is at a temperature or above (R518). -/
def State.atTemp (s : State) (n : Nat) : Bool := (List.range 5).any (fun i => decide (n ≤ (s.mgmtRead 0x101).toNat / 256 ^ i % 256))

/-- THROTTLE_STEP (R519): every millisecond the clock steps down by 100 MHz, or back up. (DEDUCED, log entry 45) -/
def execThrottleStep (s : State) : Host.Outcome State Fault Refusal :=
  .next (
    let hot := s.atTemp (s.host.tlim + 1)
    let n := if s.host.plim * 1000 < (s.mgmtRead 0x103).toNat then s.host.overMs + 1 else 0
    let power := decide (10 ≤ n)
    { s with host := { s.host with
        overMs := n
        clk := if hot || power then max 1000 (s.host.clk - 100) else min 4000 (s.host.clk + 100)
        throts := BitVec.ofNat 3 ((if hot then 1 else 0) + (if power then 2 else 0) + 4 * s.pick 0x681 2) } })

/-- THERMAL_TRIP (R519): at 115 °C. (DEDUCED, log entry 52) -/
def execThermalTrip (s : State) : Host.Outcome State Fault Refusal :=
  .next (if s.atTemp 115 then ({ s with host := { s.host with tripped := true } }).notice 0xFF [2] else s)

/-! ## Bit errors (R181, R182, R518) -/

/-- One more, saturating. -/
def satInc (x : Word) : Word := if x = BitVec.allOnes 64 then x else x + 1

/-- Whether a home address is one of an array's. -/
def arrayKey (a : Nat) : Bool :=
  dramOk a || (decide (spadBase ≤ a) && decide ((a - spadBase) / 0x100000 < nCores) && decide ((a - spadBase) % 0x100000 < 0x80000))
    || (decide (istoreBase ≤ a) && decide ((a - istoreBase) / 0x100000 < nCores) && decide ((a - istoreBase) % 0x100000 < 0x8000))
    || (decide (accBase ≤ a) && decide ((a - accBase) / 0x100000 < 1152) && decide ((a - accBase) % 0x100000 < 0x40000))

/-- A place in a core's stack cache: `addr` is 2^64 x (core + 1) plus an effective address the cache holds (R149).
(DESIGN CHOICE, log entry 72) -/
def State.stackPlace (s : State) (addr : Nat) : Option (Nat × Nat × SLine) :=
  if addr < 2 ^ 64 then none
  else (mfind (s.getC (addr / 2 ^ 64 - 1)).stack (addr % 2 ^ 64 / 16)).map (fun x => (addr / 2 ^ 64 - 1, addr % 2 ^ 64 / 16, x))

/-- ECC_ERROR (R181, R518): a corrected error is counted; an uncorrectable one stays in its granule, of memory or of a stack
cache, until a consumer meets it or a store replaces it. -/
def execEccError (addr : Nat) (uncorrectable : Bool) (s : State) : Host.Outcome State Fault Refusal :=
  .next (
    let at' := s.stackPlace addr
    if !arrayKey addr && at'.isNone then s
    else if uncorrectable then
      let s := { s with host := { s.host with eccu := satInc s.host.eccu } }
      match at' with
      | some (n, g, x) => s.updC n (fun c => { c with stack := mset c.stack g { x with bad := true } })
      | none => { s with poison := nins (addr / 16) s.poison }
    else { s with host := { s.host with eccc := satInc s.host.eccc } })

end Sys2Proof.Machine
end

