-- ==== Sys2Proof/Machine/IntOps.lean ====
section
/-!
DEFINITION. The INT group (R104 to R110): register and immediate forms, each with its latency (R45, R109).
-/
namespace Sys2Proof.Machine

/-- ADD, register form (R104, R106). -/
def execAdd (d a b : GReg) (sh : BitVec 6) (s : State) : Host.Outcome State Fault Refusal :=
  run (intTo d 1 (fun s => s.rdI a + s.rdSh b sh)) s

/-- ADDI (R104, R107). -/
def execAddi (d a : GReg) (imm : BitVec 17) (s : State) : Host.Outcome State Fault Refusal :=
  run (intTo d 1 (fun s => s.rdI a + simm imm)) s

/-- SUB, register form (R104, R106). -/
def execSub (d a b : GReg) (sh : BitVec 6) (s : State) : Host.Outcome State Fault Refusal :=
  run (intTo d 1 (fun s => s.rdI a - s.rdSh b sh)) s

/-- SUBI (R104, R107). -/
def execSubi (d a : GReg) (imm : BitVec 17) (s : State) : Host.Outcome State Fault Refusal :=
  run (intTo d 1 (fun s => s.rdI a - simm imm)) s

/-- AND, register form (R104, R106). -/
def execAnd (d a b : GReg) (sh : BitVec 6) (s : State) : Host.Outcome State Fault Refusal :=
  run (intTo d 1 (fun s => s.rdI a &&& s.rdSh b sh)) s

/-- ANDI (R104, R107). -/
def execAndi (d a : GReg) (imm : BitVec 17) (s : State) : Host.Outcome State Fault Refusal :=
  run (intTo d 1 (fun s => s.rdI a &&& simm imm)) s

/-- OR, register form (R104, R106). -/
def execOr (d a b : GReg) (sh : BitVec 6) (s : State) : Host.Outcome State Fault Refusal :=
  run (intTo d 1 (fun s => s.rdI a ||| s.rdSh b sh)) s

/-- ORI (R104, R107). -/
def execOri (d a : GReg) (imm : BitVec 17) (s : State) : Host.Outcome State Fault Refusal :=
  run (intTo d 1 (fun s => s.rdI a ||| simm imm)) s

/-- XOR, register form (R104, R106). -/
def execXor (d a b : GReg) (sh : BitVec 6) (s : State) : Host.Outcome State Fault Refusal :=
  run (intTo d 1 (fun s => s.rdI a ^^^ s.rdSh b sh)) s

/-- XORI (R104, R107). -/
def execXori (d a : GReg) (imm : BitVec 17) (s : State) : Host.Outcome State Fault Refusal :=
  run (intTo d 1 (fun s => s.rdI a ^^^ simm imm)) s

/-- ANDN, register form (R104, R106). -/
def execAndn (d a b : GReg) (sh : BitVec 6) (s : State) : Host.Outcome State Fault Refusal :=
  run (intTo d 1 (fun s => s.rdI a &&& ~~~(s.rdSh b sh))) s

/-- ANDNI (R104, R107). -/
def execAndni (d a : GReg) (imm : BitVec 17) (s : State) : Host.Outcome State Fault Refusal :=
  run (intTo d 1 (fun s => s.rdI a &&& ~~~(simm imm))) s

/-- MUL, register form (R104, R109). -/
def execMul (d a b : GReg) (s : State) : Host.Outcome State Fault Refusal :=
  run (intTo d 3 (fun s => s.rdI a * s.rdI b)) s

/-- MUL, immediate form (R104, R107, R109). -/
def execMuli (d a : GReg) (imm : BitVec 17) (s : State) : Host.Outcome State Fault Refusal :=
  run (intTo d 3 (fun s => s.rdI a * simm imm)) s

/-- MULH.S, register form (R104, R109). -/
def execMulhS (d a b : GReg) (s : State) : Host.Outcome State Fault Refusal :=
  run (intTo d 3 (fun s => alMulhS (s.rdI a) (s.rdI b))) s

/-- MULH.S, immediate form (R104, R107, R109). -/
def execMulhiS (d a : GReg) (imm : BitVec 17) (s : State) : Host.Outcome State Fault Refusal :=
  run (intTo d 3 (fun s => alMulhS (s.rdI a) (simm imm))) s

/-- MULH.Z, register form (R104, R109). -/
def execMulhZ (d a b : GReg) (s : State) : Host.Outcome State Fault Refusal :=
  run (intTo d 3 (fun s => alMulhZ (s.rdI a) (s.rdI b))) s

/-- MULH.Z, immediate form (R104, R107, R109). -/
def execMulhiZ (d a : GReg) (imm : BitVec 17) (s : State) : Host.Outcome State Fault Refusal :=
  run (intTo d 3 (fun s => alMulhZ (s.rdI a) (simm imm))) s

/-- DIV.S, register form (R104, R105, R109). -/
def execDivS (d a b : GReg) (s : State) : Host.Outcome State Fault Refusal :=
  run (intTo d 20 (fun s => alDivS (s.rdI a) (s.rdI b))) s

/-- DIV.S, immediate form (R104, R107, R105, R109). -/
def execDiviS (d a : GReg) (imm : BitVec 17) (s : State) : Host.Outcome State Fault Refusal :=
  run (intTo d 20 (fun s => alDivS (s.rdI a) (simm imm))) s

/-- DIV.Z, register form (R104, R105, R109). -/
def execDivZ (d a b : GReg) (s : State) : Host.Outcome State Fault Refusal :=
  run (intTo d 20 (fun s => alDivZ (s.rdI a) (s.rdI b))) s

/-- DIV.Z, immediate form (R104, R107, R105, R109). -/
def execDiviZ (d a : GReg) (imm : BitVec 17) (s : State) : Host.Outcome State Fault Refusal :=
  run (intTo d 20 (fun s => alDivZ (s.rdI a) (simm imm))) s

/-- REM.S, register form (R104, R105, R109). -/
def execRemS (d a b : GReg) (s : State) : Host.Outcome State Fault Refusal :=
  run (intTo d 20 (fun s => alRemS (s.rdI a) (s.rdI b))) s

/-- REM.S, immediate form (R104, R107, R105, R109). -/
def execRemiS (d a : GReg) (imm : BitVec 17) (s : State) : Host.Outcome State Fault Refusal :=
  run (intTo d 20 (fun s => alRemS (s.rdI a) (simm imm))) s

/-- REM.Z, register form (R104, R105, R109). -/
def execRemZ (d a b : GReg) (s : State) : Host.Outcome State Fault Refusal :=
  run (intTo d 20 (fun s => alRemZ (s.rdI a) (s.rdI b))) s

/-- REM.Z, immediate form (R104, R107, R105, R109). -/
def execRemiZ (d a : GReg) (imm : BitVec 17) (s : State) : Host.Outcome State Fault Refusal :=
  run (intTo d 20 (fun s => alRemZ (s.rdI a) (simm imm))) s

/-- MIN.S, register form (R104). -/
def execMinS (d a b : GReg) (s : State) : Host.Outcome State Fault Refusal :=
  run (intTo d 1 (fun s => alMinS (s.rdI a) (s.rdI b))) s

/-- MIN.S, immediate form (R104, R107). -/
def execMiniS (d a : GReg) (imm : BitVec 17) (s : State) : Host.Outcome State Fault Refusal :=
  run (intTo d 1 (fun s => alMinS (s.rdI a) (simm imm))) s

/-- MIN.Z, register form (R104). -/
def execMinZ (d a b : GReg) (s : State) : Host.Outcome State Fault Refusal :=
  run (intTo d 1 (fun s => alMinZ (s.rdI a) (s.rdI b))) s

/-- MIN.Z, immediate form (R104, R107). -/
def execMiniZ (d a : GReg) (imm : BitVec 17) (s : State) : Host.Outcome State Fault Refusal :=
  run (intTo d 1 (fun s => alMinZ (s.rdI a) (simm imm))) s

/-- MAX.S, register form (R104). -/
def execMaxS (d a b : GReg) (s : State) : Host.Outcome State Fault Refusal :=
  run (intTo d 1 (fun s => alMaxS (s.rdI a) (s.rdI b))) s

/-- MAX.S, immediate form (R104, R107). -/
def execMaxiS (d a : GReg) (imm : BitVec 17) (s : State) : Host.Outcome State Fault Refusal :=
  run (intTo d 1 (fun s => alMaxS (s.rdI a) (simm imm))) s

/-- MAX.Z, register form (R104). -/
def execMaxZ (d a b : GReg) (s : State) : Host.Outcome State Fault Refusal :=
  run (intTo d 1 (fun s => alMaxZ (s.rdI a) (s.rdI b))) s

/-- MAX.Z, immediate form (R104, R107). -/
def execMaxiZ (d a : GReg) (imm : BitVec 17) (s : State) : Host.Outcome State Fault Refusal :=
  run (intTo d 1 (fun s => alMaxZ (s.rdI a) (simm imm))) s

/-- SLT.S, register form (R104). -/
def execSltS (d a b : GReg) (s : State) : Host.Outcome State Fault Refusal :=
  run (intTo d 1 (fun s => alSltS (s.rdI a) (s.rdI b))) s

/-- SLT.S, immediate form (R104, R107). -/
def execSltiS (d a : GReg) (imm : BitVec 17) (s : State) : Host.Outcome State Fault Refusal :=
  run (intTo d 1 (fun s => alSltS (s.rdI a) (simm imm))) s

/-- SLT.Z, register form (R104). -/
def execSltZ (d a b : GReg) (s : State) : Host.Outcome State Fault Refusal :=
  run (intTo d 1 (fun s => alSltZ (s.rdI a) (s.rdI b))) s

/-- SLT.Z, immediate form (R104, R107). -/
def execSltiZ (d a : GReg) (imm : BitVec 17) (s : State) : Host.Outcome State Fault Refusal :=
  run (intTo d 1 (fun s => alSltZ (s.rdI a) (simm imm))) s

/-- SEQ, register form (R104). -/
def execSeq (d a b : GReg) (s : State) : Host.Outcome State Fault Refusal :=
  run (intTo d 1 (fun s => alSeq (s.rdI a) (s.rdI b))) s

/-- SEQ, immediate form (R104, R107). -/
def execSeqi (d a : GReg) (imm : BitVec 17) (s : State) : Host.Outcome State Fault Refusal :=
  run (intTo d 1 (fun s => alSeq (s.rdI a) (simm imm))) s

/-- SHL, register form (R104). -/
def execShl (d a b : GReg) (s : State) : Host.Outcome State Fault Refusal :=
  run (intTo d 1 (fun s => alShl (s.rdI a) (s.rdI b))) s

/-- SHLI: the amount is imm17[5:0] (R107). -/
def execShli (d a : GReg) (n : BitVec 6) (s : State) : Host.Outcome State Fault Refusal :=
  run (intTo d 1 (fun s => alShl (s.rdI a) (n.setWidth 64))) s

/-- SHR, register form (R104). -/
def execShr (d a b : GReg) (s : State) : Host.Outcome State Fault Refusal :=
  run (intTo d 1 (fun s => alShr (s.rdI a) (s.rdI b))) s

/-- SHRI: the amount is imm17[5:0] (R107). -/
def execShri (d a : GReg) (n : BitVec 6) (s : State) : Host.Outcome State Fault Refusal :=
  run (intTo d 1 (fun s => alShr (s.rdI a) (n.setWidth 64))) s

/-- SAR, register form (R104). -/
def execSar (d a b : GReg) (s : State) : Host.Outcome State Fault Refusal :=
  run (intTo d 1 (fun s => alSar (s.rdI a) (s.rdI b))) s

/-- SARI: the amount is imm17[5:0] (R107). -/
def execSari (d a : GReg) (n : BitVec 6) (s : State) : Host.Outcome State Fault Refusal :=
  run (intTo d 1 (fun s => alSar (s.rdI a) (n.setWidth 64))) s

/-- ROL, register form (R104). -/
def execRol (d a b : GReg) (s : State) : Host.Outcome State Fault Refusal :=
  run (intTo d 1 (fun s => alRol (s.rdI a) (s.rdI b))) s

/-- ROLI: the amount is imm17[5:0] (R107). -/
def execRoli (d a : GReg) (n : BitVec 6) (s : State) : Host.Outcome State Fault Refusal :=
  run (intTo d 1 (fun s => alRol (s.rdI a) (n.setWidth 64))) s

/-- CLZ of gA (R104). -/
def execClz (d a : GReg) (s : State) : Host.Outcome State Fault Refusal :=
  run (intTo d 1 (fun s => alClz (s.rdI a))) s

/-- CLZI of sext(imm17) (R107). -/
def execClzi (d : GReg) (imm : BitVec 17) (s : State) : Host.Outcome State Fault Refusal :=
  run (intTo d 1 (fun _ => alClz (simm imm))) s

/-- CTZ of gA (R104). -/
def execCtz (d a : GReg) (s : State) : Host.Outcome State Fault Refusal :=
  run (intTo d 1 (fun s => alCtz (s.rdI a))) s

/-- CTZI of sext(imm17) (R107). -/
def execCtzi (d : GReg) (imm : BitVec 17) (s : State) : Host.Outcome State Fault Refusal :=
  run (intTo d 1 (fun _ => alCtz (simm imm))) s

/-- POPC of gA (R104). -/
def execPopc (d a : GReg) (s : State) : Host.Outcome State Fault Refusal :=
  run (intTo d 1 (fun s => alPopc (s.rdI a))) s

/-- POPCI of sext(imm17) (R107). -/
def execPopci (d : GReg) (imm : BitVec 17) (s : State) : Host.Outcome State Fault Refusal :=
  run (intTo d 1 (fun _ => alPopc (simm imm))) s

/-- BREV of gA (R104). -/
def execBrev (d a : GReg) (s : State) : Host.Outcome State Fault Refusal :=
  run (intTo d 1 (fun s => alBrev (s.rdI a))) s

/-- BREVI of sext(imm17) (R107). -/
def execBrevi (d : GReg) (imm : BitVec 17) (s : State) : Host.Outcome State Fault Refusal :=
  run (intTo d 1 (fun _ => alBrev (simm imm))) s

/-- BFX: position G[B][5:0] (R108). -/
def execBfx (d a b : GReg) (w : BitVec 7) (sx : Bool) (s : State) : Host.Outcome State Fault Refusal :=
  run (intTo d 1 (fun s => alBfx (s.rdI a) (sh6 (s.rdI b)) w.toNat sx)) s

/-- BFXI (R108). -/
def execBfxi (d a : GReg) (pos wm1 : BitVec 6) (sx : Bool) (s : State) : Host.Outcome State Fault Refusal :=
  run (intTo d 1 (fun s => alBfx (s.rdI a) pos.toNat (wm1.toNat + 1) sx)) s

/-- BFI: position G[B][5:0] (R108). -/
def execBfi (d a b : GReg) (w : BitVec 7) (s : State) : Host.Outcome State Fault Refusal :=
  run (intTo d 1 (fun s => alBfi (s.rdI d) (s.rdI a) (sh6 (s.rdI b)) w.toNat)) s

/-- BFII (R108). -/
def execBfii (d a : GReg) (pos wm1 : BitVec 6) (s : State) : Host.Outcome State Fault Refusal :=
  run (intTo d 1 (fun s => alBfi (s.rdI d) (s.rdI a) pos.toNat (wm1.toNat + 1))) s

/-- MAD: gD + a x b (R104, R109). -/
def execMad (d a b : GReg) (s : State) : Host.Outcome State Fault Refusal :=
  run (intTo d 3 (fun s => s.rdI d + s.rdI a * s.rdI b)) s

/-- MADI (R104, R107, R109). -/
def execMadi (d a : GReg) (imm : BitVec 17) (s : State) : Host.Outcome State Fault Refusal :=
  run (intTo d 3 (fun s => s.rdI d + s.rdI a * simm imm)) s

/-- MOV: all 128 bits and the tag (R104). -/
def execMov (d a : GReg) (s : State) : Host.Outcome State Fault Refusal :=
  run (modify (fun s => s.wrG d (s.rdG a) 1)) s

/-- LI: sext(imm29, 29) (R34). -/
def execLi (d : GReg) (imm : BitVec 29) (s : State) : Host.Outcome State Fault Refusal :=
  run (intTo d 1 (fun _ => imm.signExtend 64)) s

end Sys2Proof.Machine
end

