-- ==== Sys2Proof/Machine/Lds.lean ====
section
/-!
DEFINITION. The LDS group (R188 to R195).
-/
namespace Sys2Proof.Machine

/-- The effective address of LD, ST and LDA: the offset counts accesses (R189). -/
def ldEa (c : TReg) (ty : LdType) (off : BitVec 14) : Nat := eaOf c (off.toInt * (ldSize ty : Int))
/-- The effective address of LDC and STC: the offset counts granules (R193). -/
def ldcEa (c : TReg) (off : BitVec 17) : Nat := eaOf c (off.toInt * 16)

/-- Latency of a synchronous load: 4 when served locally, else the load has blocked (R45, R190). -/
def State.loadLat (s : State) (ea : Nat) : Nat := if s.isLocal ea then 4 else 1

/-- LD's effect (R190). -/
def loadTo (d a : GReg) (ty : LdType) (off : BitVec 14) : M Unit := do
  let c := (← get).rdG a
  let ea := ldEa c ty off
  let l ← access c ea (ldSize ty) permR .load
  let lat := (← get).loadLat ea
  let (bs, _) ← loadBytes l ea (ldSize ty)
  setG d (loadResult ty (leNat bs)) lat

/-- LD (R190). -/
def execLd (d a : GReg) (ty : LdType) (off : BitVec 14) (s : State) : Host.Outcome State Fault Refusal :=
  run (loadTo d a ty off) s

/-- ST's effect: the checks, then the store queue with the granule's tag cleared (R191). -/
def storeFrom (d a : GReg) (ty : LdType) (off : BitVec 14) : M Unit := do
  let s ← get
  let c := s.rdG a
  let ea := ldEa c ty off
  let l ← access c ea (ldSize ty) permW .store
  storeBytes l ea (leBytes (s.rdG d).val.toNat (ldSize ty)) false

/-- ST (R191). -/
def execSt (d a : GReg) (ty : LdType) (off : BitVec 14) (s : State) : Host.Outcome State Fault Refusal :=
  run (storeFrom d a ty off) s

/-- LDC: one granule with its tag (R193). -/
def execLdc (d a : GReg) (off : BitVec 17) (s : State) : Host.Outcome State Fault Refusal :=
  run (do
    let c := (← get).rdG a
    let ea := ldcEa c off
    let l ← access c ea 16 (permR ||| permCL) .load
    let lat := (← get).loadLat ea
    let (bs, tag) ← loadBytes l ea 16
    setG d ⟨BitVec.ofNat 128 (leNat bs), tag⟩ lat) s

/-- STC: one granule with its tag; a tagged value needs CS and a target that keeps tags (R193). -/
def execStc (d a : GReg) (off : BitVec 17) (s : State) : Host.Outcome State Fault Refusal :=
  run (do
    let s ← get
    let c := s.rdG a
    let x := s.rdG d
    let ea := ldcEa c off
    let l ← access c ea 16 (if x.tag then permW ||| permCS else permW) .store
    raiseIf (x.tag && l.tagless) .xlate ((⟨5, 0⟩ : XFail).einfo ea)
    storeBytes l ea (leBytes x.val.toNat 16) x.tag) s

/-- Issue waits until fewer than 32 asynchronous loads are outstanding; which arrives first is open (R48, R194). -/
def loadRoom : M Unit :=
  modify (fun s => if 32 ≤ s.c.loads.length then s.arriveLoad s.cur (s.pick 0x140 s.c.loads.length) else s)

/-- An asynchronous load becomes outstanding: LCNT and its token go up (R47, R194). `l` says what it loads. -/
def addLoad (l : Nat → Load) : M Unit :=
  modify (·.upd (fun c =>
    let t := c.tokenOf
    { c with
      loads := c.loads ++ [{ l c.spos with token := t, seq := c.seq, ctx := c.ctx }]
      seq := c.seq + 1
      tokens := if t = 0 then c.tokens else mput 0 c.tokens t (mget 0 c.tokens t + 1) }))

/-- What an asynchronous load of a host window reads: an RDMA READ goes out, or the window does not answer (R504, R505). -/
def asyncRead (l : Loc) (ea n : Nat) : M Unit := do
  if l.host then
    let s ← get
    raiseIf (!s.hostAnswers l.key n) .remote ea
    set (s.sendRead l.key n)

/-- LDA (R194). A line of the stack cache gives its bytes at once, and an error in it traps at the next word (R182).
(DEDUCED, log entry 16) -/
def execLda (d a : GReg) (ty : LdType) (off : BitVec 14) (s : State) : Host.Outcome State Fault Refusal :=
  run (do
    loadRoom
    let s ← get
    let c := s.rdG a
    let n := ldSize ty
    let ea := ldEa c ty off
    let l ← access c ea n permR .load
    if (← get).c.inStack ea then
      match ← stackLook l ea with
      | .ok x => setG d (loadResult ty (leNat (x.bytes ea n))) 1
      | .error info => modify (·.upd (fun c => { c with mchk := some (BitVec.ofNat 64 info) }))
    else
      let s ← get
      holdIf (s.tileBusy l.key) .entry
      amoFirst l.key n
      asyncRead l ea n
      addLoad (fun spos => { file := .g, reg := gKey s.c.sys d.val, ty := some ty, spos := spos, ea := ea
                             sectors := [⟨(List.range n).map (fun i => (i, l.key + i)), false⟩] })) s

/-- Outstanding loads arrive until at most `n` are left; which come first is open (R48). -/
def State.loadsTo (s : State) (n : Nat) : State :=
  (List.range (s.c.loads.length - n)).foldl (fun s i => s.arriveLoad s.cur (s.pick (0x150 + i) s.c.loads.length)) s

/-- WAITLD (R195). -/
def execWaitld (n : BitVec 6) (s : State) : Host.Outcome State Fault Refusal := run (act (·.loadsTo n.toNat)) s

/-- PREF: the tests of an access without their faults, STEPLOCAL apart (R437); all it may leave is held translations and
grants (R192).
(DEDUCED, log entry 49) -/
def execPref (a : GReg) (off : BitVec 17) (s : State) : Host.Outcome State Fault Refusal :=
  run (do
    let s ← get
    let c := s.rdG a
    let ea := eaOf c off.toInt
    match (access c ea 1 permR .load).on s with
    | (.ok _, t) => set ({ s with tlb := t.tlb }.upd (fun k => { k with gcache := t.c.gcache }))
    | (.error (.trap t), _) => if t.cause = Cause.steplocal.code then throw (.trap t) else pure ()
    | (.error _, _) => pure ()) s

end Sys2Proof.Machine
end

