-- ==== Sys2Proof/Machine/MaskOps.lean ====
section
/-!
DEFINITION. The MSK group (R111, R112), every result at latency 1.
-/
namespace Sys2Proof.Machine

/-- KAND (R111). -/
def execKand (d a b : KReg) (s : State) : Host.Outcome State Fault Refusal :=
  run (maskTo d (fun s => s.rdK a &&& s.rdK b)) s

/-- KOR (R111). -/
def execKor (d a b : KReg) (s : State) : Host.Outcome State Fault Refusal :=
  run (maskTo d (fun s => s.rdK a ||| s.rdK b)) s

/-- KXOR (R111). -/
def execKxor (d a b : KReg) (s : State) : Host.Outcome State Fault Refusal :=
  run (maskTo d (fun s => s.rdK a ^^^ s.rdK b)) s

/-- KANDN (R111). -/
def execKandn (d a b : KReg) (s : State) : Host.Outcome State Fault Refusal :=
  run (maskTo d (fun s => s.rdK a &&& ~~~(s.rdK b))) s

/-- KNOT (R111). -/
def execKnot (d a : KReg) (s : State) : Host.Outcome State Fault Refusal :=
  run (maskTo d (fun s => ~~~(s.rdK a))) s

/-- KMOV in its three directions (R112). -/
def execKmov (form : KMov) (s : State) : Host.Outcome State Fault Refusal :=
  match form with
  | .kk d a => run (maskTo d (fun s => s.rdK a)) s
  | .kg d a => run (maskTo d (fun s => (s.rdI a).setWidth 16)) s
  | .gk d a => run (intTo d 1 (fun s => (s.rdK a).setWidth 64)) s

/-- KPOPC (R111). -/
def execKpopc (d : GReg) (a : KReg) (s : State) : Host.Outcome State Fault Refusal :=
  run (intTo d 1 (fun s => BitVec.ofNat 64 (popcountNat 16 (s.rdK a).toNat))) s

/-- KFF: the lowest set bit, 16 for an empty mask (R111). -/
def execKff (d : GReg) (a : KReg) (s : State) : Host.Outcome State Fault Refusal :=
  run (intTo d 1 (fun s => BitVec.ofNat 64 ((lanesOf (s.rdK a)).headD 16))) s

/-- KSET (R111). -/
def execKset (d : KReg) (imm : BitVec 16) (s : State) : Host.Outcome State Fault Refusal :=
  run (maskTo d (fun _ => imm)) s

end Sys2Proof.Machine
end

