-- ==== Sys2Proof/Machine/Pair.lean ====
section
/-!
DEFINITION. Pair words (R37 to R42): each half reads everything first and gives what it will write; then both commit.
-/
namespace Sys2Proof.Machine

/-- What a half writes once both have read: it cannot fail; a vector half may raise an imprecise FPX (R41). -/
abbrev Commit := M (Option VFault)

/-- A commit that only changes the state. -/
def commit (f : State → State) : M Commit := return (do modify f; return none)
/-- An integer half: its value is fixed at the read (R38, R41). -/
def halfInt (d : GReg) (f : State → Word) : M Commit := do
  let x := f (← get)
  commit (fun s => s.wrI d x 1)
/-- sext(imm13, 13). -/
def simm13 (imm : BitVec 13) : Word := imm.signExtend 64

/-- The check of HLD and HST (R39, R437): capability, STEPLOCAL, then the near window alone, then alignment. -/
def halfAccess (c : TReg) (ea : Nat) (need : BitVec 12) (a : Acc) : M Loc := do
  let _ ← capcheck c ea 8 need
  stepLocal ea
  raiseIf (decide (ea < 0x00F0000000000000) || decide (0x00F000000007FFFF < ea)) .xlate ((⟨4, 0⟩ : XFail).einfo ea)
  raiseIf (decide (ea % 8 ≠ 0)) .align ea
  locateM a ea 8

/-- The effective address of HLD and HST: a zero-extended count of 8 bytes (R38). -/
def halfEa (c : TReg) (imm : BitVec 13) : Nat := eaOf c (imm.toNat * 8 : Nat)

/-- A vector half names v0 to v63 (R38). -/
def halfV (r : Fin 64) : VReg := ⟨r.val, Nat.lt_of_lt_of_le r.isLt (by decide)⟩

/-- An FP32 half on all sixteen lanes, under FPCTL, with RNE (R38). -/
def halfFp (d a : Fin 64) (f : Bool → Lane → Lane → FRes) : M Commit := do
  let s ← get
  let r := fun l => f s.c.ftz (laneAt (s.rdV (halfV d)) l) (laneAt (s.rdV (halfV a)) l)
  return (do
    modify (fun s => s.wrV (halfV d) (vecOf (fun l => (r l).1)) 4)
    raiseFlags 0xFFFF (fun l => (r l).2))

/-- HNOP (R38): what it will write. -/
def readHnop : M Commit := commit id

/-- HADD (R38): what it will write. -/
def readHadd (d a : GReg) : M Commit := halfInt d (fun s => s.rdI d + s.rdI a)

/-- HSUB (R38): what it will write. -/
def readHsub (d a : GReg) : M Commit := halfInt d (fun s => s.rdI d - s.rdI a)

/-- HAND (R38): what it will write. -/
def readHand (d a : GReg) : M Commit := halfInt d (fun s => s.rdI d &&& s.rdI a)

/-- HOR (R38): what it will write. -/
def readHor (d a : GReg) : M Commit := halfInt d (fun s => s.rdI d ||| s.rdI a)

/-- HXOR (R38): what it will write. -/
def readHxor (d a : GReg) : M Commit := halfInt d (fun s => s.rdI d ^^^ s.rdI a)

/-- HSHL (R38): what it will write. -/
def readHshl (d a : GReg) : M Commit := halfInt d (fun s => alShl (s.rdI d) (s.rdI a))

/-- HSHR (R38): what it will write. -/
def readHshr (d a : GReg) : M Commit := halfInt d (fun s => alShr (s.rdI d) (s.rdI a))

/-- HMOV moves all 128 bits and the tag (R38): what it will write. -/
def readHmov (d a : GReg) : M Commit := do
  let x := (← get).rdG a
  commit (fun s => s.wrG d x 1)

/-- HADDI (R38): what it will write. -/
def readHaddi (d a : GReg) (imm : BitVec 13) : M Commit := halfInt d (fun s => s.rdI a + simm13 imm)

/-- HANDI (R38): what it will write. -/
def readHandi (d a : GReg) (imm : BitVec 13) : M Commit := halfInt d (fun s => s.rdI a &&& simm13 imm)

/-- HSHLI (R38): what it will write. -/
def readHshli (d a : GReg) (n : BitVec 6) : M Commit := halfInt d (fun s => s.rdI a <<< n.toNat)

/-- HSHRI (R38): what it will write. -/
def readHshri (d a : GReg) (n : BitVec 6) : M Commit := halfInt d (fun s => s.rdI a >>> n.toNat)

/-- HLI (R38): what it will write. -/
def readHli (d : GReg) (imm : BitVec 13) : M Commit := halfInt d (fun _ => simm13 imm)

/-- HVFADD (R38): what it will write. -/
def readHvfadd (d a : Fin 64) : M Commit := halfFp d a (fun z x y => fAdd z .rne x y)

/-- HVFMUL (R38): what it will write. -/
def readHvfmul (d a : Fin 64) : M Commit := halfFp d a (fun z x y => fMul z .rne x y)

/-- HVMOV (R38): what it will write. -/
def readHvmov (d a : Fin 64) : M Commit := do
  let x := (← get).rdV (halfV a)
  commit (fun s => s.wrV (halfV d) x 2)

/-- HKAND (R38): what it will write. -/
def readHkand (d a : KReg) : M Commit := do
  let s ← get
  let x := s.rdK d &&& s.rdK a
  commit (fun s => s.wrK d x 1)

/-- HKOR (R38): what it will write. -/
def readHkor (d a : KReg) : M Commit := do
  let s ← get
  let x := s.rdK d ||| s.rdK a
  commit (fun s => s.wrK d x 1)

/-- HLD (R38, R39): what it will write. -/
def readHld (d a : GReg) (imm : BitVec 13) : M Commit := do
  let c := (← get).rdG a
  let ea := halfEa c imm
  let l ← halfAccess c ea permR .load
  let (bs, _) ← loadBytes l ea 8
  commit (fun s => s.wrI d (BitVec.ofNat 64 (leNat bs)) 4)

/-- HST through the store queue (R38, R39): what it will write. -/
def readHst (d a : GReg) (imm : BitVec 13) : M Commit := do
  let s ← get
  let c := s.rdG a
  let x := (s.rdI d).toNat
  let ea := halfEa c imm
  let l ← halfAccess c ea permW .store
  roomFor 1
  return (do
    storeBytes l ea (leBytes x 8) false
    return none)

/-- What a half of a pair reads and will write; no other instruction is a half. -/
def halfRead : Instr → M Commit
  | .hnop => readHnop
  | .hadd d a => readHadd d a
  | .hsub d a => readHsub d a
  | .hand d a => readHand d a
  | .hor d a => readHor d a
  | .hxor d a => readHxor d a
  | .hshl d a => readHshl d a
  | .hshr d a => readHshr d a
  | .hmov d a => readHmov d a
  | .haddi d a imm => readHaddi d a imm
  | .handi d a imm => readHandi d a imm
  | .hshli d a n => readHshli d a n
  | .hshri d a n => readHshri d a n
  | .hli d imm => readHli d imm
  | .hvfadd d a => readHvfadd d a
  | .hvfmul d a => readHvfmul d a
  | .hvmov d a => readHvmov d a
  | .hkand d a => readHkand d a
  | .hkor d a => readHkor d a
  | .hld d a imm => readHld d a imm
  | .hst d a imm => readHst d a imm
  | _ => commit id

/-- A vector half takes a ring entry for its word (R455). -/
def vecHalf : Instr → Bool
  | .hvfadd _ _ | .hvfmul _ _ | .hvmov _ _ => true
  | _ => false

/-- Marks which half is at work (EHALF of R41, HALF of R455). -/
def atHalf (h1 : Bool) : M Unit := modify (·.upd (fun c => { c with latch := { c.latch with half := h1 } }))

/-- A pair's whole effect: both read, both commit (R41). -/
def pairBody (h1 h0 : Instr) : M (Option VFault) := do
  atHalf true
  let c1 ← halfRead h1
  atHalf false
  let c0 ← halfRead h0
  atHalf true
  let f1 ← c1
  atHalf false
  let f0 ← c0
  atHalf (vecHalf h1)
  return (match f1 with | some f => some f | none => f0)

/-- A pair word (R41). -/
def execPair (h1 h0 : Instr) (s : State) : Host.Outcome State Fault Refusal :=
  if vecHalf h1 || vecHalf h0 then runRing (fun _ => pairBody h1 h0) ((atHalf (vecHalf h1)).on s).2
  else run (do let _ ← pairBody h1 h0) s

/-- A pair whose other half is HNOP: the half alone (R38, R41). -/
def runHalf (h : M Commit) (s : State) : Host.Outcome State Fault Refusal :=
  run (do
    let c ← h
    let _ ← c) s
/-- A vector half alone. -/
def runVecHalf (h : M Commit) (s : State) : Host.Outcome State Fault Refusal :=
  runRing (fun _ => do
    let c ← h
    c) s

/-- HNOP beside an HNOP (R38). -/
def execHnop (s : State) : Host.Outcome State Fault Refusal :=
  runHalf (readHnop) s
/-- HADD beside an HNOP (R38). -/
def execHadd (d a : GReg) (s : State) : Host.Outcome State Fault Refusal :=
  runHalf (readHadd d a) s
/-- HSUB beside an HNOP (R38). -/
def execHsub (d a : GReg) (s : State) : Host.Outcome State Fault Refusal :=
  runHalf (readHsub d a) s
/-- HAND beside an HNOP (R38). -/
def execHand (d a : GReg) (s : State) : Host.Outcome State Fault Refusal :=
  runHalf (readHand d a) s
/-- HOR beside an HNOP (R38). -/
def execHor (d a : GReg) (s : State) : Host.Outcome State Fault Refusal :=
  runHalf (readHor d a) s
/-- HXOR beside an HNOP (R38). -/
def execHxor (d a : GReg) (s : State) : Host.Outcome State Fault Refusal :=
  runHalf (readHxor d a) s
/-- HSHL beside an HNOP (R38). -/
def execHshl (d a : GReg) (s : State) : Host.Outcome State Fault Refusal :=
  runHalf (readHshl d a) s
/-- HSHR beside an HNOP (R38). -/
def execHshr (d a : GReg) (s : State) : Host.Outcome State Fault Refusal :=
  runHalf (readHshr d a) s
/-- HMOV beside an HNOP (R38). -/
def execHmov (d a : GReg) (s : State) : Host.Outcome State Fault Refusal :=
  runHalf (readHmov d a) s
/-- HADDI beside an HNOP (R38). -/
def execHaddi (d a : GReg) (imm : BitVec 13) (s : State) : Host.Outcome State Fault Refusal :=
  runHalf (readHaddi d a imm) s
/-- HANDI beside an HNOP (R38). -/
def execHandi (d a : GReg) (imm : BitVec 13) (s : State) : Host.Outcome State Fault Refusal :=
  runHalf (readHandi d a imm) s
/-- HSHLI beside an HNOP (R38). -/
def execHshli (d a : GReg) (n : BitVec 6) (s : State) : Host.Outcome State Fault Refusal :=
  runHalf (readHshli d a n) s
/-- HSHRI beside an HNOP (R38). -/
def execHshri (d a : GReg) (n : BitVec 6) (s : State) : Host.Outcome State Fault Refusal :=
  runHalf (readHshri d a n) s
/-- HLI beside an HNOP (R38). -/
def execHli (d : GReg) (imm : BitVec 13) (s : State) : Host.Outcome State Fault Refusal :=
  runHalf (readHli d imm) s
/-- HVFADD beside an HNOP (R38). -/
def execHvfadd (d a : Fin 64) (s : State) : Host.Outcome State Fault Refusal :=
  runVecHalf (readHvfadd d a) s
/-- HVFMUL beside an HNOP (R38). -/
def execHvfmul (d a : Fin 64) (s : State) : Host.Outcome State Fault Refusal :=
  runVecHalf (readHvfmul d a) s
/-- HVMOV beside an HNOP (R38). -/
def execHvmov (d a : Fin 64) (s : State) : Host.Outcome State Fault Refusal :=
  runVecHalf (readHvmov d a) s
/-- HKAND beside an HNOP (R38). -/
def execHkand (d a : KReg) (s : State) : Host.Outcome State Fault Refusal :=
  runHalf (readHkand d a) s
/-- HKOR beside an HNOP (R38). -/
def execHkor (d a : KReg) (s : State) : Host.Outcome State Fault Refusal :=
  runHalf (readHkor d a) s
/-- HLD beside an HNOP (R38). -/
def execHld (d a : GReg) (imm : BitVec 13) (s : State) : Host.Outcome State Fault Refusal :=
  runHalf (readHld d a imm) s
/-- HST beside an HNOP (R38). -/
def execHst (d a : GReg) (imm : BitVec 13) (s : State) : Host.Outcome State Fault Refusal :=
  runHalf (readHst d a imm) s

end Sys2Proof.Machine
end

