-- ==== Sys2Proof/Machine/Rank.lean ====
section
/-!
DEFINITION. The RANK group (R354 to R363).
-/
namespace Sys2Proof.Machine

/-! ## Checks (R355) -/

/-- Whether an update may name this address: the near window, a member window, or a core window in system mode (R354). -/
def updateWindow (sys : Bool) (ea : Nat) : Bool :=
  match regionOf ea with
  | some (.window .near _ _) | some (.window .mspad _ _) => true
  | some (.window .spad _ _) => sys
  | _ => false

/-- Steps 1 to 3 of R355: the header's capability, locality (R437), window or translation, alignment. An update wants one of
its windows, RKCHAIN (`own`) the core's own scratchpad through the near or a member window (R354). -/
def listTargetIn (own : Bool) (c : TReg) (need : BitVec 12) (a : Acc) (upd : Bool) : M Loc := do
  let ea := capAddr c
  let _ ← capcheck c ea 16 need
  stepLocal ea
  let s ← get
  raiseIf (upd && !updateWindow s.c.sys ea) .xlate ((⟨4, 0⟩ : XFail).einfo ea)
  let l ← locateM a ea 16
  raiseIf (own && (homeOf l.key != .core s.cur || (match regionOf ea with | some (.window .spad _ _) => true | _ => false)))
    .xlate ((⟨4, 0⟩ : XFail).einfo ea)
  raiseIf (decide (ea % 16 ≠ 0)) .align ea
  raiseIf l.remote .remote ea
  return l
def listTarget (c : TReg) (need : BitVec 12) (a : Acc) (upd : Bool) : M Loc := listTargetIn false c need a upd

/-- Steps 4 and 5: the header as it stands, then the whole list. -/
def listWhole (c : TReg) (need : BitVec 12) (raw : List Byte) : M Unit := do
  match rankBad raw none with
  | some o => raise .format (formatInfo 5 o)
  | none => do
    let _ ← capcheck c (capAddr c) (rankSize (byteAt raw 0)) need

/-- A list's bytes and its header's checks, read where it lies (R358, R362): the entries it holds and no others (R345). -/
def listRead (c : TReg) (need : BitVec 12) : M (List Byte) := do
  let ea := capAddr c
  let h ← readBlock ea 16
  listWhole c need h
  let n := rankSize (byteAt h 1)
  let bs ← readBlock ea ((n + 15) / 16 * 16)
  return bs.take n

/-- A list in a scratchpad ready for an update: the core's earlier writes to that home are performed, its own stack lines
there are written back (R149, R354). (DEDUCED, log entry 47) -/
def listHome (l : Loc) : M Unit := do
  let behind := fun (e : SqEntry) => e.home == homeOf l.key || (match e.op with | .release _ => true | _ => false)
  modify (fun s => (s.drainUpTo s.cur behind).flushStack s.cur)
  let s ← get
  holdIf (s.c.sq.any behind || s.asyncAt s.cur (homeOf l.key)) .queue
  set (s.upd (fun c => { c with stack := c.stack.filter (fun e => decide (e.2.key + 16 ≤ l.key) || decide (l.key + 512 ≤ e.2.key)) }))

/-- The list at its home with steps 4 and 5 of R355, which must lie inside its scratchpad; entries it does not hold are not
read (R345). -/
def listAtHome (c : TReg) (l : Loc) (need : BitVec 12) : M (List Byte) := do
  let s ← get
  raiseIf (s.poisoned l.key 16) .mcheck (s.mcheckInfo l.key (capAddr c))
  let h := readBytes s.mem l.key 16
  listWhole c need h
  let n := rankSize (byteAt h 0)
  raiseIf (decide (0x80000 < l.key % 0x100000 + n)) .xlate ((⟨4, 0⟩ : XFail).einfo (capAddr c))
  let held := rankSize (byteAt h 1)
  raiseIf (s.poisoned l.key held) .mcheck (s.mcheckInfo l.key (capAddr c))
  return readBytes s.mem l.key held

/-- The list written as one update at its home, tags cleared; the core waits for it: 8 + k cycles at its own scratchpad with
an empty queue (R354). -/
def listPut (l : Loc) (quick : Bool) (k : Nat) (bs : List Byte) : M Unit :=
  modify (fun s =>
    let s := s.writeAt s.c.ctx l.key bs
    if quick then s.upd (fun c => { c with readyAt := max c.readyAt (s.cycle + 8 + k) }) else s.block 0x520)

/-- Need of an update. -/
def needRWA : BitVec 12 := permR ||| permW ||| permA

/-- An update of the list at a capability with what `offer` gives for its bytes (R348, R354). -/
def listUpdate (c : TReg) (l : Loc) (offer : List Byte → List RankPair × Bool) : M Unit := do
  let s ← get
  let quick := homeOf l.key == .core s.cur && s.c.sq == []
  listHome l
  let raw ← listAtHome c l needRWA
  let o := offer raw
  listPut l quick (byteAt raw 0) (rankUpdate raw o.1 o.2)

/-! ## Words -/

/-- RKINIT's two forms (R356). -/
def execRkinit (acc : Bool) (a b : GReg) (s : State) : Host.Outcome State Fault Refusal :=
  let x := (s.rdI a).toNat
  let k := x % 256
  let base := x / 2 ^ 32
  let kOk := raiseIf (decide (k = 0) || decide (62 < k)) .format (formatInfo 5 0)
  if acc then
    runMtx (do
      kOk
      let d := (s.rdI b).toNat
      let tile := bitsOf d 5 0
      formatIf (minBad [lowBit d 6 7, lowBit d 11 63, if 5 < bitsOf d 10 8 then some 8 else none,
        if 64 < tile + rankRows k then some 0 else none]) 2
      let _ ← postEntry (meOfIndex s.cur (bitsOf d 10 8)) { blankEntry (.rank tile (rankRows k)) with desc := BitVec.ofNat 64 x }
        0 0 0 0) s
  else
    run (do
      kOk
      let c := s.rdG b
      let l ← listTarget c permW .store false
      let _ ← capcheck c (capAddr c) (rankSize k) permW
      storeBytes l (capAddr c) (rankHeader k 0 false negInf32 base) false) s

/-- RKINS (R357). -/
def execRkins (k : KReg) (d : VReg) (b : GReg) (s : State) : Host.Outcome State Fault Refusal :=
  run (do
    let s ← get
    let c := s.rdG b
    let vs := s.rdV d
    let ix := s.rdV (vregAdd d 1)
    let l ← listTarget c needRWA .atomic true
    listUpdate c l (fun raw => ((lanesOf (s.rdK k)).map (fun i =>
      (laneAt vs i, BitVec.ofNat 32 (field raw 8 4) + laneAt ix i)), false))) s

/-- RKMRG (R358). -/
def execRkmrg (a b : GReg) (s : State) : Host.Outcome State Fault Refusal :=
  run (do
    let s ← get
    let src := s.rdG a
    let dst := s.rdG b
    let _ ← listTarget src permR .load false
    let l ← listTarget dst needRWA .atomic true
    let raw ← listRead src permR
    listUpdate dst l (fun _ => (rankEntries raw, bitOf (byteAt raw 2) 0))) s

/-- P(r) of R359 after some ranks' lists: entries and NANSEEN. -/
def rankChain (ws : List (List Byte)) : List RankPair × Bool :=
  ws.foldl (fun p raw =>
    let u := rankUpdate raw p.1 p.2
    (rankEntries u, bitOf (byteAt u 2) 0)) ([], false)

/-- The list of a rank under `.bc` (R359): the first k of P(SIZE - 1), its own base index. -/
def rankCast (raw : List Byte) (p : List RankPair × Bool) : List Byte :=
  rankUpdate (rankHeader (byteAt raw 0) 0 false negInf32 (field raw 8 4)) p.1 p.2

/-- RKCHAIN (R359, R360): every participant contributes its own list and writes it when its own combination ends; under `.bc`
when the last one does. -/
def chainBody (bc : Bool) (c : TReg) : M Unit := do
  let l ← listTargetIn true c needRWA .atomic true
  listHome l
  let raw ← listAtHome c l needRWA
  let ws ← if bc then do ranked (← gathered (raw.map (·.toNat))) else chained (raw.map (·.toNat))
  let lists := ws.map (fun w => w.map (BitVec.ofNat 8))
  let r := (← get).myRank
  let own := lists.getD r []
  let p := rankChain (lists.take r)
  listPut l false (byteAt own 0) (if bc then rankCast own (rankChain lists) else rankUpdate own p.1 p.2)

/-- RKCHAIN: a publisher whose list is written waits only for its members to leave the collective. -/
def execRkchain (bc : Bool) (b : GReg) (s : State) : Host.Outcome State Fault Refusal :=
  run (do
    if !(s.c.wait == some .members && s.c.woken == some 1) then
      chainBody bc (s.rdG b)
      if s.inStream && s.c.latch.src != .item then
        modify (·.upd (fun c => { c with wait := some .members, woken := some 1 }))
    gatherEnd) s

/-- RKFLR (R361). -/
def execRkflr (d b : GReg) (what : RkWhat) (s : State) : Host.Outcome State Fault Refusal :=
  run (do
    let c := (← get).rdG b
    let _ ← listTarget c permR .load false
    let h ← readBlock (capAddr c) 16
    modify (·.block 0x521)
    setI d (BitVec.ofNat 64 (match what with
      | .flr => field h 4 4
      | .cnt => byteAt h 1
      | .k => byteAt h 0
      | .nan => byteAt h 2 % 2))) s

/-- RKGET (R362). -/
def execRkget (k : KReg) (d : VReg) (a b : GReg) (s : State) : Host.Outcome State Fault Refusal :=
  run (do
    let s ← get
    let c := s.rdG b
    let m := s.rdK k
    let at' := (s.rdI a).toNat
    let _ ← listTarget c permR .load false
    let raw ← listRead c permR
    let es := rankEntries raw
    let x := fun (l : Nat) => if at' + l < es.length then es.getD (at' + l) (negInf32, 0xFFFFFFFF) else (negInf32, 0xFFFFFFFF)
    modify (fun s => (s.wrV d (mergeVec m (s.rdV d) (fun l => (x l).1)) 1).wrV (vregAdd d 1)
      (mergeVec m (s.rdV (vregAdd d 1)) (fun l => (x l).2)) 1)
    modify (·.block 0x522)) s

/-- RKBND (R352, R363). -/
def execRkbnd (form : BndForm) (s : State) : Host.Outcome State Fault Refusal :=
  run (modify (fun s => s.upd (fun c => { c with bound := match form with
    | .put a => some ((s.rdI a).setWidth 32)
    | .clr => none }))) s

end Sys2Proof.Machine
end

