-- ==== Sys2Proof/Machine/Strm.lean ====
section
/-!
DEFINITION. The STRM group (R154 to R161), by the role of the executing core.
-/
namespace Sys2Proof.Machine

/-- Private code: a publisher's words between PUBOFF and PUBON (R160). -/
def Core.inPrivate (c : Core) : Bool := c.w.priv && c.w.st == .publisher

/-- A WEAVE fault of a kind at the word (R143). -/
def weaveFault (kind : Nat) : M Unit := do
  let c := (← get).c
  raise .weave (kind * 4096 + c.wordPc.toNat)

/-! ## SUB and RESUB -/

/-- The status of SUB and RESUB, with the publisher's core when it is 0 (R155). -/
def State.subStatus (s : State) (resub : Bool) (a b : Word) : Nat × Nat :=
  let c := s.c
  let task := match c.task with | some t => s.task? t | none => none
  let width := match task with | some t => t.width | none => 0
  let x := b.toNat
  let size := if resub then c.w.size else bitsOf x 28 16
  let rank := bitsOf x 12 0
  let busy := match c.w.st with
    | .alone | .detached => false
    | _ => true
  if busy then (4, 0)
  else if width ≤ a.toNat ∨ a.toNat = c.member then (3, 0)
  else if bitsOf x 63 36 ≠ 0 ∨ bitsOf x 31 29 ≠ 0 ∨ bitsOf x 15 13 ≠ 0
      ∨ (!resub ∧ (size < 2 ∨ width < size)) ∨ size = 0 ∨ rank = 0 ∨ size ≤ rank then (2, 0)
  else
    match (match task with | some t => t.memberCore a.toNat | none => none) with
    | none => (3, 0)
    | some (p, _) => if s.routeOk p s.cur then (0, p) else (1, 0)

/-- A successful SUB or RESUB: WAITING, the crossings reserved, the registration sent (R134, R138, R155).
(DEDUCED, log entry 22) -/
def State.register (s : State) (p : Nat) (a b : Word) (sz : Nat) (pol : Policy) : State :=
  let n := s.cur
  let rank := bitsOf b.toNat 12 0
  let tag := BitVec.ofNat 4 (bitsOf b.toNat 35 32)
  let now := s.cycle
  let s := s.upd (fun c => { c with w := { c.w with
    st := .waiting, size := sz, rank := rank, chan := a.toNat, policy := pol, pub := p, waitTag := tag, since := now } })
  s.updC p (fun c => { c with w := { c.w with regs := c.w.regs ++ [⟨n, tag, rank, sz, false⟩] } })

/-- The common part of SUB and RESUB (R155). -/
def subscribe (resub : Bool) (pol : Option Policy) (d a b : GReg) : M Unit := do
  let s ← get
  let x := s.rdI a
  let y := s.rdI b
  let r := s.subStatus resub x y
  setI d (BitVec.ofNat 64 r.1)
  if r.1 = 0 then
    modify (fun s => s.register r.2 x y (if resub then s.c.w.size else bitsOf y.toNat 28 16) (pol.getD s.c.w.policy))
  modify (fun s => s.upd (fun c => { c with readyAt := max c.readyAt (s.cycle + 2) }))

/-- SUB (R154, R155). -/
def execSubStream (policy : Policy) (d a b : GReg) (s : State) : Host.Outcome State Fault Refusal :=
  run (subscribe false (some policy) d a b) s

/-- RESUB keeps SIZE and POLICY (R155). -/
def execResub (d a b : GReg) (s : State) : Host.Outcome State Fault Refusal := run (subscribe true none d a b) s

/-- UNSUB (R156): a member whose condition is met leaves; on other cores it has no effect. -/
def execUnsub (a b : GReg) (off : BitVec 17) (s : State) : Host.Outcome State Fault Refusal :=
  let t := relTo s.c.wordPc off
  let met := decide (s.rdI a = s.rdI b)
  .next <|
    if s.c.latch.src = .item then (if met then s.leaveTo t else s.finish none)
    else match s.c.w.st with
    | .member | .dormant => if met then (s.detach s.cur).finish (some t) else s.finish none
    | _ => s.finish none

/-! ## Rendezvous -/

/-- The fields of a rendezvous item (R130). -/
def rdvItem (tag : BitVec 4) (hold : Bool) (it : Item) : Item := { it with rv := true, hold := hold, tag := tag }

/-- The WEAVE KIND 4 of RDV and RDVH (R157). -/
def State.rdvBad (s : State) : Bool :=
  s.c.latch.src != .item && s.c.w.st != .member && s.c.w.st != .dormant && s.c.w.st != .waiting
    && (s.c.inPrivate || s.c.w.brw != [])

/-- RDV: the item is published, and registrations with its tag join at the next (R138, R157). -/
def execRdv (tag : BitVec 4) (s : State) : Host.Outcome State Fault Refusal :=
  if s.rdvBad then run (weaveFault 4) s
  else
    let joins := s.c.latch.src != .item && s.c.publishes
    let s := s.finish none false (rdvItem tag false)
    .next (if joins then s.joinAll s.cur tag else s)

/-- Registrations with a tag that have arrived. -/
def Weave.arrivedWith (w : Weave) (tag : BitVec 4) : Nat := (w.regs.filter (fun r => r.arrived && r.tag == tag)).length

/-- RDVH: published once, then held until n registrations with the tag have arrived (R157); in system mode, where no word is
published, it neither joins nor holds, and RDV does not join. (DESIGN CHOICE, log entry 69) -/
def execRdvh (tag : BitVec 4) (n : BitVec 13) (s : State) : Host.Outcome State Fault Refusal :=
  if s.rdvBad then run (weaveFault 4) s
  else if s.c.latch.src = .item ∨ !s.c.publishes then .next (s.finish none)
  else
    let s := s.publishOnce (rdvItem tag true)
    if s.c.w.arrivedWith tag < n.toNat then
      .next ((s.holdAt .members).upd (fun c => if c.wait.isSome then { c with w := { c.w with
        rdvh := some (tag, n.toNat), since := if c.w.rdvh.isSome then c.w.since else s.cycle } } else c))
    else
      let s := s.upd (fun c => { c with w := { c.w with rdvh := none } })
      .next ((s.finish none).joinAll s.cur tag)

/-! ## BRW and WVOTE -/

/-- BRW (R147, R158). -/
def execBrw (a : GReg) (j : BitVec 9) (off : BitVec 17) (s : State) : Host.Outcome State Fault Refusal :=
  let c := s.c
  let cond := decide (s.rdI a ≠ 0)
  let t := relTo c.wordPc off
  let join := t + j.setWidth 12
  if c.latch.src != .item && c.inPrivate then run (weaveFault 4) s
  else if !s.inStream || (c.latch.src != .item && c.w.followers == []) then .next (s.finish (if cond then some t else none))
  else if c.latch.src = .item then
    run (do
      contribute [if cond then 1 else 0]
      modify (·.upd (fun c => { c with w := { c.w with
        brw := { target := t, join := join, path := false, more := false, mine := true, cond := cond } :: c.w.brw } }))) s
  else if 8 ≤ c.w.brw.length then run (weaveFault 3) s
  else
    runTo (do
      let vs ← gathered [if cond then 1 else 0]
      let r := startBrw c.pc t join (some cond) (vs.map (fun v => v.2.getD 2 0 != 0))
      modify (·.upd (fun c => { c with w := { c.w with brw := r.1 :: c.w.brw } }))
      return some r.2) s

/-- WVOTE (R159): any or all of the participants' votes. -/
def execWvote (all : Bool) (d a : GReg) (s : State) : Host.Outcome State Fault Refusal :=
  if s.c.latch.src != .item && s.c.inPrivate then run (weaveFault 4) s
  else
    run (do
      let own := if (← get).rdI a ≠ 0 then 1 else 0
      let vs ← gathered [own]
      gatherEnd
      let bs := vs.map (fun v => v.2.getD 2 0 != 0)
      setI d (if (if all then bs.all id else bs.any id) then 1 else 0)) s

/-! ## Private code -/

/-- PUBOFF is published; the words after it are private (R160). -/
def execPuboff (s : State) : Host.Outcome State Fault Refusal :=
  let own := s.c.latch.src != .item && s.c.w.st == .publisher
  let s := s.finish none
  .next (if own then s.upd (fun c => { c with w := { c.w with priv := true } }) else s)

/-- PUBON is published; private code ends with it (R160). -/
def execPubon (s : State) : Host.Outcome State Fault Refusal :=
  let s := if s.c.latch.src != .item then s.upd (fun c => { c with w := { c.w with priv := false } }) else s
  .next (s.finish none)

end Sys2Proof.Machine
end

