-- ==== Sys2Proof/Machine/VFp.lean ====
section
/-!
DEFINITION. The VFP group (R253 to R258): FP32 vector words.
-/
namespace Sys2Proof.Machine

/-- A guarded FP word of two operands. -/
def fpBin (k : KReg) (d a : VReg) (b : VSrc) (lat : Nat) (f : Bool → Lane → Lane → FRes) (s : State) :
    Host.Outcome State Fault Refusal :=
  runRing (fun _ => fpVec k d lat (fun s l => f s.c.ftz (laneAt (s.rdV a) l) (laneAt (s.rdSrc b) l))) s

/-- A guarded FP word that also reads vD. -/
def fpTern (k : KReg) (d a : VReg) (b : VSrc) (lat : Nat) (f : Bool → Lane → Lane → Lane → FRes) (s : State) :
    Host.Outcome State Fault Refusal :=
  runRing (fun _ => fpVec k d lat (fun s l =>
    f s.c.ftz (laneAt (s.rdV a) l) (laneAt (s.rdSrc b) l) (laneAt (s.rdV d) l))) s

/-- A NaN, or an operand with its sign changed (R254). -/
def signTo (f : Lane → Lane) (x : Lane) : FRes := (if (f32Val x).isNan then nan32 else f x, 0)

/-- VFADD (R254). -/
def execVfadd (k : KReg) (d a : VReg) (b : VSrc) (rm : Rm) (s : State) : Host.Outcome State Fault Refusal :=
  fpBin k d a b 4 (fun z x y => fAdd z (roundOf rm) x y) s

/-- VFSUB (R254). -/
def execVfsub (k : KReg) (d a : VReg) (b : VSrc) (rm : Rm) (s : State) : Host.Outcome State Fault Refusal :=
  fpBin k d a b 4 (fun z x y => fSub z (roundOf rm) x y) s

/-- VFMUL (R254). -/
def execVfmul (k : KReg) (d a : VReg) (b : VSrc) (rm : Rm) (s : State) : Host.Outcome State Fault Refusal :=
  fpBin k d a b 4 (fun z x y => fMul z (roundOf rm) x y) s

/-- VFMA (R254). -/
def execVfma (k : KReg) (d a : VReg) (b : VSrc) (rm : Rm) (s : State) : Host.Outcome State Fault Refusal :=
  fpTern k d a b 4 (fun z x y w => fFma z (roundOf rm) x y w) s

/-- VFMS (R254). -/
def execVfms (k : KReg) (d a : VReg) (b : VSrc) (rm : Rm) (s : State) : Host.Outcome State Fault Refusal :=
  fpTern k d a b 4 (fun z x y w => fFms z (roundOf rm) x y w) s

/-- VFMIN (R255). -/
def execVfmin (k : KReg) (d a : VReg) (b : VSrc) (num : Bool) (s : State) : Host.Outcome State Fault Refusal :=
  fpBin k d a b 4 (fun _ x y => fMinMax false num x y) s

/-- VFMAX (R255). -/
def execVfmax (k : KReg) (d a : VReg) (b : VSrc) (num : Bool) (s : State) : Host.Outcome State Fault Refusal :=
  fpBin k d a b 4 (fun _ x y => fMinMax true num x y) s

/-- VFABS (R254). -/
def execVfabs (k : KReg) (d a : VReg) (s : State) : Host.Outcome State Fault Refusal :=
  fpBin k d a (.v a) 4 (fun _ x _ => signTo (fun x => x &&& 0x7FFFFFFF) x) s

/-- VFNEG (R254). -/
def execVfneg (k : KReg) (d a : VReg) (s : State) : Host.Outcome State Fault Refusal :=
  fpBin k d a (.v a) 4 (fun _ x _ => signTo (fun x => x ^^^ 0x80000000) x) s

/-- VFCMP: a mask of latency 4 (R256). -/
def execVfcmp (k : KReg) (d : KReg) (a : VReg) (b : VSrc) (cond : FCond) (s : State) : Host.Outcome State Fault Refusal :=
  runRing (fun _ => do
    let s ← get
    let m := s.rdK k
    let r := fun l => fCmp cond (laneAt (s.rdV a) l) (laneAt (s.rdSrc b) l)
    set (s.wrK d (maskOf m (fun l => (r l).1)) 4)
    raiseFlags m (fun l => (r l).2)) s

/-- VFCLASS (R257). -/
def execVfclass (k : KReg) (d : KReg) (a : VReg) (classes : BitVec 9) (s : State) : Host.Outcome State Fault Refusal :=
  runVec (fun s => s.wrK d (maskOf (s.rdK k) (fun l => classes.getLsbD (fClass (laneAt (s.rdV a) l)))) 4) s

end Sys2Proof.Machine
end

