-- ==== Sys2Proof/Machine/VInt.lean ====
section
/-!
DEFINITION. The VINT group (R250 to R252): integer vector words, latency 2.
-/
namespace Sys2Proof.Machine

/-- s(v) of R251. -/
def vtVal (ty : VType) (v : Nat) : Int := if vtS ty then sextInt v (vtBits ty) else (v % 2 ^ vtBits ty : Nat)
def vtLo (ty : VType) : Int := if vtS ty then -(2 ^ (vtBits ty - 1)) else 0
def vtHi (ty : VType) : Int := if vtS ty then 2 ^ (vtBits ty - 1) - 1 else 2 ^ vtBits ty - 1
/-- An integer as an element: reduced mod 2^w. -/
def toElem (w : Nat) (x : Int) : Nat := (x % 2 ^ w).toNat

/-- The second source of a VINT word: under SB every element's b is G[B][w-1:0] (R250). -/
def State.rdElems (s : State) (b : VSrc) (w : Nat) : Vec :=
  match b with
  | .v r => s.rdV r
  | .g r => Vector.replicate 16 (laneOf w (fun _ => (s.rdI r).toNat))

/-- A guarded VINT word of latency 2: `f` gives an element from a, b and the old element of vD (R251). -/
def vintWord (k : KReg) (d a : VReg) (b : VSrc) (w : Nat) (f : Nat → Nat → Nat → Nat) (s : State) :
    Host.Outcome State Fault Refusal :=
  runVec (fun s =>
    let va := s.rdV a
    let vb := s.rdElems b w
    let vd := s.rdV d
    s.wrV d (mergeVec (s.rdK k) vd (fun l => laneOf w (fun j =>
      f (elemAt w (laneAt va l) j) (elemAt w (laneAt vb l) j) (elemAt w (laneAt vd l) j)))) 2) s

/-- A guarded unary VINT word on elements. -/
def vintUnary (k : KReg) (d a : VReg) (w : Nat) (f : Nat → Nat) (s : State) : Host.Outcome State Fault Refusal :=
  vintWord k d a (.v a) w (fun x _ _ => f x) s

/-- A guarded unary word on whole lanes. -/
def vlaneUnary (k : KReg) (d a : VReg) (f : Lane → Lane) (s : State) : Host.Outcome State Fault Refusal :=
  runVec (fun s =>
    let va := s.rdV a
    s.wrV d (mergeVec (s.rdK k) (s.rdV d) (fun l => f (laneAt va l))) 2) s

/-- VCMP's conditions (R252). -/
def vcondHolds (c : VCond) (x y : Int) : Bool :=
  match c with
  | .eq => x == y | .lt => decide (x < y) | .le => decide (x ≤ y) | .ne => x != y | .ge => decide (x ≥ y)
  | .gt => decide (x > y)

/-- VADD (R251). -/
def execVadd (k : KReg) (d a : VReg) (b : VSrc) (ty : VType) (s : State) : Host.Outcome State Fault Refusal :=
  vintWord k d a b (vtBits ty) (fun x y _ => x + y) s

/-- VSUB (R251). -/
def execVsub (k : KReg) (d a : VReg) (b : VSrc) (ty : VType) (s : State) : Host.Outcome State Fault Refusal :=
  vintWord k d a b (vtBits ty) (fun x y _ => x + (2 ^ vtBits ty - y)) s

/-- VMUL (R251). -/
def execVmul (k : KReg) (d a : VReg) (b : VSrc) (ty : VType) (s : State) : Host.Outcome State Fault Refusal :=
  vintWord k d a b (vtBits ty) (fun x y _ => x * y) s

/-- VMULH (R251). -/
def execVmulh (k : KReg) (d a : VReg) (b : VSrc) (ty : VType) (s : State) : Host.Outcome State Fault Refusal :=
  vintWord k d a b (vtBits ty) (fun x y _ => toElem (vtBits ty) (vtVal ty x * vtVal ty y / 2 ^ vtBits ty)) s

/-- VMAD (R251). -/
def execVmad (k : KReg) (d a : VReg) (b : VSrc) (ty : VType) (s : State) : Host.Outcome State Fault Refusal :=
  vintWord k d a b (vtBits ty) (fun x y z => z + x * y) s

/-- VAND: whole lanes, on vector sources TYPE has no effect (R251); it sizes SB's element (R250). -/
def execVand (k : KReg) (d a : VReg) (b : VSrc) (ty : VType) (s : State) : Host.Outcome State Fault Refusal :=
  vintWord k d a b (vtBits ty) (fun x y _ => Nat.land x y) s

/-- VOR: whole lanes, on vector sources TYPE has no effect (R251); it sizes SB's element (R250). -/
def execVor (k : KReg) (d a : VReg) (b : VSrc) (ty : VType) (s : State) : Host.Outcome State Fault Refusal :=
  vintWord k d a b (vtBits ty) (fun x y _ => Nat.lor x y) s

/-- VXOR: whole lanes, on vector sources TYPE has no effect (R251); it sizes SB's element (R250). -/
def execVxor (k : KReg) (d a : VReg) (b : VSrc) (ty : VType) (s : State) : Host.Outcome State Fault Refusal :=
  vintWord k d a b (vtBits ty) (fun x y _ => Nat.xor x y) s

/-- VSHL (R251). -/
def execVshl (k : KReg) (d a : VReg) (b : VSrc) (ty : VType) (s : State) : Host.Outcome State Fault Refusal :=
  vintWord k d a b (vtBits ty) (fun x y _ => x * 2 ^ (y % vtBits ty)) s

/-- VSHR (R251). -/
def execVshr (k : KReg) (d a : VReg) (b : VSrc) (ty : VType) (s : State) : Host.Outcome State Fault Refusal :=
  vintWord k d a b (vtBits ty) (fun x y _ => x / 2 ^ (y % vtBits ty)) s

/-- VSAR (R251). -/
def execVsar (k : KReg) (d a : VReg) (b : VSrc) (ty : VType) (s : State) : Host.Outcome State Fault Refusal :=
  vintWord k d a b (vtBits ty) (fun x y _ => toElem (vtBits ty) (sextInt x (vtBits ty) / 2 ^ (y % vtBits ty))) s

/-- VMIN (R251). -/
def execVmin (k : KReg) (d a : VReg) (b : VSrc) (ty : VType) (s : State) : Host.Outcome State Fault Refusal :=
  vintWord k d a b (vtBits ty) (fun x y _ => if vtVal ty x ≤ vtVal ty y then x else y) s

/-- VMAX (R251). -/
def execVmax (k : KReg) (d a : VReg) (b : VSrc) (ty : VType) (s : State) : Host.Outcome State Fault Refusal :=
  vintWord k d a b (vtBits ty) (fun x y _ => if vtVal ty x ≥ vtVal ty y then x else y) s

/-- VABS (R251: -2^(w-1) stays itself). -/
def execVabs (k : KReg) (d a : VReg) (ty : VType) (s : State) : Host.Outcome State Fault Refusal :=
  vintUnary k d a (vtBits ty) (fun x => (vtVal ty x).natAbs) s

/-- VCMP: a mask of latency 2, 0 in inactive lanes (R252). -/
def execVcmp (k : KReg) (d : KReg) (a : VReg) (b : VSrc) (cond : VCond) (signed : Bool) (s : State) :
    Host.Outcome State Fault Refusal :=
  runVec (fun s =>
    let va := s.rdV a
    let vb := s.rdSrc b
    let f := fun (x : Lane) => if signed then x.toInt else (x.toNat : Int)
    s.wrK d (maskOf (s.rdK k) (fun l => vcondHolds cond (f (laneAt va l)) (f (laneAt vb l)))) 2) s

/-- VSEL writes every lane (R252). -/
def execVsel (k : KReg) (d a : VReg) (b : VSrc) (ty : VType) (s : State) : Host.Outcome State Fault Refusal :=
  runVec (fun s =>
    let va := s.rdV a
    s.wrV d (mergeVec (s.rdK k) (s.rdElems b (vtBits ty)) (laneAt va)) 2) s

/-- VPOPC (R251). -/
def execVpopc (k : KReg) (d a : VReg) (ty : VType) (s : State) : Host.Outcome State Fault Refusal :=
  vintUnary k d a (vtBits ty) (fun x => popcountNat (vtBits ty) x) s

/-- VCLZ (R251). -/
def execVclz (k : KReg) (d a : VReg) (ty : VType) (s : State) : Host.Outcome State Fault Refusal :=
  vintUnary k d a (vtBits ty) (fun x => if x = 0 then vtBits ty else vtBits ty - 1 - x.log2) s

/-- VADDS (R251). -/
def execVadds (k : KReg) (d a : VReg) (b : VSrc) (ty : VType) (s : State) : Host.Outcome State Fault Refusal :=
  vintWord k d a b (vtBits ty) (fun x y _ => toElem (vtBits ty) (satInt (vtVal ty x + vtVal ty y) (vtLo ty) (vtHi ty))) s

/-- VSUBS (R251). -/
def execVsubs (k : KReg) (d a : VReg) (b : VSrc) (ty : VType) (s : State) : Host.Outcome State Fault Refusal :=
  vintWord k d a b (vtBits ty) (fun x y _ => toElem (vtBits ty) (satInt (vtVal ty x - vtVal ty y) (vtLo ty) (vtHi ty))) s

/-- VMOVS saturates a whole lane, read as s32, to the type (R252). -/
def execVmovs (k : KReg) (d a : VReg) (ty : VType) (s : State) : Host.Outcome State Fault Refusal :=
  vlaneUnary k d a (fun x => BitVec.ofInt 32 (satInt x.toInt (vtLo ty) (vtHi ty))) s

/-- VEXT (R252). -/
def execVext (k : KReg) (d a : VReg) (n : BitVec 2) (ty : VType) (s : State) : Host.Outcome State Fault Refusal :=
  vlaneUnary k d a (fun x => BitVec.ofInt 32 (vtVal ty (elemAt (vtBits ty) x n.toNat))) s

end Sys2Proof.Machine
end

