-- ==== Sys2Proof/Machine/VMem.lean ====
section
/-!
DEFINITION. The VMEM group (R289 to R300): elements, their checks in sequence order, first-fault behaviour.
-/
namespace Sys2Proof.Machine

/-- The tests of `access` on elements (lane, address) in order: what passed, and the first that fails (R290). `odd` is an
alignment breach of the base, found on the first element (R296). (DEDUCED, log entry 18) -/
def elemAccess (c : TReg) (size : Nat) (need : BitVec 12) (a : Acc) (odd : Bool) :
    Nat → List (Nat × Nat) → M (List (Nat × Nat × Loc) × Option VFault)
  | _, [] => return ([], none)
  | n, (lane, ea) :: r => do
    let s ← get
    let one : M Loc := do
      let l ← accessOr odd c ea size need a
      let s ← get
      raiseIf (a == .load && l.host && !s.hostAnswers l.key size) .remote ea
      return l
    match one.on s with
    | (.ok l, t) => do
      set t
      let (ls, f) ← elemAccess c size need a odd (n + 1) r
      return ((lane, ea, l) :: ls, f)
    | (.error (.trap e), t) => do
      set t
      return ([], some { cause := e.cause, count := n, addr := BitVec.ofNat 64 ea })
    | (.error e, _) => throw e

/-- A word that touches an accumulator tile in use waits at issue (R166). -/
def tilesFree (es : List (Nat × Nat × Loc)) : M Unit := do
  let s ← get
  holdIf (es.any (fun e => s.tileBusy e.2.2.key)) .entry

/-- Elements with their numbers in the word's sequence. -/
def numbered (start : Nat) (es : List (Nat × Nat × Loc)) : List (Nat × Nat × Nat × Loc) :=
  (es.zipIdx start).map (fun x => (x.2, x.1))

/-- The granules in which elements of a load meet an uncorrectable error (R291); queued atomics come first (R202). -/
def badGranules (size : Nat) (es : List (Nat × Nat × Nat × Loc)) : M (List Nat) := do
  let s ← get
  let far := es.filter (fun e => !s.c.inStack e.2.2.1)
  far.forM (fun e => amoFirst e.2.2.2.key size)
  let s ← get
  return (far.filter (fun e => s.meetsError e.2.2.2.key size)).map (fun e => e.2.2.2.key / 16)

/-- The bytes of numbered elements, in order; one that lies in a failing granule ends them, and whether later elements still
arrive is open (R291). -/
def elemBytes (size : Nat) (bad : List Nat) : List (Nat × Nat × Nat × Loc) → M (List (Nat × Nat) × Option VFault)
  | [] => return ([], none)
  | (n, lane, ea, l) :: r => do
    let s ← get
    let one : M (List Byte × Bool) := do
      raiseIf (!s.c.inStack ea && bad.contains (l.key / 16)) .mcheck (s.mcheckInfo l.key ea)
      loadBytes l ea size
    match one.on s with
    | (.ok (bs, _), t) => do
      set t
      let (ls, f) ← elemBytes size bad r
      return ((lane, leNat bs) :: ls, f)
    | (.error (.trap e), t) => do
      set t
      let f : VFault := { cause := e.cause, count := n, addr := e.einfo }
      if s.pick 0x160 2 = 0 then return ([], some f)
      else
        let (ls, _) ← elemBytes size bad r
        return (ls, some f)
    | (.error e, _) => throw e

/-- Lanes of a register replaced. -/
def vecPut (v : Vec) (xs : List (Nat × Lane)) : Vec :=
  vecOf (fun l => match xs.find? (fun x => x.1 == l) with | some x => x.2 | none => laneAt v l)

/-- Elements of the active lanes: lane and address (R289). -/
def activeElems (m : Mask) (f : Nat → Nat) : List (Nat × Nat) := (lanesOf m).map (fun l => (l, f l))
/-- Elements packed by position among the active lanes (R299). -/
def packedElems (m : Mask) (base : Nat) : List (Nat × Nat) :=
  ((List.range 16).zip (lanesOf m)).map (fun jl => (jl.2, addEa base (4 * jl.1 : Nat)))

/-- G[B][63:0] + G[A][63:0] mod 2^64. -/
def State.vbase (s : State) (a b : GReg) : Nat := addEa (capAddr (s.rdG b)) (s.rdI a).toNat

/-- A vector load of elements: each value extended by `ext`; it blocks unless its base is in the near window (R294,
R297). -/
def vloadElems (d : VReg) (b : GReg) (size : Nat) (ext : Nat → Lane) (localBase : Bool) (es : List (Nat × Nat))
    (start : Nat) : M (Option VFault) := do
  let cap := (← get).rdG b
  let (ok, f1) ← elemAccess cap size permR .load false start (es.drop start)
  tilesFree ok
  let es := numbered start ok
  let (xs, f2) ← elemBytes size (← badGranules size es) es
  modify (fun s =>
    let s := s.wrV d (vecPut (s.rdV d) (xs.map (fun x => (x.1, ext x.2)))) (if localBase then 5 else 1)
    if localBase then s else s.block 0x161)
  return (match f2 with | some f => some f | none => f1)

/-- Whether an address lies in the core's own scratchpad window. -/
def inAlias (ea : Nat) : Bool :=
  match regionOf ea with
  | some (.window .near _ _) => true
  | _ => false

/-- VLD (R294, R297). -/
def execVld (k : KReg) (d : VReg) (a b : GReg) (s : State) : Host.Outcome State Fault Refusal :=
  runRing (fun start => do
    let s ← get
    let base := s.vbase a b
    vloadElems d b 4 (fun x => BitVec.ofNat 32 x) (inAlias base) (activeElems (s.rdK k) (fun l => addEa base (4 * l : Nat))) start) s

/-- Consecutive cells merged: runs of neighbouring bytes. -/
def cellRuns : List Host.Cell → List (Nat × List Byte)
  | [] => []
  | (a, b) :: r =>
    match cellRuns r with
    | (a', bs) :: rs => if a' = a + 1 then (a, b :: bs) :: rs else (a, [b]) :: (a', bs) :: rs
    | [] => [(a, [b])]

/-- One store-queue entry holding some elements: their bytes, their granules' tags cleared (R292, R293). -/
def State.queueCells (s : State) (l : Loc) (cells : List Host.Cell) : State :=
  if l.host then s.enqueue (.host (cellRuns cells)) .hub
  else s.enqueue (.write cells (if l.tagless then [] else
    (cells.foldl (fun (ts : NSet) c => nins (c.1 / 16) ts) []).map (fun g => (g, false)))) (homeOf l.key)

/-- Elements grouped by the 64-byte line they fall in, in order (R293). -/
def byLine : List (Nat × Nat × Loc) → List (List (Nat × Nat × Loc))
  | [] => []
  | e :: r =>
    match byLine r with
    | (x :: xs) :: ls => if x.2.1 / 64 = e.2.1 / 64 then (e :: x :: xs) :: ls else [e] :: (x :: xs) :: ls
    | ls => [e] :: ls

/-- A vector store of elements: one queue entry per line touched or per element (R293, R298); stack granules go to the
stack cache (R149). -/
def vstoreElems (d : VReg) (b : GReg) (size : Nat) (lines odd : Bool) (es : List (Nat × Nat)) (start : Nat) :
    M (Option VFault) := do
  let s ← get
  let cap := s.rdG b
  let v := s.rdV d
  let (ok, f) ← elemAccess cap size permW .store odd start (es.drop start)
  tilesFree ok
  let s ← get
  let (stk, mem) := (ok.filter (fun e => s.c.inStack e.2.1), ok.filter (fun e => !s.c.inStack e.2.1))
  let groups := if lines then byLine mem else mem.map (fun e => [e])
  roomFor groups.length
  let val := fun (e : Nat × Nat × Loc) => leBytes (laneAt v e.1).toNat size
  stk.forM (fun e => storeBytes e.2.2 e.2.1 (val e) false)
  modify (fun s => groups.foldl (fun s g => match g with
    | [] => s
    | e :: _ => s.queueCells e.2.2 ((g.map (fun e => cellsAt e.2.2.key (val e))).foldr (· ++ ·) [])) s)
  return f

/-- VST (R298). -/
def execVst (k : KReg) (d : VReg) (a b : GReg) (s : State) : Host.Outcome State Fault Refusal :=
  runRing (fun start => do
    let s ← get
    let base := s.vbase a b
    vstoreElems d b 4 true false (activeElems (s.rdK k) (fun l => addEa base (4 * l : Nat))) start) s

/-- Element size and extension of the memory types (R296, R297). -/
def mtSize : MType → Nat
  | .z8 | .s8 => 1 | .z16 | .s16 => 2 | .w32 => 4
def mtExt (ty : MType) (x : Nat) : Lane :=
  match ty with
  | .s8 => BitVec.ofInt 32 (sextInt x 8)
  | .s16 => BitVec.ofInt 32 (sextInt x 16)
  | _ => BitVec.ofNat 32 x

/-- Addresses of VLDS and VSTS: base + stride x lane (R296). -/
def State.strided (s : State) (k : KReg) (a b : GReg) : List (Nat × Nat) :=
  activeElems (s.rdK k) (fun l => addEa (capAddr (s.rdG b)) ((s.rdI a).toInt * l))

/-- VLDS (R297). -/
def execVlds (k : KReg) (d : VReg) (a b : GReg) (ty : MType) (s : State) : Host.Outcome State Fault Refusal :=
  runRing (fun start => do vloadElems d b (mtSize ty) (mtExt ty) false ((← get).strided k a b) start) s

/-- VSTS (R298). -/
def execVsts (k : KReg) (d : VReg) (a b : GReg) (ty : MType) (s : State) : Host.Outcome State Fault Refusal :=
  runRing (fun start => do vstoreElems d b (mtSize ty) false false ((← get).strided k a b) start) s

/-- Addresses of VGATH and VSCAT: base + index x 2^SCALE (R296). -/
def State.indexed (s : State) (k : KReg) (a : VReg) (b : GReg) (si : Bool) (scale : BitVec 2) : List (Nat × Nat) :=
  activeElems (s.rdK k) (fun l =>
    let x := laneAt (s.rdV a) l
    addEa (capAddr (s.rdG b)) ((if si then x.toInt else (x.toNat : Int)) * 2 ^ scale.toNat))

/-- VGATH (R297). -/
def execVgath (k : KReg) (d a : VReg) (b : GReg) (ty : MType) (si : Bool) (scale : BitVec 2) (s : State) :
    Host.Outcome State Fault Refusal :=
  runRing (fun start => do vloadElems d b (mtSize ty) (mtExt ty) false ((← get).indexed k a b si scale) start) s

/-- VSCAT (R298). -/
def execVscat (k : KReg) (d a : VReg) (b : GReg) (ty : MType) (si : Bool) (scale : BitVec 2) (s : State) :
    Host.Outcome State Fault Refusal :=
  runRing (fun start => do vstoreElems d b (mtSize ty) false false ((← get).indexed k a b si scale) start) s

/-- E5 (R525): a single-lane XLATE on a page's first word counts one too many, and its trap reads CLASS M; the hook of vendor
generation 2 brings the count back. (DEDUCED, log entry 48) -/
def e5Count (active : Nat) (f : VFault) : VFault :=
  if active = 1 ∧ f.cause = Cause.xlate.code ∧ f.addr.toNat % 0x10000 = 0 then { f with count := f.count + 1, e5 := true } else f

/-- VCMPST (R299, R525). -/
def execVcmpst (k : KReg) (d : VReg) (a b : GReg) (s : State) : Host.Outcome State Fault Refusal :=
  runRing (fun start => do
    let s ← get
    let m := s.rdK k
    let r ← vstoreElems d b 4 true false (packedElems m (s.vbase a b)) start
    return r.map (e5Count (lanesOf m).length)) s

/-- VEXPLD (R299). -/
def execVexpld (k : KReg) (d : VReg) (a b : GReg) (s : State) : Host.Outcome State Fault Refusal :=
  runRing (fun start => do
    let s ← get
    vloadElems d b 4 (fun x => BitVec.ofNat 32 x) false (packedElems (s.rdK k) (s.vbase a b)) start) s

/-- The four sectors of a VLDA (R300): those with an active lane. -/
def vldaSectors (es : List (Nat × Nat × Loc)) : List Sector :=
  (List.range 4).filterMap (fun q =>
    match es.filter (fun e => e.1 / 4 == q) with
    | [] => none
    | xs => some ⟨(xs.map (fun e => (List.range 4).map (fun i => (4 * e.1 + i, e.2.2.key + i)))).foldr (· ++ ·) [], false⟩)

/-- VLDA (R300). -/
def execVlda (k : KReg) (d : VReg) (a b : GReg) (s : State) : Host.Outcome State Fault Refusal :=
  runRing (fun start => do
    loadRoom
    let s ← get
    let base := s.vbase a b
    let (ok, f1) ← elemAccess (s.rdG b) 4 permR .load (decide (base % 16 ≠ 0)) start
      ((activeElems (s.rdK k) (fun l => addEa base (4 * l : Nat))).drop start)
    tilesFree ok
    let s ← get
    let (xs, f2) ← elemBytes 4 [] ((numbered start ok).filter (fun e => s.c.inStack e.2.2.1))
    let far := ok.filter (fun e => !s.c.inStack e.2.1)
    far.forM (fun e => do
      amoFirst e.2.2.key 4
      asyncRead e.2.2 e.2.1 4)
    modify (fun s => if xs = [] then s else s.wrV d (vecPut (s.rdV d) (xs.map (fun x => (x.1, BitVec.ofNat 32 x.2)))) 1)
    if far ≠ [] then
      addLoad (fun spos => { file := .v, reg := d.val, ty := none, spos := spos, ea := base
                             ring := s.c.ownEntry, lanes := ok.map Prod.fst, elem0 := start, sectors := vldaSectors far })
    return (match f2 with | some f => some f | none => f1)) s

end Sys2Proof.Machine
end

