-- ==== Sys2Proof/Machine/VPerm.lean ====
section
/-!
DEFINITION. The VPERM group (R301 to R310): lane moves, scans, reduction, and the collectives VXCHG and VCHAIN.
-/
namespace Sys2Proof.Machine

/-! ## Lane moves (R301, R302) -/

/-- A guarded lane move of latency 3: `f` gives lane l from the state at issue. -/
def laneMove (k : KReg) (d : VReg) (f : State → Nat → Lane) (s : State) : Host.Outcome State Fault Refusal :=
  runVec (fun s => s.wrV d (mergeVec (s.rdK k) (s.rdV d) (f s)) 3) s

/-- VPERM (R301). -/
def execVperm (k : KReg) (d a b : VReg) (two : Bool) (s : State) : Host.Outcome State Fault Refusal :=
  laneMove k d (fun s l =>
    let i := (laneAt (s.rdV b) l).toNat % (if two then 32 else 16)
    laneAt (s.rdV (vregAdd a (i / 16))) (i % 16)) s

/-- VSHUF (R301). -/
def execVshuf (k : KReg) (d a : VReg) (form : Shuf) (s : State) : Host.Outcome State Fault Refusal :=
  laneMove k d (fun s l =>
    let va := s.rdV a
    match form with
    | .xor x => laneAt va (Nat.xor l x.toNat)
    | .ziplo b => if l % 2 = 0 then laneAt va (l / 2) else laneAt (s.rdV b) ((l - 1) / 2)
    | .ziphi b => if l % 2 = 0 then laneAt va (l / 2 + 8) else laneAt (s.rdV b) ((l - 1) / 2 + 8)
    | .unzipe b => if l < 8 then laneAt va (2 * l) else laneAt (s.rdV b) (2 * l - 16)
    | .unzipo b => if l < 8 then laneAt va (2 * l + 1) else laneAt (s.rdV b) (2 * l - 15)) s

/-- VROT (R301). -/
def execVrot (k : KReg) (d a : VReg) (n : LaneSrc) (s : State) : Host.Outcome State Fault Refusal :=
  laneMove k d (fun s l =>
    let m := match n with | .imm x => x.toNat | .g r => (s.rdI r).toNat % 16
    laneAt (s.rdV a) ((l + m) % 16)) s

/-- VBCST (R301). -/
def execVbcst (k : KReg) (d : VReg) (src : BcSrc) (s : State) : Host.Outcome State Fault Refusal :=
  laneMove k d (fun s _ => match src with
    | .lane a n => laneAt (s.rdV a) n.toNat
    | .g r => (s.rdI r).setWidth 32) s

/-- VCPRS: active lanes of vA packed to the bottom of vD (R302). -/
def execVcprs (k : KReg) (d a : VReg) (z : Bool) (s : State) : Host.Outcome State Fault Refusal :=
  runVec (fun s =>
    let ls := lanesOf (s.rdK k)
    s.wrV d (vecOf (fun l => match ls[l]? with
      | some i => laneAt (s.rdV a) i
      | none => if z then 0 else laneAt (s.rdV d) l)) 3) s

/-- VEXPD: the bottom lanes of vA spread over the active lanes of vD (R302). -/
def execVexpd (k : KReg) (d a : VReg) (z : Bool) (s : State) : Host.Outcome State Fault Refusal :=
  runVec (fun s =>
    let ls := lanesOf (s.rdK k)
    s.wrV d (vecOf (fun l => match ls.findIdx? (· == l) with
      | some j => laneAt (s.rdV a) j
      | none => if z then 0 else laneAt (s.rdV d) l)) 3) s

/-- VBALLOT (R301). -/
def execVballot (k : KReg) (d : GReg) (a : VReg) (s : State) : Host.Outcome State Fault Refusal :=
  runVec (fun s => s.wrI d ((maskOf (s.rdK k) (fun l => laneAt (s.rdV a) l != 0)).setWidth 64) 3) s

/-- A vector register by number, or VFAULT (R303). -/
def vregNum (n : Nat) : Except VFault VReg :=
  if h : n < 384 then .ok ⟨n, h⟩ else .error { cause := Cause.vfault.code, count := 0, addr := BitVec.ofNat 64 n }

/-- VGETX (R303). -/
def execVgetx (d : VReg) (a : GReg) (s : State) : Host.Outcome State Fault Refusal :=
  runRing (fun _ => do
    let s ← get
    match vregNum ((s.rdI a).toNat % 512) with
    | .ok r => do
      set (s.wrV d (s.rdV r) 3)
      return none
    | .error f => return some f) s

/-- VPUTX (R303). -/
def execVputx (d : GReg) (a : VReg) (s : State) : Host.Outcome State Fault Refusal :=
  runRing (fun _ => do
    let s ← get
    match vregNum ((s.rdI d).toNat % 512) with
    | .ok r => do
      set (s.wrV r (s.rdV a) 3)
      return none
    | .error f => return some f) s

/-! ## Scans and reduction (R304 to R307) -/

/-- op(x, y) of R304, and its flags. -/
def combine (op : ScanOp) (ty : ScanType) (ftz : Bool) (x y : Lane) : FRes :=
  match ty, op with
  | .f32, .add => fAdd ftz .rne x y
  | .f32, .min => fMinMax false false x y
  | .f32, .max => fMinMax true false x y
  | .s32, .min => (if x.toInt ≤ y.toInt then x else y, 0)
  | .s32, .max => (if x.toInt ≥ y.toInt then x else y, 0)
  | .z32, .min => (if x.toNat ≤ y.toNat then x else y, 0)
  | .z32, .max => (if x.toNat ≥ y.toNat then x else y, 0)
  | _, .add => (x + y, 0)
  | _, .and => (x &&& y, 0)
  | _, .or => (x ||| y, 0)
  | _, .xor => (x ^^^ y, 0)

/-- The identity of R304. -/
def combineId (op : ScanOp) (ty : ScanType) : Lane :=
  match ty, op with
  | .f32, .add => 0x80000000
  | .f32, .min => 0x7F800000
  | .f32, .max => 0xFF800000
  | .s32, .min => 0x7FFFFFFF
  | .s32, .max => 0x80000000
  | .z32, .min => 0xFFFFFFFF
  | .z32, .max => 0
  | _, .and => 0xFFFFFFFF
  | _, _ => 0

/-- A scan in lane order (R305, R306): each lane's result where one is written, and the flags of its step. -/
def scanLanes (op : ScanOp) (ty : ScanType) (ftz ex brk : Bool) (m seg : Mask) (v : Vec) : List (Option Lane × FFlags) :=
  let idn := combineId op ty
  ((List.range 16).foldl (fun (st : Lane × List (Option Lane × FFlags)) l =>
    let acc := if laneOn seg l then idn else st.1
    if laneOn m l then
      let r := combine op ty ftz acc (laneAt v l)
      (r.1, st.2 ++ [(some (if ex then acc else r.1), r.2)])
    else (if brk then idn else acc, st.2 ++ [(none, 0)])) (idn, [])).2

/-- A scan word's effect; the mask `seg` starts segments. `e2` is the defect of R522: lane 0 receives the identity. -/
def scanWord (k : KReg) (d a : VReg) (op : ScanOp) (ty : ScanType) (ex brk : Bool) (seg : State → Mask) (e2 : State → Bool)
    (s : State) : Host.Outcome State Fault Refusal :=
  runRing (fun _ => do
    let s ← get
    let m := s.rdK k
    let rs := scanLanes op ty s.c.ftz ex brk m (seg s) (s.rdV a)
    let bad := e2 s && m == 0
    set (s.wrV d (vecOf (fun l => match rs.getD l (none, 0) with
      | (some x, _) => x
      | (none, _) => if bad && l == 0 then combineId op ty else laneAt (s.rdV d) l)) 6)
    raiseFlags m (fun l => (rs.getD l (none, 0)).2)) s

/-- VSCAN (R305; E2 below vendor generation 3, R522). -/
def execVscan (k : KReg) (d a : VReg) (op : ScanOp) (ty : ScanType) (ex brk : Bool) (s : State) :
    Host.Outcome State Fault Refusal :=
  scanWord k d a op ty ex brk (fun _ => 0) (fun s => brk && decide (s.c.vgen < 3)) s

/-- VSSCAN (R306). -/
def execVsscan (k : KReg) (d a : VReg) (b : KReg) (op : ScanOp) (ty : ScanType) (ex brk : Bool) (s : State) :
    Host.Outcome State Fault Refusal :=
  scanWord k d a op ty ex brk (fun s => s.rdK b) (fun _ => false) s

/-- One level of the tree of R307: values with the lanes they cover; flags with those lanes. -/
def redLevel (f : Lane → Lane → FRes) : List (Lane × List Nat) → List (Lane × List Nat) × List (FFlags × List Nat)
  | x :: y :: r =>
    let q := f x.1 y.1
    let t := redLevel f r
    ((q.1, x.2 ++ y.2) :: t.1, (q.2, x.2 ++ y.2) :: t.2)
  | xs => (xs, [])

/-- The tree of R307 over 16 values: its root, and the flags each step raised with the lanes it covers. -/
def redTree (f : Lane → Lane → FRes) (xs : List Lane) : Lane × List (FFlags × List Nat) :=
  let r := (List.range 4).foldl (fun (st : List (Lane × List Nat) × List (FFlags × List Nat)) _ =>
    let t := redLevel f st.1
    (t.1, st.2 ++ t.2)) (xs.zip ((List.range 16).map (fun l => [l])), [])
  ((r.1.map Prod.fst).headD 0, r.2)

/-- VRED (R307). -/
def execVred (k : KReg) (d : GReg) (a : VReg) (op : ScanOp) (ty : ScanType) (s : State) : Host.Outcome State Fault Refusal :=
  runRing (fun _ => do
    let s ← get
    let m := s.rdK k
    let r := redTree (combine op ty s.c.ftz)
      ((List.range 16).map (fun l => if laneOn m l then laneAt (s.rdV a) l else combineId op ty))
    set (s.wrI d (r.1.setWidth 64) 3)
    raiseFlags m (fun l => r.2.foldl (fun x e => if e.2.contains l then x ||| e.1 else x) 0)) s

/-! ## Collectives (R308 to R310) -/

/-- The slices of VXCHG for group index `i` of a group of n: contributions of the group in rank order (R309). -/
def exchange (n i : Nat) (vs : List (List Nat)) : Vec :=
  let w := 16 / n
  vecOf (fun l => BitVec.ofNat 32 ((vs.getD (l / w) []).getD (i * w + l % w) 0))

/-- VXCHG (R308, R309). -/
def execVxchg (d a : VReg) (n : BitVec 2) (s : State) : Host.Outcome State Fault Refusal :=
  runRing (fun _ => do
    let s ← get
    let g := 2 * 2 ^ n.toNat
    let vs ← gathered ((s.rdV a).toList.map (·.toNat))
    let ws ← ranked vs
    raiseIf (decide (ws.length % g ≠ 0)) .weave (5 * 4096 + s.c.wordPc.toNat)
    gatherEnd
    modify (fun s => s.wrV d (exchange g (s.myRank % g) ((ws.drop (s.myRank / g * g)).take g)) 1)
    return none) s

/-- P(r) of R310 for the ranks before `r`: every rank combines under its own FTZ, the first of its words. -/
def chainUpTo (op : ScanOp) (ty : ScanType) (ws : List (List Nat)) (r : Nat) : List Lane :=
  (ws.take r).foldl (fun (p : List Lane) w =>
    (List.range 16).map (fun l => (combine op ty (w.getD 0 0 == 1) (p.getD l 0) (BitVec.ofNat 32 (w.getD (l + 1) 0))).1))
    (List.replicate 16 (combineId op ty))

/-- VCHAIN (R308, R310). -/
def execVchain (k : KReg) (d a : VReg) (op : ScanOp) (ty : ScanType) (form : ChainForm) (s : State) :
    Host.Outcome State Fault Refusal :=
  runRing (fun _ => do
    let s ← get
    let m := s.rdK k
    let own := fun l => if laneOn m l then laneAt (s.rdV a) l else combineId op ty
    let vs ← gathered ((if s.c.ftz then 1 else 0) :: (List.range 16).map (fun l => (own l).toNat))
    let ws ← ranked vs
    gatherEnd
    let s ← get
    let prev := chainUpTo op ty ws s.myRank
    let step := fun l => combine op ty s.c.ftz (prev.getD l 0) (own l)
    let all := chainUpTo op ty ws ws.length
    set (s.wrV d (mergeVec m (s.rdV d) (fun l => match form with
      | .incl => (step l).1
      | .excl => prev.getD l 0
      | .bc => all.getD l 0)) 1)
    raiseFlags m (fun l => (step l).2)) s

end Sys2Proof.Machine
end

