-- ==== Sys2Proof/Machine/Dispatch.lean ====
section
/-!
DEFINITION. The dispatch: one arm per constructor of `Instr`, each one call of that instruction's meaning.
-/
namespace Sys2Proof.Machine

def exec (i : Instr) (s : State) : Host.Outcome State Fault Refusal :=
  match i with
  -- SYS (0x00)
  | .nop => Sys2Proof.Machine.execNop s
  | .trap n => Sys2Proof.Machine.execTrap n s
  | .bkpt n => Sys2Proof.Machine.execBkpt n s
  | .eret rpl kill => Sys2Proof.Machine.execEret rpl kill s
  | .mfsr d sr => Sys2Proof.Machine.execMfsr d sr s
  | .mtsr sr a => Sys2Proof.Machine.execMtsr sr a s
  | .isync => Sys2Proof.Machine.execIsync s
  | .idle => Sys2Proof.Machine.execIdle s
  | .tlbinv kind scope a b => Sys2Proof.Machine.execTlbinv kind scope a b s
  | .echk form => Sys2Proof.Machine.execEchk form s
  | .csave d b spad => Sys2Proof.Machine.execCsave d b spad s
  | .crest d b spad => Sys2Proof.Machine.execCrest d b spad s
  | .hpload d src => Sys2Proof.Machine.execHpload d src s
  | .hpact d a => Sys2Proof.Machine.execHpact d a s
  | .hpqry d what => Sys2Proof.Machine.execHpqry d what s
  | .ident d what => Sys2Proof.Machine.execIdent d what s
  -- CTL (0x01)
  | .br off => Sys2Proof.Machine.execBr off s
  | .bcc a b off => Sys2Proof.Machine.execBcc a b off s
  | .bk a b off => Sys2Proof.Machine.execBk a b off s
  | .call off => Sys2Proof.Machine.execCall off s
  | .callr a => Sys2Proof.Machine.execCallr a s
  | .ret => Sys2Proof.Machine.execRet s
  | .jmpr a => Sys2Proof.Machine.execJmpr a s
  | .loop a off => Sys2Proof.Machine.execLoop a off s
  | .enter n => Sys2Proof.Machine.execEnter n s
  | .leave => Sys2Proof.Machine.execLeave s
  -- STRM (0x02)
  | .subStream policy d a b => Sys2Proof.Machine.execSubStream policy d a b s
  | .unsub a b off => Sys2Proof.Machine.execUnsub a b off s
  | .resub d a b => Sys2Proof.Machine.execResub d a b s
  | .rdv tag => Sys2Proof.Machine.execRdv tag s
  | .rdvh tag n => Sys2Proof.Machine.execRdvh tag n s
  | .brw a j off => Sys2Proof.Machine.execBrw a j off s
  | .wvote all d a => Sys2Proof.Machine.execWvote all d a s
  | .puboff => Sys2Proof.Machine.execPuboff s
  | .pubon => Sys2Proof.Machine.execPubon s
  -- INT (0x03)
  | .add d a b sh => Sys2Proof.Machine.execAdd d a b sh s
  | .addi d a imm => Sys2Proof.Machine.execAddi d a imm s
  | .sub d a b sh => Sys2Proof.Machine.execSub d a b sh s
  | .subi d a imm => Sys2Proof.Machine.execSubi d a imm s
  | .mul d a b => Sys2Proof.Machine.execMul d a b s
  | .muli d a imm => Sys2Proof.Machine.execMuli d a imm s
  | .mulhS d a b => Sys2Proof.Machine.execMulhS d a b s
  | .mulhiS d a imm => Sys2Proof.Machine.execMulhiS d a imm s
  | .mulhZ d a b => Sys2Proof.Machine.execMulhZ d a b s
  | .mulhiZ d a imm => Sys2Proof.Machine.execMulhiZ d a imm s
  | .divS d a b => Sys2Proof.Machine.execDivS d a b s
  | .diviS d a imm => Sys2Proof.Machine.execDiviS d a imm s
  | .divZ d a b => Sys2Proof.Machine.execDivZ d a b s
  | .diviZ d a imm => Sys2Proof.Machine.execDiviZ d a imm s
  | .remS d a b => Sys2Proof.Machine.execRemS d a b s
  | .remiS d a imm => Sys2Proof.Machine.execRemiS d a imm s
  | .remZ d a b => Sys2Proof.Machine.execRemZ d a b s
  | .remiZ d a imm => Sys2Proof.Machine.execRemiZ d a imm s
  | .and d a b sh => Sys2Proof.Machine.execAnd d a b sh s
  | .andi d a imm => Sys2Proof.Machine.execAndi d a imm s
  | .or d a b sh => Sys2Proof.Machine.execOr d a b sh s
  | .ori d a imm => Sys2Proof.Machine.execOri d a imm s
  | .xor d a b sh => Sys2Proof.Machine.execXor d a b sh s
  | .xori d a imm => Sys2Proof.Machine.execXori d a imm s
  | .andn d a b sh => Sys2Proof.Machine.execAndn d a b sh s
  | .andni d a imm => Sys2Proof.Machine.execAndni d a imm s
  | .shl d a b => Sys2Proof.Machine.execShl d a b s
  | .shli d a n => Sys2Proof.Machine.execShli d a n s
  | .shr d a b => Sys2Proof.Machine.execShr d a b s
  | .shri d a n => Sys2Proof.Machine.execShri d a n s
  | .sar d a b => Sys2Proof.Machine.execSar d a b s
  | .sari d a n => Sys2Proof.Machine.execSari d a n s
  | .rol d a b => Sys2Proof.Machine.execRol d a b s
  | .roli d a n => Sys2Proof.Machine.execRoli d a n s
  | .minS d a b => Sys2Proof.Machine.execMinS d a b s
  | .miniS d a imm => Sys2Proof.Machine.execMiniS d a imm s
  | .minZ d a b => Sys2Proof.Machine.execMinZ d a b s
  | .miniZ d a imm => Sys2Proof.Machine.execMiniZ d a imm s
  | .maxS d a b => Sys2Proof.Machine.execMaxS d a b s
  | .maxiS d a imm => Sys2Proof.Machine.execMaxiS d a imm s
  | .maxZ d a b => Sys2Proof.Machine.execMaxZ d a b s
  | .maxiZ d a imm => Sys2Proof.Machine.execMaxiZ d a imm s
  | .sltS d a b => Sys2Proof.Machine.execSltS d a b s
  | .sltiS d a imm => Sys2Proof.Machine.execSltiS d a imm s
  | .sltZ d a b => Sys2Proof.Machine.execSltZ d a b s
  | .sltiZ d a imm => Sys2Proof.Machine.execSltiZ d a imm s
  | .seq d a b => Sys2Proof.Machine.execSeq d a b s
  | .seqi d a imm => Sys2Proof.Machine.execSeqi d a imm s
  | .clz d a => Sys2Proof.Machine.execClz d a s
  | .clzi d imm => Sys2Proof.Machine.execClzi d imm s
  | .ctz d a => Sys2Proof.Machine.execCtz d a s
  | .ctzi d imm => Sys2Proof.Machine.execCtzi d imm s
  | .popc d a => Sys2Proof.Machine.execPopc d a s
  | .popci d imm => Sys2Proof.Machine.execPopci d imm s
  | .brev d a => Sys2Proof.Machine.execBrev d a s
  | .brevi d imm => Sys2Proof.Machine.execBrevi d imm s
  | .bfx d a b w sx => Sys2Proof.Machine.execBfx d a b w sx s
  | .bfxi d a pos wm1 sx => Sys2Proof.Machine.execBfxi d a pos wm1 sx s
  | .bfi d a b w => Sys2Proof.Machine.execBfi d a b w s
  | .bfii d a pos wm1 => Sys2Proof.Machine.execBfii d a pos wm1 s
  | .mad d a b => Sys2Proof.Machine.execMad d a b s
  | .madi d a imm => Sys2Proof.Machine.execMadi d a imm s
  | .mov d a => Sys2Proof.Machine.execMov d a s
  | .li d imm => Sys2Proof.Machine.execLi d imm s
  -- CAP (0x04)
  | .cget d a field => Sys2Proof.Machine.execCget d a field s
  | .cseta d a b => Sys2Proof.Machine.execCseta d a b s
  | .cadd d a imm => Sys2Proof.Machine.execCadd d a imm s
  | .candp d a perms => Sys2Proof.Machine.execCandp d a perms s
  | .cfrom d a b => Sys2Proof.Machine.execCfrom d a b s
  | .cclr d a => Sys2Proof.Machine.execCclr d a s
  | .cchk d a b => Sys2Proof.Machine.execCchk d a b s
  | .gnew d a b => Sys2Proof.Machine.execGnew d a b s
  | .grev d a => Sys2Proof.Machine.execGrev d a s
  -- LDS (0x05)
  | .ld d a ty off => Sys2Proof.Machine.execLd d a ty off s
  | .st d a ty off => Sys2Proof.Machine.execSt d a ty off s
  | .ldc d a off => Sys2Proof.Machine.execLdc d a off s
  | .stc d a off => Sys2Proof.Machine.execStc d a off s
  | .lda d a ty off => Sys2Proof.Machine.execLda d a ty off s
  | .waitld n => Sys2Proof.Machine.execWaitld n s
  | .pref a off => Sys2Proof.Machine.execPref a off s
  -- ATM (0x06)
  | .amo op size order d a b => Sys2Proof.Machine.execAmo op size order d a b s
  | .amof op order d a b => Sys2Proof.Machine.execAmof op order d a b s
  | .cas size order d a b => Sys2Proof.Machine.execCas size order d a b s
  | .ldaq size scope d b => Sys2Proof.Machine.execLdaq size scope d b s
  | .strl size scope a b => Sys2Proof.Machine.execStrl size scope a b s
  | .amonr op size order a b => Sys2Proof.Machine.execAmonr op size order a b s
  -- SYN (0x07)
  | .fence kind scope => Sys2Proof.Machine.execFence kind scope s
  | .binit a bar => Sys2Proof.Machine.execBinit a bar s
  | .bexp a bar => Sys2Proof.Machine.execBexp a bar s
  | .barr d bar => Sys2Proof.Machine.execBarr d bar s
  | .bwait a bar => Sys2Proof.Machine.execBwait a bar s
  | .waitm size scope d a b => Sys2Proof.Machine.execWaitm size scope d a b s
  | .msend async core port a b => Sys2Proof.Machine.execMsend async core port a b s
  | .pget d port => Sys2Proof.Machine.execPget d port s
  -- MSK (0x08)
  | .kand d a b => Sys2Proof.Machine.execKand d a b s
  | .kor d a b => Sys2Proof.Machine.execKor d a b s
  | .kxor d a b => Sys2Proof.Machine.execKxor d a b s
  | .kandn d a b => Sys2Proof.Machine.execKandn d a b s
  | .knot d a => Sys2Proof.Machine.execKnot d a s
  | .kmov form => Sys2Proof.Machine.execKmov form s
  | .kpopc d a => Sys2Proof.Machine.execKpopc d a s
  | .kff d a => Sys2Proof.Machine.execKff d a s
  | .kset d imm => Sys2Proof.Machine.execKset d imm s
  -- VINT (0x09)
  | .vadd k d a b ty => Sys2Proof.Machine.execVadd k d a b ty s
  | .vsub k d a b ty => Sys2Proof.Machine.execVsub k d a b ty s
  | .vmul k d a b ty => Sys2Proof.Machine.execVmul k d a b ty s
  | .vmulh k d a b ty => Sys2Proof.Machine.execVmulh k d a b ty s
  | .vmad k d a b ty => Sys2Proof.Machine.execVmad k d a b ty s
  | .vand k d a b ty => Sys2Proof.Machine.execVand k d a b ty s
  | .vor k d a b ty => Sys2Proof.Machine.execVor k d a b ty s
  | .vxor k d a b ty => Sys2Proof.Machine.execVxor k d a b ty s
  | .vshl k d a b ty => Sys2Proof.Machine.execVshl k d a b ty s
  | .vshr k d a b ty => Sys2Proof.Machine.execVshr k d a b ty s
  | .vsar k d a b ty => Sys2Proof.Machine.execVsar k d a b ty s
  | .vmin k d a b ty => Sys2Proof.Machine.execVmin k d a b ty s
  | .vmax k d a b ty => Sys2Proof.Machine.execVmax k d a b ty s
  | .vabs k d a ty => Sys2Proof.Machine.execVabs k d a ty s
  | .vcmp k d a b cond signed => Sys2Proof.Machine.execVcmp k d a b cond signed s
  | .vsel k d a b ty => Sys2Proof.Machine.execVsel k d a b ty s
  | .vpopc k d a ty => Sys2Proof.Machine.execVpopc k d a ty s
  | .vclz k d a ty => Sys2Proof.Machine.execVclz k d a ty s
  | .vadds k d a b ty => Sys2Proof.Machine.execVadds k d a b ty s
  | .vsubs k d a b ty => Sys2Proof.Machine.execVsubs k d a b ty s
  | .vmovs k d a ty => Sys2Proof.Machine.execVmovs k d a ty s
  | .vext k d a n ty => Sys2Proof.Machine.execVext k d a n ty s
  -- VFP (0x0A)
  | .vfadd k d a b rm => Sys2Proof.Machine.execVfadd k d a b rm s
  | .vfsub k d a b rm => Sys2Proof.Machine.execVfsub k d a b rm s
  | .vfmul k d a b rm => Sys2Proof.Machine.execVfmul k d a b rm s
  | .vfma k d a b rm => Sys2Proof.Machine.execVfma k d a b rm s
  | .vfms k d a b rm => Sys2Proof.Machine.execVfms k d a b rm s
  | .vfmin k d a b num => Sys2Proof.Machine.execVfmin k d a b num s
  | .vfmax k d a b num => Sys2Proof.Machine.execVfmax k d a b num s
  | .vfabs k d a => Sys2Proof.Machine.execVfabs k d a s
  | .vfneg k d a => Sys2Proof.Machine.execVfneg k d a s
  | .vfcmp k d a b cond => Sys2Proof.Machine.execVfcmp k d a b cond s
  | .vfclass k d a classes => Sys2Proof.Machine.execVfclass k d a classes s
  | .vfdiv k d a b => Sys2Proof.Machine.execVfdiv k d a b s
  | .vfsqrt k d a => Sys2Proof.Machine.execVfsqrt k d a s
  -- VSFU (0x0B)
  | .vrcp k d a => Sys2Proof.Machine.execVrcp k d a s
  | .vrsq k d a => Sys2Proof.Machine.execVrsq k d a s
  | .vexp2 k d a => Sys2Proof.Machine.execVexp2 k d a s
  | .vlog2 k d a => Sys2Proof.Machine.execVlog2 k d a s
  | .vsinpi k d a => Sys2Proof.Machine.execVsinpi k d a s
  | .vcospi k d a => Sys2Proof.Machine.execVcospi k d a s
  | .vtanh k d a => Sys2Proof.Machine.execVtanh k d a s
  | .vsigm k d a => Sys2Proof.Machine.execVsigm k d a s
  | .verf k d a => Sys2Proof.Machine.execVerf k d a s
  | .vrng k d a b => Sys2Proof.Machine.execVrng k d a b s
  | .vgumb k d a => Sys2Proof.Machine.execVgumb k d a s
  -- VCVT (0x0C)
  | .vcvt k d a src dst rm sat slot tbl => Sys2Proof.Machine.execVcvt k d a src dst rm sat slot tbl s
  | .vcvtsr k d a b dst sat slot => Sys2Proof.Machine.execVcvtsr k d a b dst sat slot s
  | .vpack k d a ty sat => Sys2Proof.Machine.execVpack k d a ty sat s
  | .vunpk k d a ty => Sys2Proof.Machine.execVunpk k d a ty s
  | .vscale k d a b inv e8 => Sys2Proof.Machine.execVscale k d a b inv e8 s
  | .vrint k d a rm x => Sys2Proof.Machine.execVrint k d a rm x s
  | .vbscale k d a target b32 => Sys2Proof.Machine.execVbscale k d a target b32 s
  -- VMEM (0x0D)
  | .vld k d a b => Sys2Proof.Machine.execVld k d a b s
  | .vst k d a b => Sys2Proof.Machine.execVst k d a b s
  | .vlds k d a b ty => Sys2Proof.Machine.execVlds k d a b ty s
  | .vsts k d a b ty => Sys2Proof.Machine.execVsts k d a b ty s
  | .vgath k d a b ty si scale => Sys2Proof.Machine.execVgath k d a b ty si scale s
  | .vscat k d a b ty si scale => Sys2Proof.Machine.execVscat k d a b ty si scale s
  | .vcmpst k d a b => Sys2Proof.Machine.execVcmpst k d a b s
  | .vexpld k d a b => Sys2Proof.Machine.execVexpld k d a b s
  | .vlda k d a b => Sys2Proof.Machine.execVlda k d a b s
  -- VPERM (0x0E)
  | .vperm k d a b two => Sys2Proof.Machine.execVperm k d a b two s
  | .vshuf k d a form => Sys2Proof.Machine.execVshuf k d a form s
  | .vrot k d a n => Sys2Proof.Machine.execVrot k d a n s
  | .vbcst k d src => Sys2Proof.Machine.execVbcst k d src s
  | .vscan k d a op ty ex brk => Sys2Proof.Machine.execVscan k d a op ty ex brk s
  | .vsscan k d a b op ty ex brk => Sys2Proof.Machine.execVsscan k d a b op ty ex brk s
  | .vred k d a op ty => Sys2Proof.Machine.execVred k d a op ty s
  | .vxchg d a n => Sys2Proof.Machine.execVxchg d a n s
  | .vchain k d a op ty form => Sys2Proof.Machine.execVchain k d a op ty form s
  | .vcprs k d a z => Sys2Proof.Machine.execVcprs k d a z s
  | .vexpd k d a z => Sys2Proof.Machine.execVexpd k d a z s
  | .vballot k d a => Sys2Proof.Machine.execVballot k d a s
  | .vgetx d a => Sys2Proof.Machine.execVgetx d a s
  | .vputx d a => Sys2Proof.Machine.execVputx d a s
  -- VDOT (0x0F)
  | .vdot4 k d a b as bs => Sys2Proof.Machine.execVdot4 k d a b as bs s
  | .vdot8 k d a b as bs => Sys2Proof.Machine.execVdot8 k d a b as bs s
  | .vdoth k d a b f16 => Sys2Proof.Machine.execVdoth k d a b f16 s
  | .vdott k d a b tbl half => Sys2Proof.Machine.execVdott k d a b tbl half s
  | .vtblw tbl a => Sys2Proof.Machine.execVtblw tbl a s
  -- MTX (0x10)
  | .mfmt b => Sys2Proof.Machine.execMfmt b s
  | .mgang d a b n => Sys2Proof.Machine.execMgang d a b n s
  | .mpass d a b gang => Sys2Proof.Machine.execMpass d a b gang s
  | .mlist d a b => Sys2Proof.Machine.execMlist d a b s
  | .mzero tile cm1 me => Sys2Proof.Machine.execMzero tile cm1 me s
  | .mldc d b => Sys2Proof.Machine.execMldc d b s
  | .mstc d a b => Sys2Proof.Machine.execMstc d a b s
  | .mwait n => Sys2Proof.Machine.execMwait n s
  | .mtbl me tbl b => Sys2Proof.Machine.execMtbl me tbl b s
  | .mqry d a what clr => Sys2Proof.Machine.execMqry d a what clr s
  -- RANK (0x11)
  | .rkinit acc a b => Sys2Proof.Machine.execRkinit acc a b s
  | .rkins k d b => Sys2Proof.Machine.execRkins k d b s
  | .rkmrg a b => Sys2Proof.Machine.execRkmrg a b s
  | .rkchain bc b => Sys2Proof.Machine.execRkchain bc b s
  | .rkflr d b what => Sys2Proof.Machine.execRkflr d b what s
  | .rkget k d a b => Sys2Proof.Machine.execRkget k d a b s
  | .rkbnd form => Sys2Proof.Machine.execRkbnd form s
  -- ENG (0x12)
  | .epost d a b => Sys2Proof.Machine.execEpost d a b s
  | .ewait d a => Sys2Proof.Machine.execEwait d a s
  | .ecan d a => Sys2Proof.Machine.execEcan d a s
  | .estat d a => Sys2Proof.Machine.execEstat d a s
  -- TASK (0x13)
  | .tend => Sys2Proof.Machine.execTend s
  | .ttick d => Sys2Proof.Machine.execTtick d s
  | .tspawn d a b => Sys2Proof.Machine.execTspawn d a b s
  | .tsig d e => Sys2Proof.Machine.execTsig d e s
  | .fopen d a b => Sys2Proof.Machine.execFopen d a b s
  | .fclose d a => Sys2Proof.Machine.execFclose d a s
  | .fwait d a => Sys2Proof.Machine.execFwait d a s
  | .fcan d a => Sys2Proof.Machine.execFcan d a s
  | .qenq d a b s1 w => Sys2Proof.Machine.execQenq d a b s1 w s
  | .qdeq d b form => Sys2Proof.Machine.execQdeq d b form s
  | .qres d b s1 claim => Sys2Proof.Machine.execQres d b s1 claim s
  | .qcmt d a b => Sys2Proof.Machine.execQcmt d a b s
  | .qflush d b => Sys2Proof.Machine.execQflush d b s
  | .tyield d => Sys2Proof.Machine.execTyield d s
  -- STEP (0x14)
  | .ssend d a b => Sys2Proof.Machine.execSsend d a b s
  | .ssenda d a b => Sys2Proof.Machine.execSsenda d a b s
  | .sbar d a dom => Sys2Proof.Machine.execSbar d a dom s
  | .sdom d a what => Sys2Proof.Machine.execSdom d a what s
  | .sclk d form => Sys2Proof.Machine.execSclk d form s
  -- pair halves (R38)
  | .hnop => Sys2Proof.Machine.execHnop s
  | .hadd d a => Sys2Proof.Machine.execHadd d a s
  | .hsub d a => Sys2Proof.Machine.execHsub d a s
  | .hand d a => Sys2Proof.Machine.execHand d a s
  | .hor d a => Sys2Proof.Machine.execHor d a s
  | .hxor d a => Sys2Proof.Machine.execHxor d a s
  | .hshl d a => Sys2Proof.Machine.execHshl d a s
  | .hshr d a => Sys2Proof.Machine.execHshr d a s
  | .hmov d a => Sys2Proof.Machine.execHmov d a s
  | .haddi d a imm => Sys2Proof.Machine.execHaddi d a imm s
  | .handi d a imm => Sys2Proof.Machine.execHandi d a imm s
  | .hshli d a n => Sys2Proof.Machine.execHshli d a n s
  | .hshri d a n => Sys2Proof.Machine.execHshri d a n s
  | .hli d imm => Sys2Proof.Machine.execHli d imm s
  | .hvfadd d a => Sys2Proof.Machine.execHvfadd d a s
  | .hvfmul d a => Sys2Proof.Machine.execHvfmul d a s
  | .hvmov d a => Sys2Proof.Machine.execHvmov d a s
  | .hkand d a => Sys2Proof.Machine.execHkand d a s
  | .hkor d a => Sys2Proof.Machine.execHkor d a s
  | .hld d a imm => Sys2Proof.Machine.execHld d a imm s
  | .hst d a imm => Sys2Proof.Machine.execHst d a imm s
  -- events of the cores (rows 280-298)
  | .resultWrite core idx => Sys2Proof.Machine.execResultWrite core idx s
  | .loadSectorArrival core idx sector => Sys2Proof.Machine.execLoadSectorArrival core idx sector s
  | .storeQueueDrain core idx => Sys2Proof.Machine.execStoreQueueDrain core idx s
  | .stackSpill core => Sys2Proof.Machine.execStackSpill core s
  | .walkComplete core va => Sys2Proof.Machine.execWalkComplete core va s
  | .scrub die => Sys2Proof.Machine.execScrub die s
  | .impreciseTrapDelivery core => Sys2Proof.Machine.execImpreciseTrapDelivery core s
  | .item core => Sys2Proof.Machine.execItem core s
  | .weaveHold core => Sys2Proof.Machine.execWeaveHold core s
  | .weaveRelease core => Sys2Proof.Machine.execWeaveRelease core s
  | .registrationArrival core => Sys2Proof.Machine.execRegistrationArrival core s
  | .rdvTimeout core => Sys2Proof.Machine.execRdvTimeout core s
  | .collectiveArrival core => Sys2Proof.Machine.execCollectiveArrival core s
  | .depositArrival core => Sys2Proof.Machine.execDepositArrival core s
  | .asyncDepositApply core port => Sys2Proof.Machine.execAsyncDepositApply core port s
  | .waitmWake core => Sys2Proof.Machine.execWaitmWake core s
  | .waitmPoll core => Sys2Proof.Machine.execWaitmPoll core s
  | .waitmYield core => Sys2Proof.Machine.execWaitmYield core s
  | .savedTaskRestore idx cores => Sys2Proof.Machine.execSavedTaskRestore idx cores s
  -- events of the matrix engines (rows 299-304)
  | .postAccept core => Sys2Proof.Machine.execPostAccept core s
  | .passGrant me => Sys2Proof.Machine.execPassGrant me s
  | .gangStart cluster => Sys2Proof.Machine.execGangStart cluster s
  | .gangLatchTimeout me id => Sys2Proof.Machine.execGangLatchTimeout me id s
  | .passComplete me => Sys2Proof.Machine.execPassComplete me s
  | .mtblArrive me => Sys2Proof.Machine.execMtblArrive me s
  -- events of the engines (rows 305-321)
  | .combineWindowExpiry idx => Sys2Proof.Machine.execCombineWindowExpiry idx s
  | .postAcceptance core => Sys2Proof.Machine.execPostAcceptance core s
  | .copy idx => Sys2Proof.Machine.execCopy idx s
  | .gather idx => Sys2Proof.Machine.execGather idx s
  | .scatter idx => Sys2Proof.Machine.execScatter idx s
  | .fill idx => Sys2Proof.Machine.execFill idx s
  | .iload idx => Sys2Proof.Machine.execIload idx s
  | .convert idx => Sys2Proof.Machine.execConvert idx s
  | .resume idx => Sys2Proof.Machine.execResume idx s
  | .route idx => Sys2Proof.Machine.execRoute idx s
  | .jobStart eng => Sys2Proof.Machine.execJobStart eng s
  | .jobComplete eng => Sys2Proof.Machine.execJobComplete eng s
  | .routeToken die => Sys2Proof.Machine.execRouteToken die s
  | .sieveDeadlock die => Sys2Proof.Machine.execSieveDeadlock die s
  | .ctxset => Sys2Proof.Machine.execCtxset s
  | .save die => Sys2Proof.Machine.execSave die s
  | .restore die => Sys2Proof.Machine.execRestore die s
  -- events of the Hamper (rows 322-338)
  | .launchTake ctx queue => Sys2Proof.Machine.execLaunchTake ctx queue s
  | .launchDispatch lid => Sys2Proof.Machine.execLaunchDispatch lid s
  | .agePromotion lid => Sys2Proof.Machine.execAgePromotion lid s
  | .taskStart lid cores => Sys2Proof.Machine.execTaskStart lid cores s
  | .rangeSteal lid die => Sys2Proof.Machine.execRangeSteal lid die s
  | .cancelDeadline tid => Sys2Proof.Machine.execCancelDeadline tid s
  | .spawnWindowExpiry die idx => Sys2Proof.Machine.execSpawnWindowExpiry die idx s
  | .flushTimerExpiry queue block => Sys2Proof.Machine.execFlushTimerExpiry queue block s
  | .commitTimeout queue block => Sys2Proof.Machine.execCommitTimeout queue block s
  | .queueDeadlock ctx => Sys2Proof.Machine.execQueueDeadlock ctx s
  | .budgetPeriod ctx => Sys2Proof.Machine.execBudgetPeriod ctx s
  | .saveDeadline ctx => Sys2Proof.Machine.execSaveDeadline ctx s
  | .secondDeadline ctx => Sys2Proof.Machine.execSecondDeadline ctx s
  | .stepRelease tid dom => Sys2Proof.Machine.execStepRelease tid dom s
  | .stepTimeout core => Sys2Proof.Machine.execStepTimeout core s
  | .sendLanding idx => Sys2Proof.Machine.execSendLanding idx s
  | .sclkWaitExpiry core => Sys2Proof.Machine.execSclkWaitExpiry core s
  | .huskSwitch core => Sys2Proof.Machine.execHuskSwitch core s
  | .delayExpiry core => Sys2Proof.Machine.execDelayExpiry core s
  -- register writes that are rows of their own (rows 341-348)
  | .modeWrite x => Sys2Proof.Machine.execModeWrite x s
  | .grantbaseWrite x => Sys2Proof.Machine.execGrantbaseWrite x s
  | .xbaseWrite x => Sys2Proof.Machine.execXbaseWrite x s
  | .dutyWrite x => Sys2Proof.Machine.execDutyWrite x s
  | .fpflagsWrite sr x => Sys2Proof.Machine.execFpflagsWrite sr x s
  | .portfullWrite x => Sys2Proof.Machine.execPortfullWrite x s
  | .ecccClear x => Sys2Proof.Machine.execEcccClear x s
  | .registerWrite sr x => Sys2Proof.Machine.execRegisterWrite sr x s
  -- the host link (rows 349-368)
  | .rdmaWrite qp rkey va data => Sys2Proof.Machine.execRdmaWrite qp rkey va data s
  | .rdmaRead qp rkey va len => Sys2Proof.Machine.execRdmaRead qp rkey va len s
  | .compareAndSwap qp rkey va cmp new => Sys2Proof.Machine.execCompareAndSwap qp rkey va cmp new s
  | .fetchAndAdd qp rkey va x => Sys2Proof.Machine.execFetchAndAdd qp rkey va x s
  | .mread src ctx seqn reg => Sys2Proof.Machine.execMread src ctx seqn reg s
  | .mwrite src ctx seqn reg x => Sys2Proof.Machine.execMwrite src ctx seqn reg x s
  | .window src ctx seqn idx qp raddr rkey len => Sys2Proof.Machine.execWindow src ctx seqn idx qp raddr rkey len s
  | .ringset src ctx seqn addr cap head => Sys2Proof.Machine.execRingset src ctx seqn addr cap head s
  | .enrol src ctx seqn key => Sys2Proof.Machine.execEnrol src ctx seqn key s
  | .preempt src ctx seqn => Sys2Proof.Machine.execPreempt src ctx seqn s
  | .release src ctx seqn => Sys2Proof.Machine.execRelease src ctx seqn s
  | .attest src ctx seqn nonce => Sys2Proof.Machine.execAttest src ctx seqn nonce s
  | .dreply src ctx seqn act answer => Sys2Proof.Machine.execDreply src ctx seqn act answer s
  | .huskdata src ctx seqn off total data => Sys2Proof.Machine.execHuskdata src ctx seqn off total data s
  | .dutyRecordRepeat act => Sys2Proof.Machine.execDutyRecordRepeat act s
  | .smbusAccess wr reg x owners => Sys2Proof.Machine.execSmbusAccess wr reg x owners s
  | .jtagUnlock token key sig => Sys2Proof.Machine.execJtagUnlock token key sig s
  | .powerGood => Sys2Proof.Machine.execPowerGood s
  | .throttleStep => Sys2Proof.Machine.execThrottleStep s
  | .thermalTrip => Sys2Proof.Machine.execThermalTrip s
  -- rows 369-374
  | .unassignedEncoding w => Sys2Proof.Machine.execUnassignedEncoding w s
  | .budgetExhausted ctx which => Sys2Proof.Machine.execBudgetExhausted ctx which s
  | .parkedActivityTimeout act => Sys2Proof.Machine.execParkedActivityTimeout act s
  | .placementClaim lid cores => Sys2Proof.Machine.execPlacementClaim lid cores s
  | .hostWindowNak ctx addr => Sys2Proof.Machine.execHostWindowNak ctx addr s
  | .eccError addr uncorrectable => Sys2Proof.Machine.execEccError addr uncorrectable s

end Sys2Proof.Machine
end

