-- ==== Sys2Proof/Machine/Step.lean ====
section
/-!
DEFINITION. The step: who acts, and what a core's turn does; the word placed where the next fetch finds it; how the
machine is cut into a core for the host.
-/
namespace Sys2Proof.Machine

/-- Whether an instruction is a step of the machine's agents (rows 280 to 374 but the register writes and UNASSIGNED
ENCODING, which words carry) rather than a word or a pair half. (DESIGN CHOICE, log entry 10) -/
def isEvent (i : Instr) : Bool :=
  match i with
  | .resultWrite _ _ | .loadSectorArrival _ _ _ | .storeQueueDrain _ _ | .stackSpill _ | .walkComplete _ _ | .scrub _
  | .impreciseTrapDelivery _ | .item _ | .weaveHold _ | .weaveRelease _ | .registrationArrival _ | .rdvTimeout _
  | .collectiveArrival _ | .depositArrival _ | .asyncDepositApply _ _ | .waitmWake _ | .waitmPoll _ | .waitmYield _
  | .savedTaskRestore _ _ | .postAccept _ | .passGrant _ | .gangStart _ | .gangLatchTimeout _ _ | .passComplete _
  | .mtblArrive _ | .combineWindowExpiry _ | .postAcceptance _ | .copy _ | .gather _ | .scatter _
  | .fill _ | .iload _ | .convert _ | .resume _ | .route _ | .jobStart _
  | .jobComplete _ | .routeToken _ | .sieveDeadlock _ | .ctxset | .save _ | .restore _
  | .launchTake _ _ | .launchDispatch _ | .agePromotion _ | .taskStart _ _ | .rangeSteal _ _ | .cancelDeadline _
  | .spawnWindowExpiry _ _ | .flushTimerExpiry _ _ | .commitTimeout _ _ | .queueDeadlock _ | .budgetPeriod _ | .saveDeadline _
  | .secondDeadline _ | .stepRelease _ _ | .stepTimeout _ | .sendLanding _ | .sclkWaitExpiry _ | .huskSwitch _
  | .delayExpiry _ | .rdmaWrite _ _ _ _ | .rdmaRead _ _ _ _ | .compareAndSwap _ _ _ _ _ | .fetchAndAdd _ _ _ _ | .mread _ _ _ _
  | .mwrite _ _ _ _ _ | .window _ _ _ _ _ _ _ _ | .ringset _ _ _ _ _ _ | .enrol _ _ _ _ | .preempt _ _ _ | .release _ _ _
  | .attest _ _ _ _ | .dreply _ _ _ _ _ | .huskdata _ _ _ _ _ _ | .dutyRecordRepeat _ | .smbusAccess _ _ _ _ | .jtagUnlock _ _ _
  | .powerGood | .throttleStep | .thermalTrip | .budgetExhausted _ _ | .parkedActivityTimeout _ | .placementClaim _ _
  | .hostWindowNak _ _ | .eccError _ _ => true
  | _ => false

/-- A pair's turn: beside an HNOP the other half alone (R38, R41). -/
def stepPair (h1 h0 : Instr) (s : State) : Host.Outcome State Fault Refusal :=
  if h1 = .hnop then exec h0 s
  else if h0 = .hnop then exec h1 (s.upd (fun c => { c with latch := { c.latch with half := true } }))
  else execPair h1 h0 s

/-- The current core's turn: issue, then one word (R43). -/
noncomputable def State.coreStep (s : State) : Host.Outcome State Fault Refusal :=
  match s.issue with
  | .done t => .next t
  | .run (.full _ i) t => exec i t
  | .run (.pair _ h1 h0) t => stepPair h1 h0 t

/-- What a datagram does (R506). -/
noncomputable def runDatagram (s : State) (src : Nat) (d : List Byte) : Host.Outcome State Fault Refusal :=
  match datagramOf src d with
  | .foreign => .next s
  | .bad src ctx seqn ty => .next (s.badRequest src ctx seqn ty)
  | .request i => exec i s

/-- One step of the package: the next turn listed, or a word of the current core. With the clocks stopped only a power
cycle acts (R519). (DESIGN CHOICE, log entry 9; DESIGN CHOICE, log entry 14) -/
noncomputable def step (s : State) : Host.Outcome State Fault Refusal :=
  let s := { s with tick := s.tick + 1 }
  if s.host.tripped ∧ s.turns.head? ≠ some (.event .powerGood) then .fault .clocksStopped
  else match orderTurns s.turns with
  | [] => s.coreStep
  | .core n :: r => ({ s with turns := r, cur := n % nCores }).coreStep
  | .event i :: r => if isEvent i then exec i { s with turns := r } else .next { s with turns := r }
  | .datagram _ src d :: r => runDatagram { s with turns := r } src d
  | .idle k :: r => .next ({ s with turns := r, cycle := s.cycle + k } : State).reportDrops

/-- A word of `nbits` bits (64 for every row) where the current core fetches its next word (R126), visible to fetch
(R185), with no other turn before it. (DEDUCED, log entry 8) -/
def State.withFetchWord (s : State) (nbits w : Nat) : State :=
  let n := s.cur
  let s := { s with
    turns := []
    mem := writeBytes s.mem (istoreKey n (8 * (s.getC n).pc.toNat)) (leBytes (w % 2 ^ nbits) 8) }
  if (s.getC n).istale = [] then s
  else s.updC n (fun c => { c with istale := merase c.istale c.pc.toNat })

end Sys2Proof.Machine
end

