-- ==== Sys2Proof/Laws/State.lean ====
section
/-!
SUPPORT. What each update of the state leaves as it is, field by field, true by definition: so that no proof unfolds a record.
-/
namespace Sys2Proof.Machine

/-! `State.setC` -/
@[simp] theorem State.setC_cur (s : State) (n : Nat) (c : Core) : (s.setC n c).cur = s.cur := rfl
@[simp] theorem State.setC_cycle (s : State) (n : Nat) (c : Core) : (s.setC n c).cycle = s.cycle := rfl
@[simp] theorem State.setC_tick (s : State) (n : Nat) (c : Core) : (s.setC n c).tick = s.tick := rfl
@[simp] theorem State.setC_turns (s : State) (n : Nat) (c : Core) : (s.setC n c).turns = s.turns := rfl
@[simp] theorem State.setC_mem (s : State) (n : Nat) (c : Core) : (s.setC n c).mem = s.mem := rfl
@[simp] theorem State.setC_tags (s : State) (n : Nat) (c : Core) : (s.setC n c).tags = s.tags := rfl
@[simp] theorem State.setC_poison (s : State) (n : Nat) (c : Core) : (s.setC n c).poison = s.poison := rfl
@[simp] theorem State.setC_tlb (s : State) (n : Nat) (c : Core) : (s.setC n c).tlb = s.tlb := rfl
@[simp] theorem State.setC_ctxs (s : State) (n : Nat) (c : Core) : (s.setC n c).ctxs = s.ctxs := rfl
@[simp] theorem State.setC_mes (s : State) (n : Nat) (c : Core) : (s.setC n c).mes = s.mes := rfl
@[simp] theorem State.setC_gangs (s : State) (n : Nat) (c : Core) : (s.setC n c).gangs = s.gangs := rfl
@[simp] theorem State.setC_jobs (s : State) (n : Nat) (c : Core) : (s.setC n c).jobs = s.jobs := rfl
@[simp] theorem State.setC_combs (s : State) (n : Nat) (c : Core) : (s.setC n c).combs = s.combs := rfl
@[simp] theorem State.setC_nextJob (s : State) (n : Nat) (c : Core) : (s.setC n c).nextJob = s.nextJob := rfl
@[simp] theorem State.setC_nextMe (s : State) (n : Nat) (c : Core) : (s.setC n c).nextMe = s.nextMe := rfl
@[simp] theorem State.setC_sends (s : State) (n : Nat) (c : Core) : (s.setC n c).sends = s.sends := rfl
@[simp] theorem State.setC_ham (s : State) (n : Nat) (c : Core) : (s.setC n c).ham = s.ham := rfl
@[simp] theorem State.setC_sec (s : State) (n : Nat) (c : Core) : (s.setC n c).sec = s.sec := rfl
@[simp] theorem State.setC_host (s : State) (n : Nat) (c : Core) : (s.setC n c).host = s.host := rfl

/-! `State.updC` -/
@[simp] theorem State.updC_cur (s : State) (n : Nat) (f : Core → Core) : (s.updC n f).cur = s.cur := rfl
@[simp] theorem State.updC_cycle (s : State) (n : Nat) (f : Core → Core) : (s.updC n f).cycle = s.cycle := rfl
@[simp] theorem State.updC_tick (s : State) (n : Nat) (f : Core → Core) : (s.updC n f).tick = s.tick := rfl
@[simp] theorem State.updC_turns (s : State) (n : Nat) (f : Core → Core) : (s.updC n f).turns = s.turns := rfl
@[simp] theorem State.updC_mem (s : State) (n : Nat) (f : Core → Core) : (s.updC n f).mem = s.mem := rfl
@[simp] theorem State.updC_tags (s : State) (n : Nat) (f : Core → Core) : (s.updC n f).tags = s.tags := rfl
@[simp] theorem State.updC_poison (s : State) (n : Nat) (f : Core → Core) : (s.updC n f).poison = s.poison := rfl
@[simp] theorem State.updC_tlb (s : State) (n : Nat) (f : Core → Core) : (s.updC n f).tlb = s.tlb := rfl
@[simp] theorem State.updC_ctxs (s : State) (n : Nat) (f : Core → Core) : (s.updC n f).ctxs = s.ctxs := rfl
@[simp] theorem State.updC_mes (s : State) (n : Nat) (f : Core → Core) : (s.updC n f).mes = s.mes := rfl
@[simp] theorem State.updC_gangs (s : State) (n : Nat) (f : Core → Core) : (s.updC n f).gangs = s.gangs := rfl
@[simp] theorem State.updC_jobs (s : State) (n : Nat) (f : Core → Core) : (s.updC n f).jobs = s.jobs := rfl
@[simp] theorem State.updC_combs (s : State) (n : Nat) (f : Core → Core) : (s.updC n f).combs = s.combs := rfl
@[simp] theorem State.updC_nextJob (s : State) (n : Nat) (f : Core → Core) : (s.updC n f).nextJob = s.nextJob := rfl
@[simp] theorem State.updC_nextMe (s : State) (n : Nat) (f : Core → Core) : (s.updC n f).nextMe = s.nextMe := rfl
@[simp] theorem State.updC_sends (s : State) (n : Nat) (f : Core → Core) : (s.updC n f).sends = s.sends := rfl
@[simp] theorem State.updC_ham (s : State) (n : Nat) (f : Core → Core) : (s.updC n f).ham = s.ham := rfl
@[simp] theorem State.updC_sec (s : State) (n : Nat) (f : Core → Core) : (s.updC n f).sec = s.sec := rfl
@[simp] theorem State.updC_host (s : State) (n : Nat) (f : Core → Core) : (s.updC n f).host = s.host := rfl

/-! `State.upd` -/
@[simp] theorem State.upd_cur (s : State) (f : Core → Core) : (s.upd f).cur = s.cur := rfl
@[simp] theorem State.upd_cycle (s : State) (f : Core → Core) : (s.upd f).cycle = s.cycle := rfl
@[simp] theorem State.upd_tick (s : State) (f : Core → Core) : (s.upd f).tick = s.tick := rfl
@[simp] theorem State.upd_turns (s : State) (f : Core → Core) : (s.upd f).turns = s.turns := rfl
@[simp] theorem State.upd_mem (s : State) (f : Core → Core) : (s.upd f).mem = s.mem := rfl
@[simp] theorem State.upd_tags (s : State) (f : Core → Core) : (s.upd f).tags = s.tags := rfl
@[simp] theorem State.upd_poison (s : State) (f : Core → Core) : (s.upd f).poison = s.poison := rfl
@[simp] theorem State.upd_tlb (s : State) (f : Core → Core) : (s.upd f).tlb = s.tlb := rfl
@[simp] theorem State.upd_ctxs (s : State) (f : Core → Core) : (s.upd f).ctxs = s.ctxs := rfl
@[simp] theorem State.upd_mes (s : State) (f : Core → Core) : (s.upd f).mes = s.mes := rfl
@[simp] theorem State.upd_gangs (s : State) (f : Core → Core) : (s.upd f).gangs = s.gangs := rfl
@[simp] theorem State.upd_jobs (s : State) (f : Core → Core) : (s.upd f).jobs = s.jobs := rfl
@[simp] theorem State.upd_combs (s : State) (f : Core → Core) : (s.upd f).combs = s.combs := rfl
@[simp] theorem State.upd_nextJob (s : State) (f : Core → Core) : (s.upd f).nextJob = s.nextJob := rfl
@[simp] theorem State.upd_nextMe (s : State) (f : Core → Core) : (s.upd f).nextMe = s.nextMe := rfl
@[simp] theorem State.upd_sends (s : State) (f : Core → Core) : (s.upd f).sends = s.sends := rfl
@[simp] theorem State.upd_ham (s : State) (f : Core → Core) : (s.upd f).ham = s.ham := rfl
@[simp] theorem State.upd_sec (s : State) (f : Core → Core) : (s.upd f).sec = s.sec := rfl
@[simp] theorem State.upd_host (s : State) (f : Core → Core) : (s.upd f).host = s.host := rfl

/-! `State.updX` -/
@[simp] theorem State.updX_cur (s : State) (n : Nat) (f : Ctx → Ctx) : (s.updX n f).cur = s.cur := rfl
@[simp] theorem State.updX_cycle (s : State) (n : Nat) (f : Ctx → Ctx) : (s.updX n f).cycle = s.cycle := rfl
@[simp] theorem State.updX_tick (s : State) (n : Nat) (f : Ctx → Ctx) : (s.updX n f).tick = s.tick := rfl
@[simp] theorem State.updX_turns (s : State) (n : Nat) (f : Ctx → Ctx) : (s.updX n f).turns = s.turns := rfl
@[simp] theorem State.updX_cores (s : State) (n : Nat) (f : Ctx → Ctx) : (s.updX n f).cores = s.cores := rfl
@[simp] theorem State.updX_mem (s : State) (n : Nat) (f : Ctx → Ctx) : (s.updX n f).mem = s.mem := rfl
@[simp] theorem State.updX_tags (s : State) (n : Nat) (f : Ctx → Ctx) : (s.updX n f).tags = s.tags := rfl
@[simp] theorem State.updX_poison (s : State) (n : Nat) (f : Ctx → Ctx) : (s.updX n f).poison = s.poison := rfl
@[simp] theorem State.updX_tlb (s : State) (n : Nat) (f : Ctx → Ctx) : (s.updX n f).tlb = s.tlb := rfl
@[simp] theorem State.updX_mes (s : State) (n : Nat) (f : Ctx → Ctx) : (s.updX n f).mes = s.mes := rfl
@[simp] theorem State.updX_gangs (s : State) (n : Nat) (f : Ctx → Ctx) : (s.updX n f).gangs = s.gangs := rfl
@[simp] theorem State.updX_jobs (s : State) (n : Nat) (f : Ctx → Ctx) : (s.updX n f).jobs = s.jobs := rfl
@[simp] theorem State.updX_combs (s : State) (n : Nat) (f : Ctx → Ctx) : (s.updX n f).combs = s.combs := rfl
@[simp] theorem State.updX_nextJob (s : State) (n : Nat) (f : Ctx → Ctx) : (s.updX n f).nextJob = s.nextJob := rfl
@[simp] theorem State.updX_nextMe (s : State) (n : Nat) (f : Ctx → Ctx) : (s.updX n f).nextMe = s.nextMe := rfl
@[simp] theorem State.updX_sends (s : State) (n : Nat) (f : Ctx → Ctx) : (s.updX n f).sends = s.sends := rfl
@[simp] theorem State.updX_ham (s : State) (n : Nat) (f : Ctx → Ctx) : (s.updX n f).ham = s.ham := rfl
@[simp] theorem State.updX_sec (s : State) (n : Nat) (f : Ctx → Ctx) : (s.updX n f).sec = s.sec := rfl
@[simp] theorem State.updX_host (s : State) (n : Nat) (f : Ctx → Ctx) : (s.updX n f).host = s.host := rfl

/-! `State.updM` -/
@[simp] theorem State.updM_cur (s : State) (n : Nat) (f : Me → Me) : (s.updM n f).cur = s.cur := rfl
@[simp] theorem State.updM_cycle (s : State) (n : Nat) (f : Me → Me) : (s.updM n f).cycle = s.cycle := rfl
@[simp] theorem State.updM_tick (s : State) (n : Nat) (f : Me → Me) : (s.updM n f).tick = s.tick := rfl
@[simp] theorem State.updM_turns (s : State) (n : Nat) (f : Me → Me) : (s.updM n f).turns = s.turns := rfl
@[simp] theorem State.updM_cores (s : State) (n : Nat) (f : Me → Me) : (s.updM n f).cores = s.cores := rfl
@[simp] theorem State.updM_mem (s : State) (n : Nat) (f : Me → Me) : (s.updM n f).mem = s.mem := rfl
@[simp] theorem State.updM_tags (s : State) (n : Nat) (f : Me → Me) : (s.updM n f).tags = s.tags := rfl
@[simp] theorem State.updM_poison (s : State) (n : Nat) (f : Me → Me) : (s.updM n f).poison = s.poison := rfl
@[simp] theorem State.updM_tlb (s : State) (n : Nat) (f : Me → Me) : (s.updM n f).tlb = s.tlb := rfl
@[simp] theorem State.updM_ctxs (s : State) (n : Nat) (f : Me → Me) : (s.updM n f).ctxs = s.ctxs := rfl
@[simp] theorem State.updM_gangs (s : State) (n : Nat) (f : Me → Me) : (s.updM n f).gangs = s.gangs := rfl
@[simp] theorem State.updM_jobs (s : State) (n : Nat) (f : Me → Me) : (s.updM n f).jobs = s.jobs := rfl
@[simp] theorem State.updM_combs (s : State) (n : Nat) (f : Me → Me) : (s.updM n f).combs = s.combs := rfl
@[simp] theorem State.updM_nextJob (s : State) (n : Nat) (f : Me → Me) : (s.updM n f).nextJob = s.nextJob := rfl
@[simp] theorem State.updM_nextMe (s : State) (n : Nat) (f : Me → Me) : (s.updM n f).nextMe = s.nextMe := rfl
@[simp] theorem State.updM_sends (s : State) (n : Nat) (f : Me → Me) : (s.updM n f).sends = s.sends := rfl
@[simp] theorem State.updM_ham (s : State) (n : Nat) (f : Me → Me) : (s.updM n f).ham = s.ham := rfl
@[simp] theorem State.updM_sec (s : State) (n : Nat) (f : Me → Me) : (s.updM n f).sec = s.sec := rfl
@[simp] theorem State.updM_host (s : State) (n : Nat) (f : Me → Me) : (s.updM n f).host = s.host := rfl

/-! `State.send` -/
@[simp] theorem State.send_cur (s : State) (o : HostOut) : (s.send o).cur = s.cur := rfl
@[simp] theorem State.send_cycle (s : State) (o : HostOut) : (s.send o).cycle = s.cycle := rfl
@[simp] theorem State.send_tick (s : State) (o : HostOut) : (s.send o).tick = s.tick := rfl
@[simp] theorem State.send_turns (s : State) (o : HostOut) : (s.send o).turns = s.turns := rfl
@[simp] theorem State.send_cores (s : State) (o : HostOut) : (s.send o).cores = s.cores := rfl
@[simp] theorem State.send_mem (s : State) (o : HostOut) : (s.send o).mem = s.mem := rfl
@[simp] theorem State.send_tags (s : State) (o : HostOut) : (s.send o).tags = s.tags := rfl
@[simp] theorem State.send_poison (s : State) (o : HostOut) : (s.send o).poison = s.poison := rfl
@[simp] theorem State.send_tlb (s : State) (o : HostOut) : (s.send o).tlb = s.tlb := rfl
@[simp] theorem State.send_ctxs (s : State) (o : HostOut) : (s.send o).ctxs = s.ctxs := rfl
@[simp] theorem State.send_mes (s : State) (o : HostOut) : (s.send o).mes = s.mes := rfl
@[simp] theorem State.send_gangs (s : State) (o : HostOut) : (s.send o).gangs = s.gangs := rfl
@[simp] theorem State.send_jobs (s : State) (o : HostOut) : (s.send o).jobs = s.jobs := rfl
@[simp] theorem State.send_combs (s : State) (o : HostOut) : (s.send o).combs = s.combs := rfl
@[simp] theorem State.send_nextJob (s : State) (o : HostOut) : (s.send o).nextJob = s.nextJob := rfl
@[simp] theorem State.send_nextMe (s : State) (o : HostOut) : (s.send o).nextMe = s.nextMe := rfl
@[simp] theorem State.send_sends (s : State) (o : HostOut) : (s.send o).sends = s.sends := rfl
@[simp] theorem State.send_ham (s : State) (o : HostOut) : (s.send o).ham = s.ham := rfl
@[simp] theorem State.send_sec (s : State) (o : HostOut) : (s.send o).sec = s.sec := rfl

/-! `State.turnOf` -/
@[simp] theorem State.turnOf_cur (s : State) (n : Nat) : (s.turnOf n).cur = s.cur := rfl
@[simp] theorem State.turnOf_cycle (s : State) (n : Nat) : (s.turnOf n).cycle = s.cycle := rfl
@[simp] theorem State.turnOf_tick (s : State) (n : Nat) : (s.turnOf n).tick = s.tick := rfl
@[simp] theorem State.turnOf_cores (s : State) (n : Nat) : (s.turnOf n).cores = s.cores := rfl
@[simp] theorem State.turnOf_mem (s : State) (n : Nat) : (s.turnOf n).mem = s.mem := rfl
@[simp] theorem State.turnOf_tags (s : State) (n : Nat) : (s.turnOf n).tags = s.tags := rfl
@[simp] theorem State.turnOf_poison (s : State) (n : Nat) : (s.turnOf n).poison = s.poison := rfl
@[simp] theorem State.turnOf_tlb (s : State) (n : Nat) : (s.turnOf n).tlb = s.tlb := rfl
@[simp] theorem State.turnOf_ctxs (s : State) (n : Nat) : (s.turnOf n).ctxs = s.ctxs := rfl
@[simp] theorem State.turnOf_mes (s : State) (n : Nat) : (s.turnOf n).mes = s.mes := rfl
@[simp] theorem State.turnOf_gangs (s : State) (n : Nat) : (s.turnOf n).gangs = s.gangs := rfl
@[simp] theorem State.turnOf_jobs (s : State) (n : Nat) : (s.turnOf n).jobs = s.jobs := rfl
@[simp] theorem State.turnOf_combs (s : State) (n : Nat) : (s.turnOf n).combs = s.combs := rfl
@[simp] theorem State.turnOf_nextJob (s : State) (n : Nat) : (s.turnOf n).nextJob = s.nextJob := rfl
@[simp] theorem State.turnOf_nextMe (s : State) (n : Nat) : (s.turnOf n).nextMe = s.nextMe := rfl
@[simp] theorem State.turnOf_sends (s : State) (n : Nat) : (s.turnOf n).sends = s.sends := rfl
@[simp] theorem State.turnOf_ham (s : State) (n : Nat) : (s.turnOf n).ham = s.ham := rfl
@[simp] theorem State.turnOf_sec (s : State) (n : Nat) : (s.turnOf n).sec = s.sec := rfl
@[simp] theorem State.turnOf_host (s : State) (n : Nat) : (s.turnOf n).host = s.host := rfl

/-! `State.updT`: nothing where the number names none. -/
@[simp] theorem State.updT_cur (s : State) (n : Nat) (f : Task → Task) : (s.updT n f).cur = s.cur := by unfold State.updT; split <;> rfl
@[simp] theorem State.updT_cycle (s : State) (n : Nat) (f : Task → Task) : (s.updT n f).cycle = s.cycle := by unfold State.updT; split <;> rfl
@[simp] theorem State.updT_tick (s : State) (n : Nat) (f : Task → Task) : (s.updT n f).tick = s.tick := by unfold State.updT; split <;> rfl
@[simp] theorem State.updT_turns (s : State) (n : Nat) (f : Task → Task) : (s.updT n f).turns = s.turns := by unfold State.updT; split <;> rfl
@[simp] theorem State.updT_cores (s : State) (n : Nat) (f : Task → Task) : (s.updT n f).cores = s.cores := by unfold State.updT; split <;> rfl
@[simp] theorem State.updT_mem (s : State) (n : Nat) (f : Task → Task) : (s.updT n f).mem = s.mem := by unfold State.updT; split <;> rfl
@[simp] theorem State.updT_tags (s : State) (n : Nat) (f : Task → Task) : (s.updT n f).tags = s.tags := by unfold State.updT; split <;> rfl
@[simp] theorem State.updT_poison (s : State) (n : Nat) (f : Task → Task) : (s.updT n f).poison = s.poison := by unfold State.updT; split <;> rfl
@[simp] theorem State.updT_tlb (s : State) (n : Nat) (f : Task → Task) : (s.updT n f).tlb = s.tlb := by unfold State.updT; split <;> rfl
@[simp] theorem State.updT_ctxs (s : State) (n : Nat) (f : Task → Task) : (s.updT n f).ctxs = s.ctxs := by unfold State.updT; split <;> rfl
@[simp] theorem State.updT_mes (s : State) (n : Nat) (f : Task → Task) : (s.updT n f).mes = s.mes := by unfold State.updT; split <;> rfl
@[simp] theorem State.updT_gangs (s : State) (n : Nat) (f : Task → Task) : (s.updT n f).gangs = s.gangs := by unfold State.updT; split <;> rfl
@[simp] theorem State.updT_jobs (s : State) (n : Nat) (f : Task → Task) : (s.updT n f).jobs = s.jobs := by unfold State.updT; split <;> rfl
@[simp] theorem State.updT_combs (s : State) (n : Nat) (f : Task → Task) : (s.updT n f).combs = s.combs := by unfold State.updT; split <;> rfl
@[simp] theorem State.updT_nextJob (s : State) (n : Nat) (f : Task → Task) : (s.updT n f).nextJob = s.nextJob := by unfold State.updT; split <;> rfl
@[simp] theorem State.updT_nextMe (s : State) (n : Nat) (f : Task → Task) : (s.updT n f).nextMe = s.nextMe := by unfold State.updT; split <;> rfl
@[simp] theorem State.updT_sends (s : State) (n : Nat) (f : Task → Task) : (s.updT n f).sends = s.sends := by unfold State.updT; split <;> rfl
@[simp] theorem State.updT_sec (s : State) (n : Nat) (f : Task → Task) : (s.updT n f).sec = s.sec := by unfold State.updT; split <;> rfl
@[simp] theorem State.updT_host (s : State) (n : Nat) (f : Task → Task) : (s.updT n f).host = s.host := by unfold State.updT; split <;> rfl

/-! `State.updL`: nothing where the number names none. -/
@[simp] theorem State.updL_cur (s : State) (n : Nat) (f : Launch → Launch) : (s.updL n f).cur = s.cur := by unfold State.updL; split <;> rfl
@[simp] theorem State.updL_cycle (s : State) (n : Nat) (f : Launch → Launch) : (s.updL n f).cycle = s.cycle := by unfold State.updL; split <;> rfl
@[simp] theorem State.updL_tick (s : State) (n : Nat) (f : Launch → Launch) : (s.updL n f).tick = s.tick := by unfold State.updL; split <;> rfl
@[simp] theorem State.updL_turns (s : State) (n : Nat) (f : Launch → Launch) : (s.updL n f).turns = s.turns := by unfold State.updL; split <;> rfl
@[simp] theorem State.updL_cores (s : State) (n : Nat) (f : Launch → Launch) : (s.updL n f).cores = s.cores := by unfold State.updL; split <;> rfl
@[simp] theorem State.updL_mem (s : State) (n : Nat) (f : Launch → Launch) : (s.updL n f).mem = s.mem := by unfold State.updL; split <;> rfl
@[simp] theorem State.updL_tags (s : State) (n : Nat) (f : Launch → Launch) : (s.updL n f).tags = s.tags := by unfold State.updL; split <;> rfl
@[simp] theorem State.updL_poison (s : State) (n : Nat) (f : Launch → Launch) : (s.updL n f).poison = s.poison := by unfold State.updL; split <;> rfl
@[simp] theorem State.updL_tlb (s : State) (n : Nat) (f : Launch → Launch) : (s.updL n f).tlb = s.tlb := by unfold State.updL; split <;> rfl
@[simp] theorem State.updL_ctxs (s : State) (n : Nat) (f : Launch → Launch) : (s.updL n f).ctxs = s.ctxs := by unfold State.updL; split <;> rfl
@[simp] theorem State.updL_mes (s : State) (n : Nat) (f : Launch → Launch) : (s.updL n f).mes = s.mes := by unfold State.updL; split <;> rfl
@[simp] theorem State.updL_gangs (s : State) (n : Nat) (f : Launch → Launch) : (s.updL n f).gangs = s.gangs := by unfold State.updL; split <;> rfl
@[simp] theorem State.updL_jobs (s : State) (n : Nat) (f : Launch → Launch) : (s.updL n f).jobs = s.jobs := by unfold State.updL; split <;> rfl
@[simp] theorem State.updL_combs (s : State) (n : Nat) (f : Launch → Launch) : (s.updL n f).combs = s.combs := by unfold State.updL; split <;> rfl
@[simp] theorem State.updL_nextJob (s : State) (n : Nat) (f : Launch → Launch) : (s.updL n f).nextJob = s.nextJob := by unfold State.updL; split <;> rfl
@[simp] theorem State.updL_nextMe (s : State) (n : Nat) (f : Launch → Launch) : (s.updL n f).nextMe = s.nextMe := by unfold State.updL; split <;> rfl
@[simp] theorem State.updL_sends (s : State) (n : Nat) (f : Launch → Launch) : (s.updL n f).sends = s.sends := by unfold State.updL; split <;> rfl
@[simp] theorem State.updL_sec (s : State) (n : Nat) (f : Launch → Launch) : (s.updL n f).sec = s.sec := by unfold State.updL; split <;> rfl
@[simp] theorem State.updL_host (s : State) (n : Nat) (f : Launch → Launch) : (s.updL n f).host = s.host := by unfold State.updL; split <;> rfl

/-! `State.updJ`: nothing where the number names none. -/
@[simp] theorem State.updJ_cur (s : State) (n : Nat) (f : Job → Job) : (s.updJ n f).cur = s.cur := by unfold State.updJ; split <;> rfl
@[simp] theorem State.updJ_cycle (s : State) (n : Nat) (f : Job → Job) : (s.updJ n f).cycle = s.cycle := by unfold State.updJ; split <;> rfl
@[simp] theorem State.updJ_tick (s : State) (n : Nat) (f : Job → Job) : (s.updJ n f).tick = s.tick := by unfold State.updJ; split <;> rfl
@[simp] theorem State.updJ_turns (s : State) (n : Nat) (f : Job → Job) : (s.updJ n f).turns = s.turns := by unfold State.updJ; split <;> rfl
@[simp] theorem State.updJ_cores (s : State) (n : Nat) (f : Job → Job) : (s.updJ n f).cores = s.cores := by unfold State.updJ; split <;> rfl
@[simp] theorem State.updJ_mem (s : State) (n : Nat) (f : Job → Job) : (s.updJ n f).mem = s.mem := by unfold State.updJ; split <;> rfl
@[simp] theorem State.updJ_tags (s : State) (n : Nat) (f : Job → Job) : (s.updJ n f).tags = s.tags := by unfold State.updJ; split <;> rfl
@[simp] theorem State.updJ_poison (s : State) (n : Nat) (f : Job → Job) : (s.updJ n f).poison = s.poison := by unfold State.updJ; split <;> rfl
@[simp] theorem State.updJ_tlb (s : State) (n : Nat) (f : Job → Job) : (s.updJ n f).tlb = s.tlb := by unfold State.updJ; split <;> rfl
@[simp] theorem State.updJ_ctxs (s : State) (n : Nat) (f : Job → Job) : (s.updJ n f).ctxs = s.ctxs := by unfold State.updJ; split <;> rfl
@[simp] theorem State.updJ_mes (s : State) (n : Nat) (f : Job → Job) : (s.updJ n f).mes = s.mes := by unfold State.updJ; split <;> rfl
@[simp] theorem State.updJ_gangs (s : State) (n : Nat) (f : Job → Job) : (s.updJ n f).gangs = s.gangs := by unfold State.updJ; split <;> rfl
@[simp] theorem State.updJ_combs (s : State) (n : Nat) (f : Job → Job) : (s.updJ n f).combs = s.combs := by unfold State.updJ; split <;> rfl
@[simp] theorem State.updJ_nextJob (s : State) (n : Nat) (f : Job → Job) : (s.updJ n f).nextJob = s.nextJob := by unfold State.updJ; split <;> rfl
@[simp] theorem State.updJ_nextMe (s : State) (n : Nat) (f : Job → Job) : (s.updJ n f).nextMe = s.nextMe := by unfold State.updJ; split <;> rfl
@[simp] theorem State.updJ_sends (s : State) (n : Nat) (f : Job → Job) : (s.updJ n f).sends = s.sends := by unfold State.updJ; split <;> rfl
@[simp] theorem State.updJ_ham (s : State) (n : Nat) (f : Job → Job) : (s.updJ n f).ham = s.ham := by unfold State.updJ; split <;> rfl
@[simp] theorem State.updJ_sec (s : State) (n : Nat) (f : Job → Job) : (s.updJ n f).sec = s.sec := by unfold State.updJ; split <;> rfl
@[simp] theorem State.updJ_host (s : State) (n : Nat) (f : Job → Job) : (s.updJ n f).host = s.host := by unfold State.updJ; split <;> rfl

/-! What the updates of one core, context or engine leave of the others. -/
@[simp] theorem State.updX_getC (s : State) (n m : Nat) (f : Ctx → Ctx) : (s.updX n f).getC m = s.getC m := rfl
@[simp] theorem State.updM_getC (s : State) (n m : Nat) (f : Me → Me) : (s.updM n f).getC m = s.getC m := rfl
@[simp] theorem State.send_getC (s : State) (o : HostOut) (m : Nat) : (s.send o).getC m = s.getC m := rfl
@[simp] theorem State.turnOf_getC (s : State) (n m : Nat) : (s.turnOf n).getC m = s.getC m := rfl
@[simp] theorem State.updX_c (s : State) (n : Nat) (f : Ctx → Ctx) : (s.updX n f).c = s.c := rfl
@[simp] theorem State.updM_c (s : State) (n : Nat) (f : Me → Me) : (s.updM n f).c = s.c := rfl
@[simp] theorem State.send_c (s : State) (o : HostOut) : (s.send o).c = s.c := rfl
@[simp] theorem State.turnOf_c (s : State) (n : Nat) : (s.turnOf n).c = s.c := rfl
@[simp] theorem State.setC_getX (s : State) (n m : Nat) (c : Core) : (s.setC n c).getX m = s.getX m := rfl
@[simp] theorem State.updC_getX (s : State) (n m : Nat) (f : Core → Core) : (s.updC n f).getX m = s.getX m := rfl
@[simp] theorem State.upd_getX (s : State) (m : Nat) (f : Core → Core) : (s.upd f).getX m = s.getX m := rfl
@[simp] theorem State.setC_getM (s : State) (n m : Nat) (c : Core) : (s.setC n c).getM m = s.getM m := rfl
@[simp] theorem State.updC_getM (s : State) (n m : Nat) (f : Core → Core) : (s.updC n f).getM m = s.getM m := rfl
@[simp] theorem State.upd_getM (s : State) (m : Nat) (f : Core → Core) : (s.upd f).getM m = s.getM m := rfl

end Sys2Proof.Machine
end

