-- ==== Sys2Proof/Safety.lean ====
section
/-!
DEFINITION. The terms the claims use: the canonical form of memory; a register written as the manual says; what it means that
an instruction completes, and what it then has changed.
-/
namespace Sys2Proof

open Machine (State Core gKey TReg0 vec0)

/-- The machine's memory is in canonical form. -/
def Safety.MemOk (s : State) : Prop := Machine.Memory.wf s.mem = true

/-- A core with a general register written: g0 discards, g60 to g63 are the copies of the mode (R93, R95). -/
def Safety.putG (c : Core) (r : GReg) (x : TReg) : Core :=
  if r.val = 0 then c else { c with g := mput TReg0 c.g (gKey c.sys r.val) x }
/-- A core with an integer written: bits 127:64 zero, no tag (R94). -/
def Safety.putI (c : Core) (r : GReg) (x : Word) : Core := Safety.putG c r ⟨x.setWidth 128, false⟩
/-- A core with a vector register written. -/
def Safety.putV (c : Core) (r : VReg) (x : Vec) : Core := { c with v := mput vec0 c.v r.val x }
/-- A core with a mask register written; k0 discards (R93). -/
def Safety.putK (c : Core) (r : KReg) (x : Mask) : Core := if r.val = 0 then c else { c with k := mput 0 c.k r.val x }

/-- A core without what issue keeps for its next word: the PC and where the word came from, the wait at it, the earliest cycle of
the next one, which results are still on their way (the registers hold them already), and the items of its stream. All else of a
core stands: registers, flags, trap and special registers, fault ring, queues, caches, its place in a weave. -/
def Safety.bare (c : Core) : Core :=
  { c with
    pc := 0, latch := {}, rewriteQ := [], replayQ := [], wait := none, woken := none, delayed := false
    spos := 0, readyAt := 0, since := 0, retries := 0, prods := [], tokens := []
    w := { c.w with stream := [], brw := [], coll := none, votes := [] } }

/-- Everything of the package outside its cores: memory, tags, translations, contexts, matrix engines, jobs, the Hamper, the
security processor, the host link. -/
def Safety.outside (s : State) : State := { s with cores := [] }

/-- From `s` to `t` the executing core has become `c` and nothing else has changed. -/
def Safety.Became (s t : State) (c : Core) : Prop :=
  Safety.outside t = Safety.outside s ∧ Safety.bare t.c = Safety.bare c ∧
    ∀ n, n ≠ s.cur → Safety.bare (t.getC n) = Safety.bare (s.getC n)

/-- A word of the core's own, not inside a BRW, leaves the PC at `next` (R126); a word of a stream, of the fault ring or of a rewrite
entry leaves it to those (R131, R458, R483). -/
def Safety.Ends (s t : State) (next : BitVec 12) : Prop :=
  s.c.latch.src = .own → s.c.w.brw = [] → t.c.pc = next ∧ t.c.w.brw = []

/-- Instruction `i` completes in `s`: the next state is `s'` with the executing core become `c`, the PC at `next`. -/
def Safety.CompletesTo (i : Instr) (s s' : State) (c : Core) (next : BitVec 12) : Prop :=
  ∃ t, Machine.exec i s = .next t ∧ Safety.Became s' t c ∧ Safety.Ends s t next

/-- Instruction `i` completes, changes only the executing core, to `c`, and goes on to the next word. -/
def Safety.Completes (i : Instr) (s : State) (c : Core) : Prop := Safety.CompletesTo i s s c (s.c.pc + 1)

/-- Instruction `i` completes, leaves all of the machine as `u` has it, and goes on to the next word. -/
def Safety.Leaves (i : Instr) (s u : State) : Prop := Safety.CompletesTo i s u u.c (s.c.pc + 1)

/-- Instruction `i` raises a precise trap in the state `u`, with EINFO `info`. -/
def Safety.Traps (i : Instr) (s u : State) (k : Machine.Cause) (info : Word) : Prop :=
  Machine.exec i s = .next (u.trapPrecise ⟨k.code, info, false, none⟩)

/-! ## When an access passes its checks -/

/-- The first two tests of R102 pass for capability `c`: it is tagged, its reserved bits are zero, its grant id is inside the table, the
entry, read as the core sees it (R101), is valid and of the same generation. `s'` is the state after that reading. -/
structure Safety.Live (s : State) (c : TReg) (e : Machine.Grant) (s' : State) : Prop where
  tag : c.tag = true
  top : c.val.extractLsb' 100 28 = 0
  id : Machine.capGid c < 2 ^ (s.getX s.c.ctx).log2n
  read : Machine.grantEntry (Machine.capGid c) s = (.ok e, s')
  valid : e.valid = true
  gen : e.gen = Machine.capGen c

/-- All of `capcheck` passes (R102): the permissions needed stand in the capability and the entry, and the bytes lie in the grant. -/
structure Safety.Checked (s : State) (c : TReg) (ea n : Nat) (need : BitVec 12) (s' : State) : Prop where
  live : ∃ e, Safety.Live s c e s' ∧ need &&& ~~~(Machine.capPerm c &&& e.perm) = 0 ∧ e.base ≤ ea ∧ ea + n ≤ e.base + e.len

/-- The check of R102 fails for capability `c` with cause `k`, by the first of its tests that does; `u` is the state after the entry
has been read, where it has been. -/
def Safety.Turned (s : State) (c : TReg) (ea n : Nat) (need : BitVec 12) (k : Machine.Cause) (u : State) : Prop :=
  (k = .tag ∧ u = s ∧ (c.tag = false ∨ c.val.extractLsb' 100 28 ≠ 0)) ∨
  (k = .stalegrant ∧ c.tag = true ∧ c.val.extractLsb' 100 28 = 0 ∧
    ((2 ^ (s.getX s.c.ctx).log2n ≤ Machine.capGid c ∧ u = s) ∨
     (Machine.capGid c < 2 ^ (s.getX s.c.ctx).log2n ∧ ∃ e, Machine.grantEntry (Machine.capGid c) s = (.ok e, u) ∧
       (e.valid = false ∨ e.gen ≠ Machine.capGen c)))) ∨
  (∃ e, Safety.Live s c e u ∧
    ((k = .perm ∧ need &&& ~~~(Machine.capPerm c &&& e.perm) ≠ 0) ∨
     (k = .bounds ∧ need &&& ~~~(Machine.capPerm c &&& e.perm) = 0 ∧ (ea < e.base ∨ e.base + e.len < ea + n))))

/-- All of `access` passes (R188): the capability, STEPLOCAL (R437), translation and window rules, alignment, and a holder that still
stands; the access goes to `l`, and `s'` is the state after the checks. -/
structure Safety.Reaches (s : State) (c : TReg) (ea n : Nat) (need : BitVec 12) (a : Machine.Acc) (l : Machine.Loc) (s' : State) : Prop where
  checked : ∃ s1, Safety.Checked s c ea n need s1 ∧ (s1.c.strict && !s1.ownSpad s1.cur ea && !s1.c.inStack ea) = false ∧
    s1.locate s1.party a ea n = (.ok l, s')
  aligned : ea % n = 0
  here : l.remote = false

/-- Whether a record sent is an RDMA READ, which is how a grant table in a host window is read (R504). -/
def Safety.isRead : Machine.HostOut → Bool
  | .rdmaRead _ _ _ _ => true
  | _ => false

/-- Only what a check may cache has changed: held translations, and of the executing core its grant cache and its next cycle; all
that has been sent is READs. -/
def Safety.OnlyCaches (s s' : State) : Prop :=
  (∃ out, out.all Safety.isRead = true ∧ s'.host = { s.host with out := s.host.out ++ out }) ∧
  Safety.outside { s' with tlb := s.tlb, host := s.host } = Safety.outside s ∧ (∀ n, n ≠ s.cur → s'.getC n = s.getC n) ∧
    ∃ gc r, s'.c = { s.c with gcache := gc, readyAt := r }

end Sys2Proof
end

