-- ==== Sys2Proof/Certificates/Slice0/Obligations.lean ====
section
/-!
DEFINITION. The statements for the provers: what each instruction completes with, what it leaves unchanged, when it traps, and the
rules about the whole machine. Helper terms stand in the namespace `Claim`.
-/

open Sys2Proof Sys2Proof.Machine Sys2Proof.Safety
/-! ## INT (R104 to R110) -/

/-- Derived from R104, R106, R107: addition, subtraction and the logical operations, register form (with gB shifted left) and immediate
form, complete on all operands, write gD and nothing else. -/
def Claim.IntAddLogic : Prop :=
  ∀ (s : State) (d a b : GReg) (sh : BitVec 6) (imm : BitVec 17),
    let x := s.rdI a
    let y := s.rdI b <<< sh.toNat
    let z : Word := imm.signExtend 64
    Completes (.add d a b sh) s (putI s.c d (x + y)) ∧ Completes (.addi d a imm) s (putI s.c d (x + z)) ∧
    Completes (.sub d a b sh) s (putI s.c d (x - y)) ∧ Completes (.subi d a imm) s (putI s.c d (x - z)) ∧
    Completes (.and d a b sh) s (putI s.c d (x &&& y)) ∧ Completes (.andi d a imm) s (putI s.c d (x &&& z)) ∧
    Completes (.or d a b sh) s (putI s.c d (x ||| y)) ∧ Completes (.ori d a imm) s (putI s.c d (x ||| z)) ∧
    Completes (.xor d a b sh) s (putI s.c d (x ^^^ y)) ∧ Completes (.xori d a imm) s (putI s.c d (x ^^^ z)) ∧
    Completes (.andn d a b sh) s (putI s.c d (x &&& ~~~y)) ∧ Completes (.andni d a imm) s (putI s.c d (x &&& ~~~z))

/-- Quotient truncated toward zero and its remainder, with the corners of R105. -/
def Claim.quotS (a b : Word) : Word := if b = 0 then BitVec.allOnes 64 else BitVec.ofInt 64 (a.toInt.tdiv b.toInt)
def Claim.remS (a b : Word) : Word := if b = 0 then a else BitVec.ofInt 64 (a.toInt.tmod b.toInt)
def Claim.quotZ (a b : Word) : Word := if b = 0 then BitVec.allOnes 64 else BitVec.ofNat 64 (a.toNat / b.toNat)
def Claim.remZ (a b : Word) : Word := if b = 0 then a else BitVec.ofNat 64 (a.toNat % b.toNat)

/-- Derived from R104, R105, R107, R109: products, high products, quotients, remainders and multiply-add complete on all operands, a
divisor of zero included, write gD and nothing else. -/
def Obligations.IntMulDiv : Prop :=
  ∀ (s : State) (d a b : GReg) (imm : BitVec 17),
    let x := s.rdI a
    let y := s.rdI b
    let z : Word := imm.signExtend 64
    let hiS := fun (p q : Word) => BitVec.ofInt 64 (p.toInt * q.toInt / 2 ^ 64)
    let hiZ := fun (p q : Word) => BitVec.ofNat 64 (p.toNat * q.toNat / 2 ^ 64)
    Completes (.mul d a b) s (putI s.c d (x * y)) ∧ Completes (.muli d a imm) s (putI s.c d (x * z)) ∧
    Completes (.mulhS d a b) s (putI s.c d (hiS x y)) ∧ Completes (.mulhiS d a imm) s (putI s.c d (hiS x z)) ∧
    Completes (.mulhZ d a b) s (putI s.c d (hiZ x y)) ∧ Completes (.mulhiZ d a imm) s (putI s.c d (hiZ x z)) ∧
    Completes (.divS d a b) s (putI s.c d (Claim.quotS x y)) ∧ Completes (.diviS d a imm) s (putI s.c d (Claim.quotS x z)) ∧
    Completes (.divZ d a b) s (putI s.c d (Claim.quotZ x y)) ∧ Completes (.diviZ d a imm) s (putI s.c d (Claim.quotZ x z)) ∧
    Completes (.remS d a b) s (putI s.c d (Claim.remS x y)) ∧ Completes (.remiS d a imm) s (putI s.c d (Claim.remS x z)) ∧
    Completes (.remZ d a b) s (putI s.c d (Claim.remZ x y)) ∧ Completes (.remiZ d a imm) s (putI s.c d (Claim.remZ x z)) ∧
    Completes (.mad d a b) s (putI s.c d (s.rdI d + x * y)) ∧ Completes (.madi d a imm) s (putI s.c d (s.rdI d + x * z))

/-- Derived from R104, R107: minimum, maximum and the comparisons complete on all operands, write gD and nothing else. -/
def Claim.IntCompare : Prop :=
  ∀ (s : State) (d a b : GReg) (imm : BitVec 17),
    let x := s.rdI a
    let y := s.rdI b
    let z : Word := imm.signExtend 64
    let bit := fun (p : Bool) => if p then (1 : Word) else 0
    Completes (.minS d a b) s (putI s.c d (if x.toInt ≤ y.toInt then x else y)) ∧
    Completes (.miniS d a imm) s (putI s.c d (if x.toInt ≤ z.toInt then x else z)) ∧
    Completes (.minZ d a b) s (putI s.c d (if x.toNat ≤ y.toNat then x else y)) ∧
    Completes (.miniZ d a imm) s (putI s.c d (if x.toNat ≤ z.toNat then x else z)) ∧
    Completes (.maxS d a b) s (putI s.c d (if x.toInt ≥ y.toInt then x else y)) ∧
    Completes (.maxiS d a imm) s (putI s.c d (if x.toInt ≥ z.toInt then x else z)) ∧
    Completes (.maxZ d a b) s (putI s.c d (if x.toNat ≥ y.toNat then x else y)) ∧
    Completes (.maxiZ d a imm) s (putI s.c d (if x.toNat ≥ z.toNat then x else z)) ∧
    Completes (.sltS d a b) s (putI s.c d (bit (decide (x.toInt < y.toInt)))) ∧
    Completes (.sltiS d a imm) s (putI s.c d (bit (decide (x.toInt < z.toInt)))) ∧
    Completes (.sltZ d a b) s (putI s.c d (bit (decide (x.toNat < y.toNat)))) ∧
    Completes (.sltiZ d a imm) s (putI s.c d (bit (decide (x.toNat < z.toNat)))) ∧
    Completes (.seq d a b) s (putI s.c d (bit (decide (x = y)))) ∧
    Completes (.seqi d a imm) s (putI s.c d (bit (decide (x = z))))

/-- The number of leading zeros of a word: how many of its top bits are zero before the first one. -/
def Claim.lead (x : Word) : Nat := ((List.range 64).takeWhile (fun i => !x.getLsbD (63 - i))).length
/-- The number of trailing zeros. -/
def Claim.trail (x : Word) : Nat := ((List.range 64).takeWhile (fun i => !x.getLsbD i)).length
/-- The number of ones. -/
def Claim.ones (x : Word) : Nat := ((List.range 64).filter (fun i => x.getLsbD i)).length

/-- Derived from R104, R107: shifts and rotation by the low six bits of the amount, counts of zeros and ones, and bit reversal complete
on all operands, write gD and nothing else. -/
def Claim.IntShiftCount : Prop :=
  ∀ (s : State) (d a b : GReg) (n : BitVec 6) (imm : BitVec 17),
    let x := s.rdI a
    let k := (s.rdI b).toNat % 64
    let z : Word := imm.signExtend 64
    Completes (.shl d a b) s (putI s.c d (x <<< k)) ∧ Completes (.shli d a n) s (putI s.c d (x <<< n.toNat)) ∧
    Completes (.shr d a b) s (putI s.c d (x >>> k)) ∧ Completes (.shri d a n) s (putI s.c d (x >>> n.toNat)) ∧
    Completes (.sar d a b) s (putI s.c d (x.sshiftRight k)) ∧ Completes (.sari d a n) s (putI s.c d (x.sshiftRight n.toNat)) ∧
    Completes (.rol d a b) s (putI s.c d (x.rotateLeft k)) ∧ Completes (.roli d a n) s (putI s.c d (x.rotateLeft n.toNat)) ∧
    Completes (.clz d a) s (putI s.c d (BitVec.ofNat 64 (Claim.lead x))) ∧
    Completes (.clzi d imm) s (putI s.c d (BitVec.ofNat 64 (Claim.lead z))) ∧
    Completes (.ctz d a) s (putI s.c d (BitVec.ofNat 64 (Claim.trail x))) ∧
    Completes (.ctzi d imm) s (putI s.c d (BitVec.ofNat 64 (Claim.trail z))) ∧
    Completes (.popc d a) s (putI s.c d (BitVec.ofNat 64 (Claim.ones x))) ∧
    Completes (.popci d imm) s (putI s.c d (BitVec.ofNat 64 (Claim.ones z))) ∧
    Completes (.brev d a) s (putI s.c d x.reverse) ∧ Completes (.brevi d imm) s (putI s.c d z.reverse)

/-- Bit i of a field of `w` bits of `x` at `pos`, extended with its top bit when `sx` (R108). -/
def Claim.field (x : Word) (pos w : Nat) (sx : Bool) : Word :=
  BitVec.ofFnLE (fun (i : Fin 64) => if i.val < w then x.getLsbD (pos + i.val) else sx && x.getLsbD (pos + w - 1))
/-- `d` with its bits `pos` to `pos + w - 1` replaced by the low bits of `x`; bits that fall above 63 are dropped (R108). -/
def Claim.insert (d x : Word) (pos w : Nat) : Word :=
  BitVec.ofFnLE (fun (i : Fin 64) => if pos ≤ i.val ∧ i.val < pos + w then x.getLsbD (i.val - pos) else d.getLsbD i.val)

/-- Derived from R34, R104, R108: bit-field extraction and insertion at every width from 1 to 64 and every position, MOV of all 128 bits
and the tag, and LI complete, write gD and nothing else. -/
def Claim.IntFieldMove : Prop :=
  ∀ (s : State) (d a b : GReg) (w : BitVec 7) (pos wm1 : BitVec 6) (sx : Bool) (imm : BitVec 29),
    let x := s.rdI a
    let k := (s.rdI b).toNat % 64
    (1 ≤ w.toNat ∧ w.toNat ≤ 64 →
      Completes (.bfx d a b w sx) s (putI s.c d (Claim.field x k w.toNat sx)) ∧
      Completes (.bfi d a b w) s (putI s.c d (Claim.insert (s.rdI d) x k w.toNat))) ∧
    Completes (.bfxi d a pos wm1 sx) s (putI s.c d (Claim.field x pos.toNat (wm1.toNat + 1) sx)) ∧
    Completes (.bfii d a pos wm1) s (putI s.c d (Claim.insert (s.rdI d) x pos.toNat (wm1.toNat + 1))) ∧
    Completes (.mov d a) s (putG s.c d (s.rdG a)) ∧ Completes (.li d imm) s (putI s.c d (imm.signExtend 64))

/-- Together: the integer words other than products and quotients: addition, subtraction, logic, comparison, shifts, counts, bit fields, MOV and LI complete on all operands, write gD and change nothing else. -/
def Obligations.IntWords : Prop := Claim.IntAddLogic ∧ Claim.IntCompare ∧ Claim.IntShiftCount ∧ Claim.IntFieldMove
/-! ## MSK (R111, R112) -/

/-- Derived from R111, R112: the mask words complete on all operands and write their destination and nothing else. -/
def Obligations.MaskWords : Prop :=
  ∀ (s : State) (d a b : KReg) (g h : GReg) (imm : BitVec 16),
    let x := s.rdK a
    let y := s.rdK b
    Completes (.kand d a b) s (putK s.c d (x &&& y)) ∧ Completes (.kor d a b) s (putK s.c d (x ||| y)) ∧
    Completes (.kxor d a b) s (putK s.c d (x ^^^ y)) ∧ Completes (.kandn d a b) s (putK s.c d (x &&& ~~~y)) ∧
    Completes (.knot d a) s (putK s.c d (~~~x)) ∧ Completes (.kset d imm) s (putK s.c d imm) ∧
    Completes (.kmov (.kk d a)) s (putK s.c d x) ∧ Completes (.kmov (.kg d h)) s (putK s.c d ((s.rdI h).setWidth 16)) ∧
    Completes (.kmov (.gk g a)) s (putI s.c g (x.setWidth 64)) ∧
    Completes (.kpopc g a) s (putI s.c g (BitVec.ofNat 64 ((List.range 16).filter (fun i => x.getLsbD i)).length)) ∧
    Completes (.kff g a) s (putI s.c g (BitVec.ofNat 64 ((List.range 16).takeWhile (fun i => !x.getLsbD i)).length))

/-! ## CAP (R97 to R123) -/

/-- Derived from R113, R114, R115, R116, R118: the capability words that only take a register apart or put one together complete on all
operands, tagged or not, and write gD and nothing else. -/
def Claim.CapFields : Prop :=
  ∀ (s : State) (d a b : GReg) (imm : BitVec 17) (perms : BitVec 12),
    let x := s.rdG a
    let hi := x.val.extractLsb' 64 64
    Completes (.cget d a .addr) s (putI s.c d x.int) ∧
    Completes (.cget d a .gid) s (putI s.c d ((x.val.extractLsb' 64 16).setWidth 64)) ∧
    Completes (.cget d a .perm) s (putI s.c d ((x.val.extractLsb' 80 12).setWidth 64)) ∧
    Completes (.cget d a .gen) s (putI s.c d ((x.val.extractLsb' 92 8).setWidth 64)) ∧
    Completes (.cget d a .tag) s (putI s.c d (if x.tag then 1 else 0)) ∧
    Completes (.cseta d a b) s (putG s.c d ⟨hi ++ s.rdI b, x.tag⟩) ∧
    Completes (.cadd d a imm) s (putG s.c d ⟨hi ++ (x.int + imm.signExtend 64), x.tag⟩) ∧
    Completes (.candp d a perms) s
      (putG s.c d ⟨x.val.extractLsb' 92 36 ++ ((x.val.extractLsb' 80 12 &&& perms) ++ x.val.extractLsb' 0 80), x.tag⟩) ∧
    Completes (.cclr d a) s (putG s.c d ⟨x.val, false⟩)

/-- Derived from R102, R113, R117, R119: CGET of a base or a length completes for a live capability; CFROM completes for a valid grant
under a passing check with permission D, or in system mode with gB = g0; CCHK answers 0 where the check passes. Only what a check may
cache changes beside gD. -/
def Claim.CapGrants : Prop :=
  ∀ (s s' s1 : State) (d a b : GReg) (e f : Grant),
    (Live s (s.rdG a) e s' →
      CompletesTo (.cget d a .base) s s' (putI s'.c d (BitVec.ofNat 64 e.base)) (s.c.pc + 1) ∧
      CompletesTo (.cget d a .length) s s' (putI s'.c d (BitVec.ofNat 64 e.len)) (s.c.pc + 1)) ∧
    (let id := (s.rdI a).toNat % 2 ^ 16
     let give := fun (u : State) (p : BitVec 12) => CompletesTo (.cfrom d a b) s u (putG u.c d (mkCap f.gen (f.perm &&& p) id f.base)) (s.c.pc + 1)
     id < 2 ^ (s.getX s.c.ctx).log2n → f.valid = true →
      (s.c.sys = true → b.val = 0 → grantEntry id s = (.ok f, s') → give s' 0xFFF) ∧
      (¬(s.c.sys = true ∧ b.val = 0) → Checked s (s.rdG b) (capAddr (s.rdG b)) 0 permD s1 → grantEntry id s1 = (.ok f, s') →
        give s' (capPerm (s.rdG b)))) ∧
    (let n := (s.rdI a).toNat
     Checked s (s.rdG b) (capAddr (s.rdG b)) (n % 2 ^ 52) (BitVec.ofNat 12 (n / 2 ^ 52)) s' →
      CompletesTo (.cchk d a b) s s' (putI s'.c d 0) (s.c.pc + 1)) ∧
    (∀ c, Live s c e s' → OnlyCaches s s')

/-- Derived from R99, R120, R121, R122: in system mode GNEW writes the entry its record gives, the generation kept, and gives a capability for it, or an
untagged zero where the entry is not valid; GREV counts the generation up and gives the new one. The entry leaves every grant cache of the
context, and jobs that name it are checked again. Stated where no core of the context then has an access under way. -/
def Claim.GrantWrites : Prop :=
  ∀ (s s1 s2 s3 : State) (d a b : GReg) (r : List Byte) (pa : Nat),
    let ctx := s.c.ctx
    let id := (s.rdI a).toNat % 2 ^ 16
    let idle := fun (u : State) => u.grantPending ctx (some id) = false ∧ ∀ e ∈ u.cores, e.2.ctx = ctx → e.2.sq = [] ∧ e.2.loads = []
    let gen := fun (u : State) => (u.physBytes (pa + 18) 1).getD 0 0
    s.c.sys = true → id < 2 ^ (s.getX ctx).log2n → (∀ g x, s.c.wait ≠ some (.grant g x)) →
    (entryPlace id s = (.ok pa, s1) →
      let u := (s1.putEntry (pa + 18) [gen s1 + 1]).entryWritten id
      idle u → CompletesTo (.grev d a) s u (putI u.c d ((gen s1 + 1).setWidth 64)) (s.c.pc + 1)) ∧
    (let c := s.rdG b
     let ea := capAddr c
     Checked s c ea 32 permR s1 → (s1.c.strict && !s1.ownSpad s1.cur ea && !s1.c.inStack ea) = false → ea % 32 = 0 →
     readBlock ea 32 s1 = (.ok r, s2) → OnlyCaches s s2 → entryPlace id s2 = (.ok pa, s3) →
      let perm := BitVec.ofNat 12 (Machine.field r 16 2 % 2 ^ 11)
      let u := ((s3.putEntry pa (r.take 16 ++ leBytes perm.toNat 2)).putEntry (pa + 19) [r.getD 19 0 &&& 1]).entryWritten id
      idle u →
      CompletesTo (.gnew d a b) s u
        (putG u.c d (if (r.getD 19 0).getLsbD 0 then mkCap (gen s3) perm id (Machine.field r 0 8) else TReg0)) (s.c.pc + 1))

/-- Derived from R102, R103, R113, R117, R119, R120, R121: where a capability word is turned away. CCHK gives the code of the first test of R102
that fails: 0x06 TAG, 0x09 STALEGRANT, 0x08 PERM, 0x07 BOUNDS. CGET of a base or a length, CFROM and GNEW raise it, with the capability's
address (for CGET the model's choice, log entry 65). An id at or above 2^LOG2N raises STALEGRANT in CFROM, GNEW and GREV, an entry that
is not valid does in CFROM; EINFO is then the id. -/
def Claim.CapFaults : Prop :=
  ∀ (s s1 s2 : State) (d a b : GReg) (k : Cause) (e : Grant),
    let x := s.rdG a
    let c := s.rdG b
    let ea := capAddr c
    let id := (s.rdI a).toNat % 2 ^ 16
    let out := 2 ^ (s.getX s.c.ctx).log2n ≤ id
    let free := s.c.sys = true ∧ b.val = 0
    (Turned s x (capAddr x) 0 0 k s1 → k = .tag ∨ k = .stalegrant →
      Traps (.cget d a .base) s s1 k (BitVec.ofNat 64 (capAddr x)) ∧ Traps (.cget d a .length) s s1 k (BitVec.ofNat 64 (capAddr x))) ∧
    (let n := (s.rdI a).toNat
     Turned s c ea (n % 2 ^ 52) (BitVec.ofNat 12 (n / 2 ^ 52)) k s1 →
      CompletesTo (.cchk d a b) s s1 (putI s1.c d (match k with | .tag => 0x06 | .stalegrant => 0x09 | .perm => 0x08 | _ => 0x07)) (s.c.pc + 1)) ∧
    (¬ free → Turned s c ea 0 permD k s1 → Traps (.cfrom d a b) s s1 k (BitVec.ofNat 64 ea)) ∧
    ((free ∧ s1 = s) ∨ (¬ free ∧ Checked s c ea 0 permD s1) →
      (out → Traps (.cfrom d a b) s s1 .stalegrant (BitVec.ofNat 64 id)) ∧
      (¬ out → grantEntry id s1 = (.ok e, s2) → e.valid = false → Traps (.cfrom d a b) s s2 .stalegrant (BitVec.ofNat 64 id))) ∧
    (s.c.sys = true → (∀ g x, s.c.wait ≠ some (.grant g x)) →
      (out → Traps (.grev d a) s s .stalegrant (BitVec.ofNat 64 id)) ∧
      (Turned s c ea 32 permR k s1 → Traps (.gnew d a b) s s1 k (BitVec.ofNat 64 ea)) ∧
      (Checked s c ea 32 permR s1 → (s1.c.strict && !s1.ownSpad s1.cur ea && !s1.c.inStack ea) = false →
        (ea % 32 ≠ 0 → Traps (.gnew d a b) s s1 .align (BitVec.ofNat 64 ea)) ∧
        (ea % 32 = 0 → out → Traps (.gnew d a b) s s1 .stalegrant (BitVec.ofNat 64 id))))

/-- Together: the capability words, what they complete with and where they are turned away. -/
def Obligations.CapabilityWords : Prop := Claim.CapFields ∧ Claim.CapGrants ∧ Claim.GrantWrites ∧ Claim.CapFaults
/-- R102, and R177, R188, R437 for what follows it: in which order the checks of an access turn it away, and what is reported. The first test
that fails raises its cause: TAG, STALEGRANT, PERM, BOUNDS, STEPLOCAL, XLATE, ALIGN, REMOTE; EINFO is the address, of XLATE its KIND, its
LEVEL and the address's low 56 bits. -/
def Obligations.AccessOrder : Prop :=
  ∀ (s s' s2 : State) (c : TReg) (ea n : Nat) (need : BitVec 12) (a : Acc) (e : Grant) (l : Loc) (f : XFail),
    let stops := fun (k : Cause) => ∃ u, access c ea n need a s = (.error (.trap ⟨k.code, BitVec.ofNat 64 ea, false, none⟩), u)
    let gone := fun (x : Grant) => (x.valid = false ∨ x.gen ≠ capGen c)
    ((c.tag = false ∨ c.val.extractLsb' 100 28 ≠ 0) → stops .tag) ∧
    (c.tag = true → c.val.extractLsb' 100 28 = 0 →
      (2 ^ (s.getX s.c.ctx).log2n ≤ capGid c → stops .stalegrant) ∧
      (capGid c < 2 ^ (s.getX s.c.ctx).log2n → grantEntry (capGid c) s = (.ok e, s') → gone e → stops .stalegrant)) ∧
    (Live s c e s' →
      (need &&& ~~~(capPerm c &&& e.perm) ≠ 0 → stops .perm) ∧
      (need &&& ~~~(capPerm c &&& e.perm) = 0 → (ea < e.base ∨ e.base + e.len < ea + n) → stops .bounds)) ∧
    (Checked s c ea n need s' →
      (s'.c.strict = true → s'.ownSpad s'.cur ea = false → s'.c.inStack ea = false → stops .steplocal) ∧
      ((s'.c.strict && !s'.ownSpad s'.cur ea && !s'.c.inStack ea) = false →
        (s'.locate s'.party a ea n = (.error f, s2) → access c ea n need a s =
          (.error (.trap ⟨0x0A, BitVec.ofNat 64 (f.kind * 2 ^ 60 + f.level * 2 ^ 58 + ea % 2 ^ 56), false, none⟩), s2)) ∧
        (s'.locate s'.party a ea n = (.ok l, s2) →
          (ea % n ≠ 0 → stops .align) ∧ (ea % n = 0 → l.remote = true → stops .remote)))) ∧
    (Reaches s c ea n need a l s' → access c ea n need a s = (.ok l, s') ∧ OnlyCaches s s')

/-! ## CTL (R126, R149 to R153) -/

/-- A format-B target of R126. -/
def Claim.rel (pc : BitVec 12) (off : BitVec 17) : BitVec 12 := BitVec.ofInt 12 ((pc.toNat : Int) + off.toInt)

/-- Derived from R94, R126, R150, R151: on a fetching core every branch, call and LOOP completes, goes where the rule says, and changes
nothing but the PC, the link in g1 (a call) and the counter (LOOP). A register target is its low 12 bits; CALLR reads gA before g1 is
written; LOOP of g0 is never taken. -/
def Claim.Branches : Prop :=
  ∀ (s : State) (a b : GReg) (m n : KReg) (off : BitVec 17),
    s.c.latch.src ≠ .item →
    let pc := s.c.pc
    let t := Claim.rel pc off
    let next := pc + 1
    let linked := putI s.c 1 (next.setWidth 64)
    CompletesTo (.br off) s s s.c t ∧
    CompletesTo (.bcc a b off) s s s.c (if s.rdI a ≠ s.rdI b then t else next) ∧
    CompletesTo (.bk m n off) s s s.c (if s.rdK m &&& s.rdK n ≠ 0 then t else next) ∧
    CompletesTo (.call off) s s linked t ∧
    CompletesTo (.callr a) s s linked ((s.rdI a).setWidth 12) ∧
    CompletesTo .ret s s s.c ((s.rdI 1).setWidth 12) ∧
    CompletesTo (.jmpr a) s s s.c ((s.rdI a).setWidth 12) ∧
    CompletesTo (.loop a off) s s (putI s.c a (s.rdI a - 1)) (if a.val ≠ 0 ∧ s.rdI a ≠ 1 then t else next)

/-- Derived from R140, R141, R143, R450: a member that executes BCC, BK or LOOP as an item does so on its own registers, with LOOP's decrement. Where
its own next PC is the published one it goes on in its stream; where it is not, the member becomes dormant until that PC under POLICY DORMANT,
leaves and fetches there under DETACH, and under TRAP takes WEAVE KIND 1 at the branch, after its effects. After a JMPR it first waits for
the PC of the next item. BR, CALL, CALLR and RET are never compared: the member follows, and CALL and CALLR write its g1 with the published
link. -/
def Claim.MemberBranches : Prop :=
  ∀ (s : State) (a b : GReg) (m n : KReg) (off : BitVec 17),
    s.c.latch.src = .item →
    let it := s.c.latch.item
    let left := fun (t : State) => t.c.w.stream = s.c.w.stream.drop 1
    let same := fun (t : State) (c : Core) => t.mem = s.mem ∧ t.c.g = c.g ∧ t.c.v = c.v ∧ t.c.k = c.k
    let follows := fun (i : Instr) (c : Core) => ∃ t, exec i s = .next t ∧ Became s t c ∧ left t
    -- `c` is the member after the branch's effects, `own` its own next PC
    let plain := fun (i : Instr) (c : Core) (own : BitVec 12) =>
      (own = it.next → follows i c) ∧
      (own ≠ it.next → c.w.policy = .dormant → follows i { c with w := { c.w with st := .dormant, wake := some own } }) ∧
      (own ≠ it.next → c.w.policy = .detach → ∃ t, exec i s = .next t ∧
        (s.c.w.st = .member → (∀ r ∈ s.c.w.regs, r.arrived = false) → t.c.w.st = .detached) ∧ t.c.pc = own ∧ same t c) ∧
      (own ≠ it.next → c.w.policy = .trap → s.c.tr.exl = false → s.c.husk.hooks = [] → ∃ t, exec i s = .next t ∧
        t.c.tr.exl = true ∧ t.c.tr.ecause = 0x12 ∧ t.c.tr.epc = it.pc ∧ t.c.tr.eword = it.word ∧ t.c.tr.einfo = 0x1000 + own.setWidth 64 ∧
        t.c.sys = true ∧ t.c.pc = s.c.tr.trapvec ∧ left t ∧ same t c)
    let next := it.pc + 1
    plain (.bcc a b off) s.c (if s.rdI a ≠ s.rdI b then Claim.rel it.pc off else next) ∧
    plain (.bk m n off) s.c (if s.rdK m &&& s.rdK n ≠ 0 then Claim.rel it.pc off else next) ∧
    plain (.loop a off) (putI s.c a (s.rdI a - 1)) (if a.val ≠ 0 ∧ s.rdI a ≠ 1 then Claim.rel it.pc off else next) ∧
    follows (.jmpr a) { s.c with w := { s.c.w with jump := some ((s.rdI a).setWidth 12, it) } } ∧
    follows (.br off) s.c ∧ follows .ret s.c ∧
    follows (.call off) (putI s.c 1 (next.setWidth 64)) ∧ follows (.callr a) (putI s.c 1 (next.setWidth 64))

/-- Together: branches, on a fetching core and as items of a stream. -/
def Obligations.BranchWords : Prop := Claim.Branches ∧ Claim.MemberBranches
/-- Derived from R149, R152, R153: ENTER stores the old pointer at the new one and moves g2 down; LEAVE reads the stored pointer and moves
g2 up. Stated where the checks pass and the stack cache holds the granule, for LEAVE without an error, so that nothing outside the core is touched. -/
def Obligations.Frames : Prop :=
  ∀ (s s' : State) (n : BitVec 10) (l : Loc) (x : SLine),
    let c := s.rdG 2
    let old := capAddr c
    let hi := c.val.extractLsb' 64 64
    s.c.stack.length ≤ 512 → mfind s.c.stack ((capAddr c - 16 * n.toNat) / 16) = some x → s.c.inStack (old - 16 * n.toNat) = true →
    (old % 16 = 0 → 16 * n.toNat ≤ old → Reaches s c (old - 16 * n.toNat) 16 permW .store l s' →
      let ea := old - 16 * n.toNat
      CompletesTo (.enter n) s s'
        (putG { s'.c with stack := mset s.c.stack (ea / 16) ⟨BitVec.ofNat 128 old, false, true, x.key, false⟩ } 2 ⟨hi ++ BitVec.ofNat 64 ea, c.tag⟩)
        (s.c.pc + 1)) ∧
    (n.toNat = 0 → x.bad = false → Reaches s c old 8 permR .load l s' →
      let link := (x.val >>> (8 * (old % 16))).setWidth 64
      old < link.toNat → link.toNat ≤ s.c.sbase.toNat → link.toNat % 16 = 0 →
      CompletesTo .leave s s' (putG s'.c 2 ⟨hi ++ link, c.tag⟩) (s.c.pc + 1))

/-! ## STRM (R155 to R161) -/

/-- Derived from R155: SUB and RESUB always complete; they write the status of R155's first matching test, and only status 0 registers the
core with the publisher it names. -/
def Claim.Subscribe : Prop :=
  ∀ (s : State) (pol : Policy) (d a b : GReg) (t : Task) (p : Nat) (h : Bool),
    let x := (s.rdI a).toNat
    let y := (s.rdI b).toNat
    let st := s.c.w.st
    let done := fun (i : Instr) (u : State) (code : Word) => CompletesTo i s u (putI u.c d code) (s.c.pc + 1)
    let badFields := bitsOf y 63 36 ≠ 0 ∨ bitsOf y 31 29 ≠ 0 ∨ bitsOf y 15 13 ≠ 0
    let size := bitsOf y 28 16
    let rank := bitsOf y 12 0
    s.c.task.bind s.task? = some t →
    (st ≠ .alone → st ≠ .detached → done (.subStream pol d a b) s 4 ∧ done (.resub d a b) s 4) ∧
    ((st = .alone ∨ st = .detached) →
      ((t.width ≤ x ∨ x = s.c.member) → done (.subStream pol d a b) s 3 ∧ done (.resub d a b) s 3) ∧
      (x < t.width → x ≠ s.c.member →
        ((badFields ∨ size < 2 ∨ t.width < size ∨ rank = 0 ∨ size ≤ rank) → done (.subStream pol d a b) s 2) ∧
        ((badFields ∨ s.c.w.size = 0 ∨ rank = 0 ∨ s.c.w.size ≤ rank) → done (.resub d a b) s 2) ∧
        (t.memberCore x = some (p, h) → ¬badFields → rank ≠ 0 →
          (2 ≤ size → size ≤ t.width → rank < size →
            done (.subStream pol d a b) (if s.routeOk p s.cur then s.register p (s.rdI a) (s.rdI b) size pol else s)
              (if s.routeOk p s.cur then 0 else 1)) ∧
          (rank < s.c.w.size →
            done (.resub d a b) (if s.routeOk p s.cur then s.register p (s.rdI a) (s.rdI b) s.c.w.size s.c.w.policy else s)
              (if s.routeOk p s.cur then 0 else 1)))))

/-- R161: the stream words of a core outside every weave: UNSUB, PUBOFF and PUBON have no effect, RDV and RDVH 0 publish and go on, BRW is
the plain branch on its own condition, WVOTE gives the own vote. -/
def Claim.StreamAlone : Prop :=
  ∀ (s : State) (d a b : GReg) (tag : BitVec 4) (j : BitVec 9) (off : BitVec 17),
    s.c.latch.src = .own → s.c.w.st = .alone → s.c.w.followers = [] → s.c.w.regs = [] → s.c.w.brw = [] → s.c.w.priv = false →
    s.c.tr.pend = false →
    Completes (.unsub a b off) s s.c ∧ Completes .puboff s s.c ∧ Completes .pubon s s.c ∧ Completes (.rdv tag) s s.c ∧
    CompletesTo (.rdvh tag 0) s s { s.c with w := { s.c.w with rdvh := if s.c.sys then s.c.w.rdvh else none } } (s.c.pc + 1) ∧
    CompletesTo (.brw a j off) s s s.c (if s.rdI a ≠ 0 then Claim.rel s.c.pc off else s.c.pc + 1) ∧
    Completes (.wvote true d a) s (putI s.c d (if s.rdI a ≠ 0 then 1 else 0)) ∧
    Completes (.wvote false d a) s (putI s.c d (if s.rdI a ≠ 0 then 1 else 0))

/-- Derived from R138, R156, R157, R160: a member passes RDV, RDVH, PUBOFF and PUBON without effect; its UNSUB, when its condition is met,
leaves with STATE DETACHED and fetches at its target; a publisher's PUBOFF makes the words after it private and PUBON ends that. -/
def Claim.StreamMembers : Prop :=
  ∀ (s : State) (a b : GReg) (tag : BitVec 4) (n : BitVec 13) (off : BitVec 17),
    (s.c.latch.src = .item → s.c.w.st = .member →
      Completes (.rdv tag) s s.c ∧ Completes (.rdvh tag n) s s.c ∧ Completes .puboff s s.c ∧ Completes .pubon s s.c ∧
      (s.rdI a ≠ s.rdI b → Completes (.unsub a b off) s s.c) ∧
      (s.rdI a = s.rdI b → s.c.w.pub ≠ s.cur → (∀ r ∈ s.c.w.regs, r.arrived = false) → ∃ t, exec (.unsub a b off) s = .next t ∧ t.c.w.st = .detached ∧
        t.c.pc = Claim.rel s.c.latch.item.pc off ∧ t.c.w.stream = [] ∧ t.c.g = s.c.g ∧ t.mem = s.mem ∧
        ∀ f ∈ (t.getC s.c.w.pub).w.followers, f.2 ≠ s.cur)) ∧
    (s.c.latch.src = .own → s.c.w.st = .publisher → s.c.sys = false →
      Completes .puboff s { s.c with w := { s.c.w with priv := true } } ∧
      Completes .pubon s { s.c with w := { s.c.w with priv := false } })

/-- Derived from R138, R147, R157, R158, R159, R161: BRW, WVOTE and RDVH inside a weave. The publisher publishes the word and waits; a member
contributes, and goes on at once from a BRW, from a WVOTE when all have voted. Once all have contributed, WVOTE gives every participant
the same result, any or all of the votes, and BRW takes the publisher to the words after it if some condition is 0, else to its target,
one level deeper. RDVH with n above 0 holds the publisher until n registrations with its tag have arrived; then they all join. -/
def Claim.StreamWeave : Prop :=
  ∀ (s : State) (d a : GReg) (tag : BitVec 4) (n : BitVec 13) (j : BitVec 9) (off : BitVec 17) (all : Bool),
    let w := s.c.w
    let own := if s.rdI a ≠ 0 then 1 else 0
    let p := s.getC w.pub
    let same := fun (t : State) => t.mem = s.mem ∧ t.c.g = s.c.g ∧ t.c.v = s.c.v ∧ t.c.k = s.c.k
    let bits := fun (c : Core) => c.w.votes.map (fun v => v.2.getD 2 0 != 0)
    let vote := fun (c : Core) => putI c d (if (if all then (bits p).all id else (bits p).any id) then 1 else 0)
    -- a word of the member's stream
    (s.c.latch.src = .item → w.pub ≠ s.cur →
      let t := Claim.rel s.c.latch.item.pc off
      ((∀ v ∈ p.w.votes, v.1 ≠ s.cur) → ∃ u, exec (.brw a j off) s = .next u ∧ Became s u s.c ∧ u.c.w.stream = w.stream.drop 1 ∧
        u.c.w.brw = { target := t, join := t + j.setWidth 12, path := false, more := false, mine := true, cond := decide (s.rdI a ≠ 0) } :: w.brw ∧
        (u.getC w.pub).w.votes = p.w.votes ++ [(s.cur, [w.size, w.rank, own])]) ∧
      ((∃ v ∈ p.w.votes, v.1 = s.cur) → s.allIn w.pub = true → ∃ u, exec (.wvote all d a) s = .next u ∧ Became s u (vote s.c) ∧
        u.c.w.stream = w.stream.drop 1)) ∧
    -- a word the publisher issues in public code
    (s.c.latch.src = .own → s.c.latch.quiet = false → s.c.sys = false → w.priv = false → w.st = .publisher → s.c.tr.pend = false →
      let t := Claim.rel s.c.pc off
      let held := fun (i : Instr) (ws : List Nat) => ∃ u it, exec i s = .next u ∧ u.c.wait = some .members ∧ u.c.pc = s.c.pc ∧ same u ∧
        u.c.w.votes = [(s.cur, w.size :: 0 :: ws)] ∧ it.pc = s.c.pc ∧ it.word = s.c.latch.word ∧ it.depth = w.brw.length ∧
        ∀ f ∈ w.followers, (u.getC f.2).w.stream = (s.getC f.2).w.stream ++ [it]
      (w.followers ≠ [] → (w.followers.map Prod.snd).Nodup → (∀ f ∈ w.followers, f.2 ≠ s.cur) → w.coll ≠ some s.c.pc → w.brw.length < 8 →
        held (.brw a j off) [own] ∧ held (.wvote all d a) [own]) ∧
      (w.followers ≠ [] → w.coll = some s.c.pc → (∃ v ∈ w.votes, v.1 = s.cur) → s.allIn s.cur = true →
        (w.brw.length < 8 →
          let zero := (bits s.c).any (! ·)
          let go := if zero then s.c.pc + 1 else t
          go ≠ t + j.setWidth 12 → ∃ u f, exec (.brw a j off) s = .next u ∧ Became s u s.c ∧ u.c.pc = go ∧ u.c.w.brw = f :: w.brw ∧
            f.target = t ∧ f.join = t + j.setWidth 12 ∧ f.path = !zero ∧ f.more = (zero && (bits s.c).any id) ∧
            f.mine = (decide (s.rdI a ≠ 0) == !zero)) ∧
        ((∀ f ∈ w.followers, (s.getC f.2).w.stream = []) → w.brw = [] →
          CompletesTo (.wvote all d a) s s (putI s.c d (if (if all then (bits s.c).all id else (bits s.c).any id) then 1 else 0)) (s.c.pc + 1))) ∧
      (w.brw = [] →
        let here := w.regs.filter (fun r => r.arrived && r.tag == tag)
        (here.length < n.toNat → ∃ u, exec (.rdvh tag n) s = .next u ∧ u.c.wait = some .members ∧ u.c.pc = s.c.pc ∧
          u.c.w.rdvh = some (tag, n.toNat) ∧ same u) ∧
        (n.toNat ≤ here.length → (w.regs.map Reg.core).Nodup → (∀ r ∈ w.regs, r.core ≠ s.cur) → ∃ u, exec (.rdvh tag n) s = .next u ∧
          u.c.pc = s.c.pc + 1 ∧ same u ∧ ∀ r ∈ here, (u.getC r.core).w.st = .member ∧ (r.rank, r.core) ∈ u.c.w.followers)))

/-- Together: the stream words: registration, and what each does on a core outside every weave, on a member and on a publisher. -/
def Obligations.StreamWords : Prop := Claim.Subscribe ∧ Claim.StreamAlone ∧ Claim.StreamMembers ∧ Claim.StreamWeave
/-! ## SYS and traps (R449 to R477) -/

/-- A core whose own queue is empty and which waits for no load. -/
def Claim.quiet (c : Core) : Prop := c.sq = [] ∧ c.loads = []
/-- No `.a` deposit of the executing core still waits at a full port (R232). -/
def Claim.sent (s : State) : Prop := s.asyncIn s.cur (fun _ => true) = false

/-- Derived from R54, R450, R451, R472: TRAP, BKPT and an unassigned word complete by entering their trap: the trap registers hold the word,
its PC, half, mode, code and RINGHEAD, the mode is system, EXL is set, the PC is TRAPVEC, results on their way are written; registers and
memory stand. An ILLEGAL's EINFO has no layout, and nothing is said of it. Stated for EXL clear, no Husk hook and no members. -/
def Claim.TrapWords : Prop :=
  ∀ (s : State) (n : BitVec 16) (w : Word),
    s.c.tr.exl = false → s.c.husk.hooks = [] → s.c.w.followers = [] → s.c.latch.src = .own →
    let enters := fun (i : Instr) (cause : Word) (info : Word → Prop) => ∃ t, exec i s = .next t ∧
      t.c.tr.epc = s.c.pc ∧ t.c.tr.ecause = cause ∧ t.c.tr.eword = s.c.latch.word ∧ t.c.tr.eseq = s.c.ringHead.setWidth 64 ∧
      t.c.tr.exl = true ∧ t.c.tr.pm = s.c.sys ∧ t.c.tr.ehalf = s.c.latch.half ∧ t.c.tr.pend = s.c.tr.pend ∧
      info t.c.tr.einfo ∧ t.c.sys = true ∧ t.c.pc = s.c.tr.trapvec ∧ t.c.prods = [] ∧ t.c.g = s.c.g ∧ t.c.v = s.c.v ∧ t.c.k = s.c.k ∧
      t.c.ring = s.c.ring ∧ t.c.sq = s.c.sq ∧ t.mem = s.mem ∧ t.tags = s.tags ∧ ∀ m, m ≠ s.cur → t.getC m = s.getC m
    enters (.trap n) 0x18 (· = n.setWidth 64) ∧ enters (.bkpt n) 0x19 (· = n.setWidth 64) ∧
    enters (.unassignedEncoding w) 0x01 (fun _ => True)

/-- R60, R61, R471: every word that needs system mode raises PRIV in user mode, whatever its operands, before it has any effect. -/
def Obligations.Privileged : Prop :=
  ∀ (s : State) (i : Instr), needsSys i = true → s.c.sys = false →
    exec i s = .next (s.trapPrecise ⟨Cause.priv.code, s.openInfo, true, none⟩)

/-- The NOTICE of kind 4 for core `n` and a cause (R453, R507): a TXC record with no owner; its sequence is any number. -/
def Claim.halting (n : Nat) (cause : BitVec 8) (q : Nat) : HostOut :=
  .record (txcRecord 0x42 0 q 0xFF ([4] ++ leBytes n 2 ++ [cause]))

/-- Derived from R452, R453, R494: a trap at EXL = 1 on a core without a task halts it, and the host is told; a halted core holds no Husk set. -/
def Claim.DoubleFault : Prop :=
  ∀ (s : State) (e : Entry), s.c.tr.exl = true → s.c.task = none → s.c.sq = [] →
    (s.takeTrap e).c.run = .halted ∧ (s.takeTrap e).c.husk = {} ∧ (s.takeTrap e).mem = s.mem ∧
    ∃ q, (s.takeTrap e).host.out = s.host.out ++ [Claim.halting s.cur e.cause q]

/-- Derived from R54, R147, R458, R473: in system mode ERET gives back the mode, clears EXL and goes on at EPC (a member back to its
stream), with the ring's unresolved entries queued for replay under RPL. Where EPC is the join of a publisher's innermost BRW that path
ends: the publisher turns to the other path, at the BRW's target, or goes on at the join. ERET.kill on a core without a task halts it,
which is the model's choice (log entry 24): R473 speaks of a task alone. -/
def Claim.Eret : Prop :=
  ∀ (s : State) (rpl : Bool), s.c.sys = true →
    (∃ t, exec (.eret rpl false) s = .next t ∧ t.c.sys = s.c.tr.pm ∧ t.c.tr = { s.c.tr with exl := false } ∧
      ((∀ f ∈ s.c.w.brw, s.c.tr.epc ≠ f.join) → t.c.pc = s.c.tr.epc ∧ t.c.w.brw = s.c.w.brw) ∧
      (∀ f, s.c.w.brw = [f] → s.c.tr.epc = f.join → f.target ≠ f.join → s.c.tr.pm = false → s.c.w.priv = false →
        s.c.w.st = .publisher →
        (f.more = true → t.c.pc = f.target ∧ t.c.w.brw = [{ f with path := true, more := false, mine := f.cond }]) ∧
        (f.more = false → t.c.pc = f.join ∧ t.c.w.brw = [])) ∧
      t.c.replayQ = (if rpl then s.c.replayList else []) ∧ t.c.prods = [] ∧ t.c.g = s.c.g ∧ t.c.v = s.c.v ∧ t.c.k = s.c.k ∧
      t.mem = s.mem ∧ ∀ m, m ≠ s.cur → t.getC m = s.getC m) ∧
    (s.c.task = none → s.c.sq = [] → ∃ t q, exec (.eret rpl true) s = .next t ∧ t.c.run = .halted ∧
      t.host.out = s.host.out ++ [Claim.halting s.cur (s.c.tr.ecause.setWidth 8) q])

/-- Together: TRAP, BKPT and unassigned words enter their trap, a double fault halts a core without a task, ERET returns. -/
def Obligations.TrapsAndReturns : Prop := Claim.TrapWords ∧ Claim.DoubleFault ∧ Claim.Eret
/-- Derived from R95, R449, R451: what MFSR reads from each register of a core or its context, in the modes R449 gives. FPFLAGS waits for
earlier vector words. -/
def Claim.RegisterReads : Prop :=
  ∀ (s : State) (d : GReg) (n : BitVec 12),
    let c := s.c
    let x := s.getX c.ctx
    let user := fun (r : BitVec 12) (v : Word) => n = r → Completes (.mfsr d n) s (putI s.c d v)
    let sys := fun (r : BitVec 12) (v : Word) => n = r → c.sys = true → Completes (.mfsr d n) s (putI s.c d v)
    user 0x000 (BitVec.ofNat 64 s.cur) ∧ user 0x001 0xA1 ∧ user 0x002 (BitVec.ofNat 64 c.ctx) ∧ user 0x003 (c.mode.setWidth 64) ∧
    user 0x004 c.w.word ∧ sys 0x005 (c.tr.trapvec.setWidth 64) ∧ sys 0x006 (c.tr.epc.setWidth 64) ∧ sys 0x007 c.tr.ecause ∧
    sys 0x008 c.tr.eword ∧ sys 0x009 c.tr.einfo ∧ sys 0x00A c.tr.eseq ∧
    sys 0x00B (BitVec.ofNat 64 ((if c.tr.pend then 8 else 0) + (if c.tr.exl then 4 else 0) + (if c.tr.pm then 2 else 0) + (if c.tr.ehalf then 1 else 0))) ∧
    sys 0x00C c.slim ∧ sys 0x00D c.sbase ∧ user 0x00E c.fpctl ∧ user 0x010 (BitVec.ofNat 64 s.cycle) ∧
    user 0x012 c.taskid ∧ user 0x013 c.launchid ∧ user 0x014 c.fscope ∧ user 0x015 (if c.cancelf then 1 else 0) ∧
    user 0x016 x.grantbase ∧ user 0x017 x.xbase ∧ user 0x018 x.duty ∧ user 0x01A s.c.husk.word ∧
    user 0x01B (c.ringHead.setWidth 64) ∧ user 0x01C (BitVec.ofNat 64 c.loads.length) ∧ user 0x01D (c.portfull.setWidth 64) ∧
    user 0x01E (c.rdvto.setWidth 64) ∧ user 0x01F (BitVec.ofNat 64 c.member) ∧
    (n = 0x00F → CompletesTo (.mfsr d n) s s.awaitVector (putI s.awaitVector.c d (s.awaitVector.c.fpflags.setWidth 64)) (s.c.pc + 1)) ∧
    (0x100 ≤ n.toNat → n.toNat < 0x180 → c.sys = true → Completes (.mfsr d n) s (putI s.c d (s.mgmtRead n.toNat)))

/-- Derived from R49, R50, R99, R172, R230, R242, R244, R449, R451, R469, R518: what a write of each register stores, by MTSR and by the table's own rows for register
writes; reserved bits are dropped, and a write of a register that is not writable changes nothing. A change of GRANTBASE or XBASE is stated
where no core of the context has accesses under way; it empties the context's cached entries, and its jobs check their grants, or
translate, again. That TLIM (0x102) is held between 70 and 105 is the model's choice (log entry 45): R518 states the bounds of PLIM alone. -/
def Claim.RegisterWrites : Prop :=
  ∀ (s : State) (a : GReg) (n : BitVec 12),
    let x := s.rdI a
    let ctx := s.c.ctx
    let w := s.awaitProducers
    let v := s.awaitVector
    let row := fun (r : BitVec 12) (own : List Instr) (u : State) =>
      n = r → ∀ i ∈ own ++ [.mtsr n a, .registerWrite n x], Leaves i s u
    let idle := fun (u : State) => u.grantPending ctx none = false ∧ ∀ e ∈ u.cores, e.2.ctx = ctx → Claim.quiet e.2
    (row 0x00E [.fpflagsWrite n x] (v.upd (fun c => { c with fpctl := x &&& 0x1F01 })) ∧
     row 0x00F [.fpflagsWrite n x] (v.upd (fun c => { c with fpflags := x.setWidth 5 })) ∧
     (s.c.asyncs = [] → row 0x01D [.portfullWrite x] (s.upd (fun c => { c with portfull := x.setWidth 16 }))) ∧
     row 0x01E [] (s.upd (fun c => { c with rdvto := x.setWidth 32 })) ∧
     ∀ r ∈ ([0x000, 0x001, 0x002, 0x004, 0x010, 0x011, 0x012, 0x013, 0x014, 0x015, 0x019, 0x01A, 0x01B, 0x01C, 0x01F] : List (BitVec 12)), row r [] s) ∧
    (s.c.sys = true →
     row 0x003 [.modeWrite x] (w.upd (fun c => { c with mode := x.setWidth 3 })) ∧
     row 0x005 [] (s.upd (fun c => { c with tr := { c.tr with trapvec := x.setWidth 12 } })) ∧
     row 0x006 [] (s.upd (fun c => { c with tr := { c.tr with epc := x.setWidth 12 } })) ∧
     row 0x007 [] (s.upd (fun c => { c with tr := { c.tr with ecause := x &&& 0xDFF } })) ∧
     row 0x008 [] (s.upd (fun c => { c with tr := { c.tr with eword := x } })) ∧
     row 0x009 [] (s.upd (fun c => { c with tr := { c.tr with einfo := x } })) ∧
     row 0x00A [] (s.upd (fun c => { c with tr := { c.tr with eseq := x &&& 0xFFFFFFFF } })) ∧
     row 0x00B [] (s.upd (fun c => { c with tr := { c.tr with exl := x.getLsbD 2, pm := x.getLsbD 1, ehalf := x.getLsbD 0 } })) ∧
     row 0x00C [] (s.upd (fun c => { c with slim := x &&& ~~~(0xF : Word) })) ∧
     row 0x00D [] (s.upd (fun c => { c with sbase := x &&& ~~~(0xF : Word) })) ∧
     (let u := ((s.updX ctx (fun y => { y with grantbase := x &&& 0xFFFFFFFFFFFF001F })).dropGrant ctx none).recheckGrant ctx none
      idle u → (∀ g r, s.c.wait ≠ some (.grant g r)) → row 0x016 [.grantbaseWrite x] u) ∧
     (idle s → row 0x017 [.xbaseWrite x]
       ((({ s with tlb := s.tlb.filter (fun e => !(e.ctx == ctx)) }).updX ctx (fun y => { y with xbase := x &&& 0x0000FFFFFFFF0000 })).retranslate
         (fun j => ctx == j.ctx))) ∧
     row 0x018 [.dutyWrite x] (s.updX ctx (fun y => { y with duty := dutyWritten y.duty x })) ∧
     row 0x102 [] { s with host := { s.host with tlim := min (max x.toNat 70) 105 } } ∧
     row 0x104 [] { s with host := { s.host with plim := min (max x.toNat 1000) 3200 } } ∧
     row 0x107 [.ecccClear x] { s with host := { s.host with eccc := 0 } } ∧
     row 0x10A [] { s with host := { s.host with idIndex := x.toNat % 2 ^ 16 } })

/-- Together: what MFSR reads and what each kind of register write stores. -/
def Obligations.SystemRegisters : Prop := Claim.RegisterReads ∧ Claim.RegisterWrites
/-- Derived from R185, R196, R197, R471, R474, R475, R477: NOP, ISYNC, TLBINV, IDLE, ECHK and IDENT. That IDLE goes on at once where CANCELF is 1
already is the model's choice (log entry 34). The serial number is not zero. -/
def Obligations.SystemWords : Prop :=
  ∀ (s : State) (d a b : GReg) (sc : Scope) (r : RingEntry) (hi : Bool),
    Completes .nop s s.c ∧
    (s.c.sq = [] → Completes .isync s { s.c with istale := [] }) ∧
    (s.c.sys = true → (s.c.cancelf = true ∨ (s.c.wait = some .idle ∧ s.c.woken.isSome = true)) → Completes .idle s s.c) ∧
    (s.c.sys = true → s.unsent s.cur = false → (∀ e ∈ s.cores, Claim.quiet e.2) →
      let reach := fun (e : TlbEntry) => tlbScope s.cur sc e.place
      let ctx := (s.rdI b).toNat % 16
      let page := (s.rdI a).toNat % 2 ^ 55 / 0x10000 * 0x10000
      let without := fun (p : TlbEntry → Bool) => ({ s with tlb := s.tlb.filter (fun e => !(reach e && p e)) } : State)
      let held := fun (j : Job) => engInScope s.cur sc j.eng
      Leaves (.tlbinv .all sc a b) s ((without (fun _ => true)).retranslate held) ∧
      Leaves (.tlbinv .ctx sc a b) s ((without (fun e => e.ctx == ctx)).retranslate (fun j => held j && ctx == j.ctx)) ∧
      Leaves (.tlbinv .page sc a b) s ((without (fun e => e.ctx == ctx && e.va / 2 ^ leafLog e.level == page / 2 ^ leafLog e.level)).retranslate
        (fun j => held j && ctx == j.ctx))) ∧
    (s.c.loads = [] → s.c.out = 0 →
      let q := (s.rdI a).setWidth 32
      let recent := 1 ≤ (s.c.ringHead - q).toNat ∧ (s.c.ringHead - q).toNat ≤ 64
      (recent → mfind s.c.ring (q.toNat % 64) = some r → r.seq = q →
        Completes (.echk (.read d a hi)) s (putG s.c d ⟨BitVec.ofNat 128 (field r.bytes (if hi then 16 else 0) 16), false⟩) ∧
        (s.c.sys = true → (s.rdI b).toNat % 4 < 3 →
          Completes (.echk (.mark a b)) s { s.c with ring := mset s.c.ring (q.toNat % 64) { r with
            status := BitVec.ofNat 8 ((s.rdI b).toNat % 4), cause := if (s.rdI b).toNat % 4 = 0 then 0 else r.cause, count := (s.rdI b >>> 32).setWidth 32 } })) ∧
      (¬recent → Completes (.echk (.read d a hi)) s (putG s.c d ⟨BitVec.allOnes 128, false⟩) ∧
        (s.c.sys = true → Completes (.echk (.mark a b)) s s.c))) ∧
    Completes (.ident d .part) s (putI s.c d 0x7A150004) ∧ Completes (.ident d .stepping) s (putI s.c d 0xA1) ∧
    Completes (.ident d .counts) s (putI s.c d (BitVec.ofNat 64 (4 * 2 ^ 8 + 1152 * 2 ^ 16 + 288 * 2 ^ 32))) ∧
    Completes (.ident d .serialLo) s (putI s.c d (Config.serial.extractLsb' 0 64)) ∧
    Completes (.ident d .serialHi) s (putI s.c d (Config.serial.extractLsb' 64 64)) ∧ Config.serial ≠ 0

/-- Derived from R466, R476, R497, R498, R499: in system mode CSAVE stores the core's record and CREST loads one of this stepping, HPLOAD stages
the image it has read and HPACT activates; each writes its status to gD, 0 for CSAVE and CREST. HPQRY reads in either mode. Stated from
the states their checks and reads leave. -/
def Obligations.RecordsAndImages : Prop :=
  ∀ (s s1 s2 : State) (d b : GReg) (spad : Bool) (ea : Nat) (bs : List Byte),
    let n := if spad then 0x90000 else 0x8100
    (s.c.sys = true →
      (recordPlace b n permW .store s = (.ok ea, s1) →
        let w := s1.awaitProducers
        let token := 2 * w.ham.blobs.length
        storeRecord ea (w.coreRecord w.cur 0 token spad) { w with ham := { w.ham with blobs := w.ham.blobs ++ [(token, w.c)] } } = (.ok (), s2) →
        s2.c.pc = s.c.pc → s2.c.latch = s.c.latch → s2.c.w = s.c.w → s2.c.sys = s.c.sys →
        CompletesTo (.csave d b spad) s s2 (putI s2.c d 0) (s.c.pc + 1)) ∧
      ((do let x ← recordPlace b n permR .load; readBlock x n) s = (.ok bs, s1) → field bs 8 8 = 0xA1 →
        let u := s1.awaitProducers.loadRecord s1.cur bs spad
        u.c.pc = s.c.pc → u.c.latch = s.c.latch → u.c.w = s.c.w → u.c.sys = s.c.sys →
        CompletesTo (.crest d b spad) s u (putI u.c d 0) (s.c.pc + 1)) ∧
      (imageAt b s = (.ok bs, s1) → s1.c.pc = s.c.pc → s1.c.latch = s.c.latch → s1.c.w = s.c.w →
        CompletesTo (.hpload d (.mem b)) s (s1.stageImage bs).2 (putI (s1.stageImage bs).2.c d (BitVec.ofNat 64 (s1.stageImage bs).1)) (s.c.pc + 1)) ∧
      (s.c.task.isSome = true →
        let r := s.activateImage s.cur (bitsOf (s.rdI b).toNat 23 16) ((s.rdI b).toNat % 2 ^ 16)
        CompletesTo (.hpact d b) s r.2 (putI r.2.c d (BitVec.ofNat 64 r.1)) (s.c.pc + 1))) ∧
    Completes (.hpqry d .gen) s (putI s.c d s.sec.newest.word) ∧
    Completes (.hpqry d .pend) s (putI s.c d (BitVec.ofNat 64 (s.unswitched nCores)))

/-! ## LDS (R188 to R195) -/

/-- A plain home: the bytes are not the core's stack, not behind a host window, in no tile an accepted entry still works on, without an
uncorrectable error, and the core's own queue holds no atomic on them. -/
structure Claim.Plain (s : State) (l : Loc) (ea n : Nat) : Prop where
  stack : s.c.inStack ea = false
  host : l.host = false
  free : s.tileBusy l.key = false
  good : s.poisoned l.key n = false
  known : ∀ i ∈ List.range n, sqByte s.c.sq s.c.seq (l.key + i) ≠ some none

/-- The core with one more entry in its store queue. -/
def Claim.queued (c : Core) (ops : List (SqOp × Home)) : Core :=
  { c with sq := c.sq ++ (ops.zipIdx.map (fun (p : (SqOp × Home) × Nat) => (⟨p.1.1, p.1.2, c.seq + p.2, c.ctx⟩ : SqEntry))), seq := c.seq + ops.length }

/-- The bytes of a load as the core sees them: its own queued stores first, then the home (R202). -/
def Claim.seen (s : State) (key n : Nat) : List Byte := (List.range n).map (fun i => s.seenByte s.cur s.c.seq (key + i))

/-- A 128-bit value with `n` bytes from byte `k` replaced by the low bytes of another. -/
def Claim.patched (old new : BitVec 128) (k n : Nat) : BitVec 128 :=
  BitVec.ofFnLE (fun (i : Fin 128) => if 8 * k ≤ i.val ∧ i.val < 8 * (k + n) then new.getLsbD (i.val - 8 * k) else old.getLsbD i.val)

/-- Derived from R149, R188, R189, R190, R191, R193, R194, R202: the loads and stores of a core whose checks pass. A load of a plain home gives the
bytes the core sees, extended by its type; a store joins the queue with its bytes and its granule's tag, and memory stands until it drains;
LDA becomes outstanding. In the stack the cached granule gives and takes the bytes, and a granule written is dirty; ST clears its tag, STC
writes its own. -/
def Claim.LoadsStores : Prop :=
  ∀ (s s' : State) (d a : GReg) (ty : LdType) (off : BitVec 14) (goff : BitVec 17) (l : Loc) (x : SLine),
    let c := s.rdG a
    let n := ldSize ty
    let ea := ldEa c ty off
    let gea := ldcEa c goff
    let v := s.rdG d
    let next := s.c.pc + 1
    (Reaches s c ea n permR .load l s' →
      (Claim.Plain s' l ea n →
        CompletesTo (.ld d a ty off) s s' (putG s'.c d (loadResult ty (leNat (Claim.seen s' l.key n)))) next ∧
        (s.c.loads.length < 32 → CompletesTo (.lda d a ty off) s s' { s'.c with
          loads := s'.c.loads ++ [{ file := .g, reg := gKey s.c.sys d.val, ty := some ty, token := s.c.tokenOf, seq := s.c.seq, ctx := s.c.ctx
                                    spos := s.c.spos, ea := ea, sectors := [⟨(List.range n).map (fun i => (i, l.key + i)), false⟩] }]
          seq := s.c.seq + 1 } next)) ∧
      (s.c.inStack ea = true → mfind s.c.stack (ea / 16) = some x → x.bad = false →
        let y := loadResult ty (x.val.toNat / 2 ^ (8 * (ea % 16)) % 2 ^ (8 * n))
        CompletesTo (.ld d a ty off) s s' (putG s'.c d y) next ∧
        (s.c.loads.length < 32 → CompletesTo (.lda d a ty off) s s' (putG s'.c d y) next))) ∧
    ((s.c.inStack ea = true → mfind s.c.stack (ea / 16) = some x → x.bad = false → Reaches s c ea n permW .store l s' →
        CompletesTo (.st d a ty off) s s' { s'.c with
          stack := mset s.c.stack (ea / 16) ⟨Claim.patched x.val v.val (ea % 16) n, false, true, x.key, false⟩ } next) ∧
      (s.c.inStack gea = true → mfind s.c.stack (gea / 16) = some x →
        (x.bad = false → Reaches s c gea 16 (permR ||| permCL) .load l s' → CompletesTo (.ldc d a goff) s s' (putG s'.c d ⟨x.val, x.tag⟩) next) ∧
        (Reaches s c gea 16 (if v.tag then permW ||| permCS else permW) .store l s' → (v.tag && l.tagless) = false →
          CompletesTo (.stc d a goff) s s' { s'.c with stack := mset s.c.stack (gea / 16) ⟨v.val, v.tag, true, x.key, false⟩ } next))) ∧
    (Reaches s c ea n permW .store l s' → Claim.Plain s' l ea n → s.c.sq.length < 32 →
      CompletesTo (.st d a ty off) s s' (Claim.queued s'.c [(.write (cellsAt l.key (leBytes v.val.toNat n))
        (if l.tagless then [] else [(l.key / 16, false)]), homeOf l.key)]) next) ∧
    (Reaches s c gea 16 (permR ||| permCL) .load l s' → Claim.Plain s' l gea 16 → s.c.sq = [] →
      CompletesTo (.ldc d a goff) s s' (putG s'.c d ⟨BitVec.ofNat 128 (leNat (readBytes s.mem l.key 16)), s.tagAt l.key && !l.tagless⟩) next) ∧
    (Reaches s c gea 16 (if v.tag then permW ||| permCS else permW) .store l s' → Claim.Plain s' l gea 16 → s.c.sq.length < 32 →
      (v.tag && l.tagless) = false →
      CompletesTo (.stc d a goff) s s' (Claim.queued s'.c [(.write (cellsAt l.key (leBytes v.val.toNat 16))
        (if l.tagless then [] else [(l.key / 16, v.tag)]), homeOf l.key)]) next)

/-- Derived from R192, R195, R437: WAITLD goes on when no more loads are outstanding than it names. PREF completes whatever its operands and
changes nothing but what a check may cache; under STEPSTRICT, outside the own scratchpad and the stack, it raises STEPLOCAL once its
capability has passed (where it has not, it completes: log entry 49). -/
def Claim.WaitPrefetch : Prop :=
  ∀ (s : State) (a : GReg) (n : BitVec 6) (off : BitVec 17),
    (s.c.loads.length ≤ n.toNat → Completes (.waitld n) s s.c) ∧
    let c := s.rdG a
    let ea := eaOf c off.toInt
    let away := (s.c.strict && !s.ownSpad s.cur ea && !s.c.inStack ea) = true
    (¬ away → ∃ t, exec (.pref a off) s = .next t ∧ outside { t with tlb := s.tlb } = outside s ∧
      bare { t.c with gcache := s.c.gcache } = bare s.c ∧ Ends s t (s.c.pc + 1)) ∧
    (away → (∃ s', Checked s c ea 1 permR s') → Traps (.pref a off) s s .steplocal (BitVec.ofNat 64 ea)) ∧
    (away → (∃ k u, Turned s c ea 1 permR k u) → Completes (.pref a off) s s.c)

/-- Together: loads, stores, WAITLD and PREF. -/
def Obligations.LoadsAndStores : Prop := Claim.LoadsStores ∧ Claim.WaitPrefetch
/-! ## ATM (R211 to R218) -/

/-- Whether atomics may act at an address: not in the windows of instruction stores and accumulators (R163, R211). -/
def Claim.atomic (ea : Nat) : Bool :=
  match regionOf ea with
  | some (.window w _ _) => w != .istore && w != .mistore && w != .acc
  | _ => true

/-- The new value of R214 at a width: 64 bits, or the low 32 with the result zero-extended. -/
def Claim.amo (op : AmoOp) (w : Nat) (o x : BitVec w) : BitVec w :=
  match op with
  | .add => o + x
  | .swap => x
  | .and => o &&& x
  | .or => o ||| x
  | .xor => o ^^^ x
  | .mins => if o.toInt ≤ x.toInt then o else x
  | .maxs => if x.toInt ≤ o.toInt then o else x
  | .maxz => if x.toNat ≤ o.toNat then o else x

/-- The FP32 operations of R215: a rounded sum, or the smaller or larger of two numbers, with -0.0 below +0.0; a NaN gives 0x7FC00000.
`at'` is a number's place among the numbers. -/
def Claim.amof (op : AmofOp) (o x : Lane) : Lane :=
  let nan := fun (y : Lane) => decide (0x7F800000 < y.toNat % 2 ^ 31)
  let at' := fun (y : Lane) => if y.msb then -(y.toNat % 2 ^ 31 : Int) - 1 else (y.toNat % 2 ^ 31 : Int)
  match op with
  | .add => (fAdd false .rne o x).1
  | .min => if nan o || nan x then 0x7FC00000 else if at' o ≤ at' x then o else x
  | .max => if nan o || nan x then 0x7FC00000 else if at' x ≤ at' o then o else x

/-- Derived from R211, R212, R214, R215, R216: an atomic on a plain home, its core's queue empty, no load outstanding and no deposit waiting, reads and updates the
bytes at one instant at the home (MEMORY changes there and nowhere else, the granule's tag clears) and gives the old value, whatever its
order and scope. CAS writes only where the old value is the one expected. (What `fAdd` gives is stated in `VectorReals`.) -/
def Obligations.Atomics : Prop :=
  ∀ (s s' : State) (d a b : GReg) (op : AmoOp) (fop : AmofOp) (order : Order) (l : Loc),
    let c := s.rdG b
    let ea := capAddr c
    let x := s.rdI a
    let e := s.rdI d
    let need := permR ||| permW ||| permA
    let old := fun (n : Nat) => BitVec.ofNat 64 (leNat (readBytes s.mem l.key n))
    let put := fun (n : Nat) (y : Word) => s'.writeAt s.c.ctx l.key (leBytes y.toNat n)
    let gives := fun (i : Instr) (n : Nat) (u : State) => CompletesTo i s u (putI u.c d (old n)) (s.c.pc + 1)
    s.c.sq = [] → s.c.loads = [] → Claim.sent s → Claim.atomic ea = true →
    (Reaches s c ea 8 need .atomic l s' → Claim.Plain s' l ea 8 →
      gives (.amo op .z64 order d a b) 8 (put 8 (Claim.amo op 64 (old 8) x)) ∧
      gives (.cas .z64 order d a b) 8 (if old 8 = e then put 8 x else s')) ∧
    (Reaches s c ea 4 need .atomic l s' → Claim.Plain s' l ea 4 →
      gives (.amo op .z32 order d a b) 4 (put 4 ((Claim.amo op 32 ((old 4).setWidth 32) (x.setWidth 32)).setWidth 64)) ∧
      gives (.amof fop order d a b) 4 (put 4 ((Claim.amof fop ((old 4).setWidth 32) (x.setWidth 32)).setWidth 64)) ∧
      gives (.cas .z32 order d a b) 4 (if old 4 = (e.setWidth 32).setWidth 64 then put 4 x else s'))

/-- Derived from R205, R217, R218: LDAQ reads at the home; STRL queues a release marker and its store; AMONR queues its update, after a marker when
its order releases. -/
def Claim.AcquireRelease : Prop :=
  ∀ (s s' : State) (d a b : GReg) (op : AmoOp) (size : AtSize) (sc : Scope) (order : Order) (l : Loc),
    let c := s.rdG b
    let ea := capAddr c
    let n := atBytes size
    Claim.atomic ea = true → Claim.Plain s' l ea n →
    (Reaches s c ea n permR .load l s' → s.c.sq = [] → s.c.loads = [] → Claim.sent s →
      CompletesTo (.ldaq size sc d b) s s' (putI s'.c d (BitVec.ofNat 64 (leNat (readBytes s.mem l.key n)))) (s.c.pc + 1)) ∧
    (Reaches s c ea n permW .store l s' → s.c.sq.length + 2 ≤ 32 →
      CompletesTo (.strl size sc a b) s s' (Claim.queued s'.c [(.release sc, .hub),
        (.write (cellsAt l.key (leBytes (s.rdI a).toNat n)) (if l.tagless then [] else [(l.key / 16, false)]), homeOf l.key)]) (s.c.pc + 1)) ∧
    (Reaches s c ea n (permR ||| permW ||| permA) .atomic l s' → s.c.sq.length + 2 ≤ 32 →
      let mark := match order with
        | .rel q | .ar q => [(SqOp.release q, Home.hub)]
        | _ => []
      CompletesTo (.amonr op size order a b) s s' (Claim.queued s'.c (mark ++ [(.amo op size l.key (s.rdI a), homeOf l.key)])) (s.c.pc + 1))

/-! ## SYN (R205, R210, R219 to R234) -/

/-- Derived from R205, R210: FENCE on a core with nothing under way and no dirty stack line: an acquire or SEQ has nothing to wait for, a release
leaves its marker in the queue. -/
def Claim.Fences : Prop :=
  ∀ (s : State) (sc : Scope),
    s.c.sq = [] → s.c.loads = [] → (∀ e ∈ s.c.stack, e.2.dirty = false) →
    Completes (.fence .acq sc) s s.c ∧ (Claim.sent s → Completes (.fence .seq sc) s s.c) ∧
    Completes (.fence .rel sc) s (Claim.queued s.c [(.release sc, .hub)]) ∧
    Completes (.fence .ar sc) s (Claim.queued s.c [(.release sc, .hub)])

/-- Together: LDAQ, STRL, AMONR and FENCE. -/
def Obligations.Ordering : Prop := Claim.AcquireRelease ∧ Claim.Fences
/-- Derived from R219, R220, R221, R223, R224, R225, R226: barriers whose tests pass. BINIT sets COUNT and clears the rest but PHASE; BEXP adds to PENDING, BARR
counts an arrival and gives the phase before it; when either makes ARRIVED = COUNT with PENDING 0 the phase toggles, ARRIVED is 0 and the cores
that wait there are woken; BWAIT goes on when the phase differs from gA[0]. Nothing else changes. Stated where no excess arrival is held, the
core's queue is empty, no load is outstanding and no deposit waits. -/
def Claim.BarrierWords : Prop :=
  ∀ (s : State) (d a : GReg) (bar : BitVec 8),
    let n := bar.toNat
    let ctx := s.c.ctx
    let u := if n < 192 then dieOfCore s.cur else 4
    let b := s.getBar ctx u n
    let x := s.rdI a
    let set := fun (q : Bar) => s.setBar ctx u n q
    let tested := fun (q : Bar) =>
      if q.arrived = q.count ∧ q.count ≠ 0 ∧ q.pending = 0 ∧ q.broken = false then
        ((set q).wakeWhere (fun _ w => w == .barrier ctx u n) 1).setBar ctx u n { q with phase := !q.phase, arrived := 0, toggled := s.cycle }
      else set q
    s.c.sq = [] → s.c.loads = [] → Claim.sent s → b.heldBy = [] → s.c.wait = none →
    (1 ≤ x.toNat → x.toNat ≤ 4608 → Leaves (.binit a bar) s (set { b with count := x.toNat, arrived := 0, pending := 0, broken := false })) ∧
    (-(2 ^ 35) ≤ b.pending + x.toInt → b.pending + x.toInt ≤ 2 ^ 35 - 1 →
      Leaves (.bexp a bar) s (tested { b with pending := b.pending + x.toInt })) ∧
    (b.count ≠ 0 → b.broken = false → b.arrived < b.count →
      let v := tested { b with arrived := b.arrived + 1 }
      CompletesTo (.barr d bar) s v (putI v.c d (if b.phase then 1 else 0)) (s.c.pc + 1)) ∧
    (b.phase ≠ x.getLsbD 0 → Completes (.bwait a bar) s s.c)

/-- Derived from R221, R222, R223, R224, R225, R226: where a barrier word raises BOUNDS, with its KIND and the barrier's number in EINFO: BINIT of a
count of 0 or above 4,608 (1); BEXP past PENDING's range, which breaks the barrier and changes nothing else (2); BARR on a broken barrier,
and BWAIT there while PHASE is still gA[0] (3); BARR where COUNT is 0 (4). -/
def Claim.BarrierFaults : Prop :=
  ∀ (s : State) (d a : GReg) (bar : BitVec 8),
    let n := bar.toNat
    let u := if n < 192 then dieOfCore s.cur else 4
    let b := s.getBar s.c.ctx u n
    let x := s.rdI a
    let info := fun (k : Nat) => BitVec.ofNat 64 (k * 2 ^ 60 + n)
    -- a release on a core with nothing under way leaves the machine as it was
    let barr := fun (k : Nat) => ∃ v, Traps (.barr d bar) s v .bounds (info k) ∧ outside v = outside s ∧ ∀ m, bare (v.getC m) = bare (s.getC m)
    s.c.sq = [] → s.c.loads = [] → Claim.sent s → s.c.wait = none →
    (x.toNat = 0 ∨ 4608 < x.toNat → Traps (.binit a bar) s s .bounds (info 1)) ∧
    (b.pending + x.toInt < -(2 ^ 35) ∨ 2 ^ 35 - 1 < b.pending + x.toInt →
      ∃ v, Traps (.bexp a bar) s v .bounds (info 2) ∧ outside v = outside (s.setBar s.c.ctx u n { b with broken := true }) ∧
        ∀ m, bare (v.getC m) = bare (s.getC m)) ∧
    (b.count = 0 → barr 4) ∧ (b.count ≠ 0 → b.broken = true → barr 3) ∧
    (b.phase = x.getLsbD 0 → b.broken = true → Traps (.bwait a bar) s s .bounds (info 3))

/-- Derived from R220, R225, R226: an arrival beyond COUNT waits at the unit and is counted in the next phase: when the phase completes, the held
core is counted in the new one and goes on with that phase in gD. A BWAIT whose phase is not over sleeps. -/
def Claim.HeldArrivals : Prop :=
  ∀ (s : State) (d a : GReg) (bar : BitVec 8) (m : Nat) (p : Word),
    let n := bar.toNat
    let ctx := s.c.ctx
    let u := if n < 192 then dieOfCore s.cur else 4
    let b := s.getBar ctx u n
    let bit := fun (x : Bool) => if x then (1 : Word) else 0
    let sleeps := fun (i : Instr) (w : Wait) (q : Bar) => ∃ t, exec i s = .next t ∧ outside t = outside (s.setBar ctx u n q) ∧
      t.c.wait = some w ∧ t.c.woken = none ∧ t.c.pc = s.c.pc ∧ t.c.g = s.c.g
    (s.c.wait = some (.barArrive ctx u n) → s.c.woken = some p → Completes (.barr d bar) s (putI s.c d p)) ∧
    (s.c.sq = [] → s.c.loads = [] → Claim.sent s → s.c.wait = none → s.c.tr.pend = false →
      (b.count ≠ 0 → b.broken = false → b.count ≤ b.arrived → b.heldBy = [] →
        sleeps (.barr d bar) (.barArrive ctx u n) { b with heldBy := [s.cur] }) ∧
      (2 ≤ b.count → b.broken = false → b.pending = 0 → b.arrived + 1 = b.count → b.heldBy = [m] → m ≠ s.cur → m < nCores →
        (s.getC m).wait = some (.barArrive ctx u n) → (s.getC m).woken = none →
        CompletesTo (.barr d bar) s (s.setBar ctx u n { b with phase := !b.phase, arrived := 1, heldBy := [], toggled := s.cycle })
          (putI s.c d (bit b.phase)) (s.c.pc + 1) ∧
        ∃ t, exec (.barr d bar) s = .next t ∧ (t.getC m).woken = some (bit !b.phase)) ∧
      (b.phase = (s.rdI a).getLsbD 0 → b.broken = false → ∃ t, exec (.bwait a bar) s = .next t ∧ outside t = outside s ∧
        t.c.wait = some (.barrier ctx u n) ∧ t.c.woken = none ∧ t.c.pc = s.c.pc))

/-- Together: the barrier words, where they complete, where they raise BOUNDS and where they wait. -/
def Obligations.Barriers : Prop := Claim.BarrierWords ∧ Claim.BarrierFaults ∧ Claim.HeldArrivals

/-- Derived from R227, R230, R231, R233: WAITM on a plain home that already differs gives the value there; MSEND queues a deposit to the port of the
core its window names; PGET takes a full port's value and clears FULL, keeping OVERRUN. -/
def Obligations.WaitsAndPorts : Prop :=
  ∀ (s s' : State) (d a b : GReg) (size : AtSize) (sc : Scope) (async core : Bool) (port : BitVec 3) (l : Loc),
    let c := s.rdG b
    let ea := capAddr c
    let n := atBytes size
    let v := leNat (readBytes s.mem l.key n)
    (Claim.atomic ea = true → Reaches s c ea n permR .load l s' → Claim.Plain s' l ea n → s.c.sq = [] → s.c.loads = [] → s.c.wait = none →
      v ≠ (s.rdI a).toNat % 2 ^ (8 * n) →
      CompletesTo (.waitm size sc d a b) s s' (putI s'.c d (BitVec.ofNat 64 v)) (s.c.pc + 1)) ∧
    (let wa := (if core then 0x00F1 else 0x00F5) * 2 ^ 48 + (s.rdI a).toNat % 2 ^ 13 * 2 ^ 20
     s.c.strict = false → (core = true → s.c.sys = true) → s.locate s.party .store wa 8 = (.ok l, s') → l.remote = false → s.c.sq.length < 32 →
      let t := (l.key - spadBase) / 2 ^ 20
      CompletesTo (.msend async core port a b) s s' (Claim.queued s'.c
        [(.deposit t (s.getC t).task port.toNat (s.rdI b) async wa, homeOf l.key)]) (s.c.pc + 1)) ∧
    (s.c.portfull.getLsbD port.toNat = true → s.c.asyncs = [] →
      Completes (.pget d port) s (putI { s.c with portfull := s.c.portfull &&& ~~~((1 : BitVec 16) <<< port.toNat) } d (s.c.g' (48 + port.toNat)).int))

/-! ## Vector words (R235 to R310, R455) -/

/-- A vector or matrix word may execute at issue: it is no replay, no imprecise trap is due first, its ring slot is free (R455, R456). -/
structure Claim.Ready (s : State) : Prop where
  fresh : ∀ q, s.c.latch.src ≠ .replay q
  quiet : (s.c.tr.pend && !s.c.tr.exl) = false
  slot : s.c.slotBusy = false
  unit : (s.c.tr.pend && s.c.unitStopped) = false

/-- A guarded result: active lanes from `f`, the others as they were (R237). -/
def Claim.lanes (s : State) (k : KReg) (d : VReg) (f : Nat → Lane) : Vec :=
  Vector.ofFn (fun (l : Fin 16) => if (s.rdK k).getLsbD l then f l else (s.rdV d)[l])
/-- A guarded result, element by element of width `w`. -/
def Claim.elems (s : State) (k : KReg) (d : VReg) (w : Nat) (f : Nat → Nat → Int) : Vec :=
  Claim.lanes s k d (fun l => laneOf w (fun j => (f l j % 2 ^ w).toNat))
/-- A mask of the active lanes where `p` holds (R237). -/
def Claim.mask (s : State) (k : KReg) (p : Nat → Bool) : Mask :=
  BitVec.ofFnLE (fun (l : Fin 16) => (s.rdK k).getLsbD l && p l)

/-- The ring entry of the word in issue, done (R455). -/
def Claim.entry (c : Core) : RingEntry :=
  { seq := c.ringHead, status := 0, cls := if matrixWord c.latch.word then 2 else 1, eword := c.latch.word, pc := c.ringPc, half := c.latch.half }
/-- The word in issue has taken a ring entry, and RINGHEAD has advanced. -/
def Claim.took (c : Core) (e : RingEntry) : Core := { c with ring := mset c.ring (c.ringHead.toNat % 64) e, ringHead := c.ringHead + 1 }
/-- It has taken its entry, done. -/
def Claim.entered (c : Core) : Core := Claim.took c (Claim.entry c)
/-- It has taken its entry with a fault: cause, class, count and address or other record; PEND is set (R245, R290, R456). -/
def Claim.faulted (c : Core) (f : VFault) : Core :=
  { Claim.took c { Claim.entry c with status := 1, cause := f.cause, cls := f.cls, count := BitVec.ofNat 32 f.count, addr := f.addr, e5 := f.e5 } with
    tr := { c.tr with pend := true } }

/-- Instruction `i` completes with a vector register written and its ring entry taken, and nothing else. -/
def Claim.writesV (i : Instr) (s : State) (d : VReg) (x : Vec) : Prop := Completes i s (Claim.entered (putV s.c d x))
def Claim.writesK (i : Instr) (s : State) (d : KReg) (x : Mask) : Prop := Completes i s (Claim.entered (putK s.c d x))
def Claim.writesI (i : Instr) (s : State) (d : GReg) (x : Word) : Prop := Completes i s (Claim.entered (putI s.c d x))

/-- Derived from R236, R237, R250, R251, R252, R455: the integer vector words complete on all operands of a word that may issue; every
element of every active lane is the result of R251, an inactive lane keeps vD and gives 0 in a mask. -/
def Obligations.VectorInteger : Prop :=
  ∀ (s : State) (k e : KReg) (d a : VReg) (b : VSrc) (ty : VType) (cond : VCond) (sg : Bool) (n : BitVec 2),
    Claim.Ready s →
    let w := vtBits ty
    let src := s.rdElems b w
    let el := fun (v : Vec) (l j : Nat) => (elemAt w (laneAt v l) j : Int)
    let sx := fun (x : Int) => if vtS ty && decide (2 ^ (w - 1) ≤ x) then x - 2 ^ w else x
    let lo : Int := if vtS ty then -(2 ^ (w - 1)) else 0
    let hi : Int := if vtS ty then 2 ^ (w - 1) - 1 else 2 ^ w - 1
    let sat := fun (x : Int) => max lo (min hi x)
    let bin := fun (i : Instr) (f : Int → Int → Int → Int) =>
      Claim.writesV i s d (Claim.elems s k d w (fun l j => f (el (s.rdV a) l j) (el src l j) (el (s.rdV d) l j)))
    let bits := fun (i : Instr) (f : Lane → Lane → Lane) =>
      Claim.writesV i s d (Claim.lanes s k d (fun l => f (laneAt (s.rdV a) l) (laneAt src l)))
    bin (.vadd k d a b ty) (fun x y _ => x + y) ∧ bin (.vsub k d a b ty) (fun x y _ => x - y) ∧
    bin (.vmul k d a b ty) (fun x y _ => x * y) ∧ bin (.vmulh k d a b ty) (fun x y _ => sx x * sx y / 2 ^ w) ∧
    bin (.vmad k d a b ty) (fun x y z => z + x * y) ∧
    bits (.vand k d a b ty) (· &&& ·) ∧ bits (.vor k d a b ty) (· ||| ·) ∧ bits (.vxor k d a b ty) (· ^^^ ·) ∧
    bin (.vshl k d a b ty) (fun x y _ => x * 2 ^ (y.toNat % w)) ∧ bin (.vshr k d a b ty) (fun x y _ => x / 2 ^ (y.toNat % w)) ∧
    bin (.vsar k d a b ty) (fun x y _ => (if 2 ^ (w - 1) ≤ x then x - 2 ^ w else x) / 2 ^ (y.toNat % w)) ∧
    bin (.vmin k d a b ty) (fun x y _ => if sx x ≤ sx y then x else y) ∧ bin (.vmax k d a b ty) (fun x y _ => if sx x ≥ sx y then x else y) ∧
    bin (.vabs k d a ty) (fun x _ _ => |sx x|) ∧
    bin (.vpopc k d a ty) (fun x _ _ => (((List.range w).filter (fun i => bitOf x.toNat i)).length : Nat)) ∧
    bin (.vclz k d a ty) (fun x _ _ => (((List.range w).takeWhile (fun i => !bitOf x.toNat (w - 1 - i))).length : Nat)) ∧
    bin (.vadds k d a b ty) (fun x y _ => sat (sx x + sx y)) ∧ bin (.vsubs k d a b ty) (fun x y _ => sat (sx x - sx y)) ∧
    Claim.writesV (.vmovs k d a ty) s d (Claim.lanes s k d (fun l => BitVec.ofInt 32 (sat (laneAt (s.rdV a) l).toInt))) ∧
    Claim.writesV (.vext k d a n ty) s d (Claim.lanes s k d (fun l => BitVec.ofInt 32 (sx (el (s.rdV a) l n.toNat)))) ∧
    Claim.writesV (.vsel k d a b ty) s d (Vector.ofFn (fun (l : Fin 16) => if (s.rdK k).getLsbD l then (s.rdV a)[l] else src[l])) ∧
    (let f := fun (x : Lane) => if sg then x.toInt else (x.toNat : Int)
     let x := fun (l : Nat) => f (laneAt (s.rdV a) l)
     let y := fun (l : Nat) => f (laneAt (s.rdSrc b) l)
     Claim.writesK (.vcmp k e a b cond sg) s e (Claim.mask s k (fun l => match cond with
      | .eq => x l == y l | .ne => x l != y l | .lt => decide (x l < y l) | .le => decide (x l ≤ y l)
      | .ge => decide (y l ≤ x l) | .gt => decide (y l < x l))))

/-- What a floating-point word with results `f` of its active lanes does (R237, R243, R245): FPFLAGS collects the lanes' flags; with none of
them enabled the entry is done, else the entry records FPX, with the count of active lanes, the flags and the lanes that raised them. -/
def Claim.fpWord (i : Instr) (s u : State) (k : KReg) (d : Core → Core) (f : Nat → FFlags) : Prop :=
  let m := u.rdK k
  let ls := (List.range 16).filter (fun l => m.getLsbD l)
  let all := ls.foldl (fun x l => x ||| f l) 0
  let en := u.c.fpctl.extractLsb' 8 5
  let c := d { u.c with fpflags := u.c.fpflags ||| all }
  (all &&& en = 0 → CompletesTo i s u (Claim.entered c) (s.c.pc + 1)) ∧
  (all &&& en ≠ 0 →
    let hot := ((all &&& en).setWidth 64) ||| ((Claim.mask u k (fun l => f l &&& en != 0)).setWidth 64 <<< 16)
    CompletesTo i s u (Claim.faulted c { cause := 0x0F, count := ls.length, addr := hot }) (s.c.pc + 1))

/-- The common form: active lanes of vD take the results `f`. -/
def Claim.fpVec (i : Instr) (s u : State) (k : KReg) (d : VReg) (f : Nat → FRes) : Prop :=
  Claim.fpWord i s u k (fun c => putV c d (Claim.lanes u k d (fun l => (f l).1))) (fun l => (f l).2)

/-- Derived from R237, R240, R245, R250, R253 to R257: the VFP words complete; each active lane holds the operation's rounded result, flags are
collected and an enabled one is recorded as FPX. VFCMP and VFCLASS write masks. -/
def Claim.VectorFloat : Prop :=
  ∀ (s : State) (k e : KReg) (d a : VReg) (b : VSrc) (rm : Rm) (num : Bool) (cond : FCond) (classes : BitVec 9),
    Claim.Ready s →
    let z := s.c.fpctl.getLsbD 0
    let x := fun (l : Nat) => laneAt (s.rdV a) l
    let y := fun (l : Nat) => laneAt (s.rdSrc b) l
    let w := fun (l : Nat) => laneAt (s.rdV d) l
    let r := roundOf rm
    let nan := fun (l : Nat) => (x l &&& 0x7FFFFFFF).toNat > 0x7F800000
    Claim.fpVec (.vfadd k d a b rm) s s k d (fun l => fAdd z r (x l) (y l)) ∧
    Claim.fpVec (.vfsub k d a b rm) s s k d (fun l => fSub z r (x l) (y l)) ∧
    Claim.fpVec (.vfmul k d a b rm) s s k d (fun l => fMul z r (x l) (y l)) ∧
    Claim.fpVec (.vfma k d a b rm) s s k d (fun l => fFma z r (x l) (y l) (w l)) ∧
    Claim.fpVec (.vfms k d a b rm) s s k d (fun l => fFms z r (x l) (y l) (w l)) ∧
    Claim.fpVec (.vfmin k d a b num) s s k d (fun l => fMinMax false num (x l) (y l)) ∧
    Claim.fpVec (.vfmax k d a b num) s s k d (fun l => fMinMax true num (x l) (y l)) ∧
    Claim.fpVec (.vfabs k d a) s s k d (fun l => (if nan l then 0x7FC00000 else x l &&& 0x7FFFFFFF, 0)) ∧
    Claim.fpVec (.vfneg k d a) s s k d (fun l => (if nan l then 0x7FC00000 else x l ^^^ 0x80000000, 0)) ∧
    Claim.fpWord (.vfcmp k e a b cond) s s k (fun c => putK c e (Claim.mask s k (fun l => (fCmp cond (x l) (y l)).1)))
      (fun l => (fCmp cond (x l) (y l)).2) ∧
    Claim.writesK (.vfclass k e a classes) s e (Claim.mask s k (fun l => classes.getLsbD (fClass (x l))))

/-- The state in which an SFU word executes: the SFU is free, and taken for 4 cycles (R246). -/
def Claim.sfuAt (s : State) : State := let t := s.advance s.c.sfuFree; t.upd (fun c => { c with sfuFree := t.cycle + 4 })

/-- Derived from R246, R247, R258 to R261: the SFU words, VFDIV, VFSQRT and VRNG complete from the cycle in which the SFU is free, and take it
for 4 cycles. VRNG writes the four output words of sesame in every active lane. -/
def Claim.VectorSpecial : Prop :=
  ∀ (s : State) (k : KReg) (d a : VReg) (b : VSrc) (g : GReg),
    Claim.Ready s →
    let u := Claim.sfuAt s
    let z := u.c.fpctl.getLsbD 0
    let x := fun (l : Nat) => laneAt (u.rdV a) l
    let one := fun (i : Instr) (f : Bool → Lane → FRes) => Claim.fpVec i s u k d (fun l => f z (x l))
    one (.vrcp k d a) (sfu .rcp) ∧ one (.vrsq k d a) (sfu .rsq) ∧ one (.vexp2 k d a) (sfu .exp2) ∧ one (.vlog2 k d a) (sfu .log2) ∧
    one (.vsinpi k d a) (sfu .sinpi) ∧ one (.vcospi k d a) (sfu .cospi) ∧ one (.vtanh k d a) (sfu .tanh) ∧
    one (.vsigm k d a) (sfu .sigm) ∧ one (.verf k d a) (sfu .erf) ∧ one (.vgumb k d a) gumb ∧ one (.vfsqrt k d a) fSqrt ∧
    Claim.fpVec (.vfdiv k d a b) s u k d (fun l => fDiv z (x l) (laneAt (u.rdSrc b) l)) ∧
    (let q := fun (i l : Nat) => laneAt (u.rdV (vregAdd a i)) l
     let o := fun (l : Nat) => sesame (q 0 l) (q 1 l) (q 2 l) (q 3 l) ((u.rdI g).setWidth 32) ((u.rdI g >>> 32).setWidth 32)
     let put := fun (i : Nat) (f : Nat → Lane) (c : Core) => putV c (vregAdd d i) (Claim.lanes u k (vregAdd d i) f)
     CompletesTo (.vrng k d a g) s u (Claim.entered (put 3 (fun l => (o l).2.2.2) (put 2 (fun l => (o l).2.2.1)
      (put 1 (fun l => (o l).2.1) (put 0 (fun l => (o l).1) u.c))))) (s.c.pc + 1))

/-! ## Rounding (R238 to R241, R243, R247, R264 to R271) -/

/-- The value of a finite code of a floating format of `w` bits with `m` fraction bits (R264). -/
noncomputable def Claim.codeReal (w m : Nat) (bias : Int) (c : Nat) : ℝ :=
  let e := c / 2 ^ m % 2 ^ (w - 1 - m)
  let f := (c % 2 ^ m : Nat) / (2 : ℝ) ^ m
  (if c / 2 ^ (w - 1) % 2 = 1 then -1 else 1) * (if e = 0 then 2 ^ (1 - bias) * f else 2 ^ ((e : Int) - bias) * (1 + f))

/-- The grid of a format with unbounded exponent: below the smallest normal it has the subnormal spacing (R270). -/
def Claim.Grid (m : Nat) (bias : Int) (q : ℝ) : Prop :=
  ∃ k e : Int, 1 - bias ≤ e ∧ |k| < 2 ^ (m + 1) ∧ q = k * (2 : ℝ) ^ (e - m)

/-- `q` is `v` rounded onto a grid: to the nearest point, a tie going to the even multiple of the spacing; toward zero; down; up. -/
def Claim.Nearest (grid : ℝ → Prop) (rm : Rm) (v q : ℝ) : Prop :=
  grid q ∧ match rm with
  | .rne => ∀ z, grid z → |v - q| ≤ |v - z| ∧ (|v - z| = |v - q| → z ≠ q → ∃ k : Int, q = 2 * k * |z - q|)
  | .rtz => 0 ≤ q * v ∧ |q| ≤ |v| ∧ ∀ z, grid z → |z| ≤ |v| → |z| ≤ |q|
  | .rdn => q ≤ v ∧ ∀ z, grid z → z ≤ v → z ≤ q
  | .rup => v ≤ q ∧ ∀ z, grid z → v ≤ z → q ≤ z

/-- A floating format (R264, R265): width, fraction bits, bias, largest finite code, infinity and canonical NaN where it has them. -/
def Claim.shapeOf : Fmt → Option (Nat × Nat × Int × Nat × Option Nat × Option Nat)
  | .f32 => some (32, 23, 127, 0x7F7FFFFF, some 0x7F800000, some 0x7FC00000) | .bf16 => some (16, 7, 127, 0x7F7F, some 0x7F80, some 0x7FC0)
  | .f16 => some (16, 10, 15, 0x7BFF, some 0x7C00, some 0x7E00) | .e4m3 => some (8, 3, 7, 0x7E, none, some 0x7F)
  | .e5m2 => some (8, 2, 15, 0x7B, some 0x7C, some 0x7E) | .e2m1 => some (4, 1, 1, 0x7, none, none) | _ => none

/-- The result `r` of rounding a nonzero exact value `v` to a format with `w`, `m`, `bias`, largest code `top` and infinity `inf`: its code has the rounded
value and the sign of v, PE says that it is inexact and UF that it is tiny too; past the largest finite value OF and PE are set, and
the mode, SAT and the format choose between the largest value and infinity (R238, R243, R270, R271). -/
def Claim.Rounded (w m : Nat) (bias : Int) (top : Nat) (inf : Option Nat) (rm : Rm) (sat : Bool) (v : ℝ) (r : Nat × FFlags) : Prop :=
  ∃ q, Claim.Nearest (Claim.Grid m bias) rm v q ∧
    let sgn := fun (c n : Nat) => (0 < v → n = c) ∧ (v < 0 → n = 2 ^ (w - 1) + c)
    (|q| ≤ Claim.codeReal w m bias top → (∃ c ≤ top, sgn c r.1) ∧ Claim.codeReal w m bias r.1 = q ∧
      (q = v → r.2 = 0) ∧ (q ≠ v → 0 < |q| → |q| < 2 ^ (1 - bias) → r.2 = flPE ||| flUF) ∧
      (q ≠ v → q = 0 ∨ 2 ^ (1 - bias) ≤ |q| → r.2 = flPE)) ∧
    (Claim.codeReal w m bias top < |q| → r.2 = flOF ||| flPE ∧
      match inf with
      | none => sgn top r.1
      | some i =>
        let toMax := sat = true ∨ rm = .rtz ∨ (rm = .rdn ∧ 0 < v) ∨ (rm = .rup ∧ v < 0)
        (toMax → sgn top r.1) ∧ (¬toMax → sgn i r.1))

/-- An operand that is no NaN: whether it is infinite, whether it is negative, and its value when finite. -/
abbrev Claim.Ext := Bool × Bool × ℝ
noncomputable def Claim.extOf (x : Lane) : Claim.Ext :=
  (decide (x.toNat % 2 ^ 31 = 0x7F800000), x.getLsbD 31, Claim.codeReal 32 23 127 x.toNat)
/-- A NaN of FP32; a signalling one has fraction bit 22 clear (R239). -/
def Claim.isNan (x : Lane) : Prop := 0x7F800000 < x.toNat % 2 ^ 31
def Claim.isSig (x : Lane) : Prop := Claim.isNan x ∧ x.getLsbD 22 = false
/-- An FP32 result with its sign: a zero or an infinity; and the canonical NaN with NV. -/
def Claim.zeroOf (neg : Bool) : Lane := if neg then 0x80000000 else 0
def Claim.infOf (neg : Bool) : Lane := if neg then 0xFF800000 else 0x7F800000
def Claim.nvOf : FRes := (0x7FC00000, flNV)

/-- A result is the exact nonzero value `v` rounded to FP32. -/
def Claim.to32 (rm : Rm) (v : ℝ) (r : FRes) : Prop :=
  Claim.Rounded 32 23 127 0x7F7FFFFF (some 0x7F800000) rm false v (r.1.toNat, r.2)

/-- Operands with a NaN among them: a signalling one raises NV, a quiet one does not; `early` holds where NV comes in spite of a quiet NaN. -/
def Claim.withNan (xs : List Lane) (early : Prop) (r : FRes) : Prop :=
  ((∃ x ∈ xs, Claim.isSig x) → r = Claim.nvOf) ∧ (early → r = Claim.nvOf) ∧
  ((∃ x ∈ xs, Claim.isNan x) → (∀ x ∈ xs, ¬Claim.isSig x) → ¬early → r = (0x7FC00000, 0))

/-- The sum of two operands that are no NaN, rounded once: infinities of unlike sign raise NV; an exact zero sum has the operands' sign where
they agree, else minus under RDN only. -/
def Claim.sumOf (rm : Rm) (a b : Claim.Ext) (r : FRes) : Prop :=
  (a.1 = true → b.1 = true → a.2.1 ≠ b.2.1 → r = Claim.nvOf) ∧
  (a.1 = true → (b.1 = true → a.2.1 = b.2.1) → r = (Claim.infOf a.2.1, 0)) ∧
  (a.1 = false → b.1 = true → r = (Claim.infOf b.2.1, 0)) ∧
  (a.1 = false → b.1 = false → a.2.2 + b.2.2 = 0 →
    r = (Claim.zeroOf (if a.2.1 = b.2.1 then a.2.1 else decide (rm = .rdn)), 0)) ∧
  (a.1 = false → b.1 = false → a.2.2 + b.2.2 ≠ 0 → Claim.to32 rm (a.2.2 + b.2.2) r)

/-- The exact product, and the operand with its sign inverted. -/
noncomputable def Claim.productOf (a b : Claim.Ext) : Claim.Ext := (a.1 || b.1, a.2.1 != b.2.1, a.2.2 * b.2.2)
noncomputable def Claim.minusOf (a : Claim.Ext) : Claim.Ext := (a.1, !a.2.1, -a.2.2)
/-- Infinity times zero. -/
def Claim.infZero (x y : Lane) : Prop :=
  let inf := fun (t : Lane) => t.toNat % 2 ^ 31 = 0x7F800000
  let zero := fun (t : Lane) => t.toNat % 2 ^ 31 = 0
  (inf x ∧ zero y) ∨ (zero x ∧ inf y)

/-- Derived from R238 to R241, R243, R254, R264: VFADD, VFSUB, VFMUL, VFMA and VFMS give the exact result of their operands rounded once in the mode
of the word, with the flags of R243, the canonical NaN and NV where R239 says, and an exact zero's sign by R238. -/
def Claim.RoundedArith : Prop :=
  ∀ (rm : Rm) (x y z : Lane),
    let a := Claim.extOf x
    let b := Claim.extOf y
    let c := Claim.extOf z
    let p := Claim.productOf a b
    let m := roundOf rm
    let nn := fun (xs : List Lane) => ∀ t ∈ xs, ¬Claim.isNan t
    Claim.withNan [x, y] False (fAdd false m x y) ∧ (nn [x, y] → Claim.sumOf rm a b (fAdd false m x y)) ∧
    Claim.withNan [x, y] False (fSub false m x y) ∧ (nn [x, y] → Claim.sumOf rm a (Claim.minusOf b) (fSub false m x y)) ∧
    Claim.withNan [x, y] (Claim.infZero x y) (fMul false m x y) ∧
    (nn [x, y] → ¬Claim.infZero x y → p.1 = true → fMul false m x y = (Claim.infOf p.2.1, 0)) ∧
    (nn [x, y] → p.1 = false → p.2.2 = 0 → fMul false m x y = (Claim.zeroOf p.2.1, 0)) ∧
    (nn [x, y] → p.1 = false → p.2.2 ≠ 0 → Claim.to32 rm p.2.2 (fMul false m x y)) ∧
    Claim.withNan [x, y, z] (Claim.infZero x y) (fFma false m x y z) ∧
    (nn [x, y, z] → ¬Claim.infZero x y → Claim.sumOf rm p c (fFma false m x y z)) ∧
    Claim.withNan [x, y, z] (Claim.infZero x y) (fFms false m x y z) ∧
    (nn [x, y, z] → ¬Claim.infZero x y → Claim.sumOf rm (Claim.minusOf p) c (fFms false m x y z))

/-- Derived from R239, R240, R243, R246, R247, R258, R264: VFDIV, VFSQRT, VRCP and VRSQ give the exact quotient, root, reciprocal or reciprocal root
rounded once by RNE, with the special values of R247 and R258. -/
def Claim.RoundedQuotients : Prop :=
  ∀ (x y : Lane),
    let a := Claim.extOf x
    let b := Claim.extOf y
    let sg := a.2.1 != b.2.1
    let div := fDiv false x y
    let neg := a.2.1
    let fin := a.1 = false ∧ a.2.2 ≠ 0
    let nx := ¬Claim.isNan x
    let nxy := nx ∧ ¬Claim.isNan y
    Claim.withNan [x, y] False div ∧
    (nxy → (a.1 = true ∧ b.1 = true) ∨ (a.1 = false ∧ b.1 = false ∧ a.2.2 = 0 ∧ b.2.2 = 0) → div = Claim.nvOf) ∧
    (nxy → a.1 = true → b.1 = false → div = (Claim.infOf sg, 0)) ∧ (nxy → a.1 = false → b.1 = true → div = (Claim.zeroOf sg, 0)) ∧
    (nxy → fin → b.1 = false → b.2.2 = 0 → div = (Claim.infOf sg, flDZ)) ∧
    (nxy → a.1 = false → a.2.2 = 0 → b.1 = false → b.2.2 ≠ 0 → div = (Claim.zeroOf sg, 0)) ∧
    (nxy → fin → b.1 = false → b.2.2 ≠ 0 → Claim.to32 .rne (a.2.2 / b.2.2) div) ∧
    Claim.withNan [x] False (fSqrt false x) ∧ Claim.withNan [x] False (sfu .rcp false x) ∧ Claim.withNan [x] False (sfu .rsq false x) ∧
    (nx → a.1 = true → fSqrt false x = (if neg then Claim.nvOf else (Claim.infOf false, 0)) ∧
      sfu .rcp false x = (Claim.zeroOf neg, 0) ∧ sfu .rsq false x = (if neg then Claim.nvOf else (0, 0))) ∧
    (nx → a.1 = false → a.2.2 = 0 → fSqrt false x = (Claim.zeroOf neg, 0) ∧
      sfu .rcp false x = (Claim.infOf neg, flDZ) ∧ sfu .rsq false x = (Claim.infOf neg, flDZ)) ∧
    (nx → fin → Claim.to32 .rne (1 / a.2.2) (sfu .rcp false x) ∧
      (neg = true → fSqrt false x = Claim.nvOf ∧ sfu .rsq false x = Claim.nvOf) ∧
      (neg = false → Claim.to32 .rne (Real.sqrt a.2.2) (fSqrt false x) ∧ Claim.to32 .rne (1 / Real.sqrt a.2.2) (sfu .rsq false x)))

/-- Derived from R239, R241, R247: the other functions of the SFU at NaNs, infinities, zeros and the defined cases of R247's table; and FTZ: a subnormal
result of any of these operations becomes a zero of its sign with UF and PE, all else is the same. -/
def Claim.SpecialValues : Prop :=
  (∀ (f : SfuFn) (x : Lane), Claim.withNan [x] False (sfu f false x)) ∧
  (∀ r ∈ ([(.exp2, 0xFF800000, 0, 0), (.exp2, 0x80000000, 0x3F800000, 0), (.exp2, 0, 0x3F800000, 0), (.exp2, 0x7F800000, 0x7F800000, 0),
      (.log2, 0xFF800000, 0x7FC00000, flNV), (.log2, 0x80000000, 0xFF800000, flDZ), (.log2, 0, 0xFF800000, flDZ), (.log2, 0x7F800000, 0x7F800000, 0),
      (.log2, 0x3F800000, 0, 0), (.sinpi, 0xFF800000, 0x7FC00000, flNV), (.sinpi, 0x80000000, 0x80000000, 0), (.sinpi, 0, 0, 0),
      (.sinpi, 0x7F800000, 0x7FC00000, flNV), (.cospi, 0xFF800000, 0x7FC00000, flNV), (.cospi, 0x80000000, 0x3F800000, 0),
      (.cospi, 0, 0x3F800000, 0), (.cospi, 0x7F800000, 0x7FC00000, flNV), (.tanh, 0xFF800000, 0xBF800000, 0), (.tanh, 0x80000000, 0x80000000, 0),
      (.tanh, 0, 0, 0), (.tanh, 0x7F800000, 0x3F800000, 0), (.sigm, 0xFF800000, 0, 0), (.sigm, 0x80000000, 0x3F000000, 0),
      (.sigm, 0, 0x3F000000, 0), (.sigm, 0x7F800000, 0x3F800000, 0), (.erf, 0xFF800000, 0xBF800000, 0), (.erf, 0x80000000, 0x80000000, 0),
      (.erf, 0, 0, 0), (.erf, 0x7F800000, 0x3F800000, 0)] : List (SfuFn × Lane × Lane × FFlags)),
    sfu r.1 false r.2.1 = (r.2.2.1, r.2.2.2)) ∧
  (∀ x : Lane, ¬Claim.isNan x → (Claim.extOf x).1 = false → (Claim.extOf x).2.2 ≠ 0 →
    let a := (Claim.extOf x).2.2
    (a < 0 → sfu .log2 false x = Claim.nvOf) ∧
    (∀ n : Int, a = n → sfu .sinpi false x = (Claim.zeroOf (decide (n < 0)), 0)) ∧ (∀ n : Int, a = n + 1 / 2 → sfu .cospi false x = (0, 0))) ∧
  (let ftz := fun (f : Bool → FRes) =>
    let r := f false
    (0 < r.1.toNat % 2 ^ 31 → r.1.toNat % 2 ^ 31 < 0x800000 → f true = (Claim.zeroOf (r.1.getLsbD 31), r.2 ||| flUF ||| flPE)) ∧
    (r.1.toNat % 2 ^ 31 = 0 ∨ 0x800000 ≤ r.1.toNat % 2 ^ 31 → f true = r)
   ∀ (rm : Rm) (g : SfuFn) (x y z : Lane), ftz (fun b => fAdd b (roundOf rm) x y) ∧ ftz (fun b => fSub b (roundOf rm) x y) ∧
    ftz (fun b => fMul b (roundOf rm) x y) ∧ ftz (fun b => fFma b (roundOf rm) x y z) ∧ ftz (fun b => fFms b (roundOf rm) x y z) ∧
    ftz (fun b => fDiv b x y) ∧ ftz (fun b => fSqrt b x) ∧ ftz (fun b => sfu g b x) ∧ ftz (fun b => gumb b x))

/-- Together: the VFP and SFU words complete with their operations' results, and those are the exact results rounded once, with the flags and
special values the rules give. That the transcendental functions are correctly rounded is not stated (assumption log entry 51). -/
def Obligations.VectorReals : Prop :=
  Claim.VectorFloat ∧ Claim.VectorSpecial ∧ Claim.RoundedArith ∧ Claim.RoundedQuotients ∧ Claim.SpecialValues

/-- Derived from R274, R277 to R282: the conversion words complete. -/
def Claim.ConvertWords : Prop :=
  ∀ (s : State) (k : KReg) (d a c : VReg) (b : VSrc) (g : GReg) (src dst : Fmt) (rm : Rm) (sat x : Bool) (slot : BitVec 3) (tbl : BitVec 2)
    (pty : PackType) (inv : Bool) (e8 : Option (BitVec 2)) (target : BsTarget) (b32 : Bool),
    Claim.Ready s →
    let z := s.c.fpctl.getLsbD 0
    let va := fun (l : Nat) => laneAt (s.rdV a) l
    let old := fun (l j : Nat) => elemAt dst.width (laneAt (s.rdV d) l) j
    let pw := packBits pty
    Claim.fpVec (.vcvt k d a src dst rm sat slot tbl) s s k d (fun l => laneFlags dst.width (fun j =>
      match cvtFrom src.width dst.width slot.toNat j with
      | some i => cvtVal (fmtVal src (s.c.vtable tbl) (elemAt src.width (va l) i)) dst (roundOf rm) sat 0
      | none => (old l j, 0))) ∧
    Claim.fpVec (.vcvtsr k d a c dst sat slot) s s k d (fun l => laneFlags dst.width (fun j =>
      if j = slot.toNat then cvtVal (f32Val (va l)) dst .sr sat (laneAt (s.rdV c) l).toNat else (old l j, 0))) ∧
    Claim.writesV (.vpack k d a pty sat) s d (Claim.elems s k d pw (fun l j =>
      let v := (laneAt (s.rdV (vregAdd a j)) l).toInt
      if sat then max (packRange pty).1 (min (packRange pty).2 v) else v)) ∧
    (let put := fun (t : Core) (j : Nat) => putV t (vregAdd d j) (Claim.lanes s k (vregAdd d j) (fun l =>
        let e := elemAt pw (va l) j
        BitVec.ofInt 32 (if packS pty && decide (2 ^ (pw - 1) ≤ e) then (e : Int) - 2 ^ pw else e)))
     Completes (.vunpk k d a pty) s (Claim.entered ((List.range (32 / pw)).foldl put s.c))) ∧
    Claim.fpVec (.vscale k d a b inv e8) s s k d (fun l =>
      let y := laneAt (s.rdSrc b) l
      let go := fun (e : Int) => fScale z (va l) (if inv then -e else e)
      match e8 with
      | none => go y.toInt
      | some j => if elemAt 8 y j.toNat = 255 then invalid else go ((elemAt 8 y j.toNat : Int) - 127)) ∧
    Claim.fpVec (.vrint k d a rm x) s s k d (fun l => fRint (roundOf rm) x (va l)) ∧
    (let ls := (List.range 16).filter (fun l => (s.rdK k).getLsbD l)
     let vals := fun (r : VReg) => ls.map (fun l => f32Val (laneAt (s.rdV r) l))
     Claim.writesI (.vbscale k g a target b32) s g
      (BitVec.ofNat 64 (blockScale (bsEmax target) (vals a ++ (if b32 then vals (vregAdd a 1) else [])))))

/-- What an element of a format stands for (R264 to R268): a NaN, signalling where the quiet bit is clear, an infinity, or a number. -/
inductive Claim.Element | nan (sig : Bool) | inf (neg : Bool) | real (neg : Bool) (v : ℝ)
noncomputable def Claim.elementOf (f : Fmt) (c : Nat) : Claim.Element :=
  match Claim.shapeOf f with
  | some (w, m, bias, _, inf, _) =>
    let mag := c % 2 ^ (w - 1)
    let neg := decide (c / 2 ^ (w - 1) % 2 = 1)
    match inf with
    | some i =>
      if mag < i then .real neg (Claim.codeReal w m bias c) else if mag = i then .inf neg
      else .nan (decide (f ≠ .e5m2) && !bitOf c (m - 1))
    | none => if f = .e4m3 ∧ mag = 127 then .nan false else .real neg (Claim.codeReal w m bias c)
  | none =>
    let int := fun (n : Int) => Claim.Element.real (decide (n < 0)) n
    let two := fun (w : Nat) => int (if 2 ^ (w - 1) ≤ c % 2 ^ w then (c % 2 ^ w : Int) - 2 ^ w else c % 2 ^ w)
    match f with
    | .e8m0 => if c = 255 then .nan false else .real false (2 ^ ((c : Int) - 127))
    | .s8 => two 8 | .s4 => two 4 | .s32 => two 32 | .z4 => int (c % 16 : Nat) | _ => int (c % 256 : Nat)

/-- Derived from R243, R264 to R268, R270, R271, R277: `cvt` of an element in a mode other than SR. To a floating format the exact value is rounded onto
its grid, a zero keeps its sign, an infinity and an overflow follow R271, a NaN becomes the canonical one. To an integer format the value
is rounded to an integer; NaNs, infinities and values out of range raise NV. -/
def Claim.Conversion : Prop :=
  ∀ (src dst : Fmt) (tab : BitVec 256) (c : Nat) (rm : Rm) (sat : Bool) (rw : Nat), c < 2 ^ src.width → src ≠ .rank →
    let r := cvtVal (fmtVal src tab c) dst (roundOf rm) sat rw
    let e := if src = .t4 then Claim.elementOf .bf16 ((tab >>> (16 * c)).setWidth 16).toNat else Claim.elementOf src c
    (∀ w m bias top inf nan, Claim.shapeOf dst = some (w, m, bias, top, inf, nan) →
      let put := fun (neg : Bool) (n : Nat) => if neg then 2 ^ (w - 1) + n else n
      match e with
      | .nan sig => r = (match nan with | some q => (q, if sig then flNV else 0) | none => (0, flNV))
      | .inf neg => r = (match inf, sat with | some i, false => (put neg i, 0) | _, _ => (put neg top, flOF ||| flPE))
      | .real neg v => (v = 0 → r = (put neg 0, 0)) ∧ (v ≠ 0 → Claim.Rounded w m bias top inf rm sat v r)) ∧
    (∀ lo hi : Int, (dst, lo, hi) ∈ [(Fmt.s4, -8, 7), (Fmt.z4, 0, 15), (Fmt.s8, -128, 127), (Fmt.z8, 0, 255), (Fmt.s32, -2 ^ 31, 2 ^ 31 - 1)] →
      let code := fun (n : Int) => (n % 2 ^ dst.width).toNat
      match e with
      | .nan _ => r = (0, flNV)
      | .inf neg => r = (code (if neg then lo else hi), flNV)
      | .real _ v => ∃ q : Int, Claim.Nearest (fun z => ∃ n : Int, z = n) rm v q ∧
        (q < lo → r = (code lo, flNV)) ∧ (hi < q → r = (code hi, flNV)) ∧
        (lo ≤ q → q ≤ hi → ((q : ℝ) = v → r = (code q, 0)) ∧ ((q : ℝ) ≠ v → r = (code q, flPE))))

/-- Together: the conversion words complete, and `cvt` rounds as R270 says. -/
def Obligations.VectorConvert : Prop := Claim.ConvertWords ∧ Claim.Conversion

/-- Derived from R283 to R287: the packed-dot words complete; the integer ones add the exact sum of products mod 2^32. -/
def Claim.VectorDot : Prop :=
  ∀ (s : State) (k : KReg) (d a : VReg) (b : VSrc) (p q h : Bool) (tbl : BitVec 2),
    Claim.Ready s →
    let x := fun (l : Nat) => laneAt (s.rdV a) l
    let y := fun (l : Nat) => laneAt (s.rdSrc b) l
    let w := fun (l : Nat) => laneAt (s.rdV d) l
    let dot := fun (n : Nat) (l : Nat) =>
      let e := fun (sg : Bool) (v : Lane) (j : Nat) => if sg && decide (2 ^ (n - 1) ≤ elemAt n v j) then (elemAt n v j : Int) - 2 ^ n else elemAt n v j
      BitVec.ofInt 32 ((w l).toInt + ((List.range (32 / n)).map (fun j => e p (x l) j * e q (y l) j)).sum)
    Claim.writesV (.vdot4 k d a b p q) s d (Claim.lanes s k d (dot 8)) ∧
    Claim.writesV (.vdot8 k d a b p q) s d (Claim.lanes s k d (dot 4)) ∧
    (let v := fun (t : Lane) (j : Nat) => if h then f16Val (elemAt 16 t j) else bf16Val (elemAt 16 t j)
     Claim.fpVec (.vdoth k d a b h) s s k d (fun l => dotSum (s.c.fpctl.getLsbD 0) (f32Val (w l))
      ((List.range 2).map (fun j => (v (x l) j, v (y l) j))))) ∧
    Claim.fpVec (.vdott k d a b tbl h) s s k d (fun l => dotSum (s.c.fpctl.getLsbD 0) (f32Val (w l))
      ((List.range 4).map (fun j => (fmtVal .t4 (s.c.vtable tbl) (elemAt 4 (x l) ((if h then 4 else 0) + j)), e4m3Val (elemAt 8 (y l) j))))) ∧
    Completes (.vtblw tbl a) s (Claim.entered { s.c with vtab := mput 0 s.c.vtab tbl.toNat (tableFrom (s.rdV a)) })

/-- Derived from R301, R302, R303: the lane moves complete; VGETX and VPUTX with a register number below 384 too, and one of 384 or more records VFAULT. -/
def Claim.VectorMoves : Prop :=
  ∀ (s : State) (k : KReg) (d a b : VReg) (g : GReg) (two zf : Bool) (sh : Shuf) (n : LaneSrc) (bc : BcSrc),
    Claim.Ready s →
    let x := s.rdV a
    let y := s.rdV b
    let move := fun (i : Instr) (f : Nat → Lane) => Claim.writesV i s d (Claim.lanes s k d f)
    let on := (List.range 16).filter (fun l => (s.rdK k).getLsbD l)
    let below := fun (l : Nat) => ((List.range l).filter (fun i => (s.rdK k).getLsbD i)).length
    move (.vperm k d a b two) (fun l =>
      let i := (laneAt y l).toNat
      if two && decide (16 ≤ i % 32) then laneAt (s.rdV (vregAdd a 1)) (i % 16) else laneAt x (i % 16)) ∧
    move (.vshuf k d a sh) (fun l => match sh with
      | .xor m => laneAt x (l ^^^ m.toNat)
      | .ziplo r => if l % 2 = 0 then laneAt x (l / 2) else laneAt (s.rdV r) (l / 2)
      | .ziphi r => if l % 2 = 0 then laneAt x (8 + l / 2) else laneAt (s.rdV r) (8 + l / 2)
      | .unzipe r => if l < 8 then laneAt x (2 * l) else laneAt (s.rdV r) (2 * (l - 8))
      | .unzipo r => if l < 8 then laneAt x (2 * l + 1) else laneAt (s.rdV r) (2 * (l - 8) + 1)) ∧
    move (.vrot k d a n) (fun l => laneAt x ((l + (match n with | .imm m => m.toNat | .g r => (s.rdI r).toNat)) % 16)) ∧
    move (.vbcst k d bc) (fun _ => match bc with | .lane r m => laneAt (s.rdV r) m.toNat | .g r => (s.rdI r).setWidth 32) ∧
    Claim.writesV (.vcprs k d a zf) s d (Vector.ofFn (fun (l : Fin 16) =>
      if l.val < on.length then laneAt x (on.getD l.val 0) else if zf then 0 else (s.rdV d)[l])) ∧
    Claim.writesV (.vexpd k d a zf) s d (Vector.ofFn (fun (l : Fin 16) =>
      if (s.rdK k).getLsbD l then laneAt x (below l) else if zf then 0 else (s.rdV d)[l])) ∧
    Claim.writesI (.vballot k g a) s g ((Claim.mask s k (fun l => laneAt x l != 0)).setWidth 64) ∧
    (∀ r : VReg, (s.rdI g).toNat % 512 = r.val →
      Claim.writesV (.vgetx d g) s d (s.rdV r) ∧ Claim.writesV (.vputx g a) s r x) ∧
    (384 ≤ (s.rdI g).toNat % 512 →
      let f := Claim.faulted s.c { cause := 0x10, count := 0, addr := BitVec.ofNat 64 ((s.rdI g).toNat % 512) }
      Completes (.vgetx d g) s f ∧ Completes (.vputx g a) s f)

/-- Together: packed dots and lane moves. -/
def Obligations.VectorDotMoves : Prop := Claim.VectorDot ∧ Claim.VectorMoves
/-- Derived from R304 to R307, R522: scans combine lane by lane from the identity, restarting at a segment's first lane and, under BRK, after an inactive lane;
VRED combines the sixteen lanes in a pairwise tree, inactive lanes giving the identity. E2: below vendor generation 3 a VSCAN.brk under an
empty guard writes the identity to lane 0. -/
def Obligations.VectorScans : Prop :=
  ∀ (s : State) (k h : KReg) (d a : VReg) (g : GReg) (op : ScanOp) (ty : ScanType) (ex brk : Bool),
    Claim.Ready s →
    let z := s.c.fpctl.getLsbD 0
    let idn := combineId op ty
    let x := fun (l : Nat) => laneAt (s.rdV a) l
    let on := fun (l : Nat) => (s.rdK k).getLsbD l
    let scan := fun (seg : Nat → Bool) => (List.range 16).foldl (fun (st : Lane × List FRes) l =>
      let acc := if seg l then idn else st.1
      let r := combine op ty z acc (x l)
      if on l then (r.1, st.2 ++ [(if ex then acc else r.1, r.2)]) else (if brk then idn else acc, st.2 ++ [(laneAt (s.rdV d) l, 0)])) (idn, [])
    let put := fun (i : Instr) (seg : Nat → Bool) (e2 : Bool) =>
      let r := fun (l : Nat) => ((scan seg).2.getD l (0, 0))
      Claim.fpWord i s s k (fun c => putV c d (Vector.ofFn (fun (l : Fin 16) =>
        if on l then (r l).1 else if e2 && l.val == 0 then idn else (s.rdV d)[l]))) (fun l => (r l).2)
    put (.vscan k d a op ty ex brk) (fun _ => false) (brk && decide (s.c.vgen < 3) && s.rdK k == 0) ∧
    put (.vsscan k d a h op ty ex brk) (fun l => (s.rdK h).getLsbD l) false ∧
    (let v := fun (l : Nat) => if on l then x l else idn
     let f := fun (p q : Lane) => combine op ty z p q
     let t1 := fun (i : Nat) => f (v (2 * i)) (v (2 * i + 1))
     let t2 := fun (i : Nat) => f (t1 (2 * i)).1 (t1 (2 * i + 1)).1
     let t3 := fun (i : Nat) => f (t2 (2 * i)).1 (t2 (2 * i + 1)).1
     let t4 := f (t3 0).1 (t3 1).1
     Claim.fpWord (.vred k g a op ty) s s k (fun c => putI c g (t4.1.setWidth 64))
      (fun l => (t1 (l / 2)).2 ||| (t2 (l / 4)).2 ||| (t3 (l / 8)).2 ||| t4.2))

/-- Derived from R308, R309, R310: the collectives complete once every participant has contributed. VXCHG gives group index i the i-th slice of each
member's register in rank order; VCHAIN gives the combination of the ranks before (EXCL), up to (INCL) or all (BC). -/
def Obligations.VectorCollectives : Prop :=
  ∀ (s s1 : State) (k : KReg) (d a : VReg) (n : BitVec 2) (op : ScanOp) (ty : ScanType) (form : ChainForm)
    (vs : List (Nat × List Nat)) (ws : List (List Nat)),
    Claim.Ready s → s1.c.pc = s.c.pc → s1.c.latch = s.c.latch → s1.c.w.brw = s.c.w.brw → s1.c.sys = s.c.sys →
    ranked vs s1 = (.ok ws, s1) → gatherEnd s1 = (.ok (), s1) →
    (let g := 2 * 2 ^ n.toNat
     let r := s1.myRank
     gathered ((s.rdV a).toList.map (·.toNat)) s = (.ok vs, s1) → ws.length % g = 0 →
     CompletesTo (.vxchg d a n) s s1 (Claim.entered (putV s1.c d (Vector.ofFn (fun (l : Fin 16) =>
      let w := 16 / g
      BitVec.ofNat 32 ((ws.getD (r / g * g + l.val / w) []).getD (r % g * w + l.val % w) 0))))) (s.c.pc + 1)) ∧
    (let idn := combineId op ty
     let own := fun (l : Nat) => if (s.rdK k).getLsbD l then laneAt (s.rdV a) l else idn
     let p := fun (r : Nat) (l : Nat) => (ws.take r).foldl (fun (x : Lane) w =>
      (combine op ty (w.getD 0 0 == 1) x (BitVec.ofNat 32 (w.getD (l + 1) 0))).1) idn
     let r := s1.myRank
     gathered ((if s.c.fpctl.getLsbD 0 then 1 else 0) :: (List.range 16).map (fun l => (own l).toNat)) s = (.ok vs, s1) →
     Claim.fpWord (.vchain k d a op ty form) s s1 k (fun c => putV c d (Vector.ofFn (fun (l : Fin 16) =>
        if (s.rdK k).getLsbD l then (match form with
          | .incl => (combine op ty (s1.c.fpctl.getLsbD 0) (p r l) (own l)).1
          | .excl => p r l
          | .bc => p ws.length l) else (s1.rdV d)[l])))
      (fun l => (combine op ty (s1.c.fpctl.getLsbD 0) (p r l) (own l)).2))

/-! ## VMEM (R289 to R300) -/

/-- The bytes of a vector word's elements are plain: none of them stack, host or poisoned, no tile in use, no queued atomic. -/
def Claim.AllPlain (s : State) (size : Nat) (es : List (Nat × Nat × Loc)) : Prop := ∀ e ∈ es, Claim.Plain s e.2.2 e.2.1 size

/-- A vector register with the lanes of some elements loaded, the others as they were. -/
def Claim.loaded (s : State) (d : VReg) (size : Nat) (ext : Nat → Lane) (es : List (Nat × Nat × Loc)) : Vec :=
  Vector.ofFn (fun (l : Fin 16) => match es.find? (fun e => e.1 == l.val) with
    | some e => ext (leNat (Claim.seen s e.2.2.key size))
    | none => (s.rdV d)[l])

/-- The store-queue entry of some elements of a vector store: their bytes, their granules with tags cleared (R292, R293). -/
def Claim.storeOf (v : Vec) (size : Nat) (g : List (Nat × Nat × Loc)) : List (SqOp × Home) :=
  match g with
  | [] => []
  | e :: _ =>
    let cells := (g.map (fun e => cellsAt e.2.2.key (leBytes (laneAt v e.1).toNat size))).flatten
    [(.write cells (if e.2.2.tagless then [] else (cells.foldl (fun (ts : NSet) c => nins (c.1 / 16) ts) []).map (fun g => (g, false))), homeOf e.2.2.key)]

/-- The word's entry: done, or with the first element's fault (R290). -/
def Claim.closed (c : Core) (f : Option VFault) : Core :=
  match f with
  | none => Claim.entered c
  | some x => Claim.faulted c x

/-- What a vector load does that starts at lane addresses `es`: the elements before the first that fails (all, where none fails) are loaded in
their lanes, the others are not touched, and the failing one is recorded (R289, R290, R291). -/
def Claim.loads (i : Instr) (s : State) (d : VReg) (b : GReg) (size : Nat) (ext : Nat → Lane) (es : List (Nat × Nat)) : Prop :=
  ∀ (ok : List (Nat × Nat × Loc)) (f : Option VFault) (t : State),
    elemAccess (s.rdG b) size permR .load false 0 es s = (.ok (ok, f), t) → Claim.AllPlain t size ok →
    CompletesTo i s t (Claim.closed (putV t.c d (Claim.loaded t d size ext ok)) f) (s.c.pc + 1)

/-- What a vector store does: the elements before the first that fails join the store queue, grouped by `group`, in order (R289, R292, R293). -/
def Claim.stores (i : Instr) (s : State) (d : VReg) (b : GReg) (size : Nat) (group : List (Nat × Nat × Loc) → List (List (Nat × Nat × Loc)))
    (es : List (Nat × Nat)) (fix : VFault → VFault) : Prop :=
  ∀ (ok : List (Nat × Nat × Loc)) (f : Option VFault) (t : State),
    elemAccess (s.rdG b) size permW .store false 0 es s = (.ok (ok, f), t) → Claim.AllPlain t size ok →
    t.c.sq.length + (group ok).length ≤ 32 →
    CompletesTo i s t (Claim.closed (Claim.queued t.c ((group ok).map (Claim.storeOf (s.rdV d) size)).flatten) (f.map fix)) (s.c.pc + 1)

/-- Derived from R289, R290, R292, R293, R296, R297, R298, R299, R300, R525: the vector memory words, where their elements go to plain memory. A load takes
each active lane's element, extended by its type; a store queues one entry for each line it touches or for each element; the elements are
checked in lane order, and the first that fails ends the word with its position. VLDA takes an outstanding load of four sectors. By E5 a VCMPST of
one lane whose XLATE lies on a page's first byte counts one too many, and its entry is marked so that its trap reads CLASS M. -/
def Obligations.VectorMemory : Prop :=
  ∀ (s : State) (k : KReg) (d a : VReg) (g b : GReg) (ty : MType) (si : Bool) (scale : BitVec 2),
    Claim.Ready s →
    let lanes := (List.range 16).filter (fun l => (s.rdK k).getLsbD l)
    let base := ((s.rdG b).int.toNat + (s.rdI g).toNat) % 2 ^ 64
    let flat := lanes.map (fun l => (l, (base + 4 * l) % 2 ^ 64))
    let packed := (lanes.zipIdx).map (fun (p : Nat × Nat) => (p.1, (base + 4 * p.2) % 2 ^ 64))
    let at' := fun (f : Nat → Int) => lanes.map (fun l => (l, (((s.rdG b).int.toNat + f l) % 2 ^ 64).toNat))
    let strided := at' (fun l => (s.rdI g).toInt * l)
    let indexed := at' (fun l => (if si then (laneAt (s.rdV a) l).toInt else ((laneAt (s.rdV a) l).toNat : Int)) * 2 ^ scale.toNat)
    let size := match ty with | .z8 | .s8 => 1 | .z16 | .s16 => 2 | .w32 => 4
    let ext := fun (x : Nat) => (match ty with
      | .s8 => (BitVec.ofNat 8 x).signExtend 32
      | .s16 => (BitVec.ofNat 16 x).signExtend 32
      | _ => BitVec.ofNat 32 x)
    let each := fun (es : List (Nat × Nat × Loc)) => es.map (fun e => [e])
    Claim.loads (.vld k d g b) s d b 4 (BitVec.ofNat 32) flat ∧
    Claim.loads (.vlds k d g b ty) s d b size ext strided ∧
    Claim.loads (.vgath k d a b ty si scale) s d b size ext indexed ∧
    Claim.loads (.vexpld k d g b) s d b 4 (BitVec.ofNat 32) packed ∧
    Claim.stores (.vst k d g b) s d b 4 byLine flat id ∧
    Claim.stores (.vsts k d g b ty) s d b size each strided id ∧
    Claim.stores (.vscat k d a b ty si scale) s d b size each indexed id ∧
    Claim.stores (.vcmpst k d g b) s d b 4 byLine packed (fun f =>
      if lanes.length = 1 ∧ f.cause = Cause.xlate.code ∧ f.addr.toNat % 0x10000 = 0 then { f with count := f.count + 1, e5 := true } else f) ∧
    (∀ (ok : List (Nat × Nat × Loc)) (f : Option VFault) (t : State),
      elemAccess (s.rdG b) 4 permR .load (decide (base % 16 ≠ 0)) 0 flat s = (.ok (ok, f), t) → Claim.AllPlain t 4 ok → ok ≠ [] → s.c.loads.length < 32 →
      CompletesTo (.vlda k d g b) s t (Claim.closed { t.c with
        loads := t.c.loads ++ [{ file := .v, reg := d.val, ty := none, token := s.c.tokenOf, seq := s.c.seq, ctx := s.c.ctx, spos := s.c.spos,
                                  ea := base, ring := Claim.entry s.c, lanes := ok.map Prod.fst, elem0 := 0, sectors := vldaSectors ok }]
        seq := s.c.seq + 1 } f) (s.c.pc + 1))

/-! ## MTX (R315 to R342) -/

/-- Matrix engine `me` has room for a post of the executing core: OUT below 63, a free entry, no code table of the core on its way (R320). -/
structure Claim.Room (s : State) (me : Nat) : Prop where
  out : s.c.out < 63
  free : (s.getM me).entries.length < 16
  tables : ∀ x ∈ (s.getM me).mtbl, x.2.2 ≠ s.cur

/-- An earlier access of the core has nothing left to do: empty queue, no load outstanding, no stack granule cached. -/
structure Claim.Still (s : State) : Prop where
  queue : s.c.sq = []
  loads : s.c.loads = []
  stack : s.c.stack = []

/-- The state after a post (R320): the entry `e`, completed with who posted it and copies of the code tables its formats name, is the last of
the ME's table; OUT has gone up. -/
def Claim.posted (s : State) (me : Nat) (e : MeEntry) (codeA nibA codeB nibB : Nat) : State :=
  let m := s.getM me
  let tab := fun (code nib : Nat) => if code = 7 then mget 0 m.tabs nib else 0
  let e' : MeEntry := { e with
    id := s.nextMe + 1, core := s.cur, ctx := s.c.ctx, task := s.c.task, sys := s.c.sys, ring := Claim.entry s.c,
    tabA := tab codeA nibA, tabB := tab codeB nibB, arr := m.nextArr, since := s.cycle }
  let t := { s with nextMe := s.nextMe + 1 }.updM me (fun m => { m with entries := m.entries ++ [e'], nextArr := m.nextArr + 1 })
  (t.upd (fun c => { c with out := c.out + 1 })).markReady me

/-- A post completes with the state `u` and its ring entry taken. -/
def Claim.posts (i : Instr) (s u : State) : Prop := CompletesTo i s u (Claim.entered u.c) (s.c.pc + 1)

/-- Derived from R320, R334, R336, R337, R338, R339: MFMT and the posts. Where the format block, the descriptor and the operands pass their checks,
the release a pass makes has nothing to wait for and the ME has room, the post is accepted with what it names, and issue goes on. -/
def Obligations.MatrixPosts : Prop :=
  ∀ (s s1 s2 : State) (d a b : GReg) (gang : Bool) (tile cm1 : BitVec 6) (me : BitVec 3) (f h : List Byte) (cores : List Nat) (xa xsa xb xsb at' : Nat) (x : Word) (c : TReg),
    Claim.Ready s →
    (Checked s (s.rdG b) (capAddr (s.rdG b)) 64 permR s1 → capAddr (s.rdG b) % 64 = 0 →
      CompletesTo (.mfmt b) s s1 (Claim.entered { s1.c with fmtcap := s.rdG b }) (s.c.pc + 1)) ∧
    (let w := s1.rdI d
     let n := if gang then meOfCore s2.cur else meOfIndex s2.cur (bitsOf w.toNat 10 8)
     let rank := decide (byteAt f 2 = 0x0D)
     readFmt s = (.ok f, s1) → passFmtBad f (passK w) false = none → passWordBad f w gang = none →
     passOperands f (passK w) (s1.rdG a) (s1.rdG b) gang s1 = (.ok (cores, xa, xsa, xb, xsb), s2) →
     Claim.Still s2 → Claim.sent s2 → Claim.Room s2 n →
     let u := Claim.posted s2 n { blankEntry (.pass rank xa xb xsa xsb) with
        desc := w, fmt := f, capA := s1.rdG a, capB := s1.rdG b, prio := bitsOf w.toNat 15 12, bound := if rank then s2.c.bound else none
        gang := cores, nth := s2.c.gangPosts + 1 }
        (byteAt f 0) (byteAt f 40 % 16) (byteAt f 1) (byteAt f 40 / 16)
     let u := if rank then u.upd (fun c => { c with bound := none }) else u
     (gang = false → Claim.posts (.mpass d a b gang) s u) ∧
     (gang = true →
       let v := (u.upd (fun c => Claim.entered { c with gangPosts := c.gangPosts + 1 })).joinGang s.c.ringHead
       CompletesTo (.mpass d a b gang) s v v.c (s.c.pc + 1))) ∧
    (let n := meOfIndex s2.cur (byteAt h 2)
     readFmt s = (.ok f, s1) → passFmtBad f 32 true = none →
     listOperands f (s1.rdG d) (s1.rdG a) (s1.rdG b) s1 = (.ok (h, at'), s2) → Claim.Still s2 → Claim.sent s2 → Claim.Room s2 n →
     let u := Claim.posted s2 n { blankEntry (.list (field h 0 2) at') with
        fmt := f, capD := s1.rdG d, capA := s1.rdG a, capB := s1.rdG b, prio := byteAt h 3 }
        (byteAt f 0) (byteAt f 40 % 16) (byteAt f 1) (byteAt f 40 / 16)
     Claim.posts (.mlist d a b) s (u.firstListEntry n (s2.nextMe + 1))) ∧
    (let n := meOfIndex s.cur me.toNat
     Claim.Room s n → Claim.posts (.mzero tile cm1 me) s (Claim.posted s n (blankEntry (.zero tile.toNat (cm1.toNat + 1))) 0 0 0 0)) ∧
    (let n := meOfIndex s1.cur (bitsOf x.toNat 10 8)
     Claim.Room s1 n →
     (tileCheck d b false s = (.ok (f, x, c, at'), s1) →
       Claim.posts (.mldc d b) s (Claim.posted s1 n { blankEntry (.ldc at') with desc := x, fmt := f, capB := c } (byteAt f 5) (byteAt f 40) 0 0)) ∧
     (tileCheck d b true s = (.ok (f, x, c, at'), s1) →
       Claim.posts (.mstc d a b) s (Claim.posted s1 n { blankEntry (.stc at' ((s1.rdI a).setWidth 32)) with desc := x, fmt := f, capB := c } 0 0 0 0)))

/-- Derived from R315, R316, R327, R328, R339, R539: a post whose format block breaks the rules of R315 raises FORMAT with KIND 1 and the first bad byte,
one whose descriptor breaks those of R316, R327 or R339, KIND 2 and the first bad bit, whatever its operands; nothing is posted. WHERE is the
lowest that is bad (R539). That an MLIST's pitches are tested at its post, against rows of K = 32, is the model's choice (log entry 29). -/
def Obligations.FormatFaults : Prop :=
  ∀ (s s1 : State) (d a b : GReg) (gang : Bool) (f : List Byte) (o : Nat),
    Claim.Ready s → readFmt s = (.ok f, s1) →
    let w := s1.rdI d
    let traps := fun (i : Instr) (kind : Nat) => exec i s = .next (s1.trapPrecise ⟨0x1B, BitVec.ofNat 64 (kind * 2 ^ 60 + o), false, none⟩)
    (passFmtBad f (passK w) false = some o → traps (.mpass d a b gang) 1) ∧
    (passFmtBad f (passK w) false = none → passWordBad f w gang = some o → traps (.mpass d a b gang) 2) ∧
    (passFmtBad f 32 true = some o → traps (.mlist d a b) 1) ∧
    (tileFmtBad f false = some o → traps (.mldc d b) 1) ∧
    (tileFmtBad f true = some o → traps (.mstc d a b) 1) ∧
    (tileFmtBad f true = none → tileDescBad w.toNat (widthOfCode (byteAt f 5)) = some o → traps (.mstc d a b) 2) ∧
    (tileFmtBad f false = none → tileDescBad w.toNat (widthOfCode (byteAt f 5)) = some o → traps (.mldc d b) 2)

/-- Derived from R323, R335, R340, R341, R342: MGANG gives 2 for a slot of 8192 or more or a used slot beyond n, 1 for a member the task does not have, 3 where
quads repeat, a core is of another cluster or the poster is no member, else 0, and only then is the gang set; MWAIT goes on at OUT at most n;
MTBL's table is under way to its ME; MQRY gives its count, and with CLR clears it. -/
def Obligations.MatrixWords : Prop :=
  ∀ (s s1 s2 s3 : State) (d a b : GReg) (n : BitVec 3) (m : BitVec 6) (me tbl : BitVec 3) (what : MqWhat) (clr : Bool) (bs : List Byte) (l : Loc),
    Claim.Ready s →
    (let slot := fun (i : Nat) => if i < 4 then ((s.rdI a).extractLsb' (16 * i) 16).toNat else ((s.rdI b).extractLsb' (16 * (i - 4)) 16).toNat
     let ms := (List.range n.toNat).map slot
     let at' := fun (m : Nat) => s.c.task.bind (fun t => (s.task? t).bind (fun k => if m < k.width then (k.memberCore m).map Prod.fst else none))
     let quads := ms.filterMap (fun m => (at' m).map quadOfCore)
     let status :=
       if (∃ x ∈ ms, 8192 ≤ x) ∨ (∃ i ∈ List.range 6, n.toNat ≤ i ∧ slot i ≠ 0) then 2
       else if ∃ x ∈ ms, at' x = none then 1
       else if ¬ quads.Nodup ∨ (∃ x ∈ ms, (at' x).map clusterOfCore ≠ some (clusterOfCore s.cur)) ∨ s.c.member ∉ ms then 3
       else 0
     n ≠ 0 → Completes (.mgang d a b n) s (Claim.entered { putI s.c d (BitVec.ofNat 64 status) with
        gang := if status = 0 then ms else [], gangPosts := 0 })) ∧
    Completes (.mgang d a b 0) s (Claim.entered { putI s.c d 0 with gang := [], gangPosts := 0 }) ∧
    (s.c.out ≤ m.toNat → s.c.loads = [] → Completes (.mwait m) s (Claim.entered s.c)) ∧
    (let c := s.rdG b
     let ea := capAddr c
     let u := s3.updM (meOfIndex s3.cur me.toNat) (fun x => { x with mtbl := x.mtbl ++ [(tbl.toNat, BitVec.ofNat 256 (leNat bs), s3.cur)] })
     Checked s c ea 32 permR s1 → (s1.c.strict && !s1.ownSpad s1.cur ea && !s1.c.inStack ea) = false → ea % 32 = 0 →
     s1.locate s1.party .load ea 16 = (.ok l, s2) → l.remote = false → readBlock ea 32 s2 = (.ok bs, s3) →
     Claim.posts (.mtbl me tbl b) s u) ∧
    (let x := (s.rdI a).toNat % 8
     let k := meOfIndex s.cur x
     let q := s.getM k
     let busy := fun (t : Nat) => q.entries.any (fun e => e.touches t)
     let v := match what with
       | .out => s.c.out
       | .free => 16 - q.entries.length
       | .skip => (mget 0 q.skips s.c.ctx).toNat
       | .done => (mget 0 q.dones s.c.ctx).toNat
       | .busy => ((List.range 64).map (fun t => if busy t then 2 ^ t else 0)).sum
     let u := if clr = true ∧ x ≤ 5 then s.updM k (fun q => match what with
       | .skip => { q with skips := mput 0 q.skips s.c.ctx 0 }
       | .done => { q with dones := mput 0 q.dones s.c.ctx 0 }
       | _ => q) else s
     CompletesTo (.mqry d a what clr) s u (Claim.entered (putI u.c d
       (if what ≠ .out ∧ 5 < x then BitVec.allOnes 64 else BitVec.ofNat 64 v))) (s.c.pc + 1))

/-! ## RANK (R345 to R363) -/

/-- R347: the order of ranked entries, a total one on values that are no NaN: the larger value first, as numbers with -0.0 equal to +0.0; of equal
values the smaller index; of those the one whose value is +0.0 before -0.0. `at'` is a value's place among the values. -/
def Claim.before (p q : RankPair) : Prop :=
  let at' := fun (x : Lane) => if x.msb then -(x.toNat % 2 ^ 31 : Int) else (x.toNat % 2 ^ 31 : Int)
  at' q.1 < at' p.1 ∨ (at' p.1 = at' q.1 ∧ (p.2.toNat < q.2.toNat ∨ (p.2 = q.2 ∧ (p.1.msb = true → q.1.msb = true))))

/-- The update of R348 keeps the best k entries in order: those kept and those dropped are together all pairs offered or held that are no
NaN, the kept ones stand in the order of R347, and none of those dropped precedes one kept; COUNT, FLOOR and NANSEEN follow. -/
def Obligations.RankUpdate : Prop :=
  ∀ (raw : List Byte) (offered : List RankPair) (nan : Bool),
    let k := byteAt raw 0
    let all := (rankEntries raw ++ offered).filter (fun p => !isNan32 p.1)
    k ≤ 62 → byteAt raw 1 ≤ k →
    ∃ kept lost : List RankPair,
      (kept ++ lost).Perm all ∧ kept.length = min k all.length ∧ kept.Pairwise Claim.before ∧
      (∀ p ∈ kept, ∀ q ∈ lost, Claim.before p q) ∧
      rankEntries (rankUpdate raw offered nan) = kept ∧
      (rankUpdate raw offered nan).take 16 = rankHeader k kept.length
        (nan || bitOf (byteAt raw 2) 0 || decide (all.length < (rankEntries raw ++ offered).length))
        (if kept.length = k then ((kept.getLast?).map Prod.fst).getD 0xFF800000 else 0xFF800000) (field raw 8 4)

/-- Derived from R354 to R359, R361, R362, R363, R352: the ranked-list words, on lists that pass the checks of R355, the core's queue, stack and
loads at rest. An update writes the list at its home; RKINIT writes an empty header; RKFLR, RKGET read; RKBND sets the bound. A rank of RKCHAIN
combines and writes its list as soon as the ranks up to it have contributed (R360; where a WEAVE KIND 5 may still come it waits for all: log
entry 87), under .bc when all have; a publisher whose list is written still waits for its members to pass. -/
def Obligations.RankedLists : Prop :=
  ∀ (s s1 s2 s3 s4 : State) (k : KReg) (d : VReg) (g a b : GReg) (what : RkWhat) (bc : Bool) (l l2 : Loc) (raw old : List Byte) (vs : List (Nat × List Nat)) (ws : List (List Nat)),
    let c := s.rdG b
    let next := s.c.pc + 1
    let put := fun (i : Instr) (t : State) (l : Loc) (bs : List Byte) =>
      let u := t.writeAt t.c.ctx l.key bs
      CompletesTo i s u u.c next
    (let x := (s.rdI a).toNat
     let k := x % 256
     1 ≤ k → k ≤ 62 →
     (listTarget c permW .store false s = (.ok l, s1) → Checked s1 c (capAddr c) (rankSize k) permW s2 → Claim.Plain s2 l (capAddr c) 16 → s2.c.sq.length < 32 →
       CompletesTo (.rkinit false a b) s s2 (Claim.queued s2.c [(.write (cellsAt l.key (rankHeader k 0 false 0xFF800000 (x / 2 ^ 32)))
         (if l.tagless then [] else [(l.key / 16, false)]), homeOf l.key)]) next) ∧
     (let w := (s.rdI b).toNat
      let n := meOfIndex s.cur (bitsOf w 10 8)
      Claim.Ready s → bitsOf w 7 6 = 0 → w / 2 ^ 11 = 0 → bitsOf w 10 8 ≤ 5 → w % 64 + rankRows k ≤ 64 → Claim.Room s n →
      Claim.posts (.rkinit true a b) s (Claim.posted s n { blankEntry (.rank (w % 64) (rankRows k)) with desc := s.rdI a } 0 0 0 0))) ∧
    (listTarget c needRWA .atomic true s = (.ok l, s1) → Claim.Still s1 → Claim.sent s1 → listAtHome c l needRWA s1 = (.ok raw, s2) →
      let on := (List.range 16).filter (fun i => (s.rdK k).getLsbD i)
      put (.rkins k d b) s2 l (rankUpdate raw (on.map (fun i =>
        (laneAt (s.rdV d) i, BitVec.ofNat 32 (field raw 8 4) + laneAt (s.rdV (vregAdd d 1)) i))) false)) ∧
    (listTarget (s.rdG a) permR .load false s = (.ok l2, s1) → listTarget c needRWA .atomic true s1 = (.ok l, s2) →
      listRead (s.rdG a) permR s2 = (.ok raw, s3) → Claim.Still s3 → Claim.sent s3 → listAtHome c l needRWA s3 = (.ok old, s4) →
      put (.rkmrg a b) s4 l (rankUpdate old (rankEntries raw) (bitOf (byteAt raw 2) 0))) ∧
    (listTargetIn true c needRWA .atomic true s = (.ok l, s1) → Claim.Still s1 → Claim.sent s1 → listAtHome c l needRWA s1 = (.ok raw, s2) →
      ¬ (s.c.wait = some .members ∧ s.c.woken = some 1) →
      s3.c.pc = s.c.pc → s3.c.latch = s.c.latch → s3.c.w.brw = s.c.w.brw → s3.c.sys = s.c.sys →
      let mine := raw.map (·.toNat)
      let r := s3.myRank
      let lists := ws.map (fun w => w.map (BitVec.ofNat 8))
      let own := lists.getD r []
      let p := rankChain (lists.take r)
      let incl := rankUpdate own p.1 p.2
      (gathered mine s2 = (.ok vs, s3) → ranked vs s3 = (.ok ws, s3) → gatherEnd s3 = (.ok (), s3) →
        put (.rkchain true b) s3 l (rankCast own (rankChain lists))) ∧
      (s2.inStream = false → s3 = s2 → ws = [mine] → put (.rkchain false b) s3 l incl) ∧
      (s2.inStream = true → contribute mine s2 = (.ok (), s3) → s3.chainIn s3.streamPub r = true → ws.length = r + 1 →
        (∀ q ≤ r, ofRank (s3.getC s3.streamPub).w.votes q = some (ws.getD q [])) →
        (gatherEnd s3 = (.ok (), s3) → put (.rkchain false b) s3 l incl) ∧
        (gatherEnd s3 ≠ (.ok (), s3) → s3.c.tr.pend = false → ∃ t, exec (.rkchain false b) s = .next t ∧
          outside t = outside (s3.writeAt s3.c.ctx l.key incl) ∧ t.c.wait = some .members ∧ t.c.woken = some 1 ∧ t.c.pc = s.c.pc))) ∧
    (s.c.wait = some .members → s.c.woken = some 1 → gatherEnd s = (.ok (), s) → Completes (.rkchain bc b) s s.c) ∧
    (listTarget c permR .load false s = (.ok l, s1) →
      (readBlock (capAddr c) 16 s1 = (.ok raw, s2) →
        CompletesTo (.rkflr g b what) s s2 (putI s2.c g (BitVec.ofNat 64 (match what with
          | .flr => field raw 4 4 | .cnt => byteAt raw 1 | .k => byteAt raw 0 | .nan => byteAt raw 2 % 2))) next) ∧
      (listRead c permR s1 = (.ok raw, s2) →
        let x := fun (l : Nat) => (rankEntries raw).getD ((s.rdI a).toNat + l) (0xFF800000, 0xFFFFFFFF)
        let lane := fun (r : VReg) (f : Nat → Lane) => (Vector.ofFn (fun (l : Fin 16) => if (s.rdK k).getLsbD l then f l else (s2.rdV r)[l]) : Vec)
        let c1 := putV s2.c d (lane d (fun l => (x l).1))
        CompletesTo (.rkget k d a b) s s2 (putV c1 (vregAdd d 1)
          (Vector.ofFn (fun (l : Fin 16) => if (s.rdK k).getLsbD l then (x l).2 else laneAt (mget vec0 c1.v (vregAdd d 1).val) l))) next)) ∧
    Completes (.rkbnd (.put a)) s { s.c with bound := some ((s.rdI a).setWidth 32) } ∧
    Completes (.rkbnd .clr) s { s.c with bound := none }

/-! ## ENG (R365 to R393) -/

/-- Derived from R366, R367, R368, R383, R390: EPOST. A card that passes the checks takes the first free slot after the one last taken, its
handle names engine, sequence and slot, and its job is registered; a RESUME card queues its parked job again; a poster whose combining card
was forwarded takes the handle it was given. -/
def Claim.EnginePosts : Prop :=
  ∀ (s s1 s2 : State) (d a b : GReg) (eng i id n : Nat) (card : List Byte) (j : Job) (x : Word),
    let next := s.c.pc + 1
    let slot := fun (i : Nat) => (s2.c.lastSlot + 1 + i) % 32
    let taken := fun (n : Nat) => ∃ sl, mfind s2.c.jobs n = some sl ∧ sl.job ≠ none
    (s.c.wait = some (.card n) → s.c.woken = some x → Completes (.epost d a b) s (putI s.c d x)) ∧
    ((∀ n, s.c.wait ≠ some (.card n)) → epostCard a b s = (.ok (eng, card), s1) → Claim.Still s2 → Claim.sent s2 →
      (cardOp card = 7 → eng < 68 → resumePost eng card s1 = (.ok (id, x), s2) →
        let u := s2.updJ id (fun j => { j with st := .queued })
        CompletesTo (.epost d a b) s u (putI u.c d x) next) ∧
      (¬ (cardOp card = 7 ∧ eng < 68) → cardJob eng card s1 = (.ok j, s2) → (s2.liveJobs s2.c.ctx).length < 1024 → cardComb card = false →
        i < 32 → ¬ taken (slot i) → (∀ k < i, taken (slot k)) →
        let seq := s2.c.postSeq % 2 ^ 20
        let h : BitVec 32 := BitVec.ofNat 32 (eng * 2 ^ 25 + seq * 32 + slot i)
        let s3 := s2.upd (fun c => { c with lastSlot := slot i, postSeq := (c.postSeq + 1) % 2 ^ 20, jobs := mset c.jobs (slot i) ⟨seq, eng, none, 0, cardScope card⟩ })
        let u := s3.registerJob { j with posters := [(s2.cur, slot i, h)] }
        CompletesTo (.epost d a b) s u (putI u.c d (h.setWidth 64)) next))

/-- Derived from R368, R389, R391, R392, R393: a handle names the job of its slot while sequence and engine agree; ESTAT gives its state word, the
word its slot kept once it has ended, or 7 for no job; EWAIT gives the same for a job that is parked or has ended; ECAN ends a live job. -/
def Claim.EngineStatus : Prop :=
  ∀ (s : State) (d a : GReg) (sl : JobSlot) (j : Job),
    let h := (s.rdI a).toNat % 2 ^ 32
    let named := sl.seq = h / 32 % 2 ^ 20 ∧ sl.eng = h / 2 ^ 25
    s.c.loads = [] →
    (mfind s.c.jobs (h % 32) = none → Completes (.estat d a) s (putI s.c d 7) ∧ Completes (.ewait d a) s (putI s.c d 7) ∧
      Completes (.ecan d a) s (putI s.c d 7)) ∧
    (mfind s.c.jobs (h % 32) = some sl →
      (¬ named → Completes (.estat d a) s (putI s.c d 7) ∧ Completes (.ewait d a) s (putI s.c d 7) ∧ Completes (.ecan d a) s (putI s.c d 7)) ∧
      (named → sl.job.bind s.job? = none → Completes (.estat d a) s (putI s.c d sl.final) ∧ Completes (.ewait d a) s (putI s.c d sl.final) ∧
        Completes (.ecan d a) s (putI s.c d sl.final)) ∧
      (named → sl.job.bind s.job? = some j → Completes (.estat d a) s (putI s.c d j.word) ∧
        (j.st = .parked → Completes (.ewait d a) s (putI s.c d j.word)) ∧
        (let u := s.endJob j.id .cancelled
         CompletesTo (.ecan d a) s u (putI u.c d j.word) (s.c.pc + 1))))

/-- Together: EPOST, ESTAT, EWAIT and ECAN. -/
def Obligations.EngineWords : Prop := Claim.EnginePosts ∧ Claim.EngineStatus
/-! ## TASK (R417 to R427) -/

/-- Derived from R403, R409, R410, R417, R418, R419, R420, R427, R428, R456: the task words. TEND ends the core's part, an imprecise trap that is due
first; TTICK claims the next index; TSPAWN offers a launch to the die's aggregator, or gives 1 when it is full; TSIG signals once per record
and edge; TYIELD gives 0 where nothing of its level waits. The model's choices: TTICK on a shape of one die counts in that die's range (log
entry 32); TYIELD goes by the levels as they now stand (log entry 36); which record TSIG sets, by the core's place in a weave (log entry 71). -/
def Obligations.TaskWords : Prop :=
  ∀ (s s1 s2 s3 : State) (d a b : GReg) (e : BitVec 6) (t : Task) (l : Launch) (q : Loc) (lpb : List Byte) (i n o : Nat) (rs : List (Nat × Nat × Nat)),
    let next := s.c.pc + 1
    let die := dieOfCore s.cur
    let index := if lpbShape l.lpb ≤ 2 then nextIndex l.ranges ((l.ranges.head?.map (fun r => r.1)).getD die) else claimIndex l.ranges die
    (Claim.Still s → Claim.sent s → s.c.out = 0 →
      exec .tend s = .next (if s.c.tr.pend && !s.c.tr.exl then s.deliver else (s.finish none).endMember s.cur)) ∧
    (s.myTask = none → Completes (.ttick d) s (putI s.c d (BitVec.allOnes 64)) ∧ Completes (.tsig d e) s (putI s.c d 2) ∧
      Completes (.tyield d) s (putI s.c d 0)) ∧
    (s.myTask = some t → s.myLaunch = some l →
      (index = none → Completes (.ttick d) s (putI s.c d (BitVec.allOnes 64))) ∧
      (index = some (i, rs) →
        let u := (s.updL l.lid (fun l => { l with ranges := rs })).updT t.tid (fun t => { t with claims := t.claims ++ [(die, i)] })
        CompletesTo (.ttick d) s u (putI u.c d (BitVec.ofNat 64 i)) next) ∧
      (s.edgeNode l e.toNat = (none, s1) → CompletesTo (.tsig d e) s s1 (putI s1.c d 2) next) ∧
      (s.edgeNode l e.toNat = (some n, s1) →
        let r := s1.c.signalRecord
        (t.signalled r e.toNat = true → CompletesTo (.tsig d e) s s1 (putI s1.c d 0) next) ∧
        (t.signalled r e.toNat = false → Claim.Still s1 → Claim.sent s1 →
          let u := (s1.updT t.tid (fun t => t.signal r e.toNat)).signalNode t.ctx n
          CompletesTo (.tsig d e) s u (putI u.c d 1) next)) ∧
      (s.tasksWait t.ctx l.level = false → s.ham.saved = [] → Completes (.tyield d) s (putI s.c d 0))) ∧
    (let c := s.rdG b
     let ea := capAddr c
     Checked s c ea 128 permR s1 → (s1.c.strict && !s1.ownSpad s1.cur ea && !s1.c.inStack ea) = false →
     s1.locate s1.party .load ea 16 = (.ok q, s2) → ea % 16 = 0 → readBlock ea 128 s2 = (.ok lpb, s3) →
     let trap := fun (o : Nat) => exec (.tspawn d a b) s = .next (s3.trapPrecise ⟨0x1B, BitVec.ofNat 64 (10 * 2 ^ 60 + o), false, none⟩)
     (lpbBad lpb = some o → trap o) ∧ (lpbBad lpb = none → lpbIndirect lpb = true → trap 5) ∧
     (lpbBad lpb = none → lpbIndirect lpb = false →
       if 4096 ≤ (s3.ham.offers.filter (fun o => o.die == dieOfCore s3.cur)).length then CompletesTo (.tspawn d a b) s s3 (putI s3.c d 1) next
       else
         let u := s3.offer (dieOfCore s3.cur) lpb (s3.rdI a)
         CompletesTo (.tspawn d a b) s u (putI u.c d 0) next))

/-- Derived from R407, R421: finish scopes. FOPEN opens a free or finished scope under an open parent, or under none in system mode; FCLOSE closes an
open one, which ends it when nothing of it is left; FCAN cancels one with everything below it; FWAIT gives a finished scope's word, and 7 to
a task that counts in the scope. -/
def Obligations.FinishScopes : Prop :=
  ∀ (s : State) (d a b : GReg),
    let next := s.c.pc + 1
    let ctx := s.c.ctx
    let n := (s.rdI a).toNat % 256
    let p := (s.rdI b).toNat % 256
    let f := s.getScope ctx n
    let ended := fun (x : ScopeSt) => x = .done ∨ x = .failed ∨ x = .cancelled
    let gives := fun (i : Instr) (u : State) (x : Word) => CompletesTo i s u (putI u.c d x) next
    (p = 0xFF → s.c.sys = false → exec (.fopen d a b) s = .next (s.trapPrecise ⟨0x02, s.openInfo, false, none⟩)) ∧
    (p ≠ 0xFF ∨ s.c.sys = true →
      (f.st ≠ .free → ¬ ended f.st → gives (.fopen d a b) s 1) ∧
      (f.st = .free ∨ ended f.st →
        let t := s.setScope ctx n {}
        (p ≠ 0xFF → (t.getScope ctx p).st ≠ .opened → gives (.fopen d a b) t 2) ∧
        (p ≠ 0xFF → (t.getScope ctx p).st = .opened →
          gives (.fopen d a b) ((t.scopeAdd ctx p).setScope ctx n { parent := p, st := .opened }) 0) ∧
        (p = 0xFF → gives (.fopen d a b) (t.setScope ctx n { parent := p, st := .opened }) 0))) ∧
    (f.st = .opened → gives (.fclose d a) ((s.setScope ctx n { f with st := .closed }).settleScope ctx n 257) 0) ∧
    (f.st ≠ .opened → gives (.fclose d a) s 1) ∧
    (f.st = .free → gives (.fcan d a) s 1) ∧
    (f.st ≠ .free → gives (.fcan d a) (s.cancelScope ctx n) 0) ∧
    (let counts := s.c.task.isSome && s.scopeUnder ctx n 257 (s.c.fscope.toNat % 256)
     (counts = true → gives (.fwait d a) s 7) ∧
     (counts = false → ended f.st → s.c.wait = none → s.c.loads = [] → gives (.fwait d a) s f.word))

/-- Derived from R411, R412, R413, R414, R422 to R426: the record queue words on a queue that passes the checks of R411. A wrong kind of queue or
sender gives its code; a claim that finds room is granted or filled; a committed record enters its slot; QDEQ releases the oldest closed block or takes the
head block's next record, copied to any address its capability lets it write; QFLUSH closes the blocks it marks and gives how many it closed.
The model's choices (log entry 35): QRES on a launch queue gives BADQ, and a LATE claim that finds no room waits. -/
def Obligations.RecordQueues : Prop :=
  ∀ (s s1 s2 s3 s4 : State) (d a b : GReg) (snd : BitVec 4) (w : Bool) (k : Nat) (ds : QDesc) (q q2 : RQueue) (rec bs : List Byte) (c : Machine.Claim) (x : Block)
    (late : BitVec 32 × Nat × Nat),
    let next := s.c.pc + 1
    let gives := fun (i : Instr) (u : State) (y : Word) => CompletesTo i s u (putI u.c d y) next
    let bad : Word := 0xFFFFFFFFFFFFFFFD
    queueOpen b s = (.ok (k, ds), s1) → s1.queue? k = some q → s.c.wait = none →
    (ds.launchq = true ∨ q.live.senders ≤ snd.toNat → gives (.qres d b snd true) s1 bad ∧ gives (.qres d b snd false) s1 bad) ∧
    (ds.launchq = false → snd.toNat < q.live.senders →
      gives (.qres d b snd false) ((s1.setQueue k (q.giveBack ds.t snd.toNat)).settleQueue k) 0 ∧
      (s1.claimOn k (claimant s1.c.ctx snd.toNat) = (.full, s2) → gives (.qres d b snd true) s2 (BitVec.allOnes 64)) ∧
      (∀ i, s1.claimOn k (claimant s1.c.ctx snd.toNat) = (.ovf i, s2) → gives (.qres d b snd true) s2 (BitVec.ofNat 64 (0xFFFFFFFF * 2 ^ 32 + i % 2 ^ 32))) ∧
      (∀ no off, s1.claimOn k (claimant s1.c.ctx snd.toNat) = (.slot no off, s2) → (s2.queue? k).bind (fun q => q.blocks.find? (fun x => x.no == no)) = some x →
        gives (.qres d b snd true) s2 (BitVec.ofNat 64 (x.batch.toNat * 2 ^ 32 + slotNo ds x off)))) ∧
    (queueRecord a ds s1 = (.ok rec, s2) → s2.queue? k = some q →
      let tk := (s2.rdI d).toNat
      let t := q.ticket ds s2.c.ctx (tk / 2 ^ 32) (tk % 2 ^ 32)
      let lates := q.lates.find? (fun (x : BitVec 32 × Nat × Nat) => x.1.toNat == tk / 2 ^ 32 && x.2.1 == tk % 2 ^ 32 && contextOf x.2.2 == s2.c.ctx)
      (t = some c → gives (.qcmt d a b) (s2.commitOn k c rec) 0) ∧
      (t = none → lates = none → gives (.qcmt d a b) s2 2) ∧
      (t = none → lates = some late → s2.claimOn k late.2.2 = (c, s3) → c ≠ .full →
        let v := s3.noteLate k c
        let v := match v.queue? k with
          | some q => v.setQueue k { q with lates := q.lates.erase late }
          | none => v
        gives (.qcmt d a b) (v.commitOn k c rec) 1) ∧
      (ds.launchq = true → ds.hostq = true → gives (.qenq d a b snd w) s2 3) ∧
      (let full := ds.cap ≤ (q.live.tail + 2 ^ 32 - q.live.head) % 2 ^ 32
       ds.launchq = true → ds.hostq = false →
       (full → gives (.qenq d a b snd false) s2 2) ∧
       (¬ full →
        let v := s2.ctxWrite q.ctx (ds.ring + q.live.tail % ds.cap * ds.recSize) rec
        gives (.qenq d a b snd w) ((v.setQueue k { q with live := { q.live with tail := (q.live.tail + 1) % 2 ^ 32 } }).syncQueue k) 0)) ∧
      (ds.launchq = false → q.live.senders ≤ snd.toNat → gives (.qenq d a b snd w) s2 3) ∧
      (ds.launchq = false → snd.toNat < q.live.senders → s2.claimOn k (claimant s2.c.ctx snd.toNat) = (c, s3) →
        (c = .full → gives (.qenq d a b snd false) s3 2) ∧
        (c ≠ .full → gives (.qenq d a b snd w) (s3.commitOn k c rec) 0))) ∧
    (ds.launchq = true ∨ ds.tmpl ≠ 0 → gives (.qdeq d b .block) s1 3) ∧
    (ds.launchq = false → ds.tmpl = 0 →
      (q.oldestClosed = none → gives (.qdeq d b .block) s1 (BitVec.allOnes 64)) ∧
      (q.oldestClosed = some x → gives (.qdeq d b .block) (s1.releaseBlock k x.batch) (x.batch.setWidth 64)) ∧
      (let dest := s1.rdG a
       let parts := granParts (capAddr dest) ds.recSize
       copyPlace dest ds.recSize s1 = (.ok (), s2) → s2.queue? k = some q →
       (q.headBlock = none → gives (.qdeq d b (.plain a)) s2 1) ∧
       (q.headBlock = some x → s2.ctxBytes q.ctx (ds.ring + q.live.head % ds.cap * ds.recSize) ds.recSize = (some bs, s3) →
        s3.c.sq.length + parts.length ≤ 32 → storeParts (capAddr dest) bs s3 = (.ok (), s4) →
        gives (.qdeq d b (.plain a)) (s4.takeRecord k q ds x) 0))) ∧
    (Claim.Still s1 → Claim.sent s1 → s1.c.wait = none →
      let u := if ds.launchq then s1 else s1.flushTurn k true
      (u.queue? k = some q2 → q2.blocks.all (fun x => x.st == .closed || !(x.flushAt.isSome || x.lateIn)) = true → q2.ovf = [] →
        gives (.qflush d b) (if ds.node ≠ 0xFF then u.signalNode q2.ctx ds.node else u) (BitVec.ofNat 64 q2.flushed)))

/-! ## STEP (R434 to R448) -/

/-- Derived from R434, R438, R439, R440, R443, R444, R445, R446: a step task's sends and barrier. SSEND in its slot of a communication step, or loose, and SSENDA at
any time put their block's granules on the way; a send outside its slot raises SLOT with KIND 1 (early), 2 (late) or 3 (not a communication step),
any such word of no step task KIND 5. SBAR arrives once and waits; released, it goes on with STEP. -/
def Claim.StepWords : Prop :=
  ∀ (s s1 s2 : State) (d a b : GReg) (dom : BitVec 5) (src key ea : Nat),
    let next := s.c.pc + 1
    let g := s.rdI d
    let n := g.toNat % 2 ^ 13
    let slot := (g.extractLsb' 32 16).toNat
    let w := s.c.slotW
    let at' := s2.mySclk
    let slotTrap := fun (i : Instr) (t : State) (kind slot now : Nat) =>
      exec i s = .next (t.trapPrecise ⟨0x0D, BitVec.ofNat 64 (kind * 2 ^ 60 + slot * 2 ^ 32 + now), false, none⟩)
    (s.c.stepOn = false → slotTrap (.ssend d a b) s 5 0 0 ∧ slotTrap (.ssenda d a b) s 5 0 0 ∧ slotTrap (.sbar d a dom) s 5 0 0) ∧
    (s.c.stepOn = true → sendSource (s.rdG a) n s = (.ok src, s1) → sendDest (s.rdG b) n s1 = (.ok (key, ea), s2) →
      capAddr (s.rdG a) % 16 = 0 → ea % 16 = 0 →
      (n = 0 ∨ n % 16 ≠ 0 ∨ 64 * w < n → slotTrap (.ssend d a b) s2 4 slot s.mySclk ∧ slotTrap (.ssenda d a b) s2 4 slot s.mySclk) ∧
      (n ≠ 0 → n % 16 = 0 → n ≤ 64 * w → Claim.Still s2 → Claim.sent s2 →
        let u := s2.sendBlock src key ea n
        (s2.poisoned src n = false → CompletesTo (.ssenda d a b) s u u.c next) ∧
        (s2.c.comm = false → slotTrap (.ssend d a b) s2 3 slot at') ∧
        (s2.c.comm = true →
          (s2.c.loose = false → at' < slot * w → slotTrap (.ssend d a b) s2 1 slot at') ∧
          (s2.c.loose = false → (slot + 1) * w ≤ at' → slotTrap (.ssend d a b) s2 2 slot at') ∧
          (s2.c.loose = true ∨ (slot * w ≤ at' ∧ at' < (slot + 1) * w) → s2.poisoned src n = false →
            CompletesTo (.ssend d a b) s u u.c next)))) ∧
    (s.c.stepOn = true → dom.toNat ≠ s.c.dom → slotTrap (.sbar d a dom) s 6 0 s.mySclk) ∧
    (s.c.stepOn = true → dom.toNat = s.c.dom → Claim.Still s → Claim.sent s →
      (s.c.released = true → (s.c.sbarPc = s.c.wordPc ∨ (s.c.wait = some (.step dom.toNat) ∧ s.c.woken.isSome = true)) →
        Completes (.sbar d a dom) s { putI s.c d (BitVec.ofNat 64 (s.c.stepNo % 2 ^ 30)) with released := false }) ∧
      (s.c.released = false → s.c.wait = none → s.c.arrived = false →
        let tid := s.c.task.getD 0
        let bar := ((s.domain? tid dom.toNat).map (·.bar)).getD {}
        let x := ((s.rdI a).setWidth 36).toInt
        bar.broken = false → -(2 ^ 35) ≤ bar.pending + x → bar.pending + x ≤ 2 ^ 35 - 1 →
        let t := s.upd (fun c => { c with arrived := true, released := false, sbarPc := c.wordPc })
        exec (.sbar d a dom) s = .next (((t.setBarOf tid dom.toNat { bar with pending := bar.pending + x, arrived := bar.arrived + 1 }).testStep tid dom.toNat).holdAt
          (.step dom.toNat))))

/-- Derived from R434, R447, R448: SDOM and SCLK. SDOM gives a domain's numbers, the slot width or the task's record address, and all ones where the task has no
steps; SCLK gives the clock, 0 without steps, and with .wait, when the value has come, that value to a core that waited for it. -/
def Claim.StepReads : Prop :=
  ∀ (s : State) (d a : GReg) (what : SdWhat),
    let x := s.domain? (s.c.task.getD 0) ((s.rdI a).toNat % 32)
    let num := fun (f : Domain → Nat) => BitVec.ofNat 64 ((x.map f).getD 0)
    Completes (.sdom d a what) s (putI s.c d (if s.c.stepOn then match what with
      | .size => num (·.count)
      | .first => num (·.first)
      | .stride => num (·.stride)
      | .rank => ((x.bind (fun y => y.rank s.c.member)).map (BitVec.ofNat 64)).getD (BitVec.allOnes 64)
      | .pend => BitVec.ofInt 64 ((x.map (·.bar.pending)).getD 0)
      | .arr => num (·.bar.arrived)
      | .w => BitVec.ofNat 64 s.c.slotW
      | .recd => s.c.recAddr else BitVec.allOnes 64)) ∧
    Completes (.sclk d .read) s (putI s.c d (if s.c.stepOn then BitVec.ofNat 64 s.mySclk else 0)) ∧
    (let v := (s.rdI a).toNat % 2 ^ 32
     s.c.stepOn = false ∨ v ≤ s.mySclk →
      Completes (.sclk d (.wait a)) s (putI s.c d (if s.c.stepOn then BitVec.ofNat 64 (if s.c.wait = some (.clock v) then v else s.mySclk) else 0)))

/-- Together: the STEP words. -/
def Obligations.StepInstructions : Prop := Claim.StepWords ∧ Claim.StepReads
/-! ## Pair words (R36 to R42) -/

/-- What an integer, mask or move half writes, from the state at issue (R38); the memory and floating-point halves are none of these. -/
def Claim.half (s : State) : Instr → Option (Core → Core)
  | .hnop => some id
  | .hadd d a => some (fun c => putI c d (s.rdI d + s.rdI a))
  | .hsub d a => some (fun c => putI c d (s.rdI d - s.rdI a))
  | .hand d a => some (fun c => putI c d (s.rdI d &&& s.rdI a))
  | .hor d a => some (fun c => putI c d (s.rdI d ||| s.rdI a))
  | .hxor d a => some (fun c => putI c d (s.rdI d ^^^ s.rdI a))
  | .hshl d a => some (fun c => putI c d (s.rdI d <<< ((s.rdI a).toNat % 64)))
  | .hshr d a => some (fun c => putI c d (s.rdI d >>> ((s.rdI a).toNat % 64)))
  | .hmov d a => some (fun c => putG c d (s.rdG a))
  | .haddi d a imm => some (fun c => putI c d (s.rdI a + imm.signExtend 64))
  | .handi d a imm => some (fun c => putI c d (s.rdI a &&& imm.signExtend 64))
  | .hshli d a n => some (fun c => putI c d (s.rdI a <<< n.toNat))
  | .hshri d a n => some (fun c => putI c d (s.rdI a >>> n.toNat))
  | .hli d imm => some (fun c => putI c d (imm.signExtend 64))
  | .hkand d a => some (fun c => putK c d (s.rdK d &&& s.rdK a))
  | .hkor d a => some (fun c => putK c d (s.rdK d ||| s.rdK a))
  | _ => none

/-- Derived from R36, R38, R39, R41, R455: a half beside HNOP, as a word of its own. It reads everything first and writes its result; HLD and HST reach the near window
alone, HST through the store queue; the vector halves work on all sixteen lanes and take a ring entry. -/
def Claim.PairHalves : Prop :=
  ∀ (s s' : State) (h : Instr) (f : Core → Core) (d a : GReg) (v w : Fin 64) (imm : BitVec 13) (l : Loc),
    let c := s.rdG a
    let ea := (c.int.toNat + 8 * imm.toNat) % 2 ^ 64
    let r := fun (x : Fin 64) => s.rdV (halfV x)
    (Claim.half s h = some f → Completes h s (f s.c)) ∧
    (Claim.Ready s →
      Claim.fpVec (.hvfadd v w) s s 0 (halfV v) (fun l => fAdd (s.c.fpctl.getLsbD 0) .rne (laneAt (r v) l) (laneAt (r w) l)) ∧
      Claim.fpVec (.hvfmul v w) s s 0 (halfV v) (fun l => fMul (s.c.fpctl.getLsbD 0) .rne (laneAt (r v) l) (laneAt (r w) l)) ∧
      Claim.writesV (.hvmov v w) s (halfV v) (r w)) ∧
    (halfAccess c ea permR .load s = (.ok l, s') → Claim.Plain s' l ea 8 →
      CompletesTo (.hld d a imm) s s' (putI s'.c d (BitVec.ofNat 64 (leNat (Claim.seen s' l.key 8)))) (s.c.pc + 1)) ∧
    (halfAccess c ea permW .store s = (.ok l, s') → Claim.Plain s' l ea 8 → s'.c.sq.length < 32 →
      CompletesTo (.hst d a imm) s s' (Claim.queued s'.c [(.write (cellsAt l.key (leBytes (s.rdI d).toNat 8))
        (if l.tagless then [] else [(l.key / 16, false)]), homeOf l.key)]) (s.c.pc + 1))

/-- Derived from R38, R41: a pair of two such halves: both read the state at issue, half 1 writes first, half 0 after it, and nothing else changes. -/
def Claim.PairWords : Prop :=
  ∀ (s : State) (h1 h0 : Instr) (f1 f0 : Core → Core),
    Claim.half s h1 = some f1 → Claim.half s h0 = some f0 →
    ∃ t, execPair h1 h0 s = .next t ∧ Became s t (f0 (f1 s.c)) ∧ Ends s t (s.c.pc + 1)

/-- Together: pair halves, alone and together. -/
def Obligations.Pairs : Prop := Claim.PairHalves ∧ Claim.PairWords
/-! ## Steps of the hardware itself (R44, R48, R130, R149, R175, R227 to R235, R456, R494) -/

/-- A step of the hardware is taken and leaves `t`. -/
def Claim.gives (i : Instr) (s t : State) : Prop := exec i s = .next t

/-- The next turn is given to a core, and nothing else changes. -/
def Claim.wakes (i : Instr) (s : State) (n : Nat) : Prop := Claim.gives i s { s with turns := .core n :: s.turns }

/-- Derived from R44, R46, R47, R48, R149, R175, R182, R183, R190, R191, R194, R201: what arrives at a core and what leaves it. Results that are due drop their
tokens, no register changes; a load's last sector writes its register and drops its token, drops an older
result still on its way there and leaves a younger one to be written over it; a queued store that may leave is performed at its
home, one that may not stays; a clean stack granule is dropped; a walk installs translations only; scrubbing changes nothing. -/
def Obligations.CoreTraffic : Prop :=
  ∀ (s : State) (n m va die : Nat) (p : Producer) (l : Load) (sec : Sector) (ty : LdType) (e : SqEntry) (cells : List Host.Cell) (tags : List (Nat × Bool))
    (k : Nat) (y : SLine),
    let c := s.getC n
    (c.prods[m]? = some p → p.due ≤ s.cycle →
      ∃ ps, Claim.gives (.resultWrite n m) s (s.setC n { c with
          prods := ps, tokens := (c.prods.filter (fun p => decide (p.due ≤ s.cycle))).foldl (fun ts p => dropToken ts p.token) c.tokens }) ∧
        ∀ q ∈ ps, q.due ≤ s.cycle → q.token = 0) ∧
    (c.loads[m]? = some l → l.sectors = [sec] → sec.arrived = false → (∀ b ∈ sec.bytes, s.poisoned b.2 1 = true → sqByte c.sq l.seq b.2 ≠ none) →
      let vals := sec.bytes.map (fun b => (b.1, s.seenByte n l.seq b.2))
      let done := { c with loads := c.loads.eraseIdx m, tokens := dropToken c.tokens l.token }
      let x := loadResult ty (leNat (vals.map Prod.snd))
      let flies := fun (p : Producer) => p.file = l.file ∧ p.reg = l.reg ∧ s.cycle < p.due
      (l.file = .g → l.ty = some ty → l.reg ≠ 0 →
        ((∀ p ∈ c.prods, ¬ flies p) → Claim.gives (.loadSectorArrival n m 0) s (s.setC n { done with g := mput TReg0 c.g l.reg x })) ∧
        (c.prods = [p] → flies p → p.spos < l.spos → p.token = 0 →
          Claim.gives (.loadSectorArrival n m 0) s (s.setC n { done with g := mput TReg0 c.g l.reg x, prods := [] })) ∧
        (c.prods = [p] → flies p → l.spos ≤ p.spos →
          Claim.gives (.loadSectorArrival n m 0) s (s.setC n { done with prods := [{ p with old := .g x }] }))) ∧
      (l.file = .v → (∀ p ∈ c.prods, ¬ flies p) → Claim.gives (.loadSectorArrival n m 0) s
        (s.setC n { done with v := mput vec0 c.v l.reg (vals.foldl (fun v b => vecSetByte v b.1 b.2) (mget vec0 c.v l.reg)) }))) ∧
    (c.sq[m]? = some e →
      (s.mayDrain n m = false → Claim.gives (.storeQueueDrain n m) s s) ∧
      (s.mayDrain n m = true → e.op = .write cells tags → cells ≠ [] → c.loads = [] → s.poison = [] →
        ∃ t, Claim.gives (.storeQueueDrain n m) s t ∧ t.mem = writeCells s.mem cells ∧ t.tags = setTags s.tags tags ∧
          (t.getC n).sq = c.sq.eraseIdx m ∧ (t.getC n).g = c.g ∧ (t.getC n).v = c.v ∧ (t.getC n).pc = c.pc)) ∧
    (c.stack.getLast? = some (k, y) → (∀ x ∈ c.stack, x.1 / 4 = k / 4 → x.2.dirty = false) →
      Claim.gives (.stackSpill n) s (s.updC n (fun c => { c with stack := c.stack.filter (fun e => e.1 / 4 != k / 4) }))) ∧
    (∃ held, Claim.gives (.walkComplete n va) s { s with tlb := held }) ∧
    Claim.gives (.scrub die) s s

/-- Derived from R131, R132, R138, R139, R156, R227, R232, R308, R366, R448, R456, R481: the steps that let a waiting core go on, and what weaves, ports and
traps do between words. A member that stalls holds its publisher and one that does not releases it; a registration makes its publisher one;
a core that waited too long in WAITING is DETACHED and takes TIMEOUT with its tag; a waiting `.a` deposit takes its freed port; a pending
imprecise trap is taken when EXL allows it. -/
def Claim.CoreWaits : Prop :=
  ∀ (s : State) (n port : Nat) (it : Item) (is : List Item) (k gid : Nat) (x : Word) (v : Nat) (r : RingEntry) (a : Nat × Nat × Word × Nat) (g : Reg),
    let c := s.getC n
    (c.subscribed = true → c.w.stream = it :: is → Claim.wakes (.item n) s n) ∧
    (c.wait = some .members → Claim.wakes (.collectiveArrival n) s n) ∧
    (c.wait = some (.memory k gid) → Claim.wakes (.waitmWake n) s n ∧ (c.since + 256 ≤ s.cycle → Claim.wakes (.waitmPoll n) s n)) ∧
    (c.delayed = true → c.readyAt ≤ s.cycle → Claim.wakes (.delayExpiry n) s n) ∧
    (c.wait = some .accept → Claim.wakes (.postAccept n) s n) ∧
    (c.wait = some (.card k) → c.woken = some x → Claim.wakes (.postAcceptance n) s n) ∧
    (c.wait = some (.clock v) → v ≤ c.sclk s.cycle → Claim.wakes (.sclkWaitExpiry n) s n) ∧
    (c.w.st = .member → c.wait.isSome = true → (s.getC c.w.pub).w.followers.any (fun f => f.2 == n) = true →
      Claim.gives (.weaveHold n) s (s.updC c.w.pub (fun p => { p with w := { p.w with holds := nins n p.w.holds } }))) ∧
    (c.w.st = .member → c.wait = none → c.w.handler = none →
      Claim.gives (.weaveRelease n) s (s.updC c.w.pub (fun p => { p with w := { p.w with holds := ndel n p.w.holds } }))) ∧
    (let p := s.getC c.w.pub
     c.w.st = .waiting → (p.w.st = .alone ∨ p.w.st = .detached) → p.w.regs = [g] → g.core = n → g.arrived = false →
      Claim.gives (.registrationArrival n) s (s.setC c.w.pub { p with w := { p.w with
        rank := 0, st := .publisher, size := g.size, regs := [{ g with arrived := true }] } })) ∧
    (n = s.cur → c.rdvto ≠ 0 → c.run = .running → c.w.st = .waiting → c.w.handler = none → c.w.since + c.rdvto.toNat < s.cycle → c.tr.exl = false →
      c.husk.hooks = [] → c.w.followers = [] → c.w.regs = [] → ∃ t, Claim.gives (.rdvTimeout n) s t ∧ (t.getC n).w.st = .detached ∧ (t.getC n).tr.exl = true ∧
        (t.getC n).tr.ecause = 0x16 ∧ (t.getC n).tr.epc = c.pc ∧ (t.getC n).tr.einfo = c.w.waitTag.setWidth 64 ∧ t.mem = s.mem ∧
        ∀ m, m ≠ n → m ≠ c.w.pub → t.getC m = s.getC m) ∧
    (port < 8 → c.portfull.getLsbD port = false → c.asyncs = [a] → a.2.1 = port →
      Claim.gives (.asyncDepositApply n port) s ((s.updC n (fun c => { c with asyncs := [] })).applyDeposit n port a.2.2.1)) ∧
    (n = s.cur → c.tr.pend = true → c.tr.exl = false → c.run = .running → c.parked = false → c.committed = false → c.husk.hooks = [] → c.w.followers = [] → c.w.st = .alone →
      c.dueEntry = some r → r.e5 = false → (r.cause ≠ Cause.mcheck.code ∨ c.sys = false) → ∃ t, Claim.gives (.impreciseTrapDelivery n) s t ∧ (t.getC n).tr.exl = true ∧ (t.getC n).tr.epc = c.pc ∧
        (t.getC n).tr.ecause = BitVec.ofNat 64 (r.cls.toNat * 1024 + 256) + (r.cause.setWidth 64) ∧ (t.getC n).tr.eword = r.eword ∧
        (t.getC n).tr.einfo = r.addr ∧ (t.getC n).tr.eseq = r.seq.setWidth 64 ∧ (t.getC n).pc = c.tr.trapvec ∧ t.mem = s.mem)

/-- Derived from R228, R229, R231, R489, R494: a queued deposit that may leave is delivered to its port; a core without a task takes the newest husk set, its
blobs into its instruction store; a task, no step task within a step, that has slept YIELDT cycles in WAITM while another waits is saved; a saved task that may come back does. -/
def Claim.CoreSwitches : Prop :=
  ∀ (s : State) (n key gid tid idx target port ea : Nat) (task : Option Nat) (x : Word) (e : SqEntry) (es : List SqEntry) (v : Saved) (cores : List Nat),
    let c := s.getC n
    (c.sq = e :: es → e.op = .deposit target task port x false ea → s.mayDrain n 0 = true → s.depositOk target task = true →
      Claim.gives (.depositArrival n) s ((s.updC n (fun c => { c with sq := es })).applyDeposit target port x)) ∧
    (n < nCores → c.task = none → c.run ≠ .halted → c.husk ≠ s.sec.newest → ∃ t, Claim.gives (.huskSwitch n) s t ∧
      t.getC n = { c with husk := s.sec.newest, retries := 0 } ∧ (s.sec.newest.vendor = none → s.sec.newest.owner = none → t.mem = s.mem) ∧
      (∀ im, s.sec.newest.vendor = some im → s.sec.newest.owner = none →
        t.mem = (s.putCode n im.blobAt im.blob).mem) ∧ ∀ m, m ≠ n → t.getC m = s.getC m) ∧
    (c.wait = some (.memory key gid) → c.task = some tid → (s.task? tid).any (·.mayYield) = true → n < nCores → c.since + (s.getX c.ctx).ccb.yieldt ≤ s.cycle → s.tasksWait c.ctx 0 = true →
      Claim.gives (.waitmYield n) s (s.stash tid false false (some (key / 16)))) ∧
    (s.ham.saved[idx]? = some v → ∀ t, s.task? v.tid = some t → (s.getX t.ctx).serves = true → s.firstReady t.ctx = some idx → cores.length = v.was.length →
      cores.Nodup → oneUnit (match s.launch? t.lid with | some l => lpbShape l.lpb | none => 4) cores = true →
      (∀ m ∈ cores, s.coreFree m = true ∧ s.clusterOk t.ctx m = true ∧ (mvals s.ham.launches).all (fun l => l.ctx == t.ctx || !l.claim.contains m) = true) →
      (v.whole = true → s.mapOk v ((v.was.map Prod.snd).zip cores) = true) →
      Claim.gives (.savedTaskRestore idx cores) s (s.unstash v cores))

/-- Together: the steps that let a core go on, and those that switch what it runs. -/
def Obligations.CoreEvents : Prop := Claim.CoreWaits ∧ Claim.CoreSwitches
/-! ## Steps of the engines -/

/-- Derived from R318, R322 to R326, R329, R331, R332, R353: steps of a matrix engine. With no pass running and nothing reserved the arbiter's choice is granted:
an unusable entry fails, a rank pass that can change nothing is skipped, any other starts; a started MZERO clears its tiles; a started RKINIT
empties its lists; a table that arrives is written; a list pass goes on with its next entry; an entry that has waited in a gang's open latch
for longer than its poster's RDVTO fails with KIND 5; a gang whose members are all reserved, their tiles free, starts. -/
def Obligations.MatrixSteps : Prop :=
  ∀ (s : State) (me cluster f n : Nat) (e : MeEntry) (x : Nat × BitVec 256 × Nat) (xs : List (Nat × BitVec 256 × Nat)) (g : Gang),
    let m := s.getM me
    (let t := s.markReady me
     (t.getM me).reserved = none → (t.getM me).entries.all (fun e => !e.started) = true → t.arbiter me = some e →
      (∀ fail, t.rankFail me e = some fail → Claim.gives (.passGrant me) s (t.meFail me e fail 0)) ∧
      (t.rankFail me e = none → t.rankSkips me e = true → Claim.gives (.passGrant me) s (t.skipEntry me e)) ∧
      (t.rankFail me e = none → t.rankSkips me e = false → (∀ k a, e.kind ≠ .list k a) →
        Claim.gives (.passGrant me) s (t.startEntry me e e (t.pick 0x500 2 == 1))) ∧
      (∀ k a, e.kind = .list k a → ∀ u,
        (t.listCheck me e = (none, u) → Claim.gives (.passGrant me) s (u.startEntry me e e (u.pick 0x500 2 == 1))) ∧
        (∀ fail, t.listCheck me e = (some fail, u) → Claim.gives (.passGrant me) s (u.meFail me e fail e.done)))) ∧
    (m.first = some e →
      let done := fun (s : State) => (s.freeEntry me e.id).markReady me
      (e.kind = .zero f n → Claim.gives (.passComplete me) s (done (s.putTile me e (4096 * f) (List.replicate (4096 * n) 0)))) ∧
      (e.kind = .rank f n → Claim.gives (.passComplete me) s (done ((List.range 32).foldl (fun s i =>
        s.putTile me e (rankOff f (bitsOf e.desc.toNat 7 0) i)
          (rankHeader (bitsOf e.desc.toNat 7 0) 0 false negInf32 (bitsOf e.desc.toNat 63 32))) s))) ∧
      (∀ addr, e.kind = .ldc addr → ∀ fl t, s.ldcRows me e addr (List.range 32) = (none, fl, t) →
        Claim.gives (.passComplete me) s (done (t.meFlags e fl))) ∧
      (∀ addr seq, e.kind = .stc addr seq → ∀ fl t, s.stcRows me e addr seq (List.range 32) = (none, fl, t) →
        Claim.gives (.passComplete me) s (done (t.meFlags e fl))) ∧
      (∀ rank a b sa sb, e.kind = .pass rank a b sa sb →
        let r := s.readOps me e e
        let e' := (r.entry? me e.id).getD e
        (∀ t, r.finishPass me e' e' rank = (none, t) → Claim.gives (.passComplete me) s (((t.countDone me e'.ctx).freeEntry me e'.id).markReady me)) ∧
        (∀ fail t, r.finishPass me e' e' rank = (some fail, t) → Claim.gives (.passComplete me) s (t.meFail me e' fail
          (if rank = false ∧ (r.passTileError me e').isSome = true then 0 else e'.ops.length)))) ∧
      (∀ k a, e.kind = .list k a →
        let r := s.readOps me e e
        let e' := (r.entry? me e.id).getD e
        (∀ fail t, r.finishPass me e' e' false = (some fail, t) → Claim.gives (.passComplete me) s (t.meFail me e' fail e'.done)) ∧
        (∀ t u, r.finishPass me e' e' false = (none, t) → (t.countDone me e'.ctx).listArrive me e' = (none, u) →
          Claim.gives (.passComplete me) s (if e'.done + 1 = k then (u.freeEntry me e'.id).markReady me
            else (u.updEntry me e'.id (fun x => { x with
              done := x.done + 1, cur := x.nxt, fail := x.nxtFail, started := false, read := false, ops := [], rdy := none })).markReady me)))) ∧
    (m.mtbl = x :: xs → Claim.gives (.mtblArrive me) s (s.updM me (fun m => { m with tabs := mput 0 m.tabs x.1 x.2.1, mtbl := xs }))) ∧
    (s.entry? me n = some e → (s.getC e.core).rdvto ≠ 0 → e.gangId ≠ 0 → e.started = false → e.since + (s.getC e.core).rdvto.toNat < s.cycle →
      s.gangs.any (fun g => g.id == e.gangId && g.complete.isNone) = true → Claim.gives (.gangLatchTimeout me n) s (s.meFail me e (mfault 5 0) 0)) ∧
    (s.gangHead cluster = none → Claim.gives (.gangStart cluster) s s) ∧
    (s.gangHead cluster = some g →
      let es := s.gangEntries g
      es.length = g.cores.length → es.all (fun x => (s.getM x.1).reserved == some g.id && s.tilesFree x.1 x.2) = true →
        Claim.gives (.gangStart cluster) s (s.startGang g))

/-- Derived from R318, R322, R324, R325, R326, R332: the five steps of a matrix engine complete, each from conditions on the state and its operands alone.
PASS_GRANT starts the ready entry the arbiter chooses (R322); PASS_COMPLETE of a started MZERO leaves its tiles zero, its entry gone and its
poster's OUT one lower; MTBL_ARRIVE writes the oldest table on its way (R332); GANG_LATCH_TIMEOUT fails, with MFAULT KIND 5, an entry that
has waited in an open latch for longer than RDVTO (R326); GANG_START starts a gang all of whose MEs are reserved (R325). -/
def Obligations.MatrixStepsComplete : Prop :=
  ∀ (s : State) (me cluster f n : Nat) (e : MeEntry) (x : Nat × BitVec 256 × Nat) (xs : List (Nat × BitVec 256 × Nat)) (g : Gang),
    let m := s.getM me
    let t := s.markReady me
    let gone := fun (u v : State) => (v.getM me).entries.all (fun y => y.id != e.id) = true ∧
      (v.getC e.core).out = (u.getC e.core).out - 1
    (m.reserved = none → (∀ y ∈ m.entries, y.started = false) → t.arbiter me = some e →
      (∀ r a b c d, e.kind ≠ .pass r a b c d) → (∀ k a, e.kind ≠ .list k a) →
      exec (.passGrant me) s = .next (t.updM me (fun m => { m with nextArr := m.nextArr + 1, entries := m.entries.map (fun y =>
        if y.id = e.id then { y with started := true, startNo := m.nextArr } else y) }))) ∧
    (m.entries.filter (·.started) = [e] → e.kind = .zero f n → 0 < n → s.poison = [] → s.entry? me e.id = some e → (s.getC e.core).task = e.task →
      ∃ v, exec (.passComplete me) s = .next v ∧ v.mem = writeBytes s.mem (accKey me (4096 * f)) (List.replicate (4096 * n) 0) ∧ gone s v) ∧
    (m.mtbl = x :: xs → exec (.mtblArrive me) s = .next (s.updM me (fun m => { m with tabs := mput 0 m.tabs x.1 x.2.1, mtbl := xs }))) ∧
    (s.entry? me n = some e → e.gangId ≠ 0 → e.started = false → (s.getC e.core).rdvto ≠ 0 → e.since + (s.getC e.core).rdvto.toNat < s.cycle →
      s.gangs.any (fun g => g.id == e.gangId && g.complete.isNone) = true →
      exec (.gangLatchTimeout me n) s = .next (s.meFail me e (0x11, BitVec.ofNat 64 (5 * 2 ^ 56)) 0)) ∧
    (s.gangHead cluster = some g → (s.gangEntries g).length = g.cores.length →
      (s.gangEntries g).all (fun x => (s.getM x.1).reserved == some g.id && s.tilesFree x.1 x.2) = true →
      exec (.gangStart cluster) s = .next (s.startGang g))

/-- Derived from R365, R366, R367, R375, R379, R380, R383, R384, R387: steps of the copy engines and the Sieve. A combining window closes after 64 cycles; a closed
card of each operation is registered once, for the posters that still wait; a job starts where its engine is free, a resumed one at its
cursor; it ends done when its elements are; a Sieve on a full queue for DLCYC cycles with no dequeue parks with DEADLOCK. -/
def Obligations.JobSteps : Prop :=
  ∀ (s : State) (idx eng die : Nat) (x : Combine) (j k : Job) (w : Nat),
    (s.combs[idx]? = some x →
      (x.opened + 64 ≤ s.cycle → Claim.gives (.combineWindowExpiry idx) s { s with combs := s.combs.set idx { x with closed := true } }) ∧
      (x.closed = true → (s.liveJobs x.job.ctx).length < 1024 →
        let ps := x.job.posters.filter (fun p => (s.getC p.1).wait == some (.card p.2.1))
        let u := { s with combs := s.combs.eraseIdx idx }
        let t := if ps = [] then u else u.registerJob { x.job with posters := ps }
        (cardOp x.job.card = 1 → Claim.gives (.copy idx) s t) ∧ (cardOp x.job.card = 2 → Claim.gives (.gather idx) s t) ∧
        (cardOp x.job.card = 3 → Claim.gives (.scatter idx) s t) ∧ (cardOp x.job.card = 4 → Claim.gives (.fill idx) s t) ∧
        (cardOp x.job.card = 5 → Claim.gives (.iload idx) s t) ∧ (cardOp x.job.card = 6 → Claim.gives (.convert idx) s t) ∧
        (cardOp x.job.card = 0x10 → Claim.gives (.route idx) s t))) ∧
    (s.engineJob eng = none → s.engineBest eng = some j →
      let u := s.startJob j
      let t := u.jobRun j.id (u.pick 0x610 (j.total - j.count + 1))
      Claim.gives (.jobStart eng) s t ∧ (eng = j.eng → s.job? j.id = some j → j.cause ≠ 0 → Claim.gives (.resume j.id) s t)) ∧
    (s.engineJob eng = some j →
      Claim.gives (.jobStart eng) s s ∧
      (let u := s.jobRun j.id (j.total - j.count)
       u.job? j.id = some k →
        (k.st = .running → k.total ≤ k.count → Claim.gives (.jobComplete eng) s (u.endJob k.id .done)) ∧
        (¬ (k.st = .running ∧ k.total ≤ k.count) → Claim.gives (.jobComplete eng) s u))) ∧
    (s.engineJob (64 + die) = some j → Claim.gives (.routeToken die) s (s.jobRun j.id 1) ∧
      (j.waits = some w → max w (s.getX j.ctx).deqAt + (s.getX j.ctx).ccb.dlcyc ≤ s.cycle →
        Claim.gives (.sieveDeadlock die) s (s.parkJob j.id .deadlock (s.free 0x620).toNat s.openInfo.toNat)))

/-- Derived from R395, R396, R468: the Shell's cards. CTXSET puts the block it has read in force: limits and timers at once, budgets from the next period.
SAVE starts the ladder and, once no task of the context holds a core of its die, writes the area and ends done; RESTORE makes the tasks of
an area this device wrote ready saved tasks, and ends with nothing handed over where it knows none (log entry 37, the model's choice); an
area of another form fails with FORMAT, one that does not translate with its fault. How long an area is past what R468 lays out is the
model's choice (log entry 13). -/
def Obligations.ShellCards : Prop :=
  ∀ (s u : State) (die : Nat) (j : Job) (h : List Byte),
    ((mvals s.jobs).find? (fun j => j.eng == 72 && j.st == .queued) = some j →
      let c := ccbOf j.table
      Claim.gives .ctxset s ((s.updX (byteAt j.card 2) (fun x => { x with
        ccb := { c with coreBud := x.ccb.coreBud, copyBud := x.ccb.copyBud, sieveBud := x.ccb.sieveBud, ethBud := x.ccb.ethBud }
        budNext := some c, nodes := if x.ccb.nodes = c.nodes then x.nodes else [] })).endJob j.id .done)) ∧
    (s.shellJob die 0x30 = some j → s.shellReady j = (some u, u) →
      let ctx := byteAt j.card 3
      (let v := u.startLadder ctx true
       (u.getX ctx).asked = false → (v.resident ctx).any (fun t => t.mem.any (fun m => m.2.2 && dieOfCore m.2.1 == die)) = true →
        Claim.gives (.save die) s v) ∧
      ((u.getX ctx).asked = true → (u.resident ctx).any (fun t => t.mem.any (fun m => m.2.2 && dieOfCore m.2.1 == die)) = false →
        let vs := u.ham.saved.filter (u.savedOn ctx die)
        let va := field j.card 8 8
        let n := areaSize (u.savedCores vs).length (vs.map (fun v => v.mes.length)).sum vs.length
        let v := u.writeArea die j
        (field j.card 16 8 < n → Claim.gives (.save die) s (u.parkJob j.id .bounds va va)) ∧
        (∀ f, n ≤ field j.card 16 8 → u.pagesBad j.ctx va n = some f → Claim.gives (.save die) s (u.parkJob j.id .xlate f.2 f.1)) ∧
        (n ≤ field j.card 16 8 → u.pagesBad j.ctx va n = none →
          (v.resident ctx = [] → Claim.gives (.save die) s ((v.endLadder ctx).endJob j.id .done)) ∧
          (v.resident ctx ≠ [] → Claim.gives (.save die) s (v.endJob j.id .done))))) ∧
    (s.shellJob die 0x31 = some j → s.shellReady j = (some u, u) →
      let va := field j.card 8 8
      let len := field j.card 16 8
      (len < 0x10000 → Claim.gives (.restore die) s (u.parkJob j.id .bounds va va)) ∧
      (0x10000 ≤ len → ∀ f v, u.ctxRead j.ctx va 0x10000 = (.error f, v) → Claim.gives (.restore die) s (v.parkJob j.id f.1 f.2.2 f.2.1)) ∧
      (0x10000 ≤ len → ∀ v, u.ctxRead j.ctx va 0x10000 = (.ok h, v) →
        (field h 0 4 ≠ 0x48534C4C ∨ field h 4 2 ≠ 1 ∨ field h 6 2 ≠ 0xA1 → Claim.gives (.restore die) s (v.parkJob j.id .format va 0)) ∧
        (let n := max (tableAt (field h 8 4) (field h 12 4) + 64) (max (field h 16 8 + 64) (field h 24 8 + blockLen ((field h 24 8 - field h 16 8) / 64)))
         field h 0 4 = 0x48534C4C → field h 4 2 = 1 → field h 6 2 = 0xA1 →
          (len < n → Claim.gives (.restore die) s (v.parkJob j.id .bounds va va)) ∧
          (n ≤ len → ∀ b w, v.ctxRead j.ctx va n = (.ok b, w) →
            (w.areaOf (b.drop (field h 16 8)) = none → Claim.gives (.restore die) s (w.endJob j.id .done)) ∧
            (∀ token vs, w.areaOf (b.drop (field h 16 8)) = some (token, vs) →
              Claim.gives (.restore die) s ((w.openArea (byteAt j.card 3) die token vs b).endJob j.id .done))))))

/-! ## Steps of the Hamper -/

/-- Derived from R397, R400 to R404, R461, R469, R470: launches. A record at a launch queue's head becomes a launch or, with byte 127 at 1, a code load, a malformed one a
FORMAT record, and the head advances; a launch with nothing before it dispatches; age raises a level; a range is stolen for an exhausted
die; a launch held too long claims its cores; the next launch's task starts on cores it may take, its member set as R404 says, once the
host has been asked and has answered where it places launches. The model's choices: what a claim takes and when a launch with one starts (log
entry 32), when a free choice falls on which die or launch (log entries 24 and 33), and what parks for the host's placement (log entry 40). -/
def Obligations.LaunchSteps : Prop :=
  ∀ (s s0 s1 s2 s3 : State) (ctx queue home lid die k n : Nat) (b r : List Byte) (q : RQueue) (l l' : Launch) (x : Nat × Nat × SMap Word) (cores : List Nat),
    (queue < (s.getX ctx).ccb.lqCount →
      let ea := (s.getX ctx).ccb.lqAddr + 128 * queue
      let h := s1.descNow home b
      let d := qdescOf h
      let live := if d.hostq then { q.live with tail := field h 20 4 } else q.live
      s.ctxBytes ctx ea 128 = (some b, s0) → s0.queueHome ctx ea = (home, s1) → d.launchq = true → qdescBad d (qliveOf h) h = none →
      s1.activate ctx ea home h = (k, s2) → s2.queue? k = some q →
      (live.head = live.tail → Claim.gives (.launchTake ctx queue) s s2) ∧
      (live.head ≠ live.tail → s2.ctxBytes ctx (d.ring + live.head % d.cap * 128) 128 = (some r, s3) →
        let u := (s3.setQueue k { q with live := { live with head := (live.head + 1) % 2 ^ 32 } }).syncQueue k
        (byteAt r 127 = 1 → Claim.gives (.launchTake ctx queue) s (u.takeCode k ctx r)) ∧
        (byteAt r 127 ≠ 1 → (∀ off, lpbBad r = some off → Claim.gives (.launchTake ctx queue) s (u.badLpb ctx r off)) ∧
          (lpbBad r = none → Claim.gives (.launchTake ctx queue) s (u.addLaunch r (some k) d.hostq none))))) ∧
    (s.launch? lid = some l →
      let y := s.getX l.ctx
      (l.st = .held → s.launchBlocked l = true → Claim.gives (.launchDispatch lid) s s) ∧
      (l.st = .held → s.launchBlocked l = false → y.stage = 0 → y.exh = 0 → l.dropped = false → lpbIndirect l.lpb = false → l.ptrs = [] → lpbStep l.lpb = 0 →
        Claim.gives (.launchDispatch lid) s ((s.updL lid (fun l => { l with
          st := .ready, count := lpbCount l.lpb, since := s.cycle, placeAt := s.cycle, plan := none
          ranges := if l.dropped then [] else splitRanges (lpbShape l.lpb) (lpbCount l.lpb) (l.die.getD (s.pick 0x200 4)) })).finishLaunch lid)) ∧
      (l.left = true → l.level < 15 → l.since + y.ccb.age ≤ s.cycle →
        Claim.gives (.agePromotion lid) s (s.updL lid (fun l => { l with level := l.level + 1, since := s.cycle }))) ∧
      (l.st = .ready → 3 ≤ lpbShape l.lpb → die < 4 → Claim.gives (.rangeSteal lid die) s (s.updL lid (fun l => { l with ranges := stealRange l.ranges die }))) ∧
      (l.left = true → y.serves = true → 1 < lpbWidth l.lpb → l.claim = [] → l.placeAt + y.ccb.age < s.cycle → cores.length = lpbWidth l.lpb → cores.Nodup →
        oneUnit (lpbShape l.lpb) cores = true → (∀ n ∈ cores, n < nCores ∧ (s.getC n).run ≠ .halted ∧ s.unclaimed lid n = true) →
        l.offers (dieOfCore (cores.headD 0)) = true → (lpbWoven l.lpb = true → s.wovenFits cores = true) →
        Claim.gives (.placementClaim lid cores) s (s.updL lid (fun l => { l with claim := cores }))) ∧
      (l.left = true → y.serves = true → s.firstReady l.ctx = none → (l.claim = [] ∨ l.claim = cores) → s.isNext l = true → s.placeOk l cores = true →
        l.take (dieOfCore (cores.headD 0)) = some (x, l') →
        (s.assisted l.ctx 1 = true → l.asked = none → Claim.gives (.taskStart lid cores) s (s.parkPlace l)) ∧
        (s.assisted l.ctx 1 = true → l.asked = some false → Claim.gives (.taskStart lid cores) s s) ∧
        ((s.assisted l.ctx 1 = false ∧ l.asked ≠ some false) ∨ l.asked = some true → Claim.gives (.taskStart lid cores) s (s.startOnCores l' x cores)) ∧
        (s.assisted l.ctx 1 = false → l.asked = none → cores = [n] → lpbWoven l.lpb = false → ∃ t, Claim.gives (.taskStart lid cores) s t ∧
          let c := t.getC n
          c.run = .running ∧ c.pc = BitVec.ofNat 12 (lpbEntry l.lpb) ∧ c.sys = false ∧ c.ctx = l.ctx ∧ c.task = some s.ham.nextTid ∧ c.member = 0 ∧
          c.taskid = BitVec.ofNat 64 x.1 ∧ c.launchid = BitVec.ofNat 64 l.lid ∧ c.fscope = BitVec.ofNat 64 (lpbScope l.lpb) ∧ c.cancelf = false ∧
          c.fpctl = 0 ∧ c.fpflags = 0 ∧ c.portfull = 0 ∧ c.rdvto = 0x100000 ∧ c.tr.exl = false ∧ c.tr.pend = false ∧ (c.g' 4).int = BitVec.ofNat 64 x.1 ∧
          c.g' 1 = TReg0 ∧ c.v' 1 = vec0 ∧ c.k' 1 = 0 ∧ c.out = 0)))

/-- Derived from R407, R410, R413, R414: deadlines. A task asked to cancel and still running at its deadline is killed; a die's spawn window closes into one
launch of all it gathered, which stands at that die; a block whose flush timer has run out closes once nothing in it is uncommitted, and CTO cycles later all the same;
senders that have all waited DLCYC cycles go on (when they wait is log entry 35, that a window's table has no address log entry 70: the model's
choices). -/
def Claim.HamperDeadlines : Prop :=
  ∀ (s : State) (tid at' die idx k no ctx : Nat) (t : Task) (o : Offer) (q : RQueue) (b : Block),
    (s.task? tid = some t → t.canAt = some at' → at' + (s.getX t.ctx).ccb.cancelDl ≤ s.cycle →
      Claim.gives (.cancelDeadline tid) s (s.killTask tid none 0x1A true)) ∧
    ((s.ham.offers.filter (fun o => o.die == die))[idx]? = some o → (o.opened + 256 ≤ s.cycle ∨ 4096 ≤ o.ptrs.length) →
      Claim.gives (.spawnWindowExpiry die idx) s
        (({ s with ham := { s.ham with offers := s.ham.offers.erase o } }).newLaunch o.lpb none false o.ptrs o.ptrs.length none (some die))) ∧
    (s.queue? k = some q → q.blocks.find? (fun b => b.no == no) = some b → b.st ≠ .closed →
      let cto := (s.getX q.ctx).ccb.cto
      (∀ t, b.timer = some t → q.live.timer ≠ 0 →
        (t + q.live.timer ≤ s.cycle → b.claims.all (fun c => c.2.2) = true → Claim.gives (.flushTimerExpiry k no) s ((s.closeBlock k no).settleQueue k)) ∧
        (b.claims.all (fun c => c.2.2) = false → Claim.gives (.flushTimerExpiry k no) s s) ∧
        (t + q.live.timer + cto ≤ s.cycle → Claim.gives (.commitTimeout k no) s ((s.closeBlock k no).settleQueue k))) ∧
      (∀ t, b.flushAt = some t → t + cto ≤ s.cycle → Claim.gives (.commitTimeout k no) s ((s.closeBlock k no).settleQueue k))) ∧
    (let cs := s.cores.filter (fun e => decide (e.1 < nCores) && e.2.task.isSome && e.2.ctx == ctx)
     cs ≠ [] → cs.all (fun e => e.2.wait == some .enq) = true → cs.foldl (fun n e => max n e.2.since) (s.getX ctx).deqAt + (s.getX ctx).ccb.dlcyc ≤ s.cycle →
      let u := cs.foldl (fun s e => s.updC e.1 (fun c => { c with woken := some 0 })) s
      Claim.gives (.queueDeadlock ctx) s { u with turns := cs.map (fun e => Turn.core e.1) ++ u.turns })

/-- Derived from R416, R441, R463: budgets and the ladder. A budget used up starts the ladder; a period's end starts all charges again under the newest
budgets and ends a ladder that only a budget started; at its deadline stage 2 begins, running jobs park and the Shells save; a save that is
not complete at the second deadline ends in the forced reset. When a ladder that a budget started ends is the model's choice (log entry 36).
With the period, records dropped and not told of are reported (R460). -/
def Claim.Ladder : Prop :=
  ∀ (s : State) (ctx which : Nat),
    let x := s.getX ctx
    (let u := s.chargeCores ctx
     ((u.getX ctx).usedUp which = true → Claim.gives (.budgetExhausted ctx which) s
        ((u.updX ctx (fun x => { x with exh := x.exh ||| BitVec.ofNat 4 (2 ^ which) })).startLadder ctx false)) ∧
     ((u.getX ctx).usedUp which = false → Claim.gives (.budgetExhausted ctx which) s u)) ∧
    (x.periodAt + x.ccb.period ≤ s.cycle →
      let u := s.updX ctx (fun x => { x with
        usedCore := 0, usedCopy := 0, usedSieve := 0, usedEth := 0, exh := 0, chargedAt := s.cycle, periods := x.periods + 1, periodAt := s.cycle
        budNext := none
        ccb := match x.budNext with
          | some b => { x.ccb with coreBud := b.coreBud, copyBud := b.copyBud, sieveBud := b.sieveBud, ethBud := b.ethBud }
          | none => x.ccb })
      (x.stage = 0 → Claim.gives (.budgetPeriod ctx) s u.reportDrops) ∧
      (x.stage = 1 → x.asked = false → Claim.gives (.budgetPeriod ctx) s (u.endLadder ctx).reportDrops) ∧
      (x.stage ≠ 0 → x.asked = true → u.resident ctx ≠ [] → Claim.gives (.budgetPeriod ctx) s u.reportDrops) ∧
      (x.stage ≠ 0 → u.resident ctx = [] → Claim.gives (.budgetPeriod ctx) s (u.endLadder ctx).reportDrops)) ∧
    (x.stage = 1 → s.cycle < x.stageAt + x.ccb.saveDl →
      Claim.gives (.saveDeadline ctx) s (((s.resident ctx).filter (fun t => t.allHeld)).foldl (fun s t => s.stash t.tid true true none) s)) ∧
    (x.stage = 1 → x.stageAt + x.ccb.saveDl ≤ s.cycle →
      let u := s.updX ctx (fun x => { x with stage := 2, stageAt := s.cycle })
      let u := { u with jobs := u.jobs.map (fun (e : Nat × Job) => (e.1,
        if e.2.ctx = ctx ∧ e.2.st = JobSt.running ∧ e.2.eng < 68 then { e.2 with st := JobSt.parked, cause := 0, waits := none } else e.2)) }
      Claim.gives (.saveDeadline ctx) s ((u.resident ctx).foldl (fun s t => s.stash t.tid true true none) u)) ∧
    (x.stage = 2 →
      Claim.gives (.saveDeadline ctx) s ((s.resident ctx).foldl (fun s t => s.stash t.tid true true none) s) ∧
      (x.stageAt + x.ccb.secondDl ≤ s.cycle →
        (s.resident ctx ≠ [] → Claim.gives (.secondDeadline ctx) s (s.forceReset ctx)) ∧
        (s.resident ctx = [] → Claim.gives (.secondDeadline ctx) s s)))

/-- Together: deadlines of tasks, windows and blocks; budgets and the ladder. -/
def Obligations.Deadlines : Prop := Claim.HamperDeadlines ∧ Claim.Ladder
/-- Derived from R436, R440, R441, R443, R445: supersteps. A held release due in a context that is not being drained is delivered to its domain,
but not while the task is away from its cores; a core held in SBAR for longer than the step timeout goes on with 2; a granule of SSEND lands in its sender's
order and leaves PENDING, or finds nobody there and leaves one REMOTE record for the send it belongs to (one a send: the model's choice, log entry 39). -/
def Obligations.StepEvents : Prop :=
  ∀ (s : State) (tid dom n k idx : Nat) (t : Task) (d : Domain) (x : Send),
    (s.task? tid = some t → s.domain? tid dom = some d → d.held = true → d.relAt ≤ s.cycle → (s.getX t.ctx).stage = 0 →
      (s.isAway tid = false → Claim.gives (.stepRelease tid dom) s (s.deliverRelease tid dom)) ∧
      (s.isAway tid = true → Claim.gives (.stepRelease tid dom) s s)) ∧
    ((s.getC n).wait = some (.step k) → (s.getC n).woken = none → (s.getC n).task = some tid → s.task? tid = some t → (s.getC n).since + t.stepTo < s.cycle →
      Claim.gives (.stepTimeout n) s { s.updC n (fun c => { c with woken := some 2 }) with turns := .core n :: s.turns }) ∧
    (s.sends[idx]? = some x →
      (s.mayLand idx = false → Claim.gives (.sendLanding idx) s s) ∧
      (s.mayLand idx = true →
        let u := { s with sends := s.sends.eraseIdx idx }
        (s.depositOk x.target x.task = true → Claim.gives (.sendLanding idx) s ((u.writeAt x.ctx x.key x.bytes).stepLanded x.target x.bytes.length)) ∧
        (s.depositOk x.target x.task = false →
          (x.told = true → Claim.gives (.sendLanding idx) s u) ∧
          (x.told = false → Claim.gives (.sendLanding idx) s
            (({ u with sends := u.sends.map (fun (y : Send) => if y.core = x.core ∧ y.no = x.no then { y with told := true } else y) }).remoteRecord
              x.ctx x.ea)))))

/-! ## The host link and management -/

/-- Derived from R501 to R505, R182: inbound RDMA on a device whose ports are up. An access that passes the checks of its key, grant and translation acts and is
answered; one that fails gives the NAK and a record with ENG 0xFD, and no byte moves. What the record says of each failure is the model's choice
(log entry 43). -/
def Obligations.InboundRdma : Prop :=
  ∀ (s s1 : State) (qp : Nat) (rkey : BitVec 32) (va len pa : Nat) (data : List Byte) (ps : List (Nat × Nat)) (cmp new : Word) (f : Cause × Nat × Nat),
    s.host.down = false →
    let ctx := rkey.toNat / 2 ^ 28
    let nak := fun (u : State) (f : Cause × Nat × Nat) => (u.faultRecord ctx (record 0 f.1.code 0xFD 0 0 0 f.2.2 f.2.1)).send (.nak qp)
    let clear := fun (u : State) (n : Nat) => isHost pa = false ∧ u.poisoned pa n = false
    (s.rdmaCheck rkey va data.length permW { w := true } = (.error f, s1) → Claim.gives (.rdmaWrite qp rkey va data) s (nak s1 f)) ∧
    (s.rdmaCheck rkey va data.length permW { w := true } = (.ok ps, s1) →
      Claim.gives (.rdmaWrite qp rkey va data) s (((s1.putParts ctx ps data).pumpRings).send (.response qp [])) ∧
      (ps = [(pa, data.length)] → isHost pa = false → (s1.putParts ctx ps data).mem = (s1.writeAt ctx pa data).mem)) ∧
    (s.rdmaCheck rkey va len permR { r := true } = (.error f, s1) → Claim.gives (.rdmaRead qp rkey va len) s (nak s1 f)) ∧
    (s.rdmaCheck rkey va len permR { r := true } = (.ok ps, s1) →
      (s1.partsBad va len ps = none → Claim.gives (.rdmaRead qp rkey va len) s ((s1.readParts ps).2.send (.response qp (s1.readParts ps).1))) ∧
      (∀ f, s1.partsBad va len ps = some f → Claim.gives (.rdmaRead qp rkey va len) s (nak s1 f)) ∧
      (ps = [(pa, len)] → clear s1 len → s1.partsBad va len ps = none ∧ s1.readParts ps = (readBytes s1.mem pa len, s1))) ∧
    (va % 8 ≠ 0 → Claim.gives (.compareAndSwap qp rkey va cmp new) s (nak s (.align, va, va)) ∧ Claim.gives (.fetchAndAdd qp rkey va new) s (nak s (.align, va, va))) ∧
    (va % 8 = 0 →
      (s.rdmaCheck rkey va 8 (permR ||| permW ||| permA) { r := true, w := true } = (.error f, s1) →
        Claim.gives (.compareAndSwap qp rkey va cmp new) s (nak s1 f) ∧ Claim.gives (.fetchAndAdd qp rkey va new) s (nak s1 f)) ∧
      (s.rdmaCheck rkey va 8 (permR ||| permW ||| permA) { r := true, w := true } = (.ok [(pa, 8)], s1) → clear s1 8 →
        let old := BitVec.ofNat 64 (leNat (readBytes s1.mem pa 8))
        let leaves := fun (x : Word) => ((s1.writeAt ctx pa (leBytes x.toNat 8)).pumpRings).send (.response qp (leBytes old.toNat 8))
        Claim.gives (.compareAndSwap qp rkey va cmp new) s (leaves (if old = cmp then new else old)) ∧
        Claim.gives (.fetchAndAdd qp rkey va new) s (leaves (old + new))) ∧
      (s.rdmaCheck rkey va 8 (permR ||| permW ||| permA) { r := true, w := true } = (.ok [(pa, 8)], s1) → isHost pa = true →
        let goes := fun (i : Instr) (r : Option (Word × State)) =>
          Claim.gives i s (match r with | some (old, u) => u.send (.response qp (leBytes old.toNat 8)) | none => nak s1 (.remote, va, va))
        goes (.compareAndSwap qp rkey va cmp new) (s1.hostAmo ctx pa 2 new cmp) ∧ goes (.fetchAndAdd qp rkey va new) (s1.hostAmo ctx pa 1 new 0))) ∧
    (isHost va = true → Claim.gives (.hostWindowNak ctx va) s (s.remoteRecord ctx va))

/-- A TXC request of type `ty` with answer `a` (R506, R507): nothing from a stranger or with the ports down; BADREQ for a context number of none; the
stored reply to a repeat, nothing to an older sequence; a new sequence is executed, and its reply stored and sent. -/
def Claim.asks (i : Instr) (s : State) (src ctx seqn ty : Nat) (a : Answer) : Prop :=
  let up := s.host.down = false ∧ src ∈ s.host.owners
  let x := s.getX ctx
  (¬ up → Claim.gives i s s) ∧
  (up → 16 ≤ ctx → ctx ≠ 0xFF → Claim.gives i s (s.send (.reply (txcRecord (ty + 0x80) 1 seqn ctx [])))) ∧
  (up → ctx < 16 ∨ ctx = 0xFF →
    (∀ q, x.txcSeq = some q →
      (seqn = q → Claim.gives i s (s.send (.reply (txcRecord x.txcReplyTy x.txcReplySt seqn ctx x.txcReply)))) ∧
      (seqn < q → Claim.gives i s s)) ∧
    ((∀ q, x.txcSeq = some q → q < seqn) →
      Claim.gives i s ((a.next.updX ctx (fun x => { x with txcSeq := some seqn, txcReply := a.body, txcReplySt := a.st, txcReplyTy := ty + 0x80 })).send
        (.reply (txcRecord (ty + 0x80) a.st seqn ctx a.body)))))

/-- Derived from R463, R504, R507 to R512, R518: the TXC requests and the answer each gives: 0 where it is carried out, 1 (BADREQ) where its fields are bad,
and for DREPLY 2 (STALE) where the activity is answered already or stands no more. The model's choices: an activity answered or gone is told from one
unknown (log entry 40), and requests under context 0xFF keep a sequence of their own (log entry 44). -/
def Claim.Requests : Prop :=
  ∀ (s : State) (src ctx seqn : Nat) (reg : BitVec 16) (x addr head : Word) (idx qp len cap act answer off total : Nat) (rkey : BitVec 32) (key nonce data : List Byte),
    let ok := fun (u : State) (body : List Byte) => ({ st := 0, body := body, next := u } : Answer)
    let bad : Answer := { st := 1, next := s }
    let either := fun (p : Prop) (i : Instr) (ty : Nat) (u : State) (body : List Byte) =>
      (p → Claim.asks i s src ctx seqn ty (ok u body)) ∧ (¬ p → Claim.asks i s src ctx seqn ty bad)
    either (0x100 ≤ reg.toNat ∧ reg.toNat < 0x180) (.mread src ctx seqn reg) 1 s (leBytes (s.mgmtRead reg.toNat).toNat 8) ∧
    either (0x100 ≤ reg.toNat ∧ reg.toNat < 0x180) (.mwrite src ctx seqn reg x) 2 (s.mgmtWrite reg.toNat x) [] ∧
    either (idx < 256 ∧ len ≤ 0x200000000) (.window src ctx seqn idx qp x rkey len) 3
      { s with host := { s.host with windows := mset s.host.windows idx { qp := qp, raddr := x, rkey := rkey, len := len } } } [] ∧
    either (ctx < 16 ∧ isHost addr.toNat = true ∧ 1 ≤ cap ∧ cap ≤ 65536) (.ringset src ctx seqn addr cap head) 4
      (s.updX ctx (fun x => { x with ring := some { addr := addr.toNat, cap := cap, head := head.toNat, tail := 0, waiting := [] } })) [] ∧
    either (s.sec.ownerKey = [] ∧ key.length = 133) (.enrol src ctx seqn key) 5 { s with sec := { s.sec with ownerKey := key, ownerCtr := 0 } } [] ∧
    either (ctx < 16) (.preempt src ctx seqn) 6 (s.startLadder ctx true) [] ∧
    Claim.asks (.release src ctx seqn) s src ctx seqn 7 (ok s.releaseAll []) ∧
    either (nonce.length = 32) (.attest src ctx seqn nonce) 8 s (let g := Config.identitySign (sha512 (s.report nonce))
       s.report nonce ++ beBytes g.1 66 ++ beBytes g.2 66) ∧
    (answer = 0 ∨ 3 < answer → Claim.asks (.dreply src ctx seqn act answer) s src ctx seqn 9 bad) ∧
    (1 ≤ answer → answer ≤ 3 →
      (mfind s.host.parked act = none → Claim.asks (.dreply src ctx seqn act answer) s src ctx seqn 9
        { st := if s.host.answered.contains act then 2 else 1, next := s }) ∧
      (∀ p, mfind s.host.parked act = some p →
        (s.standing act p = true → Claim.asks (.dreply src ctx seqn act answer) s src ctx seqn 9 (ok (s.settleAct act p answer) [])) ∧
        (s.standing act p = false → Claim.asks (.dreply src ctx seqn act answer) s src ctx seqn 9 { st := 2, next := s.settleAct act p 3 }))) ∧
    (data.length ≤ 8184 → total ≤ 9804 → off + data.length ≤ total →
      let old := if s.sec.fetchedTotal = total ∧ s.sec.fetched.length = total then s.sec.fetched
                 else (List.range total).map (fun i => Config.freeByte s.tick i)
      Claim.asks (.huskdata src ctx seqn off total data) s src ctx seqn 0xA
        (ok { s with sec := { s.sec with fetched := old.take off ++ data ++ old.drop (off + data.length), fetchedTotal := total } } [])) ∧
    (8184 < data.length ∨ 9804 < total ∨ total < off + data.length → Claim.asks (.huskdata src ctx seqn off total data) s src ctx seqn 0xA bad)

/-- Derived from R4, R506, R507: a request arrives as one datagram, its header and body read little-endian. One whose header is a request's and whose body
has its type's length and fields is that request; one of another body is a bad request; without the magic it is no record and nothing
happens; a field reserved or status other than zero, or a length that is not the body's, makes it a bad request. A bad request gets BADREQ
under the rule of sequences. The widths of a body's fields that R507 does not give are the model's choice (log entry 85). -/
def Claim.Datagrams : Prop :=
  ∀ (s : State) (src ctx seqn ty : Nat) (reg : BitVec 16) (x head : Word) (idx qp len cap act answer off total : Nat) (rkey : BitVec 32) (d key nonce data : List Byte),
    let le := fun (n v : Nat) => leBytes v n
    let record := fun (body : List Byte) => [0x54, 0x58, 0x43, 0x01] ++ le 2 ty ++ [0, 0] ++ le 8 seqn ++ le 1 ctx ++ [0] ++ le 2 body.length
      ++ List.replicate 12 0 ++ body
    let asks := fun (t : Nat) (body : List Byte) (i : Instr) => ty = t → datagramOf src (record body) = .request i
    (ty < 2 ^ 16 → seqn < 2 ^ 64 → ctx < 2 ^ 8 →
      asks 1 (le 2 reg.toNat) (.mread src ctx seqn reg) ∧ asks 2 (le 2 reg.toNat ++ le 8 x.toNat) (.mwrite src ctx seqn reg x) ∧
      (idx < 2 ^ 16 → qp < 2 ^ 32 → len < 2 ^ 64 →
        asks 3 (le 2 idx ++ le 4 qp ++ le 8 x.toNat ++ le 4 rkey.toNat ++ le 8 len) (.window src ctx seqn idx qp x rkey len)) ∧
      (cap < 2 ^ 32 → asks 4 (le 8 x.toNat ++ le 4 cap ++ le 8 head.toNat) (.ringset src ctx seqn x cap head)) ∧
      (key.length = 133 → asks 5 key (.enrol src ctx seqn key)) ∧ asks 6 [] (.preempt src ctx seqn) ∧ asks 7 [] (.release src ctx seqn) ∧
      (nonce.length = 32 → asks 8 nonce (.attest src ctx seqn nonce)) ∧
      (act < 2 ^ 32 → answer < 2 ^ 32 → asks 9 (le 4 act ++ le 4 answer) (.dreply src ctx seqn act answer)) ∧
      (off < 2 ^ 32 → total < 2 ^ 32 → data.length ≤ 8184 → asks 0xA (le 4 off ++ le 4 total ++ data) (.huskdata src ctx seqn off total data)) ∧
      (d.length ≤ 8192 → ty = 0 ∨ 0xA < ty → datagramOf src (record d) = .bad src ctx seqn ty)) ∧
    (d.length < 32 ∨ d.take 4 ≠ [0x54, 0x58, 0x43, 0x01] → runDatagram s src d = .next s) ∧
    (let zero := ∀ i ∈ ([6, 7, 17, 20, 21, 22, 23, 24, 25, 26, 27, 28, 29, 30, 31] : List Nat), d.getD i 0 = 0
     32 ≤ d.length → d.take 4 = [0x54, 0x58, 0x43, 0x01] → ¬ zero ∨ Machine.field d 18 2 + 32 ≠ d.length ∨ 8192 + 32 < d.length →
      datagramOf src d = .bad src (byteAt d 16) (Machine.field d 8 8) (Machine.field d 4 2)) ∧
    (∀ i, datagramOf src d = .request i → runDatagram s src d = exec i s) ∧
    (datagramOf src d = .bad src ctx seqn ty → s.host.down = false → src ∈ s.host.owners →
      let u := s.send (.reply (txcRecord (ty + 0x80) 1 seqn ctx []))
      let y := s.getX ctx
      (16 ≤ ctx → ctx ≠ 0xFF → runDatagram s src d = .next u) ∧
      (ctx < 16 ∨ ctx = 0xFF → (∀ q, y.txcSeq = some q → q < seqn) → runDatagram s src d = .next ((s.updX ctx (fun x =>
        { x with txcSeq := some seqn, txcReply := [], txcReplySt := 1, txcReplyTy := ty + 0x80 })).send (.reply (txcRecord (ty + 0x80) 1 seqn ctx [])))))

/-- Together: the TXC requests, as rows and as the datagrams that carry them. -/
def Obligations.TxcRequests : Prop := Claim.Requests ∧ Claim.Datagrams

/-- Derived from R181, R470, R493, R506, R509, R513, R515, R516, R518, R519: the rest of the outside world. A parked activity unanswered past the second deadline
takes its fault; its record is sent again every 4,000,000 cycles; SMBus reads and writes management registers and sets the owner list; a
token signed by the vendor unlocks JTAG; power-up resets all but counters and the owner's key; the clock steps by 100 MHz between 1,000 and
4,000, down while a die is above TLIM or the power has been above PLIM for 10 ms; at 115 degrees the device trips, which stops it and sends a NOTICE; a bit error is counted, an uncorrectable one
stays in its granule, of memory or of a stack cache. The model's choices: what parks and how an answer applies (log entry 40), what power-up keeps
and that 10 ms are ten steps (log entry 45), how an error in a stack cache is named (log entry 72). -/
def Obligations.OutsideWorld : Prop :=
  ∀ (s : State) (act addr : Nat) (p : Parked) (reg : BitVec 16) (x : Word) (ids : List Nat) (token key sig : List Byte) (wr : Bool),
    (mfind s.host.parked act = some p →
      (p.at' + (s.getX p.ctx).ccb.secondDl < s.cycle → Claim.gives (.parkedActivityTimeout act) s (s.settleAct act p 3)) ∧
      (p.sentAt + 4000000 ≤ s.cycle → s.standing act p = true → ∃ q, Claim.gives (.dutyRecordRepeat act) s
        (({ s with host := { s.host with parked := mset s.host.parked act { p with sentAt := s.cycle } } }).send
          (.record (txcRecord 0x41 0 q p.ctx (leBytes p.fn 1 ++ [p.cause, 0, 0] ++ leBytes act 4 ++ leBytes p.addr.toNat 8 ++ leBytes p.detail.toNat 8)))))) ∧
    (0x100 ≤ reg.toNat → reg.toNat < 0x180 → Claim.gives (.smbusAccess true reg x none) s (s.mgmtWrite reg.toNat x) ∧
      Claim.gives (.smbusAccess false reg x none) s (s.send (.smbus (s.mgmtRead reg.toNat)))) ∧
    Claim.gives (.smbusAccess wr reg x (some ids)) s { s with host := { s.host with owners := ids } } ∧
    (let good := sha512 key = sha512 Config.vendorKey ∧ ecdsaOk key token sig = true
     (good → Claim.gives (.jtagUnlock token key sig) s { s with host := { s.host with jtag := true } }) ∧
     (¬ good → Claim.gives (.jtagUnlock token key sig) s s)) ∧
    (∃ t, Claim.gives .powerGood s t ∧ (∀ a, a < istoreBase → readByte t.mem a = readByte [] a) ∧ t.tags = [] ∧
      (∀ n, ∃ h, t.getC n = { State.reset.getC n with husk := h }) ∧ t.jobs = State.reset.jobs ∧ t.ham = State.reset.ham ∧
      t.sec.ownerKey = s.sec.ownerKey ∧ t.sec.ownerCtr = s.sec.ownerCtr ∧ t.host.ready = !t.host.down) ∧
    (∃ t, Claim.gives .throttleStep s t ∧ outside { t with host := s.host } = outside s ∧ t.cores = s.cores ∧
      let ms := if s.host.plim * 1000 < (s.mgmtRead 0x103).toNat then s.host.overMs + 1 else 0
      let hot := (List.range 5).any (fun i => decide (s.host.tlim < (s.mgmtRead 0x101).toNat / 256 ^ i % 256)) || decide (10 ≤ ms)
      t.host.overMs = ms ∧ t.host.clk = if hot then max 1000 (s.host.clk - 100) else min 4000 (s.host.clk + 100)) ∧
    (let trips := ∃ i < 5, 115 ≤ (s.mgmtRead 0x101).toNat / 256 ^ i % 256
     (trips → ∃ q, Claim.gives .thermalTrip s (({ s with host := { s.host with tripped := true } }).send (.record (txcRecord 0x42 0 q 0xFF [2])))) ∧
     (¬ trips → Claim.gives .thermalTrip s s)) ∧
    (∀ n g y, s.stackPlace addr = some (n, g, y) → Claim.gives (.eccError addr true) s
      (({ s with host := { s.host with eccu := satInc s.host.eccu } }).updC n (fun c => { c with stack := mset c.stack g { y with bad := true } }))) ∧
    (arrayKey addr = true → s.stackPlace addr = none →
      Claim.gives (.eccError addr true) s { s with poison := nins (addr / 16) s.poison, host := { s.host with eccu := satInc s.host.eccu } } ∧
      Claim.gives (.eccError addr false) s { s with host := { s.host with eccc := satInc s.host.eccc } })

/-! ## The machine as a whole -/

/-- R93: g0 reads as 128 zero bits with the tag clear and discards writes, k0 reads as 0xFFFF and discards writes, in either mode, whatever is
still on its way to a register; so an instruction with such a destination completes and changes no register. -/
def Obligations.ZeroRegisters : Prop :=
  (∀ (c : Core) (now lat : Nat) (x : TReg) (m : Mask),
    c.readG now 0 = ⟨0, false⟩ ∧ c.writeG now 0 x lat = c ∧ c.readK now 0 = 0xFFFF ∧ c.writeK now 0 m lat = c) ∧
  ∀ (s : State) (i : BitVec 29) (m : BitVec 16), Completes (.li 0 i) s s.c ∧ Completes (.kset 0 m) s s.c

/-- Derived from R95, R450, R473: numbers 60 to 63 name one set of registers in system mode and another in user mode, and a write in one mode leaves the
other's as they are; all other numbers name the same register in both. -/
def Obligations.RegisterSets : Prop :=
  ∀ (c : Core) (now lat r q : Nat) (x : TReg), r < 64 → q < 64 → 0 < r →
    let mode := fun (m : Bool) (c : Core) => { c with sys := m }
    ∀ m : Bool,
      let w := (mode m c).writeG now r x lat
      ((mode m w).g' q = if q = r then x else (mode m c).g' q) ∧
      ((mode (!m) w).g' q = if q = r ∧ r < 60 then x else (mode (!m) c).g' q)

/-- R105: division never traps; by zero it gives all ones and the remainder the dividend, and −2^63 by −1 gives −2^63 and 0; no integer operation
traps on overflow, sums, differences and products wrap. -/
def Obligations.DivisionCorners : Prop :=
  ∀ (s : State) (d a b : GReg) (sh : BitVec 6) (imm : BitVec 17),
    let x := s.rdI a
    let y := s.rdI b
    let z : Word := imm.signExtend 64
    let low : Word := 0x8000000000000000
    (y = 0 → Completes (.divS d a b) s (putI s.c d 0xFFFFFFFFFFFFFFFF) ∧ Completes (.divZ d a b) s (putI s.c d 0xFFFFFFFFFFFFFFFF) ∧
      Completes (.remS d a b) s (putI s.c d x) ∧ Completes (.remZ d a b) s (putI s.c d x)) ∧
    (imm = 0 → Completes (.diviS d a imm) s (putI s.c d 0xFFFFFFFFFFFFFFFF) ∧ Completes (.diviZ d a imm) s (putI s.c d 0xFFFFFFFFFFFFFFFF) ∧
      Completes (.remiS d a imm) s (putI s.c d x) ∧ Completes (.remiZ d a imm) s (putI s.c d x)) ∧
    (x = low → y = BitVec.allOnes 64 → Completes (.divS d a b) s (putI s.c d low) ∧ Completes (.remS d a b) s (putI s.c d 0)) ∧
    (x = low → imm = BitVec.allOnes 17 → Completes (.diviS d a imm) s (putI s.c d low) ∧ Completes (.remiS d a imm) s (putI s.c d 0)) ∧
    (∀ i ∈ ([.divS d a b, .divZ d a b, .remS d a b, .remZ d a b, .diviS d a imm, .diviZ d a imm, .remiS d a imm, .remiZ d a imm,
        .mulhS d a b, .mulhZ d a b, .mulhiS d a imm, .mulhiZ d a imm, .shl d a b, .shli d a sh] : List Instr), ∃ q, Completes i s (putI s.c d q)) ∧
    (let wraps := fun (i : Instr) (v : Int) => Completes i s (putI s.c d (BitVec.ofInt 64 v))
     wraps (.add d a b sh) (x.toInt + (y <<< sh.toNat).toInt) ∧ wraps (.addi d a imm) (x.toInt + z.toInt) ∧
     wraps (.sub d a b sh) (x.toInt - (y <<< sh.toNat).toInt) ∧ wraps (.subi d a imm) (x.toInt - z.toInt) ∧
     wraps (.mul d a b) (x.toInt * y.toInt) ∧ wraps (.muli d a imm) (x.toInt * z.toInt) ∧
     wraps (.mad d a b) ((s.rdI d).toInt + x.toInt * y.toInt) ∧ wraps (.madi d a imm) ((s.rdI d).toInt + x.toInt * z.toInt))

/-- R54: a trap entry and an ERET each wait until every fixed-latency producer of the core has completed, and outstanding asynchronous loads go on
across both. -/
def Obligations.TrapWaits : Prop :=
  (∀ (s : State) (e : Entry), s.c.tr.exl = false → ¬ (e.cause = Cause.mcheck.code ∧ s.c.sys = true) →
    let t := s.takeTrap e
    t.c.prods = [] ∧ t.c.loads = s.c.loads ∧ ∀ p ∈ s.c.prods, p.due ≤ t.cycle) ∧
  ∀ (s : State) (rpl : Bool), s.c.sys = true → ∃ t, exec (.eret rpl false) s = .next t ∧
    t.c.prods = [] ∧ t.c.loads = s.c.loads ∧ ∀ p ∈ s.c.prods, p.due ≤ t.cycle

/-- Derived from R1, R13, R128, R164, R242, R243, R449: what reset leaves on every core, as far as the manual says it: TRAPVEC 0xE00, every other register with an
address of R449 that a core holds at 0, nothing under way, and an instruction store of words of all ones, which are unassigned. That its fault
ring is empty is the model's choice (log entry 1). -/
def Obligations.ResetState : Prop :=
  State.reset.cycle = 0 ∧ (∀ w : Word, w = BitVec.allOnes 64 → ∃ e, decode w = .error e) ∧
  ∀ n < nCores,
    let c := State.reset.getC n
    c.tr.trapvec = 0xE00 ∧ c.tr.epc = 0 ∧ c.tr.ecause = 0 ∧ c.tr.eword = 0 ∧ c.tr.einfo = 0 ∧ c.tr.eseq = 0 ∧ c.tr.exl = false ∧ c.slim = 0 ∧ c.sbase = 0 ∧
    c.fpctl = 0 ∧ c.fpflags = 0 ∧ c.mode = 0 ∧ c.w.word = 0 ∧ c.portfull = 0 ∧ c.loads = [] ∧ c.sq = [] ∧ c.prods = [] ∧ c.ring = [] ∧ c.task = none ∧
    ∀ i < 4096, State.reset.istoreWord n i = BitVec.allOnes 64

/-- Derived from R178, R199 (the model's own form of memory): memory at reset is in its canonical form. -/
def Obligations.ResetMemory : Prop := MemOk State.reset

/-- Derived from R178, R199 (the model's own form of memory): every step of the package keeps memory in its canonical form, from every state that has it. -/
def Obligations.StepKeepsMemory : Prop :=
  ∀ (s t : State), MemOk s → step s = .next t → MemOk t

/-- Derived from R29, R59, R450, R471, R519: no instruction stops the machine: every one takes a next state on all operands and states; a step stops only when
the thermal trip has stopped all clocks and no power cycle is next. -/
def Obligations.NeverStops : Prop :=
  (∀ (i : Instr) (s : State), ∃ t, exec i s = .next t) ∧
  ∀ s : State, (∃ t, step s = .next t) ∨
    (step s = .fault .clocksStopped ∧ s.host.tripped = true ∧ s.turns.head? ≠ some (.event .powerGood))

/-- What executes of a decoded word: the instruction, or both halves of a pair (R29). -/
noncomputable def Claim.execWord (d : Decoded) (s : State) : Host.Outcome State Fault Refusal :=
  match d with
  | .full _ i => exec i s
  | .pair _ h1 h0 => stepPair h1 h0 s

/-- Derived from R29, R43, R47, R52, R53, R59, R60, R61, R126, R130, R365: a step runs the decoded instruction. Where no turn is listed, the core runs its own words and nothing holds it, the
word at its PC is decoded and executed in the state that has come to its cycle, with the word in issue, after the waits of its scheduling
fields; an unassigned word takes its trap, one taken at decode (TRAP, BKPT, in user mode a privileged word) meets no wait, and a checked word
too early takes STALLCHK. A listed turn is the core's named, the hardware step named or the datagram that arrives; of the requests that reach the
management controller in one cycle SMBus's comes first, then port 0's, then port 1's (R508). -/
def Obligations.StepRunsDecoded : Prop :=
  (∀ s : State,
    s.host.tripped = false → s.turns = [] → s.c.run = .running → s.c.parked = false → s.c.subscribed = false →
    (s.c.w.st = .waiting → s.c.w.handler.isSome = true) →
    s.c.replayQ = [] → s.c.rewriteQ = [] → s.c.istale = [] → (s.c.sys = true ∨ s.c.pc.toNat < 3584) →
    let u := ({ s with tick := s.tick + 1 } : State).atIssue
    let w := s.istoreWord s.cur s.c.pc.toNat
    u.heldByMembers = false → u.c.slotFor w = none → u.c.offPath = false →
    (∀ e, decode w = .error e → step s = exec (.unassignedEncoding w) (u.latched .own w {} {})) ∧
    (∀ d, decode w = .ok d →
      let v := u.latched .own w {} (schedOf d)
      let il := v.c.mode.getLsbD 0
      let early := fun (x : State) (us : List RUse) =>
        if !il && v.c.mode.getLsbD 1 then x.c.stallchk (x.c.e3 x.cycle d) us (schedOf d).sbwait else none
      let due := fun (x : State) (us : List RUse) => x.c.tr.pend && !x.c.tr.exl && x.c.touchesFaulted us
      let us := usesOf d ++ (if v.c.indexOpen d then [] else v.c.valueUses v.cycle d)
      let x := if il then v.interlock (usesOf d) else v.waitTokens (schedOf d).sbwait
      let vs := x.c.valueUses x.cycle d
      let ready := if il then x.interlock vs else x.waitRoom (schedOf d).sbset.toNat
      (v.c.decodeTrap d = true ∨ v.c.committed = true → step s = Claim.execWord d v) ∧
      (v.c.decodeTrap d = false → v.c.committed = false →
        (∀ info, early v us = some info → step s = .next (v.trapPrecise ⟨Cause.stallchk.code, BitVec.ofNat 64 info, true, none⟩)) ∧
        (early v us = none → due v us = false → v.sourceBusy d = false → early x vs = none → due x vs = false → ready.c.mchk = none →
          step s = Claim.execWord d ready)))) ∧
  (∀ (s : State) (n : Nat) (r : List Turn), s.host.tripped = false → s.turns = .core n :: r →
    step s = ({ s with tick := s.tick + 1, turns := r, cur := n % nCores } : State).coreStep) ∧
  (∀ (s : State) (t : Turn) (before rest : List Turn) (i : Instr) (second : Bool) (src : Nat) (d : List Byte), s.host.tripped = false →
    s.turns = before ++ t :: rest →
    -- a turn that is no request has nothing before it; a request may have others of a later port before it, all within one cycle
    (before = [] ∨ ((before.head?.bind Turn.port).isSome = true ∧ ∀ u ∈ before, u.instant = true)) →
    (before = [] ∧ t.port = none ∨ ∃ p, t.port = some p ∧ (∀ u ∈ before, ∀ q, u.port = some q → p < q) ∧
      ∀ u ∈ rest.takeWhile Turn.instant, ∀ q, u.port = some q → p ≤ q) →
    let v := ({ s with tick := s.tick + 1, turns := before ++ rest } : State)
    (t = .event i → isEvent i = true → step s = exec i v) ∧ (t = .datagram second src d → step s = runDatagram v src d))

/-- Derived from R30, R31, R34, R37, R59: the manual's worked encodings decode to the instructions they stand for, one or more of every group. -/
def Obligations.WorkedWords : Prop :=
  ∀ x ∈ ([(0x0000000000000000, .nop), (0x0010000000000015, .trap 0x15), (0x00A0000010000601, .csave 4 6 true), (0x047000001401FFFC, .loop 5 0x1FFFC),
      (0x0850000010060005, .brw 4 3 5), (0x0C00000024120A00, .add 9 9 10 0), (0x0FF00000FFFFFFFF, .li 7 0x1FFFFFFF),
      (0x102000001407FFF0, .cadd 5 3 0x1FFF0), (0x14000000200B4003, .ld 8 5 .s32 3), (0x180000002012058D, .amo .add .z64 (.ar .die) 8 9 5),
      (0x1C6000000008090A, .msend true false 2 4 9), (0x252000000C080503, .vadds 0 3 4 (.v 5) .s16),
      (0x2830001028160C00, .vfma 2 10 11 (.v 12) .rne), (0x2C90000040280900, .vrng 0 16 20 9), (0x3460002020180600, .vcmpst 4 8 12 6),
      (0x38400008502A0028, .vscan 1 20 21 .add .s32 true false), (0x4040000000002FC0, .mzero 0 63 2), (0x44500000A0120500, .rkget 0 40 9 5),
      (0x4800000020120A00, .epost 8 9 10), (0x4C80000020160A01, .qenq 8 11 10 0 true), (0x504000001C180001, .sclk 7 (.wait 12))] : List (Word × Instr)),
    decode x.1 = .ok (.full {} x.2)

/-- Derived from R29, R30, R37, R40, R59: decode and encode agree. Every instruction that is well formed has a word, unless it is a pair half, a hardware step or a
row for a register write; the word decodes to it, with every operand and scheduling field at every value; two halves that may stand
together have a word, and it decodes to them. -/
def Obligations.DecodeOfEncode : Prop :=
  (∀ (sc : Sched) (i : Instr) (w : Word), i.wf = true → encode sc i = some w → decode w = .ok (.full sc i) ∧ decodeTableWord 64 w.toNat = some i) ∧
  (∀ (sc : Sched) (i : Instr), i.wf = true → (encode sc i).isSome = true ∨ i.encHalf.isSome = true ∨ isEvent i = true ∨
    (∃ x, i = .modeWrite x) ∨ (∃ x, i = .grantbaseWrite x) ∨ (∃ x, i = .xbaseWrite x) ∨ (∃ x, i = .dutyWrite x) ∨ (∃ r x, i = .fpflagsWrite r x) ∨
    (∃ x, i = .portfullWrite x) ∨ (∃ x, i = .ecccClear x) ∨ (∃ r x, i = .registerWrite r x) ∨ (∃ x, i = .unassignedEncoding x)) ∧
  (∀ (st : BitVec 1) (h1 h0 : Instr) (w : Word), pairOk h1 h0 = true → encodePair st h1 h0 = some w → decode w = .ok (.pair st h1 h0))

/-- Derived from R29, R30, R59: each instruction has one word under given scheduling fields, and no word with a reserved field set is one: what
decodes is well formed, and is the encoding of what it decodes to; so it is with pair words, whose halves may stand together. -/
def Obligations.EncodeOfDecode : Prop :=
  (∀ (w : Word) (sc : Sched) (i : Instr), decode w = .ok (.full sc i) → i.wf = true ∧ encode sc i = some w) ∧
  (∀ (w : Word) (st : BitVec 1) (h1 h0 : Instr), decode w = .ok (.pair st h1 h0) → pairOk h1 h0 = true ∧ encodePair st h1 h0 = some w)
end

