-- ==== Sys2Proof/Laws/Map.lean ====
section
/-!
SUPPORT. Sparse maps: what is read after a write, and that every operation keeps the canonical form.
-/
namespace Sys2Proof

variable {α : Type}

/-! ## Reading after writing -/

@[simp] theorem mfind_merase_self (m : SMap α) (k : Nat) : mfind (merase m k) k = none := by
  induction m with
  | nil => rfl
  | cons e r ih =>
    obtain ⟨j, v⟩ := e
    by_cases h : j = k <;> simp [merase, mfind, h, ih]

theorem mfind_merase_ne (m : SMap α) {j k : Nat} (h : j ≠ k) : mfind (merase m k) j = mfind m j := by
  induction m with
  | nil => rfl
  | cons e r ih =>
    obtain ⟨i, v⟩ := e
    by_cases hk : i = k
    · subst hk
      simp [merase, mfind, ih, Ne.symm h]
    · simp only [merase, hk, if_false, mfind, ih]

theorem mfind_minsert_self (m : SMap α) (k : Nat) (x : α) (h : mfind m k = none) : mfind (minsert k x m) k = some x := by
  induction m with
  | nil => simp [minsert, mfind]
  | cons e r ih =>
    obtain ⟨j, v⟩ := e
    by_cases hjk : j = k
    · simp [mfind, hjk] at h
    · simp only [mfind, hjk, if_false] at h
      by_cases hlt : k < j
      · simp [minsert, hlt, mfind]
      · simp [minsert, hlt, mfind, hjk, ih h]

theorem mfind_minsert_ne (m : SMap α) {j k : Nat} (x : α) (h : j ≠ k) : mfind (minsert k x m) j = mfind m j := by
  induction m with
  | nil => simp [minsert, mfind, Ne.symm h]
  | cons e r ih =>
    obtain ⟨i, v⟩ := e
    by_cases hlt : k < i
    · simp [minsert, hlt, mfind, Ne.symm h]
    · simp only [minsert, hlt, if_false, mfind, ih]

@[simp] theorem mfind_mset_self (m : SMap α) (k : Nat) (x : α) : mfind (mset m k x) k = some x :=
  mfind_minsert_self _ _ _ (mfind_merase_self m k)

theorem mfind_mset_ne (m : SMap α) {j k : Nat} (x : α) (h : j ≠ k) : mfind (mset m k x) j = mfind m j := by
  rw [mset, mfind_minsert_ne _ _ h, mfind_merase_ne _ h]

@[simp] theorem mget_mset_self (d : α) (m : SMap α) (k : Nat) (x : α) : mget d (mset m k x) k = x := by simp [mget]

theorem mget_mset_ne (d : α) (m : SMap α) {j k : Nat} (x : α) (h : j ≠ k) : mget d (mset m k x) j = mget d m j := by
  simp [mget, mfind_mset_ne m x h]

@[simp] theorem mget_mput_self [DecidableEq α] (d : α) (m : SMap α) (k : Nat) (x : α) : mget d (mput d m k x) k = x := by
  unfold mput
  split
  · simp [mget, *]
  · simp

theorem mget_mput_ne [DecidableEq α] (d e : α) (m : SMap α) {j k : Nat} (x : α) (h : j ≠ k) :
    mget d (mput e m k x) j = mget d m j := by
  unfold mput
  split
  · simp [mget, mfind_merase_ne m h]
  · exact mget_mset_ne d m x h

theorem mget_mput (d : α) [DecidableEq α] (m : SMap α) (j k : Nat) (x : α) :
    mget d (mput d m k x) j = if j = k then x else mget d m j := by
  by_cases h : j = k
  · subst h; simp
  · simp [h, mget_mput_ne d d m x h]

/-! ## Rising keys -/

/-- A map that rises from a bound rises from any lower one. -/
theorem mrising_weaken {m : SMap α} {a b : Nat} (hab : a ≤ b) (h : mrising (some b) m = true) : mrising (some a) m = true := by
  cases m with
  | nil => rfl
  | cons e r =>
    obtain ⟨j, v⟩ := e
    simp only [mrising, Bool.and_eq_true, decide_eq_true_eq] at h ⊢
    exact ⟨by omega, h.2⟩

theorem mrising_none_of_some {m : SMap α} {a : Nat} (h : mrising (some a) m = true) : mrising none m = true := by
  cases m with
  | nil => rfl
  | cons e r =>
    obtain ⟨j, v⟩ := e
    simp only [mrising, Bool.and_eq_true] at h ⊢
    exact ⟨trivial, h.2⟩

theorem mrising_merase {m : SMap α} {b : Option Nat} (k : Nat) (h : mrising b m = true) : mrising b (merase m k) = true := by
  induction m generalizing b with
  | nil => rfl
  | cons e r ih =>
    obtain ⟨j, v⟩ := e
    simp only [mrising, Bool.and_eq_true] at h
    by_cases hj : j = k
    · subst hj
      simp only [merase, if_true]
      cases b with
      | none => exact ih (mrising_none_of_some h.2)
      | some i =>
        have hi : i < j := by simpa using h.1
        exact ih (mrising_weaken (Nat.le_of_lt hi) h.2)
    · simp only [merase, hj, if_false, mrising, Bool.and_eq_true]
      exact ⟨h.1, ih h.2⟩

/-- Insertion of an unlisted key keeps the keys rising. -/
theorem mrising_minsert {m : SMap α} {b : Option Nat} (k : Nat) (x : α) (hm : mfind m k = none)
    (hb : ∀ i, b = some i → i < k) (h : mrising b m = true) : mrising b (minsert k x m) = true := by
  induction m generalizing b with
  | nil =>
    cases b with
    | none => rfl
    | some i => simp [minsert, mrising, hb i rfl]
  | cons e r ih =>
    obtain ⟨j, v⟩ := e
    simp only [mrising, Bool.and_eq_true] at h
    by_cases hjk : j = k
    · simp [mfind, hjk] at hm
    · simp only [mfind, hjk, if_false] at hm
      by_cases hlt : k < j
      · simp only [minsert, hlt, if_true, mrising, Bool.and_eq_true, decide_eq_true_eq]
        refine ⟨?_, trivial, h.2⟩
        cases b with
        | none => trivial
        | some i => simpa using hb i rfl
      · simp only [minsert, hlt, if_false, mrising, Bool.and_eq_true]
        exact ⟨h.1, ih hm (fun i hi => by injection hi with hi; omega) h.2⟩

theorem mrising_mset {m : SMap α} (k : Nat) (x : α) (h : mrising none m = true) : mrising none (mset m k x) = true :=
  mrising_minsert k x (mfind_merase_self m k) (by simp) (mrising_merase k h)

theorem mrising_mput [DecidableEq α] (d : α) {m : SMap α} (k : Nat) (x : α) (h : mrising none m = true) :
    mrising none (mput d m k x) = true := by
  unfold mput
  split
  · exact mrising_merase k h
  · exact mrising_mset k x h

/-! ## Entries -/

theorem mem_merase {m : SMap α} {k : Nat} {e : Nat × α} (h : e ∈ merase m k) : e ∈ m := by
  induction m with
  | nil => simp [merase] at h
  | cons f r ih =>
    obtain ⟨j, v⟩ := f
    by_cases hj : j = k
    · simp only [merase, hj, if_true] at h
      exact List.mem_cons_of_mem _ (ih h)
    · simp only [merase, hj, if_false, List.mem_cons] at h
      rcases h with h | h
      · exact h ▸ List.mem_cons_self
      · exact List.mem_cons_of_mem _ (ih h)

theorem mem_minsert {m : SMap α} {k : Nat} {x : α} {e : Nat × α} (h : e ∈ minsert k x m) : e = (k, x) ∨ e ∈ m := by
  induction m with
  | nil => simpa [minsert] using h
  | cons f r ih =>
    obtain ⟨j, v⟩ := f
    by_cases hlt : k < j
    · simpa [minsert, hlt] using h
    · simp only [minsert, hlt, if_false, List.mem_cons] at h
      rcases h with h | h
      · exact .inr (h ▸ List.mem_cons_self)
      · exact (ih h).imp_right (List.mem_cons_of_mem _)

theorem mem_mset {m : SMap α} {k : Nat} {x : α} {e : Nat × α} (h : e ∈ mset m k x) : e = (k, x) ∨ e ∈ m :=
  (mem_minsert h).imp_right mem_merase

theorem mwf_mput [DecidableEq α] (d : α) {m : SMap α} (k : Nat) (x : α) (h : mwf d m = true) : mwf d (mput d m k x) = true := by
  simp only [mwf, Bool.and_eq_true, List.all_eq_true, decide_eq_true_eq] at h ⊢
  refine ⟨mrising_mput d k x h.1, ?_⟩
  intro e he
  unfold mput at he
  split at he
  · exact h.2 e (mem_merase he)
  · rcases mem_mset he with rfl | he
    · assumption
    · exact h.2 e he

end Sys2Proof
end

