-- ==== Sys2Proof/Laws/Frame.lean ====
section
/-!
SUPPORT. What the shared operations can do to a state: cores read after they are set, register writes, publication, the end of a
word; and how an effect that completes gives `Completes`.
-/
namespace Sys2Proof.Machine

open Safety (bare outside Became Ends putG putI putV putK CompletesTo Completes)

/-! ## Cores -/

theorem getC_setC (s : State) (n m : Nat) (c : Core) : (s.setC n c).getC m = if m = n then c else s.getC m := by
  unfold State.getC State.setC
  by_cases h : m = n
  · subst h; simp
  · simp [h, mget_mset_ne]

@[simp] theorem getC_setC_self (s : State) (n : Nat) (c : Core) : (s.setC n c).getC n = c := by simp [getC_setC]
theorem getC_updC (s : State) (n m : Nat) (f : Core → Core) : (s.updC n f).getC m = if m = n then f (s.getC n) else s.getC m := by
  simp [State.updC, getC_setC]
@[simp] theorem c_upd (s : State) (f : Core → Core) : (s.upd f).c = f s.c := by simp [State.c, State.upd, State.setC, State.getC]
theorem getC_upd (s : State) (f : Core → Core) (m : Nat) : (s.upd f).getC m = if m = s.cur then f s.c else s.getC m := by
  simp [State.upd, getC_setC]
@[simp] theorem outside_setC (s : State) (n : Nat) (c : Core) : outside (s.setC n c) = outside s := rfl
@[simp] theorem outside_upd (s : State) (f : Core → Core) : outside (s.upd f) = outside s := rfl
@[simp] theorem outside_updC (s : State) (n : Nat) (f : Core → Core) : outside (s.updC n f) = outside s := rfl
@[simp] theorem cur_upd (s : State) (f : Core → Core) : (s.upd f).cur = s.cur := rfl
@[simp] theorem cur_updC (s : State) (n : Nat) (f : Core → Core) : (s.updC n f).cur = s.cur := rfl
@[simp] theorem cycle_upd (s : State) (f : Core → Core) : (s.upd f).cycle = s.cycle := rfl
@[simp] theorem mem_upd (s : State) (f : Core → Core) : (s.upd f).mem = s.mem := rfl
theorem cur_of_outside {s t : State} (h : outside t = outside s) : t.cur = s.cur :=
  (congrArg State.cur h : (outside t).cur = (outside s).cur)

/-! ## Became -/

theorem became_refl (s : State) : Became s s s.c := ⟨Eq.refl _, Eq.refl _, fun _ _ => Eq.refl _⟩

theorem became_trans {s u t : State} {c : Core} (h1 : Became s u c) (h2 : Became u t u.c) : Became s t c :=
  ⟨h2.1.trans h1.1, h2.2.1.trans h1.2.1, fun n hn => (h2.2.2 n (by rwa [cur_of_outside h1.1])).trans (h1.2.2 n hn)⟩

/-- A second change of the core, in terms of the first. -/
theorem became_next {s u t : State} {c d : Core} (h1 : Became s u c) (h2 : Became u t d) (hd : bare d = bare c) : Became s t c :=
  ⟨h2.1.trans h1.1, h2.2.1.trans hd, fun n hn => (h2.2.2 n (by rwa [cur_of_outside h1.1])).trans (h1.2.2 n hn)⟩

theorem became_upd (s : State) (f : Core → Core) : Became s (s.upd f) (f s.c) :=
  ⟨Eq.refl _, by simp, fun n hn => by simp [getC_upd, hn]⟩

theorem became_of_bare {s t : State} {c d : Core} (h : Became s t c) (hd : bare c = bare d) : Became s t d := ⟨h.1, h.2.1.trans hd, h.2.2⟩

/-! ## Register writes -/

/-- What a write of a register leaves of the word in issue: all of it. -/
structure SameIssue (c d : Core) : Prop where
  pc : d.pc = c.pc
  latch : d.latch = c.latch
  w : d.w = c.w
  sys : d.sys = c.sys
  mode : d.mode = c.mode
  rewriteQ : d.rewriteQ = c.rewriteQ

theorem SameIssue.rfl (c : Core) : SameIssue c c := ⟨Eq.refl _, Eq.refl _, Eq.refl _, Eq.refl _, Eq.refl _, Eq.refl _⟩
theorem SameIssue.trans {a b c : Core} (h : SameIssue a b) (k : SameIssue b c) : SameIssue a c :=
  ⟨k.pc.trans h.pc, k.latch.trans h.latch, k.w.trans h.w, k.sys.trans h.sys, k.mode.trans h.mode, k.rewriteQ.trans h.rewriteQ⟩

theorem bare_writeG (c : Core) (now : Nat) (r : GReg) (x : TReg) (lat : Nat) : bare (c.writeG now r.val x lat) = bare (putG c r x) := by
  unfold Core.writeG putG
  split <;> rfl
theorem bare_writeV (c : Core) (now : Nat) (r : VReg) (x : Vec) (lat : Nat) (l : Bool) :
    bare (c.writeV now r.val x lat l) = bare (putV c r x) := rfl
theorem bare_writeK (c : Core) (now : Nat) (r : KReg) (x : Mask) (lat : Nat) : bare (c.writeK now r.val x lat) = bare (putK c r x) := by
  unfold Core.writeK putK
  split <;> rfl
theorem sameIssue_writeG (c : Core) (now r : Nat) (x : TReg) (lat : Nat) : SameIssue c (c.writeG now r x lat) := by
  unfold Core.writeG
  split
  · exact .rfl _
  · exact ⟨rfl, rfl, rfl, rfl, rfl, rfl⟩
theorem sameIssue_writeV (c : Core) (now r : Nat) (x : Vec) (lat : Nat) (l : Bool) : SameIssue c (c.writeV now r x lat l) :=
  ⟨rfl, rfl, rfl, rfl, rfl, rfl⟩
theorem sameIssue_writeK (c : Core) (now r : Nat) (x : Mask) (lat : Nat) : SameIssue c (c.writeK now r x lat) := by
  unfold Core.writeK
  split
  · exact .rfl _
  · exact ⟨rfl, rfl, rfl, rfl, rfl, rfl⟩

theorem became_wrG (s : State) (r : GReg) (x : TReg) (lat : Nat) : Became s (s.wrG r x lat) (putG s.c r x) :=
  became_of_bare (became_upd s _) (bare_writeG s.c s.cycle r x lat)
theorem became_wrI (s : State) (r : GReg) (x : Word) (lat : Nat) : Became s (s.wrI r x lat) (putI s.c r x) := became_wrG s r _ lat
theorem became_wrV (s : State) (r : VReg) (x : Vec) (lat : Nat) : Became s (s.wrV r x lat) (putV s.c r x) := became_upd s _
theorem became_wrK (s : State) (r : KReg) (x : Mask) (lat : Nat) : Became s (s.wrK r x lat) (putK s.c r x) :=
  became_of_bare (became_upd s _) (bare_writeK s.c s.cycle r x lat)
theorem issue_wrG (s : State) (r : GReg) (x : TReg) (lat : Nat) : SameIssue s.c (s.wrG r x lat).c := by
  simpa [State.wrG] using sameIssue_writeG s.c s.cycle r.val x lat
theorem issue_wrI (s : State) (r : GReg) (x : Word) (lat : Nat) : SameIssue s.c (s.wrI r x lat).c := issue_wrG s r _ lat
theorem issue_wrV (s : State) (r : VReg) (x : Vec) (lat : Nat) : SameIssue s.c (s.wrV r x lat).c := by
  simpa [State.wrV] using sameIssue_writeV s.c s.cycle r.val x lat true
theorem issue_wrK (s : State) (r : KReg) (x : Mask) (lat : Nat) : SameIssue s.c (s.wrK r x lat).c := by
  simpa [State.wrK] using sameIssue_writeK s.c s.cycle r.val x lat

/-! ## What putting a register does to what is read -/

theorem g'_putG (c : Core) (r : GReg) (x : TReg) (n : Nat) (hn : n < 64) :
    (putG c r x).g' n = if n = 0 then TReg0 else if n = r.val then x else c.g' n := by
  unfold putG Core.g'
  by_cases h0 : n = 0
  · simp [h0]
  by_cases hr : r.val = 0
  · have : n ≠ r.val := by omega
    simp [h0, hr]
  · simp only [h0, hr, if_false]
    by_cases h : n = r.val
    · subst h; simp
    · have hk : gKey c.sys n ≠ gKey c.sys r.val := by
        have := r.isLt
        cases hs : c.sys <;> simp only [gKey, Bool.true_and, Bool.false_and, Bool.false_eq_true, if_false, decide_eq_true_eq]
        · exact h
        · split <;> split <;> omega
      simp [h, mget_mput_ne _ _ _ _ hk]
theorem v'_putV (c : Core) (r : VReg) (x : Vec) (n : Nat) : (putV c r x).v' n = if n = r.val then x else c.v' n := by
  unfold putV Core.v'
  exact mget_mput vec0 c.v n r.val x
theorem k'_putK (c : Core) (r : KReg) (x : Mask) (n : Nat) :
    (putK c r x).k' n = if n = 0 then 0xFFFF else if n = r.val then x else c.k' n := by
  unfold putK Core.k'
  by_cases h0 : n = 0
  · simp [h0]
  by_cases hr : r.val = 0
  · have : n ≠ r.val := by omega
    simp [h0, hr]
  · simp [h0, hr, mget_mput]

/-! ## Publication and the end of a word -/

theorem publish_frame (s : State) (p : Nat) (it : Item) :
    outside (s.publish p it) = outside s ∧ ∀ n, (s.publish p it).getC n = s.getC n ∨
      ∃ k, (s.publish p it).getC n = { s.getC n with w := { (s.getC n).w with stream := (s.getC n).w.stream ++ k } } := by
  unfold State.publish
  generalize (s.getC p).w.followers = fs
  generalize ({ it with at' := s.cycle } : Item) = it
  induction fs generalizing s with
  | nil => exact ⟨rfl, fun n => .inl rfl⟩
  | cons f r ih =>
    simp only [List.foldl_cons]
    obtain ⟨h1, h2⟩ := ih (s.updC f.2 (fun c => { c with w := { c.w with stream := c.w.stream ++ [it] } }))
    refine ⟨h1.trans (outside_updC _ _ _), fun n => ?_⟩
    by_cases hn : n = f.2
    · subst hn
      rcases h2 f.2 with h | ⟨k, h⟩
      · exact .inr ⟨[it], by rw [h, getC_updC]; simp⟩
      · exact .inr ⟨it :: k, by rw [h, getC_updC]; simp⟩
    · rcases h2 n with h | ⟨k, h⟩
      · exact .inl (by rw [h, getC_updC, if_neg hn])
      · exact .inr ⟨k, by rw [h, getC_updC, if_neg hn]⟩

theorem bare_publish (s : State) (p : Nat) (it : Item) (n : Nat) : bare ((s.publish p it).getC n) = bare (s.getC n) := by
  rcases (publish_frame s p it).2 n with h | ⟨k, h⟩
  · rw [h]
  · rw [h]; rfl

theorem became_publish (s : State) (p : Nat) (it : Item) : Became s (s.publish p it) s.c := by
  refine ⟨(publish_frame s p it).1, ?_, fun n _ => bare_publish s p it n⟩
  have := cur_of_outside (publish_frame s p it).1
  unfold State.c
  rw [this]
  exact bare_publish s p it s.cur

/-- A publisher that publishes changes nothing of itself but, if it follows itself, its own stream. -/
theorem c_publish (s : State) (p : Nat) (it : Item) :
    ∃ k, (s.publish p it).c = { s.c with w := { s.c.w with stream := s.c.w.stream ++ k } } := by
  have hc := cur_of_outside (publish_frame s p it).1
  unfold State.c
  rw [hc]
  rcases (publish_frame s p it).2 s.cur with h | ⟨k, h⟩
  · exact ⟨[], by rw [h]; simp⟩
  · exact ⟨k, h⟩

theorem became_finish (s : State) (next : Option (BitVec 12)) (taken : Bool) (item : Item → Item) :
    Became s (s.finish next taken item) s.c := by
  unfold State.finish
  simp only
  split
  · refine became_trans (became_publish s s.cur _) (became_of_bare (became_upd _ _) ?_)
    obtain ⟨k, hk⟩ := c_publish s s.cur (item (s.c.itemOf next taken))
    rw [hk]
    cases s.c.latch.src <;> simp only <;> (repeat' split) <;> rfl
  · refine became_of_bare (became_upd _ _) ?_
    cases s.c.latch.src <;> simp only <;> (repeat' split) <;> rfl

theorem ends_finish (s : State) (next : Option (BitVec 12)) (taken : Bool) (item : Item → Item) :
    Ends s (s.finish next taken item) (next.getD (s.c.pc + 1)) := by
  intro hsrc hbrw
  unfold State.finish
  simp only
  split
  · obtain ⟨k, hk⟩ := c_publish s s.cur (item (s.c.itemOf next taken))
    rw [c_upd, hk]
    simp only [hsrc]
    split
    · rename_i h; simp at h
    · split <;> simp [hbrw, brwNext]
  · rw [c_upd]
    simp only [hsrc]
    split
    · rename_i h; simp at h
    · split <;> simp [hbrw, brwNext]

theorem ends_of_issue {s u t : State} {p : BitVec 12} (h : SameIssue s.c u.c) (e : Ends u t p) : Ends s t p := by
  intro h1 h2
  exact e (by rw [h.latch]; exact h1) (by rw [h.w]; exact h2)

/-! ## Effects that complete -/

theorem run_ok {m : M Unit} {s u : State} (h : m s = (.ok (), u)) : run m s = .next (u.finish none) := by
  simp [run, finishWith, h]

/-- An effect that leaves `u` completes the word. -/
theorem completes_run {i : Instr} {m : M Unit} {s u : State} {c : Core} (he : exec i s = run m s) (h : m s = (.ok (), u))
    (hb : Became s u c) (hi : SameIssue s.c u.c) : Completes i s c := by
  refine ⟨u.finish none, by rw [he, run_ok h], became_trans hb (became_finish u none _ _), ?_⟩
  have := ends_of_issue hi (ends_finish u none (none : Option (BitVec 12)).isSome id)
  rwa [hi.pc] at this

theorem completes_int {i : Instr} {s : State} {d : GReg} {lat : Nat} {f : State → Word} {x : Word} (he : exec i s = run (intTo d lat f) s)
    (hx : f s = x) : Completes i s (putI s.c d x) :=
  hx ▸ completes_run he rfl (became_wrI s d (f s) lat) (issue_wrI s d (f s) lat)
theorem completes_reg {i : Instr} {s : State} {d : GReg} {lat : Nat} {f : State → TReg} {x : TReg}
    (he : exec i s = run (modify (fun s => s.wrG d (f s) lat)) s) (hx : f s = x) : Completes i s (putG s.c d x) :=
  hx ▸ completes_run he rfl (became_wrG s d (f s) lat) (issue_wrG s d (f s) lat)
theorem completes_mask {i : Instr} {s : State} {d : KReg} {f : State → Mask} {x : Mask} (he : exec i s = run (maskTo d f) s)
    (hx : f s = x) : Completes i s (putK s.c d x) :=
  hx ▸ completes_run he rfl (became_wrK s d (f s) 1) (issue_wrK s d (f s) 1)

/-- An effect that leaves `u`, whose word in issue is still the one of `s`, leaves the machine so. -/
theorem leaves_run {i : Instr} {m : M Unit} {s u : State} (he : exec i s = run m s) (h : m s = (.ok (), u)) (hi : SameIssue s.c u.c) :
    Safety.Leaves i s u := by
  refine ⟨u.finish none, by rw [he, run_ok h], became_finish u none _ _, ?_⟩
  have := ends_of_issue hi (ends_finish u none (none : Option (BitVec 12)).isSome id)
  rwa [hi.pc] at this
/-- An effect that leaves `u` with one general register more written. -/
theorem completes_wr {i : Instr} {m : M Unit} {s u : State} {d : GReg} {x : TReg} {lat : Nat} (he : exec i s = run m s)
    (h : m s = (.ok (), u.wrG d x lat)) (hi : SameIssue s.c u.c) : CompletesTo i s u (putG u.c d x) (s.c.pc + 1) := by
  refine ⟨(u.wrG d x lat).finish none, by rw [he, run_ok h], became_trans (became_wrG u d x lat) (became_finish _ none _ _), ?_⟩
  have := ends_of_issue (hi.trans (issue_wrG u d x lat)) (ends_finish _ none (none : Option (BitVec 12)).isSome id)
  rwa [(issue_wrG u d x lat).pc, hi.pc] at this

end Sys2Proof.Machine
end

