-- ==== Sys2Proof/Laws/Monad.lean ====
section
/-!
SUPPORT. How an effect runs on a state, one step at a time, so that no proof unfolds the monad.
-/
namespace Sys2Proof.Machine

theorem on_eq {α : Type} (m : M α) (s : State) : m.on s = m s := rfl
theorem bind_run {α β : Type} (m : M α) (f : α → M β) (s : State) :
    (m >>= f) s = match m s with | (.ok a, t) => f a t | (.error e, t) => (.error e, t) := by
  change ((StateT.bind m (ExceptT.bindCont f) : StateM State (Except Stop β)) s) = _
  unfold StateT.bind
  change (match m s with | (x, t) => ExceptT.bindCont f x t) = _
  rcases m s with ⟨x | x, t⟩ <;> rfl
theorem bind_ok {α β : Type} {m : M α} {f : α → M β} {s t : State} {a : α} (h : m s = (.ok a, t)) : (m >>= f) s = f a t := by
  rw [bind_run, h]
theorem bind_error {α β : Type} {m : M α} {f : α → M β} {s t : State} {e : Stop} (h : m s = (.error e, t)) :
    (m >>= f) s = (.error e, t) := by rw [bind_run, h]
theorem bind_get {β : Type} (f : State → M β) (s : State) : (get >>= f) s = f s s := rfl
theorem bind_set {β : Type} (t : State) (f : PUnit → M β) (s : State) : (set t >>= f) s = f ⟨⟩ t := rfl
theorem bind_modify {β : Type} (g : State → State) (f : PUnit → M β) (s : State) : (modify g >>= f) s = f ⟨⟩ (g s) := rfl
theorem bind_pure_run {α β : Type} (a : α) (f : α → M β) (s : State) : (pure a >>= f) s = f a s := rfl
theorem bind_raiseIf_false {β : Type} (c : Cause) (x : Nat) (f : Unit → M β) (s : State) : (raiseIf false c x >>= f) s = f () s := rfl
theorem bind_holdIf_false {β : Type} (w : Wait) (f : Unit → M β) (s : State) : (holdIf false w >>= f) s = f () s := rfl
theorem bind_raiseIf {β : Type} {b : Bool} (h : b = false) (c : Cause) (x : Nat) (f : Unit → M β) (s : State) :
    (raiseIf b c x >>= f) s = f () s := by rw [h]; rfl
theorem bind_holdIf {β : Type} {b : Bool} (h : b = false) (w : Wait) (f : Unit → M β) (s : State) :
    (holdIf b w >>= f) s = f () s := by rw [h]; rfl
theorem pure_run {α : Type} (a : α) (s : State) : (pure a : M α) s = (.ok a, s) := rfl
theorem modify_run (g : State → State) (s : State) : (modify g : M PUnit) s = (.ok ⟨⟩, g s) := rfl
theorem set_run (t s : State) : (set t : M PUnit) s = (.ok ⟨⟩, t) := rfl
theorem get_run (s : State) : (get : M State) s = (.ok s, s) := rfl
theorem setG_run (d : GReg) (x : TReg) (lat : Nat) (s : State) : setG d x lat s = (.ok (), s.wrG d x lat) := rfl
theorem setI_run (d : GReg) (x : Word) (lat : Nat) (s : State) : setI d x lat s = (.ok (), s.wrI d x lat) := rfl
theorem privileged_run {s : State} (h : s.c.sys = true) : privileged s = (.ok (), s) := by
  unfold privileged
  rw [bind_get, h]
  rfl

end Sys2Proof.Machine
end

