-- ==== Sys2Proof/Laws/Access.lean ====
section
/-!
SUPPORT. The checks of R102 and R188 as effects: when they pass, and that passing changes only what they may cache.
-/
namespace Sys2Proof.Machine

open Safety (Live Checked Reaches OnlyCaches outside isRead)

theorem top_bits {x : BitVec 128} (h : x.extractLsb' 100 28 = 0) : bitsOf x.toNat 127 100 = 0 := by
  have := congrArg BitVec.toNat h
  simpa [bitsOf, BitVec.extractLsb'_toNat, Nat.shiftRight_eq_div_pow] using this

theorem capLive_ok {s s' : State} {c : TReg} {e : Grant} (h : Live s c e s') (ea : Nat) : capLive c ea s = (.ok e, s') := by
  unfold capLive
  rw [bind_raiseIf (by simp [h.tag, top_bits h.top]), bind_get, bind_raiseIf (by simpa using h.id), bind_ok h.read,
    bind_raiseIf (by simp [h.valid, h.gen])]
  rfl

theorem capcheck_ok {s s' : State} {c : TReg} {ea n : Nat} {need : BitVec 12} (h : Checked s c ea n need s') :
    ∃ e, Live s c e s' ∧ capcheck c ea n need s = (.ok e, s') := by
  obtain ⟨e, hl, hp, hb, ht⟩ := h.live
  refine ⟨e, hl, ?_⟩
  unfold capcheck
  rw [bind_ok (capLive_ok hl ea), bind_raiseIf (by simp [hp]), bind_raiseIf (by simp; omega)]
  rfl

theorem locateM_ok {s s' : State} {a : Acc} {ea n : Nat} {l : Loc} (h : s.locate s.party a ea n = (.ok l, s')) :
    locateM a ea n s = (.ok l, s') := by
  unfold locateM
  rw [bind_get, h]
  rfl

theorem stepLocal_ok {s : State} {ea : Nat} (h : (s.c.strict && !s.ownSpad s.cur ea && !s.c.inStack ea) = false) :
    stepLocal ea s = (.ok (), s) := by
  unfold stepLocal
  rw [bind_get, h]
  rfl

theorem access_ok {s s' : State} {c : TReg} {ea n : Nat} {need : BitVec 12} {a : Acc} {l : Loc} (h : Reaches s c ea n need a l s') :
    access c ea n need a s = (.ok l, s') := by
  obtain ⟨s1, hc, hs, hl⟩ := h.checked
  obtain ⟨e, -, hc⟩ := capcheck_ok hc
  unfold access accessOr
  rw [bind_ok hc, bind_ok (stepLocal_ok hs), bind_ok (locateM_ok hl), bind_raiseIf (by simpa using h.aligned), bind_raiseIf h.here]
  rfl

/-! ## What the checks leave -/

theorem keep_tlb (s : State) (p : TlbPlace) (cap ctx level va : Nat) (e : Word) : ∃ t, s.keep p cap ctx level va e = { s with tlb := t } := by
  unfold State.keep
  split
  · exact ⟨s.tlb, rfl⟩
  · exact ⟨_, rfl⟩

theorem foldl_tlb {α : Type} (f : State → α → State) (hf : ∀ s a, ∃ t, f s a = { s with tlb := t }) (xs : List α) (s : State) :
    ∃ t, xs.foldl f s = { s with tlb := t } := by
  induction xs generalizing s with
  | nil => exact ⟨s.tlb, rfl⟩
  | cons x r ih =>
    obtain ⟨t, ht⟩ := hf s x
    obtain ⟨u, hu⟩ := ih (f s x)
    exact ⟨u, by rw [List.foldl_cons, hu, ht]⟩

theorem keepAll_tlb (s : State) (ps : List TlbPlace) (ctx va : Nat) (es : List (Nat × Word)) :
    ∃ t, s.keepAll ps ctx va es = { s with tlb := t } := by
  refine foldl_tlb _ (fun s p => foldl_tlb _ (fun s e => ?_) es s) ps s
  cases p <;> simp only <;> split <;> first | exact ⟨s.tlb, rfl⟩ | exact keep_tlb _ _ _ _ _ _ _

theorem xlate_tlb (s : State) (ps : List TlbPlace) (ctx va : Nat) (n : PageNeed) : ∃ t, (s.xlate ps ctx va n).2 = { s with tlb := t } := by
  unfold State.xlate
  split
  · exact ⟨s.tlb, rfl⟩
  · split
    · exact ⟨s.tlb, rfl⟩
    · obtain ⟨t, ht⟩ := keepAll_tlb s ps ctx va (by assumption)
      simp only
      split
      · exact ⟨t, ht⟩
      · split <;> exact ⟨t, ht⟩

theorem locate_tlb (s : State) (p : Party) (a : Acc) (ea n : Nat) : ∃ t, (s.locate p a ea n).2 = { s with tlb := t } := by
  unfold State.locate
  split
  · exact ⟨s.tlb, rfl⟩
  · obtain ⟨t, ht⟩ := xlate_tlb s p.places p.ctx ea a.need
    split <;> rename_i h <;> rw [h] at ht <;> exact ⟨t, ht⟩
  · exact ⟨s.tlb, rfl⟩

theorem onlyCaches_sent (s : State) (t : List TlbEntry) (out : List HostOut) (h : out.all isRead = true) :
    OnlyCaches s { s with tlb := t, host := { s.host with out := s.host.out ++ out } } :=
  ⟨⟨out, h, rfl⟩, rfl, fun _ _ => rfl, s.c.gcache, s.c.readyAt, rfl⟩

theorem onlyCaches_refl (s : State) : OnlyCaches s s := by simpa using onlyCaches_sent s s.tlb [] rfl

theorem onlyCaches_tlb (s : State) (t : List TlbEntry) : OnlyCaches s { s with tlb := t } := by
  simpa using onlyCaches_sent s t [] rfl

theorem onlyCaches_trans {s t u : State} (h : OnlyCaches s t) (k : OnlyCaches t u) : OnlyCaches s u := by
  obtain ⟨⟨o, ho, h0⟩, h1, h2, gc, r, h3⟩ := h
  obtain ⟨⟨o', ho', k0⟩, k1, k2, gc', r', k3⟩ := k
  have hc : t.cur = s.cur := cur_of_outside (t := { t with tlb := s.tlb, host := s.host }) h1
  refine ⟨⟨o ++ o', by simp [ho, ho'], by rw [k0, h0, List.append_assoc]⟩, ?_,
    fun n hn => (k2 n (by rwa [hc])).trans (h2 n hn), gc', r', ?_⟩
  · have := congrArg (fun x : State => { x with tlb := s.tlb, host := s.host }) k1
    exact Eq.trans this h1
  · rw [k3, h3]

theorem sendRead_reads (s : State) (pa n : Nat) : ∃ out, out.all isRead = true ∧
    s.sendRead pa n = { s with host := { s.host with out := s.host.out ++ out } } := by
  unfold State.sendRead
  split
  · exact ⟨[_], rfl, rfl⟩
  · exact ⟨[], rfl, by simp⟩

/-- A read of the grant table holds translations and sends READs; nothing else changes. -/
theorem grantInMem_reads (s : State) (ps : List TlbPlace) (ctx gid : Nat) : ∃ t out, out.all isRead = true ∧
    (s.grantInMem ps ctx gid).2 = { s with tlb := t, host := { s.host with out := s.host.out ++ out } } := by
  unfold State.grantInMem
  obtain ⟨t, ht⟩ := xlate_tlb s ps ctx ((s.getX ctx).grantVa gid) { r := true }
  rcases hx : s.xlate ps ctx ((s.getX ctx).grantVa gid) { r := true } with ⟨f | pa, u⟩ <;> rw [hx] at ht <;> simp only at ht <;> subst ht
  · exact ⟨t, [], rfl, by simp [hx]⟩
  · simp only [hx]
    split
    · exact ⟨t, [], rfl, by simp⟩
    · unfold State.physRead
      split
      · rename_i h
        split at h
        · split at h
          · obtain ⟨out, h1, h2⟩ := sendRead_reads { s with tlb := t } pa 32
            cases h
            exact ⟨t, out, h1, h2⟩
          · cases h
        · cases h
          exact ⟨t, [], rfl, by simp⟩
      · exact ⟨t, [], rfl, by simp⟩

theorem grantEntry_caches {s s' : State} {gid : Nat} {e : Grant} (h : grantEntry gid s = (.ok e, s')) : OnlyCaches s s' := by
  unfold grantEntry at h
  rw [bind_get] at h
  cases hf : s.c.gcache.find? (fun l => l.ctx == s.c.ctx && l.gid == gid) with
  | some l =>
    simp only [hf] at h
    cases h
    exact onlyCaches_refl s
  | none =>
    simp only [hf] at h
    obtain ⟨t, out, ho, ht⟩ := grantInMem_reads s (corePlaces s.cur) s.c.ctx gid
    rcases hu : s.grantInMem (corePlaces s.cur) s.c.ctx gid with ⟨x | e', u⟩
    · rw [hu] at h
      cases h
    · rw [hu] at ht h
      simp only at ht h
      subst ht
      cases h
      refine onlyCaches_trans (onlyCaches_sent s t out ho) ⟨⟨[], rfl, by rw [List.append_nil]; rfl⟩, rfl, fun n hn => ?_, ?_⟩
      · simp only [State.block]
        rw [getC_upd, if_neg (by simpa using hn), getC_upd, if_neg (by simpa using hn)]
      · simp only [State.block, c_upd]
        exact ⟨_, _, rfl⟩

theorem live_caches {s s' : State} {c : TReg} {e : Grant} (h : Live s c e s') : OnlyCaches s s' := grantEntry_caches h.read
theorem checked_caches {s s' : State} {c : TReg} {ea n : Nat} {need : BitVec 12} (h : Checked s c ea n need s') : OnlyCaches s s' := by
  obtain ⟨e, hl, -⟩ := h.live
  exact live_caches hl
theorem reaches_caches {s s' : State} {c : TReg} {ea n : Nat} {need : BitVec 12} {a : Acc} {l : Loc} (h : Reaches s c ea n need a l s') :
    OnlyCaches s s' := by
  obtain ⟨s1, hc, -, hl⟩ := h.checked
  obtain ⟨t, ht⟩ := locate_tlb s1 s1.party a ea n
  rw [hl] at ht
  simp only at ht
  exact onlyCaches_trans (checked_caches hc) (ht ▸ onlyCaches_tlb s1 t)

/-! ## What the executing word still reads after its checks -/

theorem issue_caches {s s' : State} (h : OnlyCaches s s') : SameIssue s.c s'.c := by
  obtain ⟨-, -, -, gc, r, h⟩ := h
  rw [h]
  exact ⟨rfl, rfl, rfl, rfl, rfl, rfl⟩
theorem cycle_caches {s s' : State} (h : OnlyCaches s s') : s'.cycle = s.cycle :=
  (congrArg State.cycle h.2.1 : (outside { s' with tlb := s.tlb, host := s.host }).cycle = (outside s).cycle)
theorem rdG_caches {s s' : State} (h : OnlyCaches s s') (r : GReg) : s'.rdG r = s.rdG r := by
  have hc := cycle_caches h
  obtain ⟨-, -, -, gc, rr, h⟩ := h
  unfold State.rdG
  rw [h, hc]
  rfl
theorem rdI_caches {s s' : State} (h : OnlyCaches s s') (r : GReg) : s'.rdI r = s.rdI r := congrArg TReg.int (rdG_caches h r)
theorem ctx_caches {s s' : State} (h : OnlyCaches s s') : s'.c.ctx = s.c.ctx := by
  obtain ⟨-, -, -, gc, rr, h⟩ := h
  rw [h]

end Sys2Proof.Machine
end

