-- ==== Sys2Proof/Laws/Exec.lean ====
section
/-!
SUPPORT. Which meaning `exec` runs for each instruction, one equation per constructor, so that no proof unfolds the match.
-/
namespace Sys2Proof.Machine

@[simp] theorem exec_nop {s : State} : exec (.nop) s = execNop s := rfl
@[simp] theorem exec_trap {s : State} {n} : exec (.trap n) s = execTrap n s := rfl
@[simp] theorem exec_bkpt {s : State} {n} : exec (.bkpt n) s = execBkpt n s := rfl
@[simp] theorem exec_eret {s : State} {rpl} {kill} : exec (.eret rpl kill) s = execEret rpl kill s := rfl
@[simp] theorem exec_mfsr {s : State} {d} {sr} : exec (.mfsr d sr) s = execMfsr d sr s := rfl
@[simp] theorem exec_mtsr {s : State} {sr} {a} : exec (.mtsr sr a) s = execMtsr sr a s := rfl
@[simp] theorem exec_isync {s : State} : exec (.isync) s = execIsync s := rfl
@[simp] theorem exec_idle {s : State} : exec (.idle) s = execIdle s := rfl
@[simp] theorem exec_tlbinv {s : State} {kind} {scope} {a} {b} : exec (.tlbinv kind scope a b) s = execTlbinv kind scope a b s := rfl
@[simp] theorem exec_echk {s : State} {form} : exec (.echk form) s = execEchk form s := rfl
@[simp] theorem exec_csave {s : State} {d} {b} {spad} : exec (.csave d b spad) s = execCsave d b spad s := rfl
@[simp] theorem exec_crest {s : State} {d} {b} {spad} : exec (.crest d b spad) s = execCrest d b spad s := rfl
@[simp] theorem exec_hpload {s : State} {d} {src} : exec (.hpload d src) s = execHpload d src s := rfl
@[simp] theorem exec_hpact {s : State} {d} {a} : exec (.hpact d a) s = execHpact d a s := rfl
@[simp] theorem exec_hpqry {s : State} {d} {what} : exec (.hpqry d what) s = execHpqry d what s := rfl
@[simp] theorem exec_ident {s : State} {d} {what} : exec (.ident d what) s = execIdent d what s := rfl
@[simp] theorem exec_br {s : State} {off} : exec (.br off) s = execBr off s := rfl
@[simp] theorem exec_bcc {s : State} {a} {b} {off} : exec (.bcc a b off) s = execBcc a b off s := rfl
@[simp] theorem exec_bk {s : State} {a} {b} {off} : exec (.bk a b off) s = execBk a b off s := rfl
@[simp] theorem exec_call {s : State} {off} : exec (.call off) s = execCall off s := rfl
@[simp] theorem exec_callr {s : State} {a} : exec (.callr a) s = execCallr a s := rfl
@[simp] theorem exec_ret {s : State} : exec (.ret) s = execRet s := rfl
@[simp] theorem exec_jmpr {s : State} {a} : exec (.jmpr a) s = execJmpr a s := rfl
@[simp] theorem exec_loop {s : State} {a} {off} : exec (.loop a off) s = execLoop a off s := rfl
@[simp] theorem exec_enter {s : State} {n} : exec (.enter n) s = execEnter n s := rfl
@[simp] theorem exec_leave {s : State} : exec (.leave) s = execLeave s := rfl
@[simp] theorem exec_subStream {s : State} {policy} {d} {a} {b} : exec (.subStream policy d a b) s = execSubStream policy d a b s := rfl
@[simp] theorem exec_unsub {s : State} {a} {b} {off} : exec (.unsub a b off) s = execUnsub a b off s := rfl
@[simp] theorem exec_resub {s : State} {d} {a} {b} : exec (.resub d a b) s = execResub d a b s := rfl
@[simp] theorem exec_rdv {s : State} {tag} : exec (.rdv tag) s = execRdv tag s := rfl
@[simp] theorem exec_rdvh {s : State} {tag} {n} : exec (.rdvh tag n) s = execRdvh tag n s := rfl
@[simp] theorem exec_brw {s : State} {a} {j} {off} : exec (.brw a j off) s = execBrw a j off s := rfl
@[simp] theorem exec_wvote {s : State} {all} {d} {a} : exec (.wvote all d a) s = execWvote all d a s := rfl
@[simp] theorem exec_puboff {s : State} : exec (.puboff) s = execPuboff s := rfl
@[simp] theorem exec_pubon {s : State} : exec (.pubon) s = execPubon s := rfl
@[simp] theorem exec_add {s : State} {d} {a} {b} {sh} : exec (.add d a b sh) s = execAdd d a b sh s := rfl
@[simp] theorem exec_addi {s : State} {d} {a} {imm} : exec (.addi d a imm) s = execAddi d a imm s := rfl
@[simp] theorem exec_sub {s : State} {d} {a} {b} {sh} : exec (.sub d a b sh) s = execSub d a b sh s := rfl
@[simp] theorem exec_subi {s : State} {d} {a} {imm} : exec (.subi d a imm) s = execSubi d a imm s := rfl
@[simp] theorem exec_mul {s : State} {d} {a} {b} : exec (.mul d a b) s = execMul d a b s := rfl
@[simp] theorem exec_muli {s : State} {d} {a} {imm} : exec (.muli d a imm) s = execMuli d a imm s := rfl
@[simp] theorem exec_mulhS {s : State} {d} {a} {b} : exec (.mulhS d a b) s = execMulhS d a b s := rfl
@[simp] theorem exec_mulhiS {s : State} {d} {a} {imm} : exec (.mulhiS d a imm) s = execMulhiS d a imm s := rfl
@[simp] theorem exec_mulhZ {s : State} {d} {a} {b} : exec (.mulhZ d a b) s = execMulhZ d a b s := rfl
@[simp] theorem exec_mulhiZ {s : State} {d} {a} {imm} : exec (.mulhiZ d a imm) s = execMulhiZ d a imm s := rfl
@[simp] theorem exec_divS {s : State} {d} {a} {b} : exec (.divS d a b) s = execDivS d a b s := rfl
@[simp] theorem exec_diviS {s : State} {d} {a} {imm} : exec (.diviS d a imm) s = execDiviS d a imm s := rfl
@[simp] theorem exec_divZ {s : State} {d} {a} {b} : exec (.divZ d a b) s = execDivZ d a b s := rfl
@[simp] theorem exec_diviZ {s : State} {d} {a} {imm} : exec (.diviZ d a imm) s = execDiviZ d a imm s := rfl
@[simp] theorem exec_remS {s : State} {d} {a} {b} : exec (.remS d a b) s = execRemS d a b s := rfl
@[simp] theorem exec_remiS {s : State} {d} {a} {imm} : exec (.remiS d a imm) s = execRemiS d a imm s := rfl
@[simp] theorem exec_remZ {s : State} {d} {a} {b} : exec (.remZ d a b) s = execRemZ d a b s := rfl
@[simp] theorem exec_remiZ {s : State} {d} {a} {imm} : exec (.remiZ d a imm) s = execRemiZ d a imm s := rfl
@[simp] theorem exec_and {s : State} {d} {a} {b} {sh} : exec (.and d a b sh) s = execAnd d a b sh s := rfl
@[simp] theorem exec_andi {s : State} {d} {a} {imm} : exec (.andi d a imm) s = execAndi d a imm s := rfl
@[simp] theorem exec_or {s : State} {d} {a} {b} {sh} : exec (.or d a b sh) s = execOr d a b sh s := rfl
@[simp] theorem exec_ori {s : State} {d} {a} {imm} : exec (.ori d a imm) s = execOri d a imm s := rfl
@[simp] theorem exec_xor {s : State} {d} {a} {b} {sh} : exec (.xor d a b sh) s = execXor d a b sh s := rfl
@[simp] theorem exec_xori {s : State} {d} {a} {imm} : exec (.xori d a imm) s = execXori d a imm s := rfl
@[simp] theorem exec_andn {s : State} {d} {a} {b} {sh} : exec (.andn d a b sh) s = execAndn d a b sh s := rfl
@[simp] theorem exec_andni {s : State} {d} {a} {imm} : exec (.andni d a imm) s = execAndni d a imm s := rfl
@[simp] theorem exec_shl {s : State} {d} {a} {b} : exec (.shl d a b) s = execShl d a b s := rfl
@[simp] theorem exec_shli {s : State} {d} {a} {n} : exec (.shli d a n) s = execShli d a n s := rfl
@[simp] theorem exec_shr {s : State} {d} {a} {b} : exec (.shr d a b) s = execShr d a b s := rfl
@[simp] theorem exec_shri {s : State} {d} {a} {n} : exec (.shri d a n) s = execShri d a n s := rfl
@[simp] theorem exec_sar {s : State} {d} {a} {b} : exec (.sar d a b) s = execSar d a b s := rfl
@[simp] theorem exec_sari {s : State} {d} {a} {n} : exec (.sari d a n) s = execSari d a n s := rfl
@[simp] theorem exec_rol {s : State} {d} {a} {b} : exec (.rol d a b) s = execRol d a b s := rfl
@[simp] theorem exec_roli {s : State} {d} {a} {n} : exec (.roli d a n) s = execRoli d a n s := rfl
@[simp] theorem exec_minS {s : State} {d} {a} {b} : exec (.minS d a b) s = execMinS d a b s := rfl
@[simp] theorem exec_miniS {s : State} {d} {a} {imm} : exec (.miniS d a imm) s = execMiniS d a imm s := rfl
@[simp] theorem exec_minZ {s : State} {d} {a} {b} : exec (.minZ d a b) s = execMinZ d a b s := rfl
@[simp] theorem exec_miniZ {s : State} {d} {a} {imm} : exec (.miniZ d a imm) s = execMiniZ d a imm s := rfl
@[simp] theorem exec_maxS {s : State} {d} {a} {b} : exec (.maxS d a b) s = execMaxS d a b s := rfl
@[simp] theorem exec_maxiS {s : State} {d} {a} {imm} : exec (.maxiS d a imm) s = execMaxiS d a imm s := rfl
@[simp] theorem exec_maxZ {s : State} {d} {a} {b} : exec (.maxZ d a b) s = execMaxZ d a b s := rfl
@[simp] theorem exec_maxiZ {s : State} {d} {a} {imm} : exec (.maxiZ d a imm) s = execMaxiZ d a imm s := rfl
@[simp] theorem exec_sltS {s : State} {d} {a} {b} : exec (.sltS d a b) s = execSltS d a b s := rfl
@[simp] theorem exec_sltiS {s : State} {d} {a} {imm} : exec (.sltiS d a imm) s = execSltiS d a imm s := rfl
@[simp] theorem exec_sltZ {s : State} {d} {a} {b} : exec (.sltZ d a b) s = execSltZ d a b s := rfl
@[simp] theorem exec_sltiZ {s : State} {d} {a} {imm} : exec (.sltiZ d a imm) s = execSltiZ d a imm s := rfl
@[simp] theorem exec_seq {s : State} {d} {a} {b} : exec (.seq d a b) s = execSeq d a b s := rfl
@[simp] theorem exec_seqi {s : State} {d} {a} {imm} : exec (.seqi d a imm) s = execSeqi d a imm s := rfl
@[simp] theorem exec_clz {s : State} {d} {a} : exec (.clz d a) s = execClz d a s := rfl
@[simp] theorem exec_clzi {s : State} {d} {imm} : exec (.clzi d imm) s = execClzi d imm s := rfl
@[simp] theorem exec_ctz {s : State} {d} {a} : exec (.ctz d a) s = execCtz d a s := rfl
@[simp] theorem exec_ctzi {s : State} {d} {imm} : exec (.ctzi d imm) s = execCtzi d imm s := rfl
@[simp] theorem exec_popc {s : State} {d} {a} : exec (.popc d a) s = execPopc d a s := rfl
@[simp] theorem exec_popci {s : State} {d} {imm} : exec (.popci d imm) s = execPopci d imm s := rfl
@[simp] theorem exec_brev {s : State} {d} {a} : exec (.brev d a) s = execBrev d a s := rfl
@[simp] theorem exec_brevi {s : State} {d} {imm} : exec (.brevi d imm) s = execBrevi d imm s := rfl
@[simp] theorem exec_bfx {s : State} {d} {a} {b} {w} {sx} : exec (.bfx d a b w sx) s = execBfx d a b w sx s := rfl
@[simp] theorem exec_bfxi {s : State} {d} {a} {pos} {wm1} {sx} : exec (.bfxi d a pos wm1 sx) s = execBfxi d a pos wm1 sx s := rfl
@[simp] theorem exec_bfi {s : State} {d} {a} {b} {w} : exec (.bfi d a b w) s = execBfi d a b w s := rfl
@[simp] theorem exec_bfii {s : State} {d} {a} {pos} {wm1} : exec (.bfii d a pos wm1) s = execBfii d a pos wm1 s := rfl
@[simp] theorem exec_mad {s : State} {d} {a} {b} : exec (.mad d a b) s = execMad d a b s := rfl
@[simp] theorem exec_madi {s : State} {d} {a} {imm} : exec (.madi d a imm) s = execMadi d a imm s := rfl
@[simp] theorem exec_mov {s : State} {d} {a} : exec (.mov d a) s = execMov d a s := rfl
@[simp] theorem exec_li {s : State} {d} {imm} : exec (.li d imm) s = execLi d imm s := rfl
@[simp] theorem exec_cget {s : State} {d} {a} {field} : exec (.cget d a field) s = execCget d a field s := rfl
@[simp] theorem exec_cseta {s : State} {d} {a} {b} : exec (.cseta d a b) s = execCseta d a b s := rfl
@[simp] theorem exec_cadd {s : State} {d} {a} {imm} : exec (.cadd d a imm) s = execCadd d a imm s := rfl
@[simp] theorem exec_candp {s : State} {d} {a} {perms} : exec (.candp d a perms) s = execCandp d a perms s := rfl
@[simp] theorem exec_cfrom {s : State} {d} {a} {b} : exec (.cfrom d a b) s = execCfrom d a b s := rfl
@[simp] theorem exec_cclr {s : State} {d} {a} : exec (.cclr d a) s = execCclr d a s := rfl
@[simp] theorem exec_cchk {s : State} {d} {a} {b} : exec (.cchk d a b) s = execCchk d a b s := rfl
@[simp] theorem exec_gnew {s : State} {d} {a} {b} : exec (.gnew d a b) s = execGnew d a b s := rfl
@[simp] theorem exec_grev {s : State} {d} {a} : exec (.grev d a) s = execGrev d a s := rfl
@[simp] theorem exec_ld {s : State} {d} {a} {ty} {off} : exec (.ld d a ty off) s = execLd d a ty off s := rfl
@[simp] theorem exec_st {s : State} {d} {a} {ty} {off} : exec (.st d a ty off) s = execSt d a ty off s := rfl
@[simp] theorem exec_ldc {s : State} {d} {a} {off} : exec (.ldc d a off) s = execLdc d a off s := rfl
@[simp] theorem exec_stc {s : State} {d} {a} {off} : exec (.stc d a off) s = execStc d a off s := rfl
@[simp] theorem exec_lda {s : State} {d} {a} {ty} {off} : exec (.lda d a ty off) s = execLda d a ty off s := rfl
@[simp] theorem exec_waitld {s : State} {n} : exec (.waitld n) s = execWaitld n s := rfl
@[simp] theorem exec_pref {s : State} {a} {off} : exec (.pref a off) s = execPref a off s := rfl
@[simp] theorem exec_amo {s : State} {op} {size} {order} {d} {a} {b} : exec (.amo op size order d a b) s = execAmo op size order d a b s := rfl
@[simp] theorem exec_amof {s : State} {op} {order} {d} {a} {b} : exec (.amof op order d a b) s = execAmof op order d a b s := rfl
@[simp] theorem exec_cas {s : State} {size} {order} {d} {a} {b} : exec (.cas size order d a b) s = execCas size order d a b s := rfl
@[simp] theorem exec_ldaq {s : State} {size} {scope} {d} {b} : exec (.ldaq size scope d b) s = execLdaq size scope d b s := rfl
@[simp] theorem exec_strl {s : State} {size} {scope} {a} {b} : exec (.strl size scope a b) s = execStrl size scope a b s := rfl
@[simp] theorem exec_amonr {s : State} {op} {size} {order} {a} {b} : exec (.amonr op size order a b) s = execAmonr op size order a b s := rfl
@[simp] theorem exec_fence {s : State} {kind} {scope} : exec (.fence kind scope) s = execFence kind scope s := rfl
@[simp] theorem exec_binit {s : State} {a} {bar} : exec (.binit a bar) s = execBinit a bar s := rfl
@[simp] theorem exec_bexp {s : State} {a} {bar} : exec (.bexp a bar) s = execBexp a bar s := rfl
@[simp] theorem exec_barr {s : State} {d} {bar} : exec (.barr d bar) s = execBarr d bar s := rfl
@[simp] theorem exec_bwait {s : State} {a} {bar} : exec (.bwait a bar) s = execBwait a bar s := rfl
@[simp] theorem exec_waitm {s : State} {size} {scope} {d} {a} {b} : exec (.waitm size scope d a b) s = execWaitm size scope d a b s := rfl
@[simp] theorem exec_msend {s : State} {async} {core} {port} {a} {b} : exec (.msend async core port a b) s = execMsend async core port a b s := rfl
@[simp] theorem exec_pget {s : State} {d} {port} : exec (.pget d port) s = execPget d port s := rfl
@[simp] theorem exec_kand {s : State} {d} {a} {b} : exec (.kand d a b) s = execKand d a b s := rfl
@[simp] theorem exec_kor {s : State} {d} {a} {b} : exec (.kor d a b) s = execKor d a b s := rfl
@[simp] theorem exec_kxor {s : State} {d} {a} {b} : exec (.kxor d a b) s = execKxor d a b s := rfl
@[simp] theorem exec_kandn {s : State} {d} {a} {b} : exec (.kandn d a b) s = execKandn d a b s := rfl
@[simp] theorem exec_knot {s : State} {d} {a} : exec (.knot d a) s = execKnot d a s := rfl
@[simp] theorem exec_kmov {s : State} {form} : exec (.kmov form) s = execKmov form s := rfl
@[simp] theorem exec_kpopc {s : State} {d} {a} : exec (.kpopc d a) s = execKpopc d a s := rfl
@[simp] theorem exec_kff {s : State} {d} {a} : exec (.kff d a) s = execKff d a s := rfl
@[simp] theorem exec_kset {s : State} {d} {imm} : exec (.kset d imm) s = execKset d imm s := rfl
@[simp] theorem exec_vadd {s : State} {k} {d} {a} {b} {ty} : exec (.vadd k d a b ty) s = execVadd k d a b ty s := rfl
@[simp] theorem exec_vsub {s : State} {k} {d} {a} {b} {ty} : exec (.vsub k d a b ty) s = execVsub k d a b ty s := rfl
@[simp] theorem exec_vmul {s : State} {k} {d} {a} {b} {ty} : exec (.vmul k d a b ty) s = execVmul k d a b ty s := rfl
@[simp] theorem exec_vmulh {s : State} {k} {d} {a} {b} {ty} : exec (.vmulh k d a b ty) s = execVmulh k d a b ty s := rfl
@[simp] theorem exec_vmad {s : State} {k} {d} {a} {b} {ty} : exec (.vmad k d a b ty) s = execVmad k d a b ty s := rfl
@[simp] theorem exec_vand {s : State} {k} {d} {a} {b} {ty} : exec (.vand k d a b ty) s = execVand k d a b ty s := rfl
@[simp] theorem exec_vor {s : State} {k} {d} {a} {b} {ty} : exec (.vor k d a b ty) s = execVor k d a b ty s := rfl
@[simp] theorem exec_vxor {s : State} {k} {d} {a} {b} {ty} : exec (.vxor k d a b ty) s = execVxor k d a b ty s := rfl
@[simp] theorem exec_vshl {s : State} {k} {d} {a} {b} {ty} : exec (.vshl k d a b ty) s = execVshl k d a b ty s := rfl
@[simp] theorem exec_vshr {s : State} {k} {d} {a} {b} {ty} : exec (.vshr k d a b ty) s = execVshr k d a b ty s := rfl
@[simp] theorem exec_vsar {s : State} {k} {d} {a} {b} {ty} : exec (.vsar k d a b ty) s = execVsar k d a b ty s := rfl
@[simp] theorem exec_vmin {s : State} {k} {d} {a} {b} {ty} : exec (.vmin k d a b ty) s = execVmin k d a b ty s := rfl
@[simp] theorem exec_vmax {s : State} {k} {d} {a} {b} {ty} : exec (.vmax k d a b ty) s = execVmax k d a b ty s := rfl
@[simp] theorem exec_vabs {s : State} {k} {d} {a} {ty} : exec (.vabs k d a ty) s = execVabs k d a ty s := rfl
@[simp] theorem exec_vcmp {s : State} {k} {d} {a} {b} {cond} {signed} : exec (.vcmp k d a b cond signed) s = execVcmp k d a b cond signed s := rfl
@[simp] theorem exec_vsel {s : State} {k} {d} {a} {b} {ty} : exec (.vsel k d a b ty) s = execVsel k d a b ty s := rfl
@[simp] theorem exec_vpopc {s : State} {k} {d} {a} {ty} : exec (.vpopc k d a ty) s = execVpopc k d a ty s := rfl
@[simp] theorem exec_vclz {s : State} {k} {d} {a} {ty} : exec (.vclz k d a ty) s = execVclz k d a ty s := rfl
@[simp] theorem exec_vadds {s : State} {k} {d} {a} {b} {ty} : exec (.vadds k d a b ty) s = execVadds k d a b ty s := rfl
@[simp] theorem exec_vsubs {s : State} {k} {d} {a} {b} {ty} : exec (.vsubs k d a b ty) s = execVsubs k d a b ty s := rfl
@[simp] theorem exec_vmovs {s : State} {k} {d} {a} {ty} : exec (.vmovs k d a ty) s = execVmovs k d a ty s := rfl
@[simp] theorem exec_vext {s : State} {k} {d} {a} {n} {ty} : exec (.vext k d a n ty) s = execVext k d a n ty s := rfl
@[simp] theorem exec_vfadd {s : State} {k} {d} {a} {b} {rm} : exec (.vfadd k d a b rm) s = execVfadd k d a b rm s := rfl
@[simp] theorem exec_vfsub {s : State} {k} {d} {a} {b} {rm} : exec (.vfsub k d a b rm) s = execVfsub k d a b rm s := rfl
@[simp] theorem exec_vfmul {s : State} {k} {d} {a} {b} {rm} : exec (.vfmul k d a b rm) s = execVfmul k d a b rm s := rfl
@[simp] theorem exec_vfma {s : State} {k} {d} {a} {b} {rm} : exec (.vfma k d a b rm) s = execVfma k d a b rm s := rfl
@[simp] theorem exec_vfms {s : State} {k} {d} {a} {b} {rm} : exec (.vfms k d a b rm) s = execVfms k d a b rm s := rfl
@[simp] theorem exec_vfmin {s : State} {k} {d} {a} {b} {num} : exec (.vfmin k d a b num) s = execVfmin k d a b num s := rfl
@[simp] theorem exec_vfmax {s : State} {k} {d} {a} {b} {num} : exec (.vfmax k d a b num) s = execVfmax k d a b num s := rfl
@[simp] theorem exec_vfabs {s : State} {k} {d} {a} : exec (.vfabs k d a) s = execVfabs k d a s := rfl
@[simp] theorem exec_vfneg {s : State} {k} {d} {a} : exec (.vfneg k d a) s = execVfneg k d a s := rfl
@[simp] theorem exec_vfcmp {s : State} {k} {d} {a} {b} {cond} : exec (.vfcmp k d a b cond) s = execVfcmp k d a b cond s := rfl
@[simp] theorem exec_vfclass {s : State} {k} {d} {a} {classes} : exec (.vfclass k d a classes) s = execVfclass k d a classes s := rfl
@[simp] theorem exec_vfdiv {s : State} {k} {d} {a} {b} : exec (.vfdiv k d a b) s = execVfdiv k d a b s := rfl
@[simp] theorem exec_vfsqrt {s : State} {k} {d} {a} : exec (.vfsqrt k d a) s = execVfsqrt k d a s := rfl
@[simp] theorem exec_vrcp {s : State} {k} {d} {a} : exec (.vrcp k d a) s = execVrcp k d a s := rfl
@[simp] theorem exec_vrsq {s : State} {k} {d} {a} : exec (.vrsq k d a) s = execVrsq k d a s := rfl
@[simp] theorem exec_vexp2 {s : State} {k} {d} {a} : exec (.vexp2 k d a) s = execVexp2 k d a s := rfl
@[simp] theorem exec_vlog2 {s : State} {k} {d} {a} : exec (.vlog2 k d a) s = execVlog2 k d a s := rfl
@[simp] theorem exec_vsinpi {s : State} {k} {d} {a} : exec (.vsinpi k d a) s = execVsinpi k d a s := rfl
@[simp] theorem exec_vcospi {s : State} {k} {d} {a} : exec (.vcospi k d a) s = execVcospi k d a s := rfl
@[simp] theorem exec_vtanh {s : State} {k} {d} {a} : exec (.vtanh k d a) s = execVtanh k d a s := rfl
@[simp] theorem exec_vsigm {s : State} {k} {d} {a} : exec (.vsigm k d a) s = execVsigm k d a s := rfl
@[simp] theorem exec_verf {s : State} {k} {d} {a} : exec (.verf k d a) s = execVerf k d a s := rfl
@[simp] theorem exec_vrng {s : State} {k} {d} {a} {b} : exec (.vrng k d a b) s = execVrng k d a b s := rfl
@[simp] theorem exec_vgumb {s : State} {k} {d} {a} : exec (.vgumb k d a) s = execVgumb k d a s := rfl
@[simp] theorem exec_vcvt {s : State} {k} {d} {a} {src} {dst} {rm} {sat} {slot} {tbl} : exec (.vcvt k d a src dst rm sat slot tbl) s = execVcvt k d a src dst rm sat slot tbl s := rfl
@[simp] theorem exec_vcvtsr {s : State} {k} {d} {a} {b} {dst} {sat} {slot} : exec (.vcvtsr k d a b dst sat slot) s = execVcvtsr k d a b dst sat slot s := rfl
@[simp] theorem exec_vpack {s : State} {k} {d} {a} {ty} {sat} : exec (.vpack k d a ty sat) s = execVpack k d a ty sat s := rfl
@[simp] theorem exec_vunpk {s : State} {k} {d} {a} {ty} : exec (.vunpk k d a ty) s = execVunpk k d a ty s := rfl
@[simp] theorem exec_vscale {s : State} {k} {d} {a} {b} {inv} {e8} : exec (.vscale k d a b inv e8) s = execVscale k d a b inv e8 s := rfl
@[simp] theorem exec_vrint {s : State} {k} {d} {a} {rm} {x} : exec (.vrint k d a rm x) s = execVrint k d a rm x s := rfl
@[simp] theorem exec_vbscale {s : State} {k} {d} {a} {target} {b32} : exec (.vbscale k d a target b32) s = execVbscale k d a target b32 s := rfl
@[simp] theorem exec_vld {s : State} {k} {d} {a} {b} : exec (.vld k d a b) s = execVld k d a b s := rfl
@[simp] theorem exec_vst {s : State} {k} {d} {a} {b} : exec (.vst k d a b) s = execVst k d a b s := rfl
@[simp] theorem exec_vlds {s : State} {k} {d} {a} {b} {ty} : exec (.vlds k d a b ty) s = execVlds k d a b ty s := rfl
@[simp] theorem exec_vsts {s : State} {k} {d} {a} {b} {ty} : exec (.vsts k d a b ty) s = execVsts k d a b ty s := rfl
@[simp] theorem exec_vgath {s : State} {k} {d} {a} {b} {ty} {si} {scale} : exec (.vgath k d a b ty si scale) s = execVgath k d a b ty si scale s := rfl
@[simp] theorem exec_vscat {s : State} {k} {d} {a} {b} {ty} {si} {scale} : exec (.vscat k d a b ty si scale) s = execVscat k d a b ty si scale s := rfl
@[simp] theorem exec_vcmpst {s : State} {k} {d} {a} {b} : exec (.vcmpst k d a b) s = execVcmpst k d a b s := rfl
@[simp] theorem exec_vexpld {s : State} {k} {d} {a} {b} : exec (.vexpld k d a b) s = execVexpld k d a b s := rfl
@[simp] theorem exec_vlda {s : State} {k} {d} {a} {b} : exec (.vlda k d a b) s = execVlda k d a b s := rfl
@[simp] theorem exec_vperm {s : State} {k} {d} {a} {b} {two} : exec (.vperm k d a b two) s = execVperm k d a b two s := rfl
@[simp] theorem exec_vshuf {s : State} {k} {d} {a} {form} : exec (.vshuf k d a form) s = execVshuf k d a form s := rfl
@[simp] theorem exec_vrot {s : State} {k} {d} {a} {n} : exec (.vrot k d a n) s = execVrot k d a n s := rfl
@[simp] theorem exec_vbcst {s : State} {k} {d} {src} : exec (.vbcst k d src) s = execVbcst k d src s := rfl
@[simp] theorem exec_vscan {s : State} {k} {d} {a} {op} {ty} {ex} {brk} : exec (.vscan k d a op ty ex brk) s = execVscan k d a op ty ex brk s := rfl
@[simp] theorem exec_vsscan {s : State} {k} {d} {a} {b} {op} {ty} {ex} {brk} : exec (.vsscan k d a b op ty ex brk) s = execVsscan k d a b op ty ex brk s := rfl
@[simp] theorem exec_vred {s : State} {k} {d} {a} {op} {ty} : exec (.vred k d a op ty) s = execVred k d a op ty s := rfl
@[simp] theorem exec_vxchg {s : State} {d} {a} {n} : exec (.vxchg d a n) s = execVxchg d a n s := rfl
@[simp] theorem exec_vchain {s : State} {k} {d} {a} {op} {ty} {form} : exec (.vchain k d a op ty form) s = execVchain k d a op ty form s := rfl
@[simp] theorem exec_vcprs {s : State} {k} {d} {a} {z} : exec (.vcprs k d a z) s = execVcprs k d a z s := rfl
@[simp] theorem exec_vexpd {s : State} {k} {d} {a} {z} : exec (.vexpd k d a z) s = execVexpd k d a z s := rfl
@[simp] theorem exec_vballot {s : State} {k} {d} {a} : exec (.vballot k d a) s = execVballot k d a s := rfl
@[simp] theorem exec_vgetx {s : State} {d} {a} : exec (.vgetx d a) s = execVgetx d a s := rfl
@[simp] theorem exec_vputx {s : State} {d} {a} : exec (.vputx d a) s = execVputx d a s := rfl
@[simp] theorem exec_vdot4 {s : State} {k} {d} {a} {b} {as} {bs} : exec (.vdot4 k d a b as bs) s = execVdot4 k d a b as bs s := rfl
@[simp] theorem exec_vdot8 {s : State} {k} {d} {a} {b} {as} {bs} : exec (.vdot8 k d a b as bs) s = execVdot8 k d a b as bs s := rfl
@[simp] theorem exec_vdoth {s : State} {k} {d} {a} {b} {f16} : exec (.vdoth k d a b f16) s = execVdoth k d a b f16 s := rfl
@[simp] theorem exec_vdott {s : State} {k} {d} {a} {b} {tbl} {half} : exec (.vdott k d a b tbl half) s = execVdott k d a b tbl half s := rfl
@[simp] theorem exec_vtblw {s : State} {tbl} {a} : exec (.vtblw tbl a) s = execVtblw tbl a s := rfl
@[simp] theorem exec_mfmt {s : State} {b} : exec (.mfmt b) s = execMfmt b s := rfl
@[simp] theorem exec_mgang {s : State} {d} {a} {b} {n} : exec (.mgang d a b n) s = execMgang d a b n s := rfl
@[simp] theorem exec_mpass {s : State} {d} {a} {b} {gang} : exec (.mpass d a b gang) s = execMpass d a b gang s := rfl
@[simp] theorem exec_mlist {s : State} {d} {a} {b} : exec (.mlist d a b) s = execMlist d a b s := rfl
@[simp] theorem exec_mzero {s : State} {tile} {cm1} {me} : exec (.mzero tile cm1 me) s = execMzero tile cm1 me s := rfl
@[simp] theorem exec_mldc {s : State} {d} {b} : exec (.mldc d b) s = execMldc d b s := rfl
@[simp] theorem exec_mstc {s : State} {d} {a} {b} : exec (.mstc d a b) s = execMstc d a b s := rfl
@[simp] theorem exec_mwait {s : State} {n} : exec (.mwait n) s = execMwait n s := rfl
@[simp] theorem exec_mtbl {s : State} {me} {tbl} {b} : exec (.mtbl me tbl b) s = execMtbl me tbl b s := rfl
@[simp] theorem exec_mqry {s : State} {d} {a} {what} {clr} : exec (.mqry d a what clr) s = execMqry d a what clr s := rfl
@[simp] theorem exec_rkinit {s : State} {acc} {a} {b} : exec (.rkinit acc a b) s = execRkinit acc a b s := rfl
@[simp] theorem exec_rkins {s : State} {k} {d} {b} : exec (.rkins k d b) s = execRkins k d b s := rfl
@[simp] theorem exec_rkmrg {s : State} {a} {b} : exec (.rkmrg a b) s = execRkmrg a b s := rfl
@[simp] theorem exec_rkchain {s : State} {bc} {b} : exec (.rkchain bc b) s = execRkchain bc b s := rfl
@[simp] theorem exec_rkflr {s : State} {d} {b} {what} : exec (.rkflr d b what) s = execRkflr d b what s := rfl
@[simp] theorem exec_rkget {s : State} {k} {d} {a} {b} : exec (.rkget k d a b) s = execRkget k d a b s := rfl
@[simp] theorem exec_rkbnd {s : State} {form} : exec (.rkbnd form) s = execRkbnd form s := rfl
@[simp] theorem exec_epost {s : State} {d} {a} {b} : exec (.epost d a b) s = execEpost d a b s := rfl
@[simp] theorem exec_ewait {s : State} {d} {a} : exec (.ewait d a) s = execEwait d a s := rfl
@[simp] theorem exec_ecan {s : State} {d} {a} : exec (.ecan d a) s = execEcan d a s := rfl
@[simp] theorem exec_estat {s : State} {d} {a} : exec (.estat d a) s = execEstat d a s := rfl
@[simp] theorem exec_tend {s : State} : exec (.tend) s = execTend s := rfl
@[simp] theorem exec_ttick {s : State} {d} : exec (.ttick d) s = execTtick d s := rfl
@[simp] theorem exec_tspawn {s : State} {d} {a} {b} : exec (.tspawn d a b) s = execTspawn d a b s := rfl
@[simp] theorem exec_tsig {s : State} {d} {e} : exec (.tsig d e) s = execTsig d e s := rfl
@[simp] theorem exec_fopen {s : State} {d} {a} {b} : exec (.fopen d a b) s = execFopen d a b s := rfl
@[simp] theorem exec_fclose {s : State} {d} {a} : exec (.fclose d a) s = execFclose d a s := rfl
@[simp] theorem exec_fwait {s : State} {d} {a} : exec (.fwait d a) s = execFwait d a s := rfl
@[simp] theorem exec_fcan {s : State} {d} {a} : exec (.fcan d a) s = execFcan d a s := rfl
@[simp] theorem exec_qenq {s : State} {d} {a} {b} {s1} {w} : exec (.qenq d a b s1 w) s = execQenq d a b s1 w s := rfl
@[simp] theorem exec_qdeq {s : State} {d} {b} {form} : exec (.qdeq d b form) s = execQdeq d b form s := rfl
@[simp] theorem exec_qres {s : State} {d} {b} {s1} {claim} : exec (.qres d b s1 claim) s = execQres d b s1 claim s := rfl
@[simp] theorem exec_qcmt {s : State} {d} {a} {b} : exec (.qcmt d a b) s = execQcmt d a b s := rfl
@[simp] theorem exec_qflush {s : State} {d} {b} : exec (.qflush d b) s = execQflush d b s := rfl
@[simp] theorem exec_tyield {s : State} {d} : exec (.tyield d) s = execTyield d s := rfl
@[simp] theorem exec_ssend {s : State} {d} {a} {b} : exec (.ssend d a b) s = execSsend d a b s := rfl
@[simp] theorem exec_ssenda {s : State} {d} {a} {b} : exec (.ssenda d a b) s = execSsenda d a b s := rfl
@[simp] theorem exec_sbar {s : State} {d} {a} {dom} : exec (.sbar d a dom) s = execSbar d a dom s := rfl
@[simp] theorem exec_sdom {s : State} {d} {a} {what} : exec (.sdom d a what) s = execSdom d a what s := rfl
@[simp] theorem exec_sclk {s : State} {d} {form} : exec (.sclk d form) s = execSclk d form s := rfl
@[simp] theorem exec_hnop {s : State} : exec (.hnop) s = execHnop s := rfl
@[simp] theorem exec_hadd {s : State} {d} {a} : exec (.hadd d a) s = execHadd d a s := rfl
@[simp] theorem exec_hsub {s : State} {d} {a} : exec (.hsub d a) s = execHsub d a s := rfl
@[simp] theorem exec_hand {s : State} {d} {a} : exec (.hand d a) s = execHand d a s := rfl
@[simp] theorem exec_hor {s : State} {d} {a} : exec (.hor d a) s = execHor d a s := rfl
@[simp] theorem exec_hxor {s : State} {d} {a} : exec (.hxor d a) s = execHxor d a s := rfl
@[simp] theorem exec_hshl {s : State} {d} {a} : exec (.hshl d a) s = execHshl d a s := rfl
@[simp] theorem exec_hshr {s : State} {d} {a} : exec (.hshr d a) s = execHshr d a s := rfl
@[simp] theorem exec_hmov {s : State} {d} {a} : exec (.hmov d a) s = execHmov d a s := rfl
@[simp] theorem exec_haddi {s : State} {d} {a} {imm} : exec (.haddi d a imm) s = execHaddi d a imm s := rfl
@[simp] theorem exec_handi {s : State} {d} {a} {imm} : exec (.handi d a imm) s = execHandi d a imm s := rfl
@[simp] theorem exec_hshli {s : State} {d} {a} {n} : exec (.hshli d a n) s = execHshli d a n s := rfl
@[simp] theorem exec_hshri {s : State} {d} {a} {n} : exec (.hshri d a n) s = execHshri d a n s := rfl
@[simp] theorem exec_hli {s : State} {d} {imm} : exec (.hli d imm) s = execHli d imm s := rfl
@[simp] theorem exec_hvfadd {s : State} {d} {a} : exec (.hvfadd d a) s = execHvfadd d a s := rfl
@[simp] theorem exec_hvfmul {s : State} {d} {a} : exec (.hvfmul d a) s = execHvfmul d a s := rfl
@[simp] theorem exec_hvmov {s : State} {d} {a} : exec (.hvmov d a) s = execHvmov d a s := rfl
@[simp] theorem exec_hkand {s : State} {d} {a} : exec (.hkand d a) s = execHkand d a s := rfl
@[simp] theorem exec_hkor {s : State} {d} {a} : exec (.hkor d a) s = execHkor d a s := rfl
@[simp] theorem exec_hld {s : State} {d} {a} {imm} : exec (.hld d a imm) s = execHld d a imm s := rfl
@[simp] theorem exec_hst {s : State} {d} {a} {imm} : exec (.hst d a imm) s = execHst d a imm s := rfl
@[simp] theorem exec_resultWrite {s : State} {core} {idx} : exec (.resultWrite core idx) s = execResultWrite core idx s := rfl
@[simp] theorem exec_loadSectorArrival {s : State} {core} {idx} {sector} : exec (.loadSectorArrival core idx sector) s = execLoadSectorArrival core idx sector s := rfl
@[simp] theorem exec_storeQueueDrain {s : State} {core} {idx} : exec (.storeQueueDrain core idx) s = execStoreQueueDrain core idx s := rfl
@[simp] theorem exec_stackSpill {s : State} {core} : exec (.stackSpill core) s = execStackSpill core s := rfl
@[simp] theorem exec_walkComplete {s : State} {core} {va} : exec (.walkComplete core va) s = execWalkComplete core va s := rfl
@[simp] theorem exec_scrub {s : State} {die} : exec (.scrub die) s = execScrub die s := rfl
@[simp] theorem exec_impreciseTrapDelivery {s : State} {core} : exec (.impreciseTrapDelivery core) s = execImpreciseTrapDelivery core s := rfl
@[simp] theorem exec_item {s : State} {core} : exec (.item core) s = execItem core s := rfl
@[simp] theorem exec_weaveHold {s : State} {core} : exec (.weaveHold core) s = execWeaveHold core s := rfl
@[simp] theorem exec_weaveRelease {s : State} {core} : exec (.weaveRelease core) s = execWeaveRelease core s := rfl
@[simp] theorem exec_registrationArrival {s : State} {core} : exec (.registrationArrival core) s = execRegistrationArrival core s := rfl
@[simp] theorem exec_rdvTimeout {s : State} {core} : exec (.rdvTimeout core) s = execRdvTimeout core s := rfl
@[simp] theorem exec_collectiveArrival {s : State} {core} : exec (.collectiveArrival core) s = execCollectiveArrival core s := rfl
@[simp] theorem exec_depositArrival {s : State} {core} : exec (.depositArrival core) s = execDepositArrival core s := rfl
@[simp] theorem exec_asyncDepositApply {s : State} {core} {port} : exec (.asyncDepositApply core port) s = execAsyncDepositApply core port s := rfl
@[simp] theorem exec_waitmWake {s : State} {core} : exec (.waitmWake core) s = execWaitmWake core s := rfl
@[simp] theorem exec_waitmPoll {s : State} {core} : exec (.waitmPoll core) s = execWaitmPoll core s := rfl
@[simp] theorem exec_waitmYield {s : State} {core} : exec (.waitmYield core) s = execWaitmYield core s := rfl
@[simp] theorem exec_savedTaskRestore {s : State} {idx} {cores} : exec (.savedTaskRestore idx cores) s = execSavedTaskRestore idx cores s := rfl
@[simp] theorem exec_postAccept {s : State} {core} : exec (.postAccept core) s = execPostAccept core s := rfl
@[simp] theorem exec_passGrant {s : State} {me} : exec (.passGrant me) s = execPassGrant me s := rfl
@[simp] theorem exec_gangStart {s : State} {cluster} : exec (.gangStart cluster) s = execGangStart cluster s := rfl
@[simp] theorem exec_gangLatchTimeout {s : State} {me} {id} : exec (.gangLatchTimeout me id) s = execGangLatchTimeout me id s := rfl
@[simp] theorem exec_passComplete {s : State} {me} : exec (.passComplete me) s = execPassComplete me s := rfl
@[simp] theorem exec_mtblArrive {s : State} {me} : exec (.mtblArrive me) s = execMtblArrive me s := rfl
@[simp] theorem exec_combineWindowExpiry {s : State} {idx} : exec (.combineWindowExpiry idx) s = execCombineWindowExpiry idx s := rfl
@[simp] theorem exec_postAcceptance {s : State} {core} : exec (.postAcceptance core) s = execPostAcceptance core s := rfl
@[simp] theorem exec_copy {s : State} {idx} : exec (.copy idx) s = execCopy idx s := rfl
@[simp] theorem exec_gather {s : State} {idx} : exec (.gather idx) s = execGather idx s := rfl
@[simp] theorem exec_scatter {s : State} {idx} : exec (.scatter idx) s = execScatter idx s := rfl
@[simp] theorem exec_fill {s : State} {idx} : exec (.fill idx) s = execFill idx s := rfl
@[simp] theorem exec_iload {s : State} {idx} : exec (.iload idx) s = execIload idx s := rfl
@[simp] theorem exec_convert {s : State} {idx} : exec (.convert idx) s = execConvert idx s := rfl
@[simp] theorem exec_resume {s : State} {idx} : exec (.resume idx) s = execResume idx s := rfl
@[simp] theorem exec_route {s : State} {idx} : exec (.route idx) s = execRoute idx s := rfl
@[simp] theorem exec_jobStart {s : State} {eng} : exec (.jobStart eng) s = execJobStart eng s := rfl
@[simp] theorem exec_jobComplete {s : State} {eng} : exec (.jobComplete eng) s = execJobComplete eng s := rfl
@[simp] theorem exec_routeToken {s : State} {die} : exec (.routeToken die) s = execRouteToken die s := rfl
@[simp] theorem exec_sieveDeadlock {s : State} {die} : exec (.sieveDeadlock die) s = execSieveDeadlock die s := rfl
@[simp] theorem exec_ctxset {s : State} : exec (.ctxset) s = execCtxset s := rfl
@[simp] theorem exec_save {s : State} {die} : exec (.save die) s = execSave die s := rfl
@[simp] theorem exec_restore {s : State} {die} : exec (.restore die) s = execRestore die s := rfl
@[simp] theorem exec_launchTake {s : State} {ctx} {queue} : exec (.launchTake ctx queue) s = execLaunchTake ctx queue s := rfl
@[simp] theorem exec_launchDispatch {s : State} {lid} : exec (.launchDispatch lid) s = execLaunchDispatch lid s := rfl
@[simp] theorem exec_agePromotion {s : State} {lid} : exec (.agePromotion lid) s = execAgePromotion lid s := rfl
@[simp] theorem exec_taskStart {s : State} {lid} {cores} : exec (.taskStart lid cores) s = execTaskStart lid cores s := rfl
@[simp] theorem exec_rangeSteal {s : State} {lid} {die} : exec (.rangeSteal lid die) s = execRangeSteal lid die s := rfl
@[simp] theorem exec_cancelDeadline {s : State} {tid} : exec (.cancelDeadline tid) s = execCancelDeadline tid s := rfl
@[simp] theorem exec_spawnWindowExpiry {s : State} {die} {idx} : exec (.spawnWindowExpiry die idx) s = execSpawnWindowExpiry die idx s := rfl
@[simp] theorem exec_flushTimerExpiry {s : State} {queue} {block} : exec (.flushTimerExpiry queue block) s = execFlushTimerExpiry queue block s := rfl
@[simp] theorem exec_commitTimeout {s : State} {queue} {block} : exec (.commitTimeout queue block) s = execCommitTimeout queue block s := rfl
@[simp] theorem exec_queueDeadlock {s : State} {ctx} : exec (.queueDeadlock ctx) s = execQueueDeadlock ctx s := rfl
@[simp] theorem exec_budgetPeriod {s : State} {ctx} : exec (.budgetPeriod ctx) s = execBudgetPeriod ctx s := rfl
@[simp] theorem exec_saveDeadline {s : State} {ctx} : exec (.saveDeadline ctx) s = execSaveDeadline ctx s := rfl
@[simp] theorem exec_secondDeadline {s : State} {ctx} : exec (.secondDeadline ctx) s = execSecondDeadline ctx s := rfl
@[simp] theorem exec_stepRelease {s : State} {tid} {dom} : exec (.stepRelease tid dom) s = execStepRelease tid dom s := rfl
@[simp] theorem exec_stepTimeout {s : State} {core} : exec (.stepTimeout core) s = execStepTimeout core s := rfl
@[simp] theorem exec_sendLanding {s : State} {idx} : exec (.sendLanding idx) s = execSendLanding idx s := rfl
@[simp] theorem exec_sclkWaitExpiry {s : State} {core} : exec (.sclkWaitExpiry core) s = execSclkWaitExpiry core s := rfl
@[simp] theorem exec_huskSwitch {s : State} {core} : exec (.huskSwitch core) s = execHuskSwitch core s := rfl
@[simp] theorem exec_delayExpiry {s : State} {core} : exec (.delayExpiry core) s = execDelayExpiry core s := rfl
@[simp] theorem exec_modeWrite {s : State} {x} : exec (.modeWrite x) s = execModeWrite x s := rfl
@[simp] theorem exec_grantbaseWrite {s : State} {x} : exec (.grantbaseWrite x) s = execGrantbaseWrite x s := rfl
@[simp] theorem exec_xbaseWrite {s : State} {x} : exec (.xbaseWrite x) s = execXbaseWrite x s := rfl
@[simp] theorem exec_dutyWrite {s : State} {x} : exec (.dutyWrite x) s = execDutyWrite x s := rfl
@[simp] theorem exec_fpflagsWrite {s : State} {sr} {x} : exec (.fpflagsWrite sr x) s = execFpflagsWrite sr x s := rfl
@[simp] theorem exec_portfullWrite {s : State} {x} : exec (.portfullWrite x) s = execPortfullWrite x s := rfl
@[simp] theorem exec_ecccClear {s : State} {x} : exec (.ecccClear x) s = execEcccClear x s := rfl
@[simp] theorem exec_registerWrite {s : State} {sr} {x} : exec (.registerWrite sr x) s = execRegisterWrite sr x s := rfl
@[simp] theorem exec_rdmaWrite {s : State} {qp} {rkey} {va} {data} : exec (.rdmaWrite qp rkey va data) s = execRdmaWrite qp rkey va data s := rfl
@[simp] theorem exec_rdmaRead {s : State} {qp} {rkey} {va} {len} : exec (.rdmaRead qp rkey va len) s = execRdmaRead qp rkey va len s := rfl
@[simp] theorem exec_compareAndSwap {s : State} {qp} {rkey} {va} {cmp} {new} : exec (.compareAndSwap qp rkey va cmp new) s = execCompareAndSwap qp rkey va cmp new s := rfl
@[simp] theorem exec_fetchAndAdd {s : State} {qp} {rkey} {va} {x} : exec (.fetchAndAdd qp rkey va x) s = execFetchAndAdd qp rkey va x s := rfl
@[simp] theorem exec_mread {s : State} {src} {ctx} {seqn} {reg} : exec (.mread src ctx seqn reg) s = execMread src ctx seqn reg s := rfl
@[simp] theorem exec_mwrite {s : State} {src} {ctx} {seqn} {reg} {x} : exec (.mwrite src ctx seqn reg x) s = execMwrite src ctx seqn reg x s := rfl
@[simp] theorem exec_window {s : State} {src} {ctx} {seqn} {idx} {qp} {raddr} {rkey} {len} : exec (.window src ctx seqn idx qp raddr rkey len) s = execWindow src ctx seqn idx qp raddr rkey len s := rfl
@[simp] theorem exec_ringset {s : State} {src} {ctx} {seqn} {addr} {cap} {head} : exec (.ringset src ctx seqn addr cap head) s = execRingset src ctx seqn addr cap head s := rfl
@[simp] theorem exec_enrol {s : State} {src} {ctx} {seqn} {key} : exec (.enrol src ctx seqn key) s = execEnrol src ctx seqn key s := rfl
@[simp] theorem exec_preempt {s : State} {src} {ctx} {seqn} : exec (.preempt src ctx seqn) s = execPreempt src ctx seqn s := rfl
@[simp] theorem exec_release {s : State} {src} {ctx} {seqn} : exec (.release src ctx seqn) s = execRelease src ctx seqn s := rfl
@[simp] theorem exec_attest {s : State} {src} {ctx} {seqn} {nonce} : exec (.attest src ctx seqn nonce) s = execAttest src ctx seqn nonce s := rfl
@[simp] theorem exec_dreply {s : State} {src} {ctx} {seqn} {act} {answer} : exec (.dreply src ctx seqn act answer) s = execDreply src ctx seqn act answer s := rfl
@[simp] theorem exec_huskdata {s : State} {src} {ctx} {seqn} {off} {total} {data} : exec (.huskdata src ctx seqn off total data) s = execHuskdata src ctx seqn off total data s := rfl
@[simp] theorem exec_dutyRecordRepeat {s : State} {act} : exec (.dutyRecordRepeat act) s = execDutyRecordRepeat act s := rfl
@[simp] theorem exec_smbusAccess {s : State} {wr} {reg} {x} {owners} : exec (.smbusAccess wr reg x owners) s = execSmbusAccess wr reg x owners s := rfl
@[simp] theorem exec_jtagUnlock {s : State} {token} {key} {sig} : exec (.jtagUnlock token key sig) s = execJtagUnlock token key sig s := rfl
@[simp] theorem exec_powerGood {s : State} : exec (.powerGood) s = execPowerGood s := rfl
@[simp] theorem exec_throttleStep {s : State} : exec (.throttleStep) s = execThrottleStep s := rfl
@[simp] theorem exec_thermalTrip {s : State} : exec (.thermalTrip) s = execThermalTrip s := rfl
@[simp] theorem exec_unassignedEncoding {s : State} {w} : exec (.unassignedEncoding w) s = execUnassignedEncoding w s := rfl
@[simp] theorem exec_budgetExhausted {s : State} {ctx} {which} : exec (.budgetExhausted ctx which) s = execBudgetExhausted ctx which s := rfl
@[simp] theorem exec_parkedActivityTimeout {s : State} {act} : exec (.parkedActivityTimeout act) s = execParkedActivityTimeout act s := rfl
@[simp] theorem exec_placementClaim {s : State} {lid} {cores} : exec (.placementClaim lid cores) s = execPlacementClaim lid cores s := rfl
@[simp] theorem exec_hostWindowNak {s : State} {ctx} {addr} : exec (.hostWindowNak ctx addr) s = execHostWindowNak ctx addr s := rfl
@[simp] theorem exec_eccError {s : State} {addr} {uncorrectable} : exec (.eccError addr uncorrectable) s = execEccError addr uncorrectable s := rfl

end Sys2Proof.Machine
end

