-- ==== Sys2Proof/Laws/Memory.lean ====
section
/-!
SUPPORT. Memory: a byte read after a write, and that every memory operation keeps the canonical form.
-/
namespace Sys2Proof.Machine

/-- The canonical form, part by part. -/
theorem Memory.wf_iff (m : List Host.Cell) : Memory.wf m = true ↔ mrising none m = true ∧ ∀ e ∈ m, e.2 ≠ unlisted e.1 := by
  simp [Memory.wf, List.all_eq_true]

theorem readByte_writeByte (m : List Host.Cell) (a a' : Nat) (b : Byte) :
    readByte (writeByte m a b) a' = if a' = a then b else readByte m a' := by
  unfold readByte writeByte
  by_cases h : a' = a
  · subst h; simp
  · simp [h, mget_mput_ne (unlisted a') (unlisted a) m b h]

theorem wf_writeByte {m : List Host.Cell} (a : Nat) (b : Byte) (h : Memory.wf m = true) : Memory.wf (writeByte m a b) = true := by
  rw [Memory.wf_iff] at h ⊢
  refine ⟨mrising_mput _ a b h.1, ?_⟩
  intro e he
  unfold writeByte mput at he
  split at he
  · exact h.2 e (mem_merase he)
  · rcases mem_mset he with rfl | he
    · assumption
    · exact h.2 e he

theorem wf_writeBytes {m : List Host.Cell} (a : Nat) (bs : List Byte) (h : Memory.wf m = true) : Memory.wf (writeBytes m a bs) = true := by
  induction bs generalizing m a with
  | nil => exact h
  | cons b r ih => exact ih (a + 1) (wf_writeByte a b h)

theorem wf_writeCells {m : List Host.Cell} (cs : List Host.Cell) (h : Memory.wf m = true) : Memory.wf (writeCells m cs) = true := by
  induction cs generalizing m with
  | nil => exact h
  | cons c r ih => exact ih (wf_writeByte c.1 c.2 h)

/-- A filter of memory in canonical form is in canonical form. -/
theorem wf_filter {m : List Host.Cell} (p : Host.Cell → Bool) (h : Memory.wf m = true) : Memory.wf (m.filter p) = true := by
  rw [Memory.wf_iff] at h ⊢
  refine ⟨?_, fun e he => h.2 e (List.mem_of_mem_filter he)⟩
  have gen : ∀ (b : Option Nat) (l : List Host.Cell), mrising b l = true → mrising b (l.filter p) = true := by
    intro b l
    induction l generalizing b with
    | nil => intro _; rfl
    | cons e r ih =>
      obtain ⟨j, v⟩ := e
      intro hr
      simp only [mrising, Bool.and_eq_true] at hr
      by_cases hp : p (j, v) = true
      · simp only [List.filter_cons, hp, if_true, mrising, Bool.and_eq_true]
        exact ⟨hr.1, ih _ hr.2⟩
      · simp only [List.filter_cons, hp]
        cases b with
        | none => exact mrising_none_of_some (ih _ hr.2)
        | some i =>
          have hi : i < j := by simpa using hr.1
          exact mrising_weaken (Nat.le_of_lt hi) (ih _ hr.2)
  exact gen none m h.1

/-- A byte outside a block of writes reads as before. -/
theorem readByte_writeBytes_of_out (m : List Host.Cell) (a : Nat) (bs : List Byte) (a' : Nat) (h : a' < a ∨ a + bs.length ≤ a') :
    readByte (writeBytes m a bs) a' = readByte m a' := by
  induction bs generalizing m a with
  | nil => rfl
  | cons b r ih =>
    simp only [List.length_cons] at h
    rw [writeBytes, ih _ _ (by omega), readByte_writeByte, if_neg (by omega)]

/-- A byte of a block of writes reads as written. -/
theorem readByte_writeBytes_of_in (m : List Host.Cell) (a : Nat) (bs : List Byte) (i : Nat) (h : i < bs.length) :
    readByte (writeBytes m a bs) (a + i) = bs[i] := by
  induction bs generalizing m a i with
  | nil => simp at h
  | cons b r ih =>
    rw [writeBytes]
    cases i with
    | zero => rw [readByte_writeBytes_of_out _ _ _ _ (by omega), readByte_writeByte]; simp
    | succ i =>
      have := ih (writeByte m a b) (a + 1) i (by simpa using h)
      rw [show a + (i + 1) = a + 1 + i by omega, this]
      simp

theorem readBytes_writeBytes (m : List Host.Cell) (a : Nat) (bs : List Byte) : readBytes (writeBytes m a bs) a bs.length = bs := by
  have gen : ∀ (n i : Nat) (m : List Host.Cell), (∀ j < n, readByte m (a + i + j) = bs.getD (i + j) 0) → i + n = bs.length →
      readBytes m (a + i) n = bs.drop i := by
    intro n
    induction n with
    | zero => intro i m _ hn; simp [readBytes, List.drop_eq_nil_of_le (by omega : bs.length ≤ i)]
    | succ n ih =>
      intro i m hm hn
      have hi : i < bs.length := by omega
      rw [readBytes, List.drop_eq_getElem_cons hi]
      congr 1
      · have := hm 0 (by omega)
        simpa [List.getD_eq_getElem?_getD, List.getElem?_eq_getElem hi] using this
      · have := ih (i + 1) m (fun j hj => by
          have := hm (j + 1) (by omega)
          rwa [show a + i + (j + 1) = a + (i + 1) + j by omega, show i + (j + 1) = i + 1 + j by omega] at this) (by omega)
        rwa [show a + i + 1 = a + (i + 1) by omega]
  have := gen bs.length 0 (writeBytes m a bs) (fun j hj => by
    simp only [Nat.add_zero, Nat.zero_add]
    rw [readByte_writeBytes_of_in m a bs j hj]
    simp [List.getD_eq_getElem?_getD, List.getElem?_eq_getElem hj]) (by omega)
  simpa using this

end Sys2Proof.Machine
end

