-- ==== Sys2Proof/Laws/Records.lean ====
section
/-!
SUPPORT. The lengths of what save records are made of (R455, R466).
-/
namespace Sys2Proof.Machine

@[simp] theorem leBytes_length (x n : Nat) : (leBytes x n).length = n := by
  induction n generalizing x with
  | zero => rfl
  | succ n ih => rw [leBytes, List.length_cons, ih]

theorem flat_map_length {α : Type} (f : α → List Byte) (k : Nat) (h : ∀ x, (f x).length = k) (xs : List α) :
    (flat (xs.map f)).length = xs.length * k := by
  induction xs with
  | nil => rw [List.length_nil, Nat.zero_mul]; rfl
  | cons x r ih =>
    show (f x ++ flat (r.map f)).length = _
    rw [List.length_append, ih, h, List.length_cons, Nat.succ_mul, Nat.add_comm]

theorem ringBytes_length (r : RingEntry) : r.bytes.length = 32 := by
  unfold RingEntry.bytes
  simp only [List.length_append, leBytes_length, List.length_cons, List.length_nil]

theorem vecBytes_length (v : Vec) : (vecBytes v).length = 64 := by
  show (flat (v.toList.map (fun (x : BitVec 32) => leBytes x.toNat 4))).length = 64
  rw [flat_map_length _ 4 (fun x => leBytes_length ..), Vector.length_toList]

/-- A core's record without its scratchpad is 0x8100 bytes long (R476). -/
theorem coreRecord_length (s : State) (n : Nat) (mode : Byte) (token : Nat) : (s.coreRecord n mode token false).length = 0x8100 := by
  unfold State.coreRecord gapBytes
  simp only [List.length_append, leBytes_length, List.length_cons, List.length_nil, List.length_replicate, List.length_map, List.length_range,
    Bool.false_eq_true, if_false, flat_map_length _ 8 (fun _ => leBytes_length ..), flat_map_length _ 2 (fun _ => leBytes_length ..),
    flat_map_length _ 16 (fun _ => leBytes_length ..), flat_map_length _ 32 (fun _ => ringBytes_length _),
    flat_map_length _ 64 (fun _ => vecBytes_length _), flat_map_length _ 32 (fun _ => leBytes_length ..)]

end Sys2Proof.Machine
end

