-- ==== Sys2Proof/Laws/Tasks.lean ====
section
/-!
SUPPORT. What a write to memory by any agent leaves of the Hamper: the tasks stay as they are.
-/
namespace Sys2Proof.Machine

theorem tasks_xlate (s : State) (ps : List TlbPlace) (ctx va : Nat) (n : PageNeed) : (s.xlate ps ctx va n).2.ham = s.ham := by
  obtain ⟨t, ht⟩ := xlate_tlb s ps ctx va n
  rw [ht]

@[simp] theorem ham_noticeDrops (s : State) (ctx : Nat) : (s.noticeDrops ctx).ham = s.ham := by
  unfold State.noticeDrops
  exact (apply_ite State.ham _ _ _).trans (ite_self _)

@[simp] theorem ham_dropRecord (s : State) (ctx : Nat) (cause : Byte) : (s.dropRecord ctx cause).ham = s.ham := by
  unfold State.dropRecord
  exact (ham_noticeDrops _ _).trans rfl

@[simp] theorem ham_faultRecord (s : State) (ctx : Nat) (rec : List Byte) : (s.faultRecord ctx rec).ham = s.ham := by
  have hx := fun (s : State) (va : Nat) => tasks_xlate s [.hub] ctx va { r := true, w := true }
  unfold State.faultRecord
  simp only
  split
  · simp
  · split <;> rename_i h <;> have h1 := hx s (s.getX ctx).ccb.faultQ <;> rw [h] at h1
    · rw [ham_dropRecord]; exact h1
    · split
      · rw [ham_dropRecord]; exact h1
      · split
        · rw [ham_dropRecord]; exact h1
        · split
          · exact h1
          · rename_i t _ _ _ _
            split <;> rename_i k <;> have h2 := congrArg (fun x => x.2.ham) k <;> rw [hx] at h2
            · rw [ham_dropRecord]; exact h2.symm.trans h1
            · split
              · rw [ham_dropRecord]; exact h2.symm.trans h1
              · exact h2.symm.trans h1

@[simp] theorem ham_healed (s : State) (ctx : Nat) (keys : List Nat) : (s.healed ctx keys).ham = s.ham := by
  unfold State.healed
  generalize s.poison.filter _ = xs
  induction xs generalizing s with
  | nil => rfl
  | cons x r ih =>
    rw [List.foldl_cons, ih]
    split
    · rfl
    · exact ham_faultRecord ..

@[simp] theorem ham_markStale (s : State) (key : Nat) : (s.markStale key).ham = s.ham := by
  unfold State.markStale
  exact (apply_ite State.ham _ _ _).trans (ite_self _)

theorem tasks_noteWrite (s : State) (cells : List Host.Cell) : (s.noteWrite cells).ham.tasks = s.ham.tasks := by
  unfold State.noteWrite
  exact (apply_ite (fun s : State => s.ham.tasks) _ _ _).trans (ite_self _)

theorem tasks_perform (s : State) (ctx : Nat) (cells : List Host.Cell) (tags : List (Nat × Bool)) : (s.perform ctx cells tags).ham.tasks = s.ham.tasks := by
  unfold State.perform
  cases cells with
  | nil => rfl
  | cons x r =>
    refine (tasks_noteWrite _ _).trans ?_
    rw [ham_markStale]
    split
    · rfl
    · rw [ham_healed]

@[simp] theorem tasks_writeAt (s : State) (ctx key : Nat) (bs : List Byte) : (s.writeAt ctx key bs).ham.tasks = s.ham.tasks := by
  unfold State.writeAt
  split
  · rfl
  · exact tasks_perform ..

@[simp] theorem tasks_hostStore (s : State) (ctx pa : Nat) (bs : List Byte) : (s.hostStore ctx pa bs).ham.tasks = s.ham.tasks := by
  unfold State.hostStore State.remoteRecord
  split
  · split
    · rw [ham_faultRecord]
    · rfl
  · rw [ham_faultRecord]

@[simp] theorem tasks_ctxWrite (s : State) (ctx va : Nat) (bs : List Byte) : (s.ctxWrite ctx va bs).ham.tasks = s.ham.tasks := by
  unfold State.ctxWrite
  simp only
  generalize List.range _ = xs
  induction xs generalizing s with
  | nil => rfl
  | cons x r ih =>
    rw [List.foldl_cons, ih]
    split <;> rename_i h <;> have h2 := congrArg (fun x => x.2.ham.tasks) h <;> simp only [tasks_xlate] at h2
    · exact h2.symm
    · split
      · rw [tasks_hostStore]; exact h2.symm
      · rw [tasks_writeAt]; exact h2.symm

@[simp] theorem tasks_giveOut (s : State) (ctx die token : Nat) (vs : List Saved) (cores : List (Nat × Nat)) :
    (s.giveOut ctx die token vs cores).ham.tasks = s.ham.tasks := rfl

/-- Writing a save area ends no task. -/
theorem tasks_writeArea (s : State) (die : Nat) (j : Job) : (s.writeArea die j).ham.tasks = s.ham.tasks := by
  unfold State.writeArea
  simp only
  rw [tasks_giveOut, State.updX_ham, tasks_ctxWrite]

/-- So it leaves the tasks that hold cores as they were. -/
theorem resident_writeArea (s : State) (die : Nat) (j : Job) (ctx : Nat) : (s.writeArea die j).resident ctx = s.resident ctx := by
  unfold State.resident
  rw [tasks_writeArea]

end Sys2Proof.Machine
end

