-- ==== Sys2Proof/Tests/Slice0.lean ====
section
/-!
SUPPORT. Tests: words written out from the manual's encodings decode to what they stand for, words with a fault are refused, terms
that are no instruction fail WellFormed, a few first steps; and, for every statement with hypotheses, states and operands that
meet them, clause by clause.
-/
open Sys2Proof Sys2Proof.Machine Sys2Proof.Safety

set_option maxRecDepth 20000
set_option Elab.async false

/-! ## Words (R29, R30): one or more of every constructor -/

theorem test_decode_sys :
    ([0x0000000000000000, 0x0010000000008001, 0x0020000000000007, 0x0030000000000001, 0x0030000000000002, 0x004000002000017F,
     0x0050000000120006, 0x0060000000000000, 0x0070000000000000, 0x0080000000080503, 0x008000000008050C, 0x0080000000000010,
     0x0090000028160001, 0x0090000000160C02, 0x00A0000010000601, 0x00B0000010000600, 0x00C0000010000600, 0x00C00000100A0000,
     0x00D00000100A0000, 0x00E000001C000001, 0x00E000001C120003, 0x00F000001C000001, 0x00F000001C000004] : List Nat).map (decodeTableWord 64) =
    ([.nop, .trap 0x8001, .bkpt 0x7, .eret true false, .eret false true,
     .mfsr 8 0x17F, .mtsr 6 9, .isync, .idle, .tlbinv .page .pkg 4 5,
     .tlbinv .ctx .sys 4 5, .tlbinv .all .core 0 0, .echk (.read 10 11 true), .echk (.mark 11 12), .csave 4 6 true,
     .crest 4 6 false, .hpload 4 (.mem 6), .hpload 4 (.fetch 5), .hpact 4 5, .hpqry 7 .pend,
     .hpqry 7 (.digest 9), .ident 7 .stepping, .ident 7 .serialHi] : List Instr).map some := rfl

theorem test_decode_ctl :
    ([0x040000000001FFFF, 0x04100000140C0007, 0x04200000140C0007, 0x0430000000000009, 0x04400000000A0000, 0x0450000000000000,
     0x04600000007E0000, 0x047000001401FFFC, 0x0480000000000200, 0x0490000000000000] : List Nat).map (decodeTableWord 64) =
    ([.br 0x1FFFF, .bcc 5 6 7, .bk 5 6 7, .call 9, .callr 5,
     .ret, .jmpr 63, .loop 5 0x1FFFC, .enter 512, .leave] : List Instr).map some := rfl

theorem test_decode_strm :
    ([0x08000000100A0602, 0x08100000100A0006, 0x08200000100A0600, 0x083000000000000F, 0x0840000000011FF7, 0x0850000013FE0005,
     0x08600000100A0001, 0x0870000000000000, 0x0880000000000000] : List Nat).map (decodeTableWord 64) =
    ([.subStream .trap 4 5 6, .unsub 4 5 6, .resub 4 5 6, .rdv 15, .rdvh 7 4607,
     .brw 4 511 5, .wvote true 4 5, .puboff, .pubon] : List Instr).map some := rfl

theorem test_decode_int_a :
    ([0x0C00000024140B3F, 0x0E0000002415FFFF, 0x0C10000024140B3F, 0x0E1000002415FFFF, 0x0C90000024140B3F, 0x0E9000002415FFFF,
     0x0CA0000024140B3F, 0x0EA000002415FFFF, 0x0CB0000024140B3F, 0x0EB000002415FFFF, 0x0CC0000024140B3F, 0x0EC000002415FFFF,
     0x0C20000024140B00, 0x0E20000024150000, 0x0C30000024140B00, 0x0E30000024150000, 0x0C40000024140B00, 0x0E40000024150000,
     0x0C50000024140B00, 0x0E50000024150000, 0x0C60000024140B00, 0x0E60000024150000, 0x0C70000024140B00, 0x0E70000024150000] : List Nat).map (decodeTableWord 64) =
    ([.add 9 10 11 63, .addi 9 10 0x1FFFF, .sub 9 10 11 63, .subi 9 10 0x1FFFF, .and 9 10 11 63,
     .andi 9 10 0x1FFFF, .or 9 10 11 63, .ori 9 10 0x1FFFF, .xor 9 10 11 63, .xori 9 10 0x1FFFF,
     .andn 9 10 11 63, .andni 9 10 0x1FFFF, .mul 9 10 11, .muli 9 10 0x10000, .mulhS 9 10 11,
     .mulhiS 9 10 0x10000, .mulhZ 9 10 11, .mulhiZ 9 10 0x10000, .divS 9 10 11, .diviS 9 10 0x10000,
     .divZ 9 10 11, .diviZ 9 10 0x10000, .remS 9 10 11, .remiS 9 10 0x10000] : List Instr).map some := rfl

theorem test_decode_int_b :
    ([0x0C80000024140B00, 0x0E80000024150000, 0x0D10000024140B00, 0x0F10000024150000, 0x0D20000024140B00, 0x0F20000024150000,
     0x0D30000024140B00, 0x0F30000024150000, 0x0D40000024140B00, 0x0F40000024150000, 0x0D50000024140B00, 0x0F50000024150000,
     0x0D60000024140B00, 0x0F60000024150000, 0x0D70000024140B00, 0x0F70000024150000, 0x0DE0000024140B00, 0x0FE0000024150000,
     0x0CD0000024140B00, 0x0ED000002414003F, 0x0CE0000024140B00, 0x0EE000002414003F, 0x0CF0000024140B00, 0x0EF000002414003F] : List Nat).map (decodeTableWord 64) =
    ([.remZ 9 10 11, .remiZ 9 10 0x10000, .minS 9 10 11, .miniS 9 10 0x10000, .minZ 9 10 11,
     .miniZ 9 10 0x10000, .maxS 9 10 11, .maxiS 9 10 0x10000, .maxZ 9 10 11, .maxiZ 9 10 0x10000,
     .sltS 9 10 11, .sltiS 9 10 0x10000, .sltZ 9 10 11, .sltiZ 9 10 0x10000, .seq 9 10 11,
     .seqi 9 10 0x10000, .mad 9 10 11, .madi 9 10 0x10000, .shl 9 10 11, .shli 9 10 63,
     .shr 9 10 11, .shri 9 10 63, .sar 9 10 11, .sari 9 10 63] : List Instr).map some := rfl

theorem test_decode_int_c :
    ([0x0D00000024140B00, 0x0F0000002414003F, 0x0D80000024140000, 0x0F80000024000005, 0x0D90000024140000, 0x0F90000024000005,
     0x0DA0000024140000, 0x0FA0000024000005, 0x0DB0000024140000, 0x0FB0000024000005, 0x0DC0000024140BC0, 0x0FC00000241411C3,
     0x0DD0000024140B05, 0x0FD00000241401C3, 0x0DF0000024140000, 0x0FF00000FFFFFFFF] : List Nat).map (decodeTableWord 64) =
    ([.rol 9 10 11, .roli 9 10 63, .clz 9 10, .clzi 9 5, .ctz 9 10,
     .ctzi 9 5, .popc 9 10, .popci 9 5, .brev 9 10, .brevi 9 5,
     .bfx 9 10 11 64 true, .bfxi 9 10 3 7 true, .bfi 9 10 11 5, .bfii 9 10 3 7, .mov 9 10,
     .li 7 0x1FFFFFFF] : List Instr).map some := rfl

theorem test_decode_cap :
    ([0x1000000020120000, 0x1000000020120001, 0x1000000020120002, 0x1000000020120003, 0x1000000020120004, 0x1000000020120005,
     0x1000000020120006, 0x1010000020120A00, 0x102000001407FFF0, 0x10300000140607FF, 0x1040000020120A00, 0x1050000020120000,
     0x1060000020120A00, 0x1070000020120A00, 0x1080000020120000] : List Nat).map (decodeTableWord 64) =
    ([.cget 8 9 .addr, .cget 8 9 .gid, .cget 8 9 .perm, .cget 8 9 .gen, .cget 8 9 .tag,
     .cget 8 9 .base, .cget 8 9 .length, .cseta 8 9 10, .cadd 5 3 0x1FFF0, .candp 5 3 0x7FF,
     .cfrom 8 9 10, .cclr 8 9, .cchk 8 9 10, .gnew 8 9 10, .grev 8 9] : List Instr).map some := rfl

theorem test_decode_lds :
    ([0x14000000200A0003, 0x14000000200A4003, 0x14000000200A8003, 0x14000000200AC003, 0x14000000200B0003, 0x14000000200B4003,
     0x14000000200B8003, 0x14000000200BC003, 0x141000002405BFFE, 0x142000002405FFFF, 0x1430000024040001, 0x1440000020078008,
     0x145000000000001F, 0x14600000000A0006] : List Nat).map (decodeTableWord 64) =
    ([.ld 8 5 .z8 3, .ld 8 5 .s8 3, .ld 8 5 .z16 3, .ld 8 5 .s16 3, .ld 8 5 .z32 3,
     .ld 8 5 .s32 3, .ld 8 5 .z64 3, .ld 8 5 .q 3, .st 9 2 .z64 0x3FFE, .ldc 9 2 0x1FFFF,
     .stc 9 2 1, .lda 8 3 .z64 8, .waitld 31, .pref 5 6] : List Instr).map some := rfl

theorem test_decode_atm :
    ([0x1800000020120580, 0x1800000020120592, 0x18000000201205A4, 0x18000000201205B6, 0x18000000201205C8, 0x18000000201205DA,
     0x18000000201205EC, 0x18000000201205FE, 0x1810000020120503, 0x1810000020120517, 0x181000002012052B, 0x182000002012050A,
     0x1830000020000582, 0x1840000000120503, 0x18500000001205F6] : List Nat).map (decodeTableWord 64) =
    ([.amo .add .z64 .rlx 8 9 5, .amo .swap .z64 (.acq .cluster) 8 9 5, .amo .and .z64 (.acq .pkg) 8 9 5, .amo .or .z64 (.rel .core) 8 9 5, .amo .xor .z64 (.rel .die) 8 9 5,
     .amo .mins .z64 (.rel .sys) 8 9 5, .amo .maxs .z64 (.ar .cluster) 8 9 5, .amo .maxz .z64 (.ar .pkg) 8 9 5, .amof .add (.acq .die) 8 9 5, .amof .min (.rel .cluster) 8 9 5,
     .amof .max (.ar .core) 8 9 5, .cas .z32 (.rel .sys) 8 9 5, .ldaq .z64 .die 8 5, .strl .z32 .pkg 9 5, .amonr .maxz .z64 (.rel .core) 9 5] : List Instr).map some := rfl

theorem test_decode_syn :
    ([0x1C00000000000001, 0x1C00000000000009, 0x1C00000000000011, 0x1C00000000000019, 0x1C100000000800FF, 0x1C200000000800C8,
     0x1C300000100000C8, 0x1C400000000800C8, 0x1C50000020120584, 0x1C6000000008090A, 0x1C60000000080917, 0x1C70000010000005] : List Nat).map (decodeTableWord 64) =
    ([.fence .acq .cluster, .fence .rel .cluster, .fence .ar .cluster, .fence .seq .cluster, .binit 4 255,
     .bexp 4 200, .barr 4 200, .bwait 4 200, .waitm .z64 .sys 8 9 5, .msend true false 2 4 9,
     .msend false true 7 4 9, .pget 4 5] : List Instr).map some := rfl

theorem test_decode_msk :
    ([0x2000000004040F00, 0x2010000004040F00, 0x2020000004040F00, 0x2030000004040F00, 0x2040000004040000, 0x2050000004040000,
     0x2050000004280001, 0x2050000050020002, 0x2060000050020000, 0x2070000050020000, 0x208000000400FFFE] : List Nat).map (decodeTableWord 64) =
    ([.kand 1 2 15, .kor 1 2 15, .kxor 1 2 15, .kandn 1 2 15, .knot 1 2,
     .kmov (.kk 1 2), .kmov (.kg 1 20), .kmov (.gk 20 1), .kpopc 20 1, .kff 20 1,
     .kset 1 0xFFFE] : List Instr).map some := rfl

theorem test_decode_vint_a :
    ([0x2400001CB25B2E00, 0x2410001CB25A0C09, 0x2420001CB25B2E02, 0x2430001CB25A0C0B, 0x2440001CB25B2E04, 0x2450001CB25A0C0D,
     0x2460001CB25B2E00, 0x2470001CB25A0C09, 0x2480001CB25B2E02, 0x2490001CB25A0C0B, 0x24A0001CB25B2E04, 0x24B0001CB25A0C0D,
     0x24C0001CB25B2E00, 0x24F0001CB25A0C09, 0x2520001CB25B2E02, 0x2530001CB25A0C0B, 0x24D0001CB25A0002, 0x2500001CB25A0003,
     0x2510001CB25A0004, 0x2540001CB25A0005, 0x24E00018125B2E04, 0x24E00018125B2E15, 0x24E00018125B2E24, 0x24E00018125B2E44] : List Nat).map (decodeTableWord 64) =
    ([.vadd 3 300 301 (.v 302) .z8, .vsub 3 300 301 (.g 12) .s8, .vmul 3 300 301 (.v 302) .z16, .vmulh 3 300 301 (.g 12) .s16, .vmad 3 300 301 (.v 302) .z32,
     .vand 3 300 301 (.g 12) .s32, .vor 3 300 301 (.v 302) .z8, .vxor 3 300 301 (.g 12) .s8, .vshl 3 300 301 (.v 302) .z16, .vshr 3 300 301 (.g 12) .s16,
     .vsar 3 300 301 (.v 302) .z32, .vmin 3 300 301 (.g 12) .s32, .vmax 3 300 301 (.v 302) .z8, .vsel 3 300 301 (.g 12) .s8, .vadds 3 300 301 (.v 302) .z16,
     .vsubs 3 300 301 (.g 12) .s16, .vabs 3 300 301 .z16, .vpopc 3 300 301 .s16, .vclz 3 300 301 .z32, .vmovs 3 300 301 .s32,
     .vcmp 3 4 301 (.v 302) .eq false, .vcmp 3 4 301 (.v 302) .lt true, .vcmp 3 4 301 (.v 302) .le false, .vcmp 3 4 301 (.v 302) .ne false] : List Instr).map some := rfl

theorem test_decode_vint_b :
    ([0x24E00018125B2E55, 0x24E00018125B2E64, 0x2550001CB25A0301, 0x2550001CB25A0102] : List Nat).map (decodeTableWord 64) =
    ([.vcmp 3 4 301 (.v 302) .ge true, .vcmp 3 4 301 (.v 302) .gt false, .vext 3 300 301 3 .s8, .vext 3 300 301 1 .z16] : List Instr).map some := rfl

theorem test_decode_vfp :
    ([0x2800001028160C00, 0x2810001028160C01, 0x2820001028160C02, 0x2830001028160C03, 0x2840001028160C00, 0x2800001028160C0B,
     0x2850001028160C10, 0x2860001028160C08, 0x2870001028160000, 0x2880001028160000, 0x2890001028160C00, 0x2890001028160C10,
     0x2890001028160C20, 0x2890001028160C30, 0x2890001028160C40, 0x2890001028160C50, 0x2890001028160C60, 0x2890001028160C70,
     0x28A000102817FF00, 0x28B0001028160C00, 0x28C0001028160000] : List Nat).map (decodeTableWord 64) =
    ([.vfadd 2 10 11 (.v 12) .rne, .vfsub 2 10 11 (.v 12) .rtz, .vfmul 2 10 11 (.v 12) .rdn, .vfma 2 10 11 (.v 12) .rup, .vfms 2 10 11 (.v 12) .rne,
     .vfadd 2 10 11 (.g 12) .rup, .vfmin 2 10 11 (.v 12) true, .vfmax 2 10 11 (.g 12) false, .vfabs 2 10 11, .vfneg 2 10 11,
     .vfcmp 2 10 11 (.v 12) .eq, .vfcmp 2 10 11 (.v 12) .lt, .vfcmp 2 10 11 (.v 12) .le, .vfcmp 2 10 11 (.v 12) .un, .vfcmp 2 10 11 (.v 12) .ne,
     .vfcmp 2 10 11 (.v 12) .ge, .vfcmp 2 10 11 (.v 12) .gt, .vfcmp 2 10 11 (.v 12) .ord, .vfclass 2 10 11 0x1FF, .vfdiv 2 10 11 (.v 12),
     .vfsqrt 2 10 11] : List Instr).map some := rfl

theorem test_decode_vsfu :
    ([0x2C00001028160000, 0x2C10001028160000, 0x2C20001028160000, 0x2C30001028160000, 0x2C40001028160000, 0x2C50001028160000,
     0x2C60001028160000, 0x2C70001028160000, 0x2C80001028160000, 0x2CA0001028160000, 0x2C90000040280900] : List Nat).map (decodeTableWord 64) =
    ([.vrcp 2 10 11, .vrsq 2 10 11, .vexp2 2 10 11, .vlog2 2 10 11, .vsinpi 2 10 11,
     .vcospi 2 10 11, .vtanh 2 10 11, .vsigm 2 10 11, .verf 2 10 11, .vgumb 2 10 11,
     .vrng 0 16 20 9] : List Instr).map some := rfl

theorem test_decode_vcvt :
    ([0x3000000820122041, 0x300000082013F017, 0x3000000820121952, 0x3000000820123263, 0x30000008201230C8, 0x3000000820123339,
     0x300000082012102A, 0x300000082012108E, 0x300000082012301B, 0x3000000820127891, 0x30000008201200AC, 0x30000008201210E4,
     0x3000000820120015, 0x3000000820122036, 0x3010000820120AF6, 0x3020000820200007, 0x3030000820120000, 0x3030000820120001,
     0x3040000820120A08, 0x3040000820120A17, 0x305000082012000A, 0x3060000820140051, 0x3060000820160060] : List Nat).map (decodeTableWord 64) =
    ([.vcvt 1 8 9 .f32 .e4m3 .rne false 2 0, .vcvt 1 8 9 .t4 .f32 .rne false 7 3, .vcvt 1 8 9 .bf16 .e5m2 .rtz true 1 0, .vcvt 1 8 9 .f16 .e2m1 .rdn false 3 0, .vcvt 1 8 9 .s8 .s32 .rne false 3 0,
     .vcvt 1 8 9 .s4 .f16 .rup false 3 0, .vcvt 1 8 9 .z8 .bf16 .rne false 1 0, .vcvt 1 8 9 .z4 .s8 .rne false 1 0, .vcvt 1 8 9 .e8m0 .f32 .rne false 3 0, .vcvt 1 8 9 .f32 .s4 .rne true 7 0,
     .vcvt 1 8 9 .s32 .z8 .rne false 0 0, .vcvt 1 8 9 .e4m3 .z4 .rne false 1 0, .vcvt 1 8 9 .e5m2 .f32 .rne false 0 0, .vcvt 1 8 9 .e2m1 .f16 .rne false 2 0, .vcvtsr 1 8 9 10 .e2m1 true 7,
     .vpack 1 8 16 .s4 true, .vunpk 1 8 9 .z8, .vunpk 1 8 9 .s8, .vscale 1 8 9 (.v 10) true none, .vscale 1 8 9 (.g 10) false (some 3),
     .vrint 1 8 9 .rdn true, .vbscale 1 8 10 .e5m2 true, .vbscale 1 8 11 .e2m1 false] : List Instr).map some := rfl

theorem test_decode_vmem :
    ([0x3400002020180600, 0x3410002020180600, 0x3460002020180600, 0x3470002020180600, 0x3480002020180600, 0x3420002020180600,
     0x3420002020180601, 0x3420002020180602, 0x3420002020180603, 0x3420002020180604, 0x3430002020180602, 0x34400020783E073B,
     0x34500020783E070C] : List Nat).map (decodeTableWord 64) =
    ([.vld 4 8 12 6, .vst 4 8 12 6, .vcmpst 4 8 12 6, .vexpld 4 8 12 6, .vlda 4 8 12 6,
     .vlds 4 8 12 6 .z8, .vlds 4 8 12 6 .s8, .vlds 4 8 12 6 .z16, .vlds 4 8 12 6 .s16, .vlds 4 8 12 6 .w32,
     .vsts 4 8 12 6 .z16, .vgath 4 30 31 7 .s16 true 3, .vscat 4 30 31 7 .w32 false 1] : List Instr).map some := rfl

theorem test_decode_vperm :
    ([0x3800000820120A01, 0x3810000820120F00, 0x3810000820120A01, 0x3810000820120A02, 0x3810000820120A03, 0x3810000820120A04,
     0x3820000820120F00, 0x3820000820120F01, 0x3830000820120F00, 0x3830000820000F01, 0x38400008502A0028, 0x38500008502A0242,
     0x38600008502A0015, 0x38700000502A0003, 0x38800008502A0021, 0x38800008502A004B, 0x38800008502A000C, 0x3890000820120001,
     0x38A0000820120000, 0x38B0000820120000, 0x38C00005FC7E0000, 0x38D00000FEFE0000] : List Nat).map (decodeTableWord 64) =
    ([.vperm 1 8 9 10 true, .vshuf 1 8 9 (.xor 15), .vshuf 1 8 9 (.ziplo 10), .vshuf 1 8 9 (.ziphi 10), .vshuf 1 8 9 (.unzipe 10),
     .vshuf 1 8 9 (.unzipo 10), .vrot 1 8 9 (.imm 15), .vrot 1 8 9 (.g 15), .vbcst 1 8 (.lane 9 15), .vbcst 1 8 (.g 15),
     .vscan 1 20 21 .add .s32 true false, .vsscan 1 20 21 2 .max .f32 false true, .vred 1 20 21 .xor .z32, .vxchg 20 21 3, .vchain 1 20 21 .min .f32 .excl,
     .vchain 1 20 21 .and .s32 .bc, .vchain 1 20 21 .or .s32 .incl, .vcprs 1 8 9 true, .vexpd 1 8 9 false, .vballot 1 8 9,
     .vgetx 383 63, .vputx 63 383] : List Instr).map some := rfl

theorem test_decode_vdot :
    ([0x3C000018301A0E01, 0x3C100018301A0E06, 0x3C200018301A0E03, 0x3C300018301A0E06, 0x3C40000000500002] : List Nat).map (decodeTableWord 64) =
    ([.vdot4 3 12 13 (.v 14) true false, .vdot8 3 12 13 (.g 14) false true, .vdoth 3 12 13 (.g 14) true, .vdott 3 12 13 (.v 14) 2 true, .vtblw 2 40] : List Instr).map some := rfl

theorem test_decode_mtx :
    ([0x4000000000000600, 0x4010000020120A03, 0x4020000028180D01, 0x4030000038180D00, 0x4040000000002FC0, 0x4050000040000500,
     0x4060000040220500, 0x407000000000003F, 0x4080000000000713, 0x4090000024140000, 0x4090000024140009, 0x4090000024140002,
     0x4090000024140003, 0x4090000024140004] : List Nat).map (decodeTableWord 64) =
    ([.mfmt 6, .mgang 8 9 10 3, .mpass 10 12 13 true, .mlist 14 12 13, .mzero 0 63 2,
     .mldc 16 5, .mstc 16 17 5, .mwait 63, .mtbl 2 3 7, .mqry 9 10 .free false,
     .mqry 9 10 .skip true, .mqry 9 10 .done false, .mqry 9 10 .out false, .mqry 9 10 .busy false] : List Instr).map some := rfl

theorem test_decode_rank :
    ([0x4400000000080501, 0x4410001050000600, 0x4420000000080500, 0x4430000000000501, 0x4440000010000500, 0x4440000010000501,
     0x4440000010000502, 0x4440000010000503, 0x44500010A0120500, 0x44600000000E0000, 0x4460000000000001] : List Nat).map (decodeTableWord 64) =
    ([.rkinit true 4 5, .rkins 2 20 6, .rkmrg 4 5, .rkchain true 5, .rkflr 4 5 .flr,
     .rkflr 4 5 .cnt, .rkflr 4 5 .k, .rkflr 4 5 .nan, .rkget 2 40 9 5, .rkbnd (.put 7),
     .rkbnd .clr] : List Instr).map some := rfl

theorem test_decode_eng :
    ([0x4800000020120A00, 0x481000002C100000, 0x4820000030100000, 0x4830000034100000] : List Nat).map (decodeTableWord 64) =
    ([.epost 8 9 10, .ewait 11 8, .ecan 12 8, .estat 13 8] : List Instr).map some := rfl

theorem test_decode_task :
    ([0x4C00000000000000, 0x4C10000020000000, 0x4C20000020120A00, 0x4C3000002400003F, 0x4C40000020120A00, 0x4C5000002C120000,
     0x4C6000002C120000, 0x4C7000002C120000, 0x4C80000020160A1F, 0x4C90000020160A00, 0x4C90000020000A01, 0x4CA0000020000A05,
     0x4CB0000020160A00, 0x4CC0000020000A00, 0x4CD0000020000000] : List Nat).map (decodeTableWord 64) =
    ([.tend, .ttick 8, .tspawn 8 9 10, .tsig 9 63, .fopen 8 9 10,
     .fclose 11 9, .fwait 11 9, .fcan 11 9, .qenq 8 11 10 15 true, .qdeq 8 10 (.plain 11),
     .qdeq 8 10 .block, .qres 8 10 2 true, .qcmt 8 11 10, .qflush 8 10, .tyield 8] : List Instr).map some := rfl

theorem test_decode_step :
    ([0x5000000020120A00, 0x5010000020120A00, 0x502000001016001F, 0x50300000140C0000, 0x50300000140C0001, 0x50300000140C0002,
     0x50300000140C0003, 0x50300000140C0004, 0x50300000140C0005, 0x50300000140C0006, 0x50300000140C0007, 0x504000001C000000,
     0x504000001C180001] : List Nat).map (decodeTableWord 64) =
    ([.ssend 8 9 10, .ssenda 8 9 10, .sbar 4 11 31, .sdom 5 6 .size, .sdom 5 6 .first,
     .sdom 5 6 .stride, .sdom 5 6 .rank, .sdom 5 6 .pend, .sdom 5 6 .arr, .sdom 5 6 .w,
     .sdom 5 6 .recd, .sclk 7 .read, .sclk 7 (.wait 12)] : List Instr).map some := rfl

theorem test_decode_halves :
    ([0x8249400000000000, 0x8000000004494000, 0x8649400000000000, 0x8000000008494000, 0x8A49400000000000, 0x800000000C494000,
     0x8E49400000000000, 0x8000000010494000, 0x92495FFF00000000, 0x8000000014495FFE, 0x9649403F00000000, 0x800000001849403E,
     0x9A481FFF00000000, 0x800000001DFFC000, 0x9FFFC00000000000, 0x8000000021FFC000, 0xA271E00000000000, 0x800000002471E000,
     0xA6495FFF00000000, 0x8000000028495FFE, 0x8000000000000000] : List Nat).map (decodeTableWord 64) =
    ([.hadd 9 10, .hsub 9 10, .hand 9 10, .hor 9 10, .hxor 9 10,
     .hshl 9 10, .hshr 9 10, .hmov 9 10, .haddi 9 10 0x1FFF, .handi 9 10 0x1FFE,
     .hshli 9 10 63, .hshri 9 10 62, .hli 9 0x1FFF, .hvfadd 63 62, .hvfmul 63 62,
     .hvmov 63 62, .hkand 14 15, .hkor 14 15, .hld 9 10 8191, .hst 9 10 8190,
     .hnop] : List Instr).map some := rfl

/-! ## Words that are refused (R59) -/

/-- Reserved groups and the extension group. -/
theorem test_refused_groups : ([0x5400000000000000, 0x7800000000000000, 0x7C00000000000000] : List Nat).map (decodeTableWord 64) = List.replicate 3 none := rfl
/-- The first unassigned minor code of every group that has one. -/
theorem test_refused_minors :
    ([0x0100000000000000, 0x04A0000000000000, 0x0890000000000000, 0x1090000000000000, 0x1470000000000000, 0x1860000000000000, 0x1C80000000000000,
      0x2090000000000000, 0x2560000000000000, 0x28D0000000000000, 0x2CB0000000000000, 0x3070000000000000, 0x3490000000000000, 0x38E0000000000000,
      0x3C50000000000000, 0x40A0000000000000, 0x4470000000000000, 0x4840000000000000, 0x4CE0000000000000, 0x5050000000000000] : List Nat).map (decodeTableWord 64) =
    List.replicate 20 none := rfl
/-- ADD with M bit 6, RET with a register field, KAND of mask register 16. -/
theorem test_refused_fields : ([0x0C00000024120A40, 0x0450000000020000, 0x2000000040040F00] : List Nat).map (decodeTableWord 64) = List.replicate 3 none := rfl
/-- Two memory halves, and two halves that write one register (R40). -/
theorem test_refused_pairs : pairOk (.hld 1 2 0) (.hst 3 2 0) = false ∧ pairOk (.hadd 1 2) (.hsub 1 3) = false ∧ pairOk (.hadd 1 2) (.hsub 2 1) = true := by decide
/-- Scheduling fields do not change the instruction: LDA setting token 3. -/
theorem test_decode_sched : decodeTableWord 64 0x1440C00020078008 = some (.lda 8 3 .z64 8) := rfl

/-! ## Ill-formed terms -/

theorem test_wf_refuses : (([.mfsr 8 0x20, .mfsr 8 0x180, .mtsr 0xFF 9, .tlbinv .all .core 4 0, .hpload 4 (.mem 0), .enter 0, .enter 513, .rdvh 7 4608, .bfx 9 10 11 0 true,
      .bfx 9 10 11 65 false, .bfi 9 10 11 0, .bfi 9 10 11 65, .st 9 2 .s8 0, .st 9 2 .s16 0, .st 9 2 .s32 0, .amonr .add .z64 (.acq .die) 9 5, .amonr .add .z64 (.ar .die) 9 5,
      .vext 3 300 301 0 .z32, .vext 3 300 301 2 .z16, .vrng 0 17 20 9, .vrng 0 16 21 9, .vcvt 1 8 9 .rank .f32 .rne false 0 0, .vcvt 1 8 9 .f32 .t4 .rne false 0 0,
      .vcvt 1 8 9 .f32 .e8m0 .rne false 0 0, .vcvt 1 8 9 .f32 .e4m3 .rne false 4 0, .vcvt 1 8 9 .f32 .e4m3 .rne false 0 1, .vcvtsr 1 8 9 10 .s8 true 0, .vcvtsr 1 8 9 10 .e4m3 true 4,
      .vpack 1 8 17 .s4 true, .vunpk 1 9 9 .z8, .vbscale 1 8 11 .e5m2 true, .vsts 4 8 12 6 .s16, .vscat 4 30 31 7 .s8 false 1, .vperm 1 8 383 10 true, .vshuf 1 8 9 (.xor 0),
      .vscan 1 20 21 .and .f32 true false, .vred 1 20 21 .xor .f32, .mgang 7 5 6 1, .mgang 7 5 6 7, .mgang 7 5 0 0, .mzero 1 63 0, .mzero 0 0 6,
      .mtbl 6 0 5, .mqry 7 5 .free true, .rkins 1 383 5, .rkget 1 383 5 6] : List Instr).map Instr.wf).all (· == false) = true := by decide

/-! ## Steps -/

/-- The core after its first instruction, the word `w` at the first PC. -/
noncomputable def Test.after (w : Nat) : Option Core :=
  match step (State.reset.withFetchWord 64 w) with
  | .next t => some t.c
  | _ => none
/-- LI g7, 5. -/
theorem test_step_li : (Test.after 0x0FF00000E0000005).map (fun c => (c.pc, (c.g' 7).val)) = some (1, 5) := by decide
/-- TRAP raises its cause, whose handler starts at TRAPVEC's reset value; the PC saved is the word's own. -/
theorem test_step_trap : (Test.after 0x0010000000000015).map (fun c => (c.pc, c.tr.epc, c.tr.exl, c.tr.einfo)) = some (0xE00, 0, true, 0x15) := by decide
/-- The first word after reset, all ones, is unassigned (R128). -/
theorem test_step_reset : (match step State.reset with | .next t => some (t.c.pc, t.c.tr.ecause.toNat % 256) | _ => none) = some (0xE00, 0x01) := by decide
/-- BR 16 goes on 16 words ahead of its own. -/
theorem test_step_br : (Test.after 0x0400000000000010).map (fun c => c.pc) = some 0x10 := by decide

/-- The words of the repairs of R522 and R526, by R30 and R34 (R520). -/
theorem test_decode_repairs :
    ([0x20600000E0000000, 0x0D700000E0700000, 0x04100000E0000001, 0x0ED00000E0000020, 0x0C000000E0003800, 0x4460000000700000] : List Nat).map (decodeTableWord 64) =
    ([.kpopc 56 0, .seq 56 56 0, .bcc 56 0 1, .shli 56 0 32, .add 56 0 56 0, .rkbnd (.put 56)] : List Instr).map some := rfl
/-- A PREEMPT request of context 3, sequence 7, as bytes (R506, R507), and one whose status is not zero. -/
theorem test_datagram :
    datagramOf 9 ([0x54, 0x58, 0x43, 0x01, 6, 0, 0, 0, 7, 0, 0, 0, 0, 0, 0, 0, 3] ++ List.replicate 15 0) = .request (.preempt 9 3 7) ∧
    datagramOf 9 ([0x54, 0x58, 0x43, 0x01, 6, 0, 1, 0, 7, 0, 0, 0, 0, 0, 0, 0, 3] ++ List.replicate 15 0) = .bad 9 3 7 6 := by decide

/-! ## Witnesses -/

/-! ## Small states -/

/-- The near window of a core's scratchpad. -/
abbrev Test.near : Nat := 0x00F0000000000000
/-- A grant over the near window with every permission. -/
def Test.box : Grant := { base := Test.near, len := 0x80000, perm := 0x7FF, gen := 5, valid := true }
/-- A capability for it, `off` bytes into the window. -/
def Test.cap (off : Nat) : TReg := mkCap 5 0x7FF 0 (Test.near + off)
/-- A core that holds the grant's entry, and its capability in g5. -/
def Test.core : Core := { gcache := [⟨0, 0, Test.box⟩], g := [(5, Test.cap 0x40)] }
/-- The package after reset with core 0 so. -/
def Test.s : State := { State.reset with cores := [(0, Test.core)] }
/-- The same with the core changed. -/
def Test.put (c : Core) : State := { State.reset with cores := [(0, c)] }


/-- A read or check that answers `a`, with the state it leaves. -/
theorem Test.got {α : Type} {m : M α} {s : State} {a : α} (h : (m s).1 = .ok a) : m s = (.ok a, (m s).2) := Prod.ext h rfl
theorem Test.got' {α β : Type} {f : State → Except β α × State} {s : State} {a : α} (h : (f s).1 = .ok a) : f s = (.ok a, (f s).2) := Prod.ext h rfl
/-- What a read answers. -/
def Test.ans {α : Type} [Inhabited α] (m : M α) (s : State) : α := match (m s).1 with | .ok a => a | .error _ => default
/-- It answers. -/
def Test.ok {α : Type} (m : M α) (s : State) : Bool := match (m s).1 with | .ok _ => true | .error _ => false
theorem Test.gave {α : Type} [Inhabited α] {m : M α} {s : State} (h : Test.ok m s = true) : m s = (.ok (Test.ans m s), (m s).2) := by
  unfold Test.ans
  rcases hm : m s with ⟨a | a, t⟩
  · rw [Test.ok, hm] at h; cases h
  · rfl
theorem Test.has {α : Type} {m : M α} {s : State} (h : Test.ok m s = true) : ∃ a, m s = (.ok a, (m s).2) := by
  rcases hm : m s with ⟨a | a, t⟩
  · rw [Test.ok, hm] at h; cases h
  · exact ⟨a, rfl⟩


theorem Test.live : Live Test.s (Test.cap 0x40) Test.box Test.s := ⟨by decide, by decide, by decide, rfl, by decide, by decide⟩

theorem witness_IntWords : (1 ≤ (1#7).toNat ∧ (1#7).toNat ≤ 64) ∧ 1 ≤ (64#7).toNat ∧ (64#7).toNat ≤ 64 := by decide

theorem witness_CapabilityWords_cget : Live Test.s (Test.s.rdG 5) Test.box Test.s := Test.live
theorem witness_CapabilityWords_cfrom_system :
    (Test.s.rdI 0).toNat % 2 ^ 16 < 2 ^ (Test.s.getX Test.s.c.ctx).log2n ∧ Test.box.valid = true ∧ Test.s.c.sys = true ∧ (0 : GReg).val = 0 ∧
    grantEntry ((Test.s.rdI 0).toNat % 2 ^ 16) Test.s = (.ok Test.box, Test.s) := ⟨by decide, by decide, by decide, by decide, rfl⟩
theorem witness_CapabilityWords_cfrom :
    (Test.s.rdI 0).toNat % 2 ^ 16 < 2 ^ (Test.s.getX Test.s.c.ctx).log2n ∧ Test.box.valid = true ∧ ¬(Test.s.c.sys = true ∧ (5 : GReg).val = 0) ∧
    Checked Test.s (Test.s.rdG 5) (capAddr (Test.s.rdG 5)) 0 permD Test.s ∧ grantEntry ((Test.s.rdI 0).toNat % 2 ^ 16) Test.s = (.ok Test.box, Test.s) :=
  ⟨by decide, by decide, by decide, ⟨_, Test.live, by decide, by decide, by decide⟩, rfl⟩
/-- CCHK with no permission asked for and no byte, at the low end of both fields. -/
theorem witness_CapabilityWords_cchk :
    Checked Test.s (Test.s.rdG 5) (capAddr (Test.s.rdG 5)) ((Test.s.rdI 0).toNat % 2 ^ 52) (BitVec.ofNat 12 ((Test.s.rdI 0).toNat / 2 ^ 52)) Test.s :=
  ⟨⟨_, Test.live, by decide, by decide, by decide⟩⟩

/-- Context 0 with a page table whose first leaf maps the low 4 TiB to themselves, and a grant table of one entry at 0x20000. -/
def Test.paged (c : Core) (more : List (Host.Cell)) : State :=
  { Test.put c with mem := (0x10000, 0x1F) :: more, ctxs := [(0, { xbase := 0x10000, grantbase := 0x20000 })] }

theorem Test.noWait {c : Core} {w : Wait} (h : c.wait = none) : c.wait ≠ some w := by rw [h]; exact fun h => nomatch h
theorem witness_CapabilityWords_grev : let s := Test.paged Test.core []
    let s1 := (entryPlace 0 s).2
    s.c.sys = true ∧ (s.rdI 0).toNat % 2 ^ 16 < 2 ^ (s.getX 0).log2n ∧ entryPlace 0 s = (.ok 0x20000, s1) ∧ (∀ g x, s.c.wait ≠ some (.grant g x)) ∧
    let u := (s1.putEntry (0x20000 + 18) [(s1.physBytes (0x20000 + 18) 1).getD 0 0 + 1]).entryWritten 0
    u.grantPending 0 (some 0) = false ∧ ∀ e ∈ u.cores, e.2.ctx = 0 → e.2.loads = [] :=
  ⟨by decide, by decide, Test.got (by decide), fun _ _ => Test.noWait rfl, by decide, by decide⟩
theorem witness_CapabilityWords_gnew : let s := Test.paged Test.core []
    let ea := Test.near + 0x40
    let s2 := (readBlock ea 32 s).2
    let s3 := (entryPlace 0 s2).2
    capAddr (s.rdG 5) = ea ∧ Checked s (s.rdG 5) ea 32 permR s ∧ (s.c.strict && !s.ownSpad s.cur ea && !s.c.inStack ea) = false ∧
    ea % 32 = 0 ∧ (∀ g x, s.c.wait ≠ some (.grant g x)) ∧ readBlock ea 32 s = (.ok (List.replicate 32 0), s2) ∧ OnlyCaches s s2 ∧ entryPlace 0 s2 = (.ok 0x20000, s3) ∧
    let u := ((s3.putEntry 0x20000 (List.replicate 18 0)).putEntry (0x20000 + 19) [0]).entryWritten 0
    u.grantPending 0 (some 0) = false ∧ ∀ e ∈ u.cores, e.2.ctx = 0 → e.2.loads = [] :=
  ⟨by decide, ⟨⟨_, ⟨by decide, by decide, by decide, rfl, by decide, by decide⟩, by decide, by decide, by decide⟩⟩, by decide, by decide, fun _ _ => Test.noWait rfl, Test.got (by decide +kernel),
    ⟨⟨[], rfl, rfl⟩, rfl, by intro n _; rfl, _, _, rfl⟩, Test.got (by decide +kernel), by decide +kernel, by decide +kernel⟩

/-- The four causes of R102's check, and both ways an entry is stale. -/
theorem witness_CapabilityWords_turned : Turned Test.s TReg0 0 0 0 .tag Test.s ∧ Turned Test.s (mkCap 0 0 1 0) 0 0 0 .stalegrant Test.s ∧
    Turned Test.s (mkCap 4 0 0 0) 0 0 0 .stalegrant Test.s ∧ Turned Test.s (mkCap 5 1 0 Test.near) Test.near 8 permW .perm Test.s ∧
    Turned Test.s (Test.cap 0x40) (Test.near - 1) 8 permR .bounds Test.s :=
  ⟨.inl ⟨rfl, rfl, by decide⟩, .inr (.inl ⟨rfl, by decide, by decide, .inl ⟨by decide, rfl⟩⟩),
    .inr (.inl ⟨rfl, by decide, by decide, .inr ⟨by decide, Test.box, rfl, by decide⟩⟩),
    .inr (.inr ⟨Test.box, ⟨by decide, by decide, by decide, rfl, by decide, by decide⟩, .inl ⟨rfl, by decide⟩⟩),
    .inr (.inr ⟨Test.box, Test.live, .inr ⟨rfl, by decide, by decide⟩⟩)⟩
/-- The first id beyond the table, and an entry inside it that is not valid. -/
theorem witness_CapabilityWords_out : let s := Test.put { g := [(6, ⟨1, false⟩)], gcache := [⟨0, 0, { Test.box with valid := false }⟩] }
    2 ^ (s.getX s.c.ctx).log2n ≤ (s.rdI 6).toNat % 2 ^ 16 ∧ s.c.sys = true ∧ (∀ g x, s.c.wait ≠ some (.grant g x)) ∧
    ¬ 2 ^ (s.getX s.c.ctx).log2n ≤ (s.rdI 0).toNat % 2 ^ 16 ∧ grantEntry 0 s = (.ok { Test.box with valid := false }, s) :=
  ⟨by decide, by decide, fun _ _ => Test.noWait rfl, by decide, rfl⟩
theorem witness_CapabilityWords_free : Test.s.c.sys = true ∧ (0 : GReg).val = 0 ∧ ¬(Test.s.c.sys = true ∧ (5 : GReg).val = 0) ∧
    Checked Test.s (Test.s.rdG 5) (capAddr (Test.s.rdG 5)) 0 permD Test.s := ⟨by decide, rfl, by decide, ⟨_, Test.live, by decide, by decide, by decide⟩⟩

/-- A step core, STEPSTRICT set, in a compute step. -/
def Test.strict : State := Test.put { Test.core with stepOn := true, mode := 4 }
/-- A capability over the windows of all cores, for the window of core 1. -/
def Test.far : Grant := { Test.box with len := 2 ^ 56 }
theorem witness_AccessOrder_tag : TReg0.tag = false ∧ (⟨1#128 <<< 127, true⟩ : TReg).val.extractLsb' 100 28 ≠ 0 := by decide
theorem witness_AccessOrder_stale : (Test.cap 0).tag = true ∧ (Test.cap 0).val.extractLsb' 100 28 = 0 ∧
    (mkCap 0 0 1 0).tag = true ∧ (mkCap 0 0 1 0).val.extractLsb' 100 28 = 0 ∧ 2 ^ (Test.s.getX 0).log2n ≤ capGid (mkCap 0 0 1 0) ∧
    capGid (mkCap 4 0 0 0) < 2 ^ (Test.s.getX 0).log2n ∧ grantEntry (capGid (mkCap 4 0 0 0)) Test.s = (.ok Test.box, Test.s) ∧
    Test.box.gen ≠ capGen (mkCap 4 0 0 0) := ⟨by decide, by decide, by decide, by decide, by decide, by decide, rfl, by decide⟩
theorem witness_AccessOrder_perm : Live Test.s (mkCap 5 1 0 Test.near) Test.box Test.s ∧ permW &&& ~~~(capPerm (mkCap 5 1 0 Test.near) &&& Test.box.perm) ≠ 0 :=
  ⟨⟨by decide, by decide, by decide, rfl, by decide, by decide⟩, by decide⟩
/-- One byte below the grant, and one past its end. -/
theorem witness_AccessOrder_bounds : Live Test.s (Test.cap 0x40) Test.box Test.s ∧ permR &&& ~~~(capPerm (Test.cap 0x40) &&& Test.box.perm) = 0 ∧
    Test.near - 1 < Test.box.base ∧ Test.box.base + Test.box.len < Test.near + 0x80000 - 7 + 8 := ⟨Test.live, by decide, by decide, by decide⟩
theorem witness_AccessOrder_steplocal : ∃ s : State, ∃ e : Grant, ∃ c : TReg, Live s c e s ∧
    Checked s c 0x00F1000000100000 8 permR s ∧ s.c.strict = true ∧ s.ownSpad s.cur 0x00F1000000100000 = false ∧ s.c.inStack 0x00F1000000100000 = false :=
  ⟨Test.put { Test.core with stepOn := true, mode := 4, gcache := [⟨0, 0, Test.far⟩] }, Test.far, Test.cap 0,
    ⟨by decide, by decide, by decide, rfl, by decide, by decide⟩,
    ⟨⟨_, ⟨by decide, by decide, by decide, rfl, by decide, by decide⟩, by decide, by decide, by decide⟩⟩, by decide, by decide, by decide⟩
theorem witness_AccessOrder_align : Checked Test.s (Test.cap 0x41) (Test.near + 0x41) 2 permR Test.s ∧
    (Test.s.c.strict && !Test.s.ownSpad Test.s.cur (Test.near + 0x41) && !Test.s.c.inStack (Test.near + 0x41)) = false ∧
    Test.s.locate Test.s.party .load (Test.near + 0x41) 2 = (.ok { key := spadKey 0 0x41 }, Test.s) ∧ (Test.near + 0x41) % 2 ≠ 0 :=
  ⟨⟨⟨_, ⟨by decide, by decide, by decide, rfl, by decide, by decide⟩, by decide, by decide, by decide⟩⟩, by decide, rfl, by decide⟩
/-- The first byte past the near window, under a grant that reaches there; and the window of a core that has halted. -/
theorem witness_AccessOrder_xlate : let s := Test.put { Test.core with gcache := [⟨0, 0, Test.far⟩] }
    Checked s (Test.cap 0) (Test.near + 0x80000) 8 permR s ∧
    (s.c.strict && !s.ownSpad s.cur (Test.near + 0x80000) && !s.c.inStack (Test.near + 0x80000)) = false ∧
    s.locate s.party .load (Test.near + 0x80000) 8 = (.error ⟨4, 0⟩, s) :=
  ⟨⟨⟨_, ⟨by decide, by decide, by decide, rfl, by decide, by decide⟩, by decide, by decide, by decide⟩⟩, by decide, rfl⟩
theorem witness_AccessOrder_remote :
    let s : State := { State.reset with cores := [(0, { Test.core with gcache := [⟨0, 0, Test.far⟩] }), (1, { run := .halted })] }
    Checked s (Test.cap 0) 0x00F1000000100000 8 permR s ∧
    (s.c.strict && !s.ownSpad s.cur 0x00F1000000100000 && !s.c.inStack 0x00F1000000100000) = false ∧
    s.locate s.party .load 0x00F1000000100000 8 = (.ok { key := spadKey 1 0, remote := true }, s) ∧ 0x00F1000000100000 % 8 = 0 :=
  ⟨⟨⟨_, ⟨by decide, by decide, by decide, rfl, by decide, by decide⟩, by decide, by decide, by decide⟩⟩, by decide, rfl, by decide⟩
theorem witness_AccessOrder_passes :
    Reaches Test.s (Test.cap 0x40) (Test.near + 0x7FFF8) 8 permR .load { key := spadKey 0 0x7FFF8 } Test.s :=
  ⟨⟨_, ⟨⟨_, Test.live, by decide, by decide, by decide⟩⟩, by decide, rfl⟩, by decide, by decide⟩

/-- A member of core 1's weave at an item of `bcc` that its publisher did not take. -/
def Test.member (next : BitVec 12) (p : Policy) : State :=
  Test.put { Test.core with
    latch := { valid := true, src := .item, item := { pc := 10, next := next } }
    w := { st := .member, pub := 1, policy := p, stream := [{ pc := 10, next := next }] } }
theorem witness_BranchWords_fetching : Test.s.c.latch.src ≠ .item := by decide
theorem witness_BranchWords_joins : (Test.member 11 .dormant).c.latch.src = .item ∧
    (if (Test.member 11 .dormant).rdI 0 ≠ (Test.member 11 .dormant).rdI 0 then Claim.rel 10 5 else 11) = (Test.member 11 .dormant).c.latch.item.next := by decide
theorem witness_BranchWords_dormant : (Test.member 11 .dormant).c.latch.src = .item ∧ (Test.member 11 .dormant).c.w.policy = .dormant ∧
    (if (Test.member 11 .dormant).rdI 0 ≠ (Test.member 11 .dormant).rdI 5 then Claim.rel 10 5 else 11) ≠ (Test.member 11 .dormant).c.latch.item.next := by decide
theorem witness_BranchWords_detach : (Test.member 11 .detach).c.latch.src = .item ∧ (Test.member 11 .detach).c.w.policy = .detach ∧
    (if (Test.member 11 .detach).rdI 0 ≠ (Test.member 11 .detach).rdI 5 then Claim.rel 10 5 else 11) ≠ (Test.member 11 .detach).c.latch.item.next ∧
    (Test.member 11 .detach).c.w.st = .member ∧ ∀ r ∈ (Test.member 11 .detach).c.w.regs, r.arrived = false := by decide

theorem witness_BranchWords_trap : (Test.member 11 .trap).c.latch.src = .item ∧ (Test.member 11 .trap).c.w.policy = .trap ∧
    (if (Test.member 11 .trap).rdI 0 ≠ (Test.member 11 .trap).rdI 5 then Claim.rel 10 5 else 11) ≠ (Test.member 11 .trap).c.latch.item.next ∧
    (Test.member 11 .trap).c.tr.exl = false ∧ (Test.member 11 .trap).c.husk.hooks = [] := by decide

/-- A core whose stack is the scratchpad up to 0x1000, its pointer at `p`, with the granule `at'` cached. -/
def Test.stacked (p at' : Nat) (val : Nat) : State :=
  Test.put { Test.core with
    g := [(2, Test.cap p)], slim := BitVec.ofNat 64 Test.near, sbase := BitVec.ofNat 64 (Test.near + 0x1000)
    stack := [((Test.near + at') / 16, ⟨BitVec.ofNat 128 val, false, false, spadKey 0 at', false⟩)] }
theorem witness_Frames_enter : ∃ l x, let s := Test.stacked 0x1000 0xFF0 0
    s.c.stack.length ≤ 512 ∧ mfind s.c.stack ((capAddr (s.rdG 2) - 16 * (1#10).toNat) / 16) = some x ∧
    s.c.inStack (capAddr (s.rdG 2) - 16 * (1#10).toNat) = true ∧ capAddr (s.rdG 2) % 16 = 0 ∧ 16 * (1#10).toNat ≤ capAddr (s.rdG 2) ∧
    Reaches s (s.rdG 2) (capAddr (s.rdG 2) - 16 * (1#10).toNat) 16 permW .store l s :=
  ⟨_, _, by decide, rfl, by decide, by decide, by decide,
    ⟨⟨_, ⟨⟨_, ⟨by decide, by decide, by decide, rfl, by decide, by decide⟩, by decide, by decide, by decide⟩⟩, by decide, rfl⟩, by decide, by decide⟩⟩
theorem witness_Frames_leave : ∃ l x, let s := Test.stacked 0xFF0 0xFF0 (Test.near + 0x1000)
    s.c.stack.length ≤ 512 ∧ mfind s.c.stack ((capAddr (s.rdG 2) - 16 * (0#10).toNat) / 16) = some x ∧
    s.c.inStack (capAddr (s.rdG 2) - 16 * (0#10).toNat) = true ∧ x.bad = false ∧ Reaches s (s.rdG 2) (capAddr (s.rdG 2)) 8 permR .load l s ∧
    capAddr (s.rdG 2) < ((x.val >>> (8 * (capAddr (s.rdG 2) % 16))).setWidth 64 : Word).toNat ∧
    ((x.val >>> (8 * (capAddr (s.rdG 2) % 16))).setWidth 64 : Word).toNat ≤ s.c.sbase.toNat ∧
    ((x.val >>> (8 * (capAddr (s.rdG 2) % 16))).setWidth 64 : Word).toNat % 16 = 0 :=
  ⟨_, _, by decide, rfl, by decide, rfl,
    ⟨⟨_, ⟨⟨_, ⟨by decide, by decide, by decide, rfl, by decide, by decide⟩, by decide, by decide, by decide⟩⟩, by decide, rfl⟩, by decide, by decide⟩,
    by decide, by decide, by decide⟩

/-- A task of two members on cores 0 and 1; core 0 is member 0, its weave state `w`, g6 and g7 as given. -/
def Test.task2 (w : Weave) (a b : Nat) : State :=
  { State.reset with
    cores := [(0, { Test.core with task := some 0, w := w, g := [(6, ⟨BitVec.ofNat 128 a, false⟩), (7, ⟨BitVec.ofNat 128 b, false⟩)] }),
      (1, { task := some 0, member := 1 })]
    ham := { tasks := [(0, { tid := 0, lid := 0, ctx := 0, index := 0, width := 2, mem := [(0, 0, true), (1, 1, true)], attempt := 0, signals := []
                             claims := [], doms := [], stepTo := 0, canAt := none, killed := false })] } }
theorem witness_StreamWords_inweave : ((Test.task2 { st := .member } 0 0).c.task.bind (Test.task2 { st := .member } 0 0).task?).isSome ∧
    (Test.task2 { st := .member } 0 0).c.w.st ≠ .alone ∧ (Test.task2 { st := .member } 0 0).c.w.st ≠ .detached := by decide
theorem witness_StreamWords_nomember : ∃ t, (Test.task2 {} 2 0).c.task.bind (Test.task2 {} 2 0).task? = some t ∧ (Test.task2 {} 2 0).c.w.st = .alone ∧
    t.width ≤ ((Test.task2 {} 2 0).rdI 6).toNat ∧ ((Test.task2 {} 0 0).rdI 6).toNat = (Test.task2 {} 0 0).c.member := ⟨_, rfl, by decide, by decide, by decide⟩
theorem witness_StreamWords_badarg : ∃ t, let s := Test.task2 {} 1 0
    s.c.task.bind s.task? = some t ∧ s.c.w.st = .alone ∧ (s.rdI 6).toNat < t.width ∧ (s.rdI 6).toNat ≠ s.c.member ∧
    bitsOf (s.rdI 7).toNat 28 16 < 2 ∧ s.c.w.size = 0 := ⟨_, rfl, by decide, by decide, by decide, by decide, by decide⟩
theorem witness_StreamWords_registers : ∃ t p h, let s := Test.task2 { size := 2 } 1 0x20001
    s.c.task.bind s.task? = some t ∧ s.c.w.st = .alone ∧ (s.rdI 6).toNat < t.width ∧ (s.rdI 6).toNat ≠ s.c.member ∧
    t.memberCore (s.rdI 6).toNat = some (p, h) ∧ ¬(bitsOf (s.rdI 7).toNat 63 36 ≠ 0 ∨ bitsOf (s.rdI 7).toNat 31 29 ≠ 0 ∨ bitsOf (s.rdI 7).toNat 15 13 ≠ 0) ∧
    bitsOf (s.rdI 7).toNat 12 0 ≠ 0 ∧ 2 ≤ bitsOf (s.rdI 7).toNat 28 16 ∧ bitsOf (s.rdI 7).toNat 28 16 ≤ t.width ∧
    bitsOf (s.rdI 7).toNat 12 0 < bitsOf (s.rdI 7).toNat 28 16 ∧ bitsOf (s.rdI 7).toNat 12 0 < s.c.w.size :=
  ⟨_, _, _, rfl, by decide, by decide, by decide, rfl, by decide, by decide, by decide, by decide, by decide, by decide⟩
theorem witness_StreamWords_alone : Test.s.c.latch.src = .own ∧ Test.s.c.w.st = .alone ∧ Test.s.c.w.followers = [] ∧ Test.s.c.w.regs = [] ∧
    Test.s.c.w.brw = [] ∧ Test.s.c.w.priv = false ∧ Test.s.c.tr.pend = false := by decide
theorem witness_StreamWords_member : (Test.member 11 .dormant).c.latch.src = .item ∧ (Test.member 11 .dormant).c.w.st = .member ∧
    (Test.member 11 .dormant).rdI 0 ≠ (Test.member 11 .dormant).rdI 5 ∧ (Test.member 11 .dormant).c.w.pub ≠ (Test.member 11 .dormant).cur ∧
    ∀ r ∈ (Test.member 11 .dormant).c.w.regs, r.arrived = false := by decide
/-- Core 0 with the weave state `w`, in user mode unless `sys`, and core 1 with `w'`. -/
def Test.two (src : Source) (w w' : Weave) : State :=
  { State.reset with
    cores := [(0, { sys := false, pc := 5, latch := { valid := true, src := src, item := { pc := 10, next := 11 } }, w := w }), (1, { sys := false, w := w' })] }
/-- A member's weave state, its publisher core `p`, and a publisher's, following it rank 1 at core `n`. -/
def Test.mem (p : Nat) (st : List Item) : Weave := { st := .member, pub := p, size := 2, rank := 1, stream := st }
def Test.pub (n : Nat) (votes : List (Nat × List Nat)) : Weave := { st := .publisher, size := 2, followers := [(1, n)], votes := votes }
/-- A member that has not yet contributed, and one that has, its publisher too. -/
theorem witness_StreamWords_contributes : let s := Test.two .item (Test.mem 1 [{ pc := 10, next := 11 }]) (Test.pub 0 [(1, [2, 0, 1])])
    let u := Test.two .item (Test.mem 1 [{ pc := 10, next := 11 }]) (Test.pub 0 [(1, [2, 0, 1]), (0, [2, 1, 0])])
    s.c.latch.src = .item ∧ s.c.w.pub ≠ s.cur ∧ (∀ v ∈ (s.getC s.c.w.pub).w.votes, v.1 ≠ s.cur) ∧
    u.c.latch.src = .item ∧ u.c.w.pub ≠ u.cur ∧ (∃ v ∈ (u.getC u.c.w.pub).w.votes, v.1 = u.cur) ∧ u.allIn u.c.w.pub = true := by decide
/-- Seven BRWs are open, the most with which an eighth may be published. -/
theorem witness_StreamWords_publishes :
    let s := Test.two .own { Test.pub 1 [] with brw := List.replicate 7 ⟨9, 12, false, true, true, true, false⟩ } (Test.mem 0 [])
    s.c.latch.src = .own ∧ s.c.latch.quiet = false ∧ s.c.sys = false ∧ s.c.w.priv = false ∧ s.c.w.st = .publisher ∧ s.c.tr.pend = false ∧
    s.c.w.followers ≠ [] ∧ (s.c.w.followers.map Prod.snd).Nodup ∧ (∀ f ∈ s.c.w.followers, f.2 ≠ s.cur) ∧ s.c.w.coll ≠ some s.c.pc ∧ s.c.w.brw.length < 8 := by
  decide
/-- All are in; with a condition of 0 among them, and with none. -/
theorem witness_StreamWords_gathers : ∀ v ∈ [0, 1],
    let s := Test.two .own { Test.pub 1 [(0, [2, 0, 1]), (1, [2, 1, v])] with coll := some 5 } (Test.mem 0 [])
    s.c.w.followers ≠ [] ∧ s.c.w.coll = some s.c.pc ∧ (∃ v ∈ s.c.w.votes, v.1 = s.cur) ∧ s.allIn s.cur = true ∧ s.c.w.brw.length < 8 ∧
    (if (s.c.w.votes.map (fun v => v.2.getD 2 0 != 0)).any (! ·) then s.c.pc + 1 else Claim.rel s.c.pc 4) ≠ Claim.rel s.c.pc 4 + (3#9).setWidth 12 ∧
    (∀ f ∈ s.c.w.followers, (s.getC f.2).w.stream = []) ∧ s.c.w.brw = [] := by decide
/-- No registration has arrived, or the one that RDVH 1 needs. -/
theorem witness_StreamWords_rdvh : let s := Test.two .own (Test.pub 1 []) (Test.mem 0 [])
    let u := Test.two .own { st := .publisher, size := 2, regs := [⟨1, 3, 1, 2, true⟩] } { st := .waiting, pub := 0, size := 2, rank := 1 }
    s.c.w.brw = [] ∧ (s.c.w.regs.filter (fun r => r.arrived && r.tag == 3)).length < (1#13).toNat ∧
    u.c.w.brw = [] ∧ (1#13).toNat ≤ (u.c.w.regs.filter (fun r => r.arrived && r.tag == 3)).length ∧ (u.c.w.regs.map Reg.core).Nodup ∧
    ∀ r ∈ u.c.w.regs, r.core ≠ u.cur := by decide
theorem witness_StreamWords_publisher : ∃ s : State, s.c.latch.src = .own ∧ s.c.w.st = .publisher ∧ s.c.sys = false :=
  ⟨Test.put { sys := false, w := { st := .publisher } }, by decide, by decide, by decide⟩

theorem witness_TrapsAndReturns_enters : Test.s.c.tr.exl = false ∧ Test.s.c.husk.hooks = [] ∧ Test.s.c.w.followers = [] ∧ Test.s.c.latch.src = .own := by decide
theorem witness_Privileged : needsSys (.eret false false) = true ∧ (Test.put { sys := false }).c.sys = false := by decide
theorem witness_TrapsAndReturns_double : (Test.put { tr := { exl := true } }).c.tr.exl = true ∧ (Test.put { tr := { exl := true } }).c.task = none ∧
    (Test.put { tr := { exl := true } }).c.sq = [] := by decide
theorem witness_TrapsAndReturns_eret : Test.s.c.sys = true ∧ Test.s.c.task = none ∧ Test.s.c.sq = [] := by decide
/-- A publisher's handler that returns to the join of its path. -/
theorem witness_TrapsAndReturns_join :
    let s := Test.put { tr := { epc := 12, exl := true }, w := { Test.pub 1 [] with brw := [⟨9, 12, false, true, true, true, false⟩] } }
    s.c.sys = true ∧ s.c.w.brw = [⟨9, 12, false, true, true, true, false⟩] ∧ s.c.tr.epc = 12 ∧ (9 : BitVec 12) ≠ 12 ∧ s.c.tr.pm = false ∧ s.c.w.priv = false ∧
    s.c.w.st = .publisher := by decide
theorem witness_SystemRegisters_reads : Test.s.c.sys = true ∧ 0x100 ≤ (0x100#12).toNat ∧ (0x17F#12).toNat < 0x180 := by decide
theorem witness_SystemRegisters_writes : let s := Test.s
    let u := ((s.updX 0 (fun y => { y with grantbase := 0x20000 })).dropGrant 0 none).recheckGrant 0 none
    let idle := fun (u : State) => u.grantPending 0 none = false ∧ ∀ e ∈ u.cores, e.2.ctx = 0 → Claim.quiet e.2
    s.c.sys = true ∧ s.c.asyncs = [] ∧ idle s ∧ idle u ∧ ∀ g r, s.c.wait ≠ some (.grant g r) := by
  refine ⟨by decide, by decide, ⟨by decide, ?_⟩, ⟨by decide, ?_⟩, fun _ _ => Test.noWait rfl⟩ <;>
  · show ∀ e ∈ (_ : List (Nat × Core)), e.2.ctx = 0 → e.2.sq = [] ∧ e.2.loads = []
    decide
theorem witness_SystemWords_idle : ∃ s t : State, s.c.sys = true ∧ s.c.cancelf = true ∧ t.c.sys = true ∧ t.c.wait = some .idle ∧ t.c.woken.isSome = true :=
  ⟨Test.put { cancelf := true }, Test.put { wait := some .idle, woken := some 0 }, by decide⟩
theorem witness_SystemWords_tlbinv : Test.s.c.sys = true ∧ Test.s.unsent Test.s.cur = false ∧ ∀ e ∈ Test.s.cores, Claim.quiet e.2 := by
  refine ⟨by decide, by decide, ?_⟩
  intro e he
  simp only [Test.s, List.mem_singleton] at he
  subst he
  exact ⟨rfl, rfl⟩
/-- The newest entry and the oldest of the sixty-four; the next sequence number and one that is too old. -/
theorem witness_SystemWords_echk : ∃ s : State, ∃ r : RingEntry, s.c.loads = [] ∧ s.c.out = 0 ∧ s.c.sys = true ∧
    1 ≤ (s.c.ringHead - (s.rdI 6).setWidth 32).toNat ∧ (s.c.ringHead - (s.rdI 6).setWidth 32).toNat ≤ 64 ∧
    mfind s.c.ring (((s.rdI 6).setWidth 32 : BitVec 32).toNat % 64) = some r ∧ r.seq = (s.rdI 6).setWidth 32 ∧ (s.rdI 7).toNat % 4 < 3 ∧
    ¬(1 ≤ (s.c.ringHead - (s.rdI 8).setWidth 32).toNat ∧ (s.c.ringHead - (s.rdI 8).setWidth 32).toNat ≤ 64) ∧
    ¬(1 ≤ (s.c.ringHead - (s.rdI 9).setWidth 32).toNat ∧ (s.c.ringHead - (s.rdI 9).setWidth 32).toNat ≤ 64) :=
  ⟨Test.put { ringHead := 65, ring := [(1, { seq := 1 })], g := [(6, ⟨1, false⟩), (7, ⟨2, false⟩), (8, ⟨65, false⟩), (9, ⟨0, false⟩)] }, { seq := 1 },
    by decide, by decide, by decide, by decide, by decide, rfl, by decide, by decide, by decide, by decide⟩

theorem witness_RecordsAndImages_hpload : let s := Test.s
    s.c.sys = true ∧ imageAt 5 s = (.ok (List.replicate 64 0), (imageAt 5 s).2) ∧ (imageAt 5 s).2.c.pc = s.c.pc ∧
    (imageAt 5 s).2.c.latch = s.c.latch ∧ (imageAt 5 s).2.c.w = s.c.w :=
  ⟨by decide, Test.got (by decide +kernel), by decide +kernel, by decide +kernel, by decide +kernel⟩
theorem witness_RecordsAndImages_hpact : (Test.put { task := some 0 }).c.sys = true ∧ (Test.put { task := some 0 }).c.task.isSome = true := by decide

/-! CSAVE's record passes through the store queue, granule by granule; what is true at every granule, by induction. -/

/-- The state while a record goes to core 0's own scratchpad: only its queue, memory and tags change, and its queue holds writes to that
scratchpad. -/
def Test.Saving (b : State) (c : Core) (s : State) : Prop :=
  ∃ q n m t, s = { b with cores := [(0, { c with sq := q, seq := n })], mem := m, tags := t } ∧ q.length ≤ 32 ∧
    ∀ e ∈ q, ∃ off cells tg, e.op = .write cells tg ∧ e.home = .core 0 ∧ off < 0x80000 ∧ (cells = [] ∨ ∃ x r, cells = (spadKey 0 off, x) :: r)

theorem Test.saving_drain {b : State} {c : Core} (hb : b.cur = 0 ∧ b.poison = [] ∧ b.ham.saved = []) (hc : c.asyncs = [] ∧ c.loads = [])
    {s : State} (h : Test.Saving b c s) : Test.Saving b c (s.drainHead s.cur) ∧ (s.drainHead s.cur).c.sq = s.c.sq.tail := by
  obtain ⟨q, n, m, t, rfl, hq, he⟩ := h
  obtain ⟨h1, h2, h3⟩ := hb
  obtain ⟨h4, h5⟩ := hc
  cases q with
  | nil => exact ⟨⟨[], n, m, t, by simp [State.drainHead, State.getC, h1, mget, mfind], by simp, by simp⟩, by simp [State.drainHead, State.getC, State.c, h1, mget, mfind]⟩
  | cons e q =>
    obtain ⟨off, cells, tg, ho, hh, hoff, hcell⟩ := he e (by simp)
    have key : ∃ m' t', (State.drainHead { b with cores := [(0, { c with sq := e :: q, seq := n })], mem := m, tags := t } b.cur) =
        { b with cores := [(0, { c with sq := q, seq := n })], mem := m', tags := t' } := by
      have hs : ¬(istoreBase ≤ spadKey 0 off ∧ spadKey 0 off < accBase) := by
        simp only [istoreBase, accBase, spadKey, spadBase]; omega
      have ha : ¬ accBase ≤ spadKey 0 off := by simp only [accBase, spadKey, spadBase]; omega
      have hz : spadBase < accBase := by simp [accBase, spadBase]
      rcases hcell with rfl | ⟨x, r, rfl⟩ <;>
      simp [State.drainHead, State.drain, State.mayDrain, State.asyncAt, State.tileBusy, SqEntry.firstKey, State.arriveBytes, ha, hz, State.performEntry, State.perform, State.arriveWhere, State.markStale, State.noteWrite,
        State.getC, State.updC, State.setC, h1, h2, h3, h4, h5, ho, hh, mget, mfind, mset, merase, minsert, hs]
    obtain ⟨m', t', key⟩ := key
    refine ⟨⟨q, n, m', t', key, by simp at hq; omega, fun e' h' => he e' (by simp [h'])⟩, ?_⟩
    show (State.drainHead _ b.cur).c.sq = _
    rw [key]
    simp [State.c, State.getC, h1, mget, mfind]

theorem Test.saving_store {b : State} {c : Core} (hb : b.cur = 0 ∧ b.poison = [] ∧ b.ham.saved = [])
    (hc : c.asyncs = [] ∧ c.loads = [] ∧ c.slim = 0 ∧ c.sbase = 0) {s : State} (h : Test.Saving b c s) (off : Nat) (ho : off < 0x80000) (bs : List Byte) :
    ∃ t, (do let l ← locateM .store (Test.near + off) 16
             storeBytes l (Test.near + off) bs false : M Unit) s = (.ok (), t) ∧ Test.Saving b c t := by
  have hcur : s.cur = 0 := by obtain ⟨q, n, m, t, rfl, -, -⟩ := h; exact hb.1
  have hr : regionOf (Test.near + off) = some (.window .near 0 off) := by
    have h1 : ¬ Test.near + off < 2 ^ 55 := by simp only [Test.near]; omega
    have h2 : (Test.near + off) / 2 ^ 48 = 0xF0 := by simp only [Test.near]; omega
    have h3 : (Test.near + off) % 2 ^ 48 = off := by simp only [Test.near]; omega
    simp only [regionOf, if_neg h1, h2, h3]
  have hl : locateM .store (Test.near + off) 16 s = (.ok { key := spadKey 0 off }, s) := by
    unfold locateM
    rw [bind_get]
    have : s.locate s.party .store (Test.near + off) 16 = (.ok { key := spadKey 0 off }, s) := by
      simp only [State.locate, hr, ho, if_true, State.party, State.partyOf, hcur]
    rw [this]
    rfl
  have hsq : ∀ u : State, Test.Saving b c u → u.cur = 0 ∧ u.c.sq.length ≤ 32 ∧ u.c.inStack (Test.near + off) = false ∧
      (u.tileBusy (spadKey 0 off)) = false := by
    rintro u ⟨q, n, m, t, rfl, hq, -⟩
    refine ⟨hb.1, ?_, ?_, ?_⟩
    · simpa [State.c, State.getC, hb.1, mget, mfind] using hq
    · simp [State.c, State.getC, hb.1, mget, mfind, Core.inStack, hc.2.2.1, hc.2.2.2]
    · have : ¬ accBase ≤ spadKey 0 off := by simp only [accBase, spadKey, spadBase]; omega
      simp [State.tileBusy, this]
  -- room is made by draining the oldest entry of a full queue
  let r := (List.range (s.c.sq.length + 1 - 32)).foldl (fun s _ => s.drainHead s.cur) s
  have hroom : Test.Saving b c r ∧ r.c.sq.length ≤ 31 := by
    have hs := hsq s h
    rcases Nat.lt_or_ge s.c.sq.length 32 with hlt | hge
    · have h0 : s.c.sq.length + 1 - 32 = 0 := by omega
      have hr : r = s := by show (List.range _).foldl _ s = s; rw [h0]; rfl
      rw [hr]
      exact ⟨h, by omega⟩
    · have h0 : s.c.sq.length + 1 - 32 = 1 := by omega
      have hr : r = s.drainHead s.cur := by show (List.range _).foldl _ s = _; rw [h0]; rfl
      obtain ⟨hd, ht⟩ := Test.saving_drain hb ⟨hc.1, hc.2.1⟩ h
      rw [hr]
      exact ⟨hd, by rw [ht, List.length_tail]; omega⟩
  have hrr : roomFor 1 s = (.ok (), r) := by
    have h32 : decide (32 < r.c.sq.length + 1) = false := by have := hroom.2; simp; omega
    unfold roomFor
    rw [bind_modify, bind_get]
    show holdIf (decide (32 < r.c.sq.length + 1)) .queue r = _
    rw [h32]
    rfl
  have hs := hsq s h
  refine ⟨r.enqueue (.write (cellsAt (spadKey 0 off) bs) [(spadKey 0 off / 16, false)]) (homeOf (spadKey 0 off)), ?_, ?_⟩
  · rw [bind_ok hl]
    unfold storeBytes
    rw [bind_get]
    simp only [hs.2.2.1, if_false, Bool.false_eq_true]
    rw [hs.2.2.2, bind_holdIf_false, bind_ok hrr, modify_run]
  · obtain ⟨⟨q, n, m, t, hreq, hq, he⟩, hlen⟩ := hroom
    have hh : homeOf (spadKey 0 off) = .core 0 := by
      have h1 : spadBase ≤ spadKey 0 off := by simp only [spadKey]; omega
      have h2 : spadKey 0 off < istoreBase := by simp only [istoreBase, spadKey, spadBase]; omega
      have h3 : (spadKey 0 off - spadBase) / 0x100000 = 0 := by simp only [spadKey]; omega
      simp only [homeOf, if_pos h1, if_pos h2, h3]
    have hc' : r.c = { c with sq := q, seq := n } := by rw [hreq]; simp [State.c, State.getC, hb.1, mget, mfind]
    have hn : ¬ 32 ≤ q.length := by rw [hc'] at hlen; simp only at hlen; omega
    refine ⟨q ++ [⟨.write (cellsAt (spadKey 0 off) bs) [(spadKey 0 off / 16, false)], .core 0, n, c.ctx⟩], n + 1, m, t, ?_, ?_, ?_⟩
    · simp only [State.enqueue, hh, hreq]
      simp [hn, State.upd, State.setC, State.c, State.getC, hb.1, mget, mfind, mset, merase, minsert]
    · rw [hc'] at hlen
      simp at hlen ⊢
      omega
    · intro e h'
      rcases List.mem_append.mp h' with h' | h'
      · exact he e h'
      · simp only [List.mem_singleton] at h'
        subst h'
        refine ⟨off, _, _, rfl, rfl, ho, ?_⟩
        cases bs with
        | nil => exact .inl rfl
        | cons x xs => exact .inr ⟨x, _, rfl⟩

theorem Test.saving_record {b : State} {c : Core} (hb : b.cur = 0 ∧ b.poison = [] ∧ b.ham.saved = [])
    (hc : c.asyncs = [] ∧ c.loads = [] ∧ c.slim = 0 ∧ c.sbase = 0) (bs : List Byte) (is : List Nat) (hi : ∀ i ∈ is, 16 * i < 0x80000) :
    ∀ {s : State}, Test.Saving b c s → ∃ t, (is.forM (fun i => do
      let l ← locateM .store (Test.near + 16 * i) 16
      storeBytes l (Test.near + 16 * i) ((bs.drop (16 * i)).take 16) false) : M Unit) s = (.ok (), t) ∧ Test.Saving b c t := by
  induction is with
  | nil => intro s h; exact ⟨s, rfl, h⟩
  | cons i is ih =>
    intro s h
    obtain ⟨u, hu, hs⟩ := Test.saving_store hb hc h (16 * i) (hi i (by simp)) ((bs.drop (16 * i)).take 16)
    obtain ⟨t, ht, hs'⟩ := ih (fun j hj => hi j (by simp [hj])) hs
    refine ⟨t, ?_, hs'⟩
    show ((do let l ← locateM .store (Test.near + 16 * i) 16
              storeBytes l (Test.near + 16 * i) ((bs.drop (16 * i)).take 16) false : M Unit) >>= fun _ => _) s = _
    rw [bind_ok hu]
    exact ht

theorem Test.saving_all {b : State} {c : Core} (hb : b.cur = 0 ∧ b.poison = [] ∧ b.ham.saved = [])
    (hc : c.asyncs = [] ∧ c.loads = [] ∧ c.slim = 0 ∧ c.sbase = 0) (bs : List Byte) (hn : bs.length / 16 ≤ 0x8000) {s : State}
    (h : Test.Saving b c s) : ∃ t, storeRecord Test.near bs s = (.ok (), t) ∧ Test.Saving b c t := by
  refine Test.saving_record hb hc bs (List.range (bs.length / 16)) (fun i hi => ?_) h
  have := List.mem_range.mp hi
  omega

/-- The core with its capability at the start of the window. -/
def Test.base : State := Test.put { Test.core with g := [(5, Test.cap 0)] }
theorem witness_RecordsAndImages_csave : ∃ s2, let s := Test.base
    let s1 := (recordPlace 5 0x8100 permW .store s).2
    let w := s1.awaitProducers
    let token := 2 * w.ham.blobs.length
    s.c.sys = true ∧ recordPlace 5 0x8100 permW .store s = (.ok Test.near, s1) ∧
    storeRecord Test.near (w.coreRecord w.cur 0 token false) { w with ham := { w.ham with blobs := w.ham.blobs ++ [(token, w.c)] } } = (.ok (), s2) ∧
    s2.c.pc = s.c.pc ∧ s2.c.latch = s.c.latch ∧ s2.c.w = s.c.w ∧ s2.c.sys = s.c.sys := by
  have hw : (recordPlace 5 0x8100 permW .store Test.base).2.awaitProducers = Test.base := by decide +kernel
  have hp : recordPlace 5 0x8100 permW .store Test.base = (.ok Test.near, (recordPlace 5 0x8100 permW .store Test.base).2) := Test.got (by decide +kernel)
  have hlen : (Test.base.coreRecord Test.base.cur 0 (2 * Test.base.ham.blobs.length) false).length / 16 ≤ 0x8000 := by rw [coreRecord_length]; decide
  have key : ∀ w, w = Test.base → ∃ s2, storeRecord Test.near (w.coreRecord w.cur 0 (2 * w.ham.blobs.length) false)
      { w with ham := { w.ham with blobs := w.ham.blobs ++ [(2 * w.ham.blobs.length, w.c)] } } = (.ok (), s2) ∧
      s2.c.pc = Test.base.c.pc ∧ s2.c.latch = Test.base.c.latch ∧ s2.c.w = Test.base.c.w ∧ s2.c.sys = Test.base.c.sys := by
    rintro _ rfl
    obtain ⟨t, ht, q, n, m, tg, rfl, -, -⟩ := Test.saving_all (b := { Test.base with ham := { Test.base.ham with blobs := Test.base.ham.blobs ++ [(2 * Test.base.ham.blobs.length, Test.base.c)] } })
      (c := Test.base.c) ⟨rfl, rfl, rfl⟩ ⟨rfl, rfl, rfl, rfl⟩ _ hlen
      (s := { Test.base with ham := { Test.base.ham with blobs := Test.base.ham.blobs ++ [(2 * Test.base.ham.blobs.length, Test.base.c)] } })
      ⟨[], 0, [], [], rfl, by decide, by simp⟩
    exact ⟨_, ht, rfl, rfl, rfl, rfl⟩
  obtain ⟨s2, h1, h2⟩ := key _ hw
  exact ⟨s2, by decide, hp, h1, h2⟩
/-! CREST reads its record granule by granule; from a core's own scratchpad every one answers and nothing changes. -/

/-- The start of the core's scratchpad holds the stepping field of a save record. -/
def Test.saved : State := { Test.put { Test.core with g := [(5, Test.cap 0)] } with mem := [(spadKey 0 8, 0xA1)] }

theorem Test.read_granule (off : Nat) (ho : off < 0x80000) (bs : List Byte) :
    (do let l ← locateM .load (Test.near + off) 16
        raiseIf l.remote .remote (Test.near + off)
        let (b, _) ← loadBytes l (Test.near + off) 16
        return bs ++ b : M (List Byte)) Test.saved =
      (.ok (bs ++ (List.range 16).map (fun i => Test.saved.seenByte 0 0 (spadKey 0 off + i))), Test.saved) := by
  have hr : regionOf (Test.near + off) = some (.window .near 0 off) := by
    have h1 : ¬ Test.near + off < 2 ^ 55 := by simp only [Test.near]; omega
    have h2 : (Test.near + off) / 2 ^ 48 = 0xF0 := by simp only [Test.near]; omega
    have h3 : (Test.near + off) % 2 ^ 48 = off := by simp only [Test.near]; omega
    simp only [regionOf, if_neg h1, h2, h3]
  have hl : locateM .load (Test.near + off) 16 Test.saved = (.ok { key := spadKey 0 off }, Test.saved) := by
    unfold locateM
    rw [bind_get]
    have : Test.saved.locate Test.saved.party .load (Test.near + off) 16 = (.ok { key := spadKey 0 off }, Test.saved) := by
      simp only [State.locate, hr, ho, if_true]
      rfl
    rw [this]
    rfl
  have hb : loadBytes { key := spadKey 0 off } (Test.near + off) 16 Test.saved =
      (.ok ((List.range 16).map (fun i => Test.saved.seenByte 0 0 (spadKey 0 off + i)), false), Test.saved) := by
    have h1 : Test.saved.c.inStack (Test.near + off) = false := by simp [Core.inStack, show Test.saved.c.sbase = 0 from rfl]
    have h2 : Test.saved.tileBusy (spadKey 0 off) = false := by
      have : ¬ accBase ≤ spadKey 0 off := by simp only [accBase, spadKey, spadBase]; omega
      simp [State.tileBusy, this]
    have h3 : Test.saved.isLocal (Test.near + off) = true := by simp [State.isLocal, hr]
    have ha : Test.saved.awaitsAmo (spadKey 0 off) 16 = false := by
      simp [State.awaitsAmo, show Test.saved.c.sq = [] from rfl, sqByte]
    have h4 : amoFirst (spadKey 0 off) 16 Test.saved = (.ok (), Test.saved) := by
      have : (modify (·.flushAmo (spadKey 0 off) 16) : M Unit) Test.saved = (.ok (), Test.saved) := by
        show (Except.ok (), Test.saved.flushAmo _ _) = _
        simp [State.flushAmo, ha]
      unfold amoFirst
      rw [bind_ok this, bind_get, ha]
      rfl
    have h5 : Test.saved.meetsError (spadKey 0 off) 16 = false := rfl
    have h6 : Test.saved.tagAt (spadKey 0 off) = false := rfl
    unfold loadBytes
    rw [bind_get]
    simp only [h1, if_false, Bool.false_eq_true]
    rw [h2, bind_holdIf_false, bind_ok h4, bind_get]
    simp only [h3, h6]
    rw [bind_raiseIf h5]
    rfl
  rw [bind_ok hl, bind_raiseIf rfl, bind_ok hb]
  rfl

theorem Test.read_all (is : List Nat) (hi : ∀ i ∈ is, 16 * i < 0x80000) : ∀ bs, ∃ r,
    (is.foldlM (fun bs i => do
      let at' := Test.near + 16 * i
      let l ← locateM .load at' 16
      raiseIf l.remote .remote at'
      let (b, _) ← loadBytes l at' 16
      return bs ++ b) bs : M (List Byte)) Test.saved = (.ok (bs ++ r), Test.saved) := by
  induction is with
  | nil => intro bs; exact ⟨[], by simp; rfl⟩
  | cons i is ih =>
    intro bs
    obtain ⟨r, hr⟩ := ih (fun j hj => hi j (by simp [hj])) (bs ++ (List.range 16).map (fun j => Test.saved.seenByte 0 0 (spadKey 0 (16 * i) + j)))
    refine ⟨(List.range 16).map (fun j => Test.saved.seenByte 0 0 (spadKey 0 (16 * i) + j)) ++ r, ?_⟩
    rw [List.foldlM_cons, bind_ok (Test.read_granule (16 * i) (hi i (by simp)) bs), hr, List.append_assoc]

theorem witness_RecordsAndImages_crest : ∃ bs s1, let s := Test.saved
    let u := s1.awaitProducers.loadRecord s1.cur bs false
    s.c.sys = true ∧ (do let x ← recordPlace 5 0x8100 permR .load; readBlock x 0x8100 : M (List Byte)) s = (.ok bs, s1) ∧ field bs 8 8 = 0xA1 ∧
    u.c.pc = s.c.pc ∧ u.c.latch = s.c.latch ∧ u.c.w = s.c.w ∧ u.c.sys = s.c.sys := by
  have hp : recordPlace 5 0x8100 permR .load Test.saved = (.ok Test.near, Test.saved) :=
    Prod.ext (by decide +kernel) (by decide +kernel)
  obtain ⟨r, h⟩ := Test.read_all ((List.range 2063).map Nat.succ)
    (fun i hi => by obtain ⟨j, hj, rfl⟩ := List.mem_map.mp hi; have := List.mem_range.mp hj; omega)
    ([] ++ (List.range 16).map (fun i => Test.saved.seenByte 0 0 (spadKey 0 (16 * 0) + i)))
  have hb : readBlock Test.near 0x8100 Test.saved =
      (.ok ([] ++ (List.range 16).map (fun i => Test.saved.seenByte 0 0 (spadKey 0 (16 * 0) + i)) ++ r), Test.saved) := by
    show ((List.range (2063 + 1)).foldlM _ [] : M (List Byte)) Test.saved = _
    rw [List.range_succ_eq_map, List.foldlM_cons, bind_ok (Test.read_granule (16 * 0) (by decide) [])]
    exact h
  refine ⟨_, Test.saved, by decide, (bind_ok hp).trans hb, ?_, rfl, rfl, rfl, rfl⟩
  have : [] ++ (List.range 16).map (fun i => Test.saved.seenByte 0 0 (spadKey 0 (16 * 0) + i)) =
      [0, 0, 0, 0, 0, 0, 0, 0, 0xA1, 0, 0, 0, 0, 0, 0, 0] := by decide +kernel
  rw [this]
  rfl

/-- All of `access` passes in the near window, for the capability of g5. -/
theorem Test.near_ok (off n : Nat) (need : BitVec 12) (a : Acc) (ho : off < 0x80000 := by decide) (hn : off + n ≤ 0x80000 := by decide)
    (hp : need &&& ~~~0x7FF = 0 := by decide) (hm : (Test.near + off) % n = 0 := by decide) :
    Reaches Test.s (Test.cap 0x40) (Test.near + off) n need a { key := spadKey 0 off } Test.s := by
  have hr : regionOf (Test.near + off) = some (.window .near 0 off) := by
    have h1 : ¬ Test.near + off < 2 ^ 55 := by simp only [Test.near]; omega
    have h2 : (Test.near + off) / 2 ^ 48 = 0xF0 := by simp only [Test.near]; omega
    have h3 : (Test.near + off) % 2 ^ 48 = off := by simp only [Test.near]; omega
    simp only [regionOf, if_neg h1, h2, h3]
  refine ⟨⟨Test.s, ⟨Test.box, Test.live, ?_, ?_, ?_⟩, rfl, ?_⟩, hm, rfl⟩
  · have : capPerm (Test.cap 0x40) &&& Test.box.perm = 0x7FF := by decide
    rw [this]
    exact hp
  · exact Nat.le_add_right _ _
  · have : Test.box.base + Test.box.len = Test.near + 0x80000 := rfl
    omega
  · simp only [State.locate, hr, ho, if_true]
    rfl
theorem Test.near_plain (off n : Nat) (ea : Nat) (ho : off < 0x80000 := by decide) : Claim.Plain Test.s { key := spadKey 0 off } ea n where
  stack := by simp [Core.inStack, show Test.s.c.sbase = 0 from rfl]
  host := rfl
  free := by
    have : ¬ accBase ≤ spadKey 0 off := by simp only [accBase, spadKey, spadBase]; omega
    simp [State.tileBusy, this]
  good := rfl
  known := by intro i _; simp [show Test.s.c.sq = [] from rfl, sqByte]

theorem witness_LoadsAndStores_ld : ldEa (Test.s.rdG 5) .z64 0 = Test.near + 0x40 ∧
    Reaches Test.s (Test.s.rdG 5) (Test.near + 0x40) (ldSize .z64) permR .load { key := spadKey 0 0x40 } Test.s ∧
    Claim.Plain Test.s { key := spadKey 0 0x40 } (Test.near + 0x40) (ldSize .z64) ∧ Test.s.c.loads.length < 32 :=
  ⟨by decide, Test.near_ok 0x40 8 _ _, Test.near_plain 0x40 8 _, by decide⟩
theorem witness_LoadsAndStores_st : Reaches Test.s (Test.s.rdG 5) (ldEa (Test.s.rdG 5) .z8 0x1FFF) (ldSize .z8) permW .store { key := spadKey 0 0x203F } Test.s ∧
    Claim.Plain Test.s { key := spadKey 0 0x203F } (ldEa (Test.s.rdG 5) .z8 0x1FFF) (ldSize .z8) ∧ Test.s.c.sq.length < 32 :=
  ⟨Test.near_ok 0x203F 1 _ _, Test.near_plain 0x203F 1 _, by decide⟩
theorem witness_LoadsAndStores_ldc : Reaches Test.s (Test.s.rdG 5) (ldcEa (Test.s.rdG 5) 0x1FFFC) 16 (permR ||| permCL) .load { key := spadKey 0 0 } Test.s ∧
    Claim.Plain Test.s { key := spadKey 0 0 } (ldcEa (Test.s.rdG 5) 0x1FFFC) 16 ∧ Test.s.c.sq = [] :=
  ⟨Test.near_ok 0 16 _ _, Test.near_plain 0 16 _, by decide⟩
/-- A tagged granule and an untagged one. -/
theorem witness_LoadsAndStores_stc : Reaches Test.s (Test.s.rdG 5) (ldcEa (Test.s.rdG 5) 0) 16 (if (Test.s.rdG 5).tag then permW ||| permCS else permW) .store { key := spadKey 0 0x40 } Test.s ∧
    Reaches Test.s (Test.s.rdG 5) (ldcEa (Test.s.rdG 5) 0) 16 (if (Test.s.rdG 0).tag then permW ||| permCS else permW) .store { key := spadKey 0 0x40 } Test.s ∧
    Claim.Plain Test.s { key := spadKey 0 0x40 } (ldcEa (Test.s.rdG 5) 0) 16 ∧ Test.s.c.sq.length < 32 ∧ ((Test.s.rdG 5).tag && false) = false :=
  ⟨Test.near_ok 0x40 16 _ _, Test.near_ok 0x40 16 _ _, Test.near_plain 0x40 16 _, by decide, by decide⟩
theorem witness_LoadsAndStores_stack : ∃ l x, let s := Test.stacked 0xFF0 0xFF0 7
    Reaches s (s.rdG 2) (ldEa (s.rdG 2) .z64 1) 8 permR .load l s ∧ s.c.inStack (ldEa (s.rdG 2) .z64 1) = true ∧
    mfind s.c.stack (ldEa (s.rdG 2) .z64 1 / 16) = some x ∧ x.bad = false ∧ s.c.loads.length < 32 :=
  ⟨_, _, ⟨⟨_, ⟨⟨_, ⟨by decide, by decide, by decide, rfl, by decide, by decide⟩, by decide, by decide, by decide⟩⟩, by decide, rfl⟩, by decide, by decide⟩,
    by decide, rfl, rfl, by decide⟩
/-- The cached granule of the stack takes a store of eight bytes, gives and takes a granule; tagged and untagged. -/
theorem witness_LoadsAndStores_stackst : ∃ l x, let s := Test.stacked 0xFF0 0xFF0 7
    s.c.inStack (ldEa (s.rdG 2) .z64 1) = true ∧ mfind s.c.stack (ldEa (s.rdG 2) .z64 1 / 16) = some x ∧ x.bad = false ∧
    Reaches s (s.rdG 2) (ldEa (s.rdG 2) .z64 1) 8 permW .store l s :=
  ⟨_, _, by decide, rfl, rfl, ⟨⟨_, ⟨⟨_, ⟨by decide, by decide, by decide, rfl, by decide, by decide⟩, by decide, by decide, by decide⟩⟩, by decide, rfl⟩, by decide, by decide⟩⟩
theorem witness_LoadsAndStores_stackgran : ∃ l x, let s := Test.stacked 0xFF0 0xFF0 7
    let ea := ldcEa (s.rdG 2) 0
    s.c.inStack ea = true ∧ mfind s.c.stack (ea / 16) = some x ∧ x.bad = false ∧ Reaches s (s.rdG 2) ea 16 (permR ||| permCL) .load l s ∧
    ∀ r ∈ [(2 : GReg), 0], Reaches s (s.rdG 2) ea 16 (if (s.rdG r).tag then permW ||| permCS else permW) .store l s ∧ ((s.rdG r).tag && l.tagless) = false := by
  refine ⟨{ key := spadKey 0 0xFF0 }, _, by decide, rfl, rfl,
    ⟨⟨_, ⟨⟨_, ⟨by decide, by decide, by decide, rfl, by decide, by decide⟩, by decide, by decide, by decide⟩⟩, by decide, rfl⟩, by decide, by decide⟩, ?_⟩
  intro r hr
  simp only [List.mem_cons, List.not_mem_nil, or_false] at hr
  rcases hr with rfl | rfl <;>
    exact ⟨⟨⟨_, ⟨⟨_, ⟨by decide, by decide, by decide, rfl, by decide, by decide⟩, by decide, by decide, by decide⟩⟩, by decide, rfl⟩, by decide, by decide⟩, by decide⟩
/-- A PREF of the own scratchpad in a compute step, one beyond it whose capability passes, and one whose capability does not. -/
theorem witness_LoadsAndStores_pref :
    (let s := Test.put { Test.core with stepOn := true, mode := 4 }
     ¬ (s.c.strict && !s.ownSpad s.cur (Test.near + 0x40) && !s.c.inStack (Test.near + 0x40)) = true ∧ eaOf (s.rdG 5) 0 = Test.near + 0x40) ∧
    (let s := Test.put { stepOn := true, mode := 4, gcache := [⟨0, 0, Test.far⟩], g := [(5, mkCap 5 0x7FF 0 0x00F1000000100000)] }
     (s.c.strict && !s.ownSpad s.cur 0x00F1000000100000 && !s.c.inStack 0x00F1000000100000) = true ∧ eaOf (s.rdG 5) 0 = 0x00F1000000100000 ∧
     ∃ s', Checked s (s.rdG 5) 0x00F1000000100000 1 permR s') ∧
    (let s := Test.put { stepOn := true, mode := 4, g := [(5, ⟨(mkCap 5 0x7FF 0 0x00F1000000100000).val, false⟩)] }
     (s.c.strict && !s.ownSpad s.cur 0x00F1000000100000 && !s.c.inStack 0x00F1000000100000) = true ∧ eaOf (s.rdG 5) 0 = 0x00F1000000100000 ∧
     ∃ k u, Turned s (s.rdG 5) 0x00F1000000100000 1 permR k u) :=
  ⟨by decide, ⟨by decide, by decide, _, ⟨Test.far, ⟨by decide, by decide, by decide, rfl, by decide, by decide⟩, by decide, by decide, by decide⟩⟩,
    by decide, by decide, .tag, _, .inl ⟨rfl, rfl, .inl (by decide)⟩⟩
/-- No deposit waits. -/
theorem Test.noneWaits {s : State} (h : s.asyncIn s.cur (fun _ => true) = false) : Claim.sent s := h
theorem witness_LoadsAndStores_waitld : Test.s.c.loads.length ≤ (0#6).toNat := by decide

theorem witness_Atomics : capAddr (Test.s.rdG 5) = Test.near + 0x40 ∧ Test.s.c.sq = [] ∧ Test.s.c.loads = [] ∧ Claim.sent Test.s ∧ Claim.atomic (Test.near + 0x40) = true ∧
    Reaches Test.s (Test.s.rdG 5) (Test.near + 0x40) 8 (permR ||| permW ||| permA) .atomic { key := spadKey 0 0x40 } Test.s ∧
    Claim.Plain Test.s { key := spadKey 0 0x40 } (Test.near + 0x40) 8 ∧
    Reaches Test.s (Test.s.rdG 5) (Test.near + 0x40) 4 (permR ||| permW ||| permA) .atomic { key := spadKey 0 0x40 } Test.s ∧
    Claim.Plain Test.s { key := spadKey 0 0x40 } (Test.near + 0x40) 4 :=
  ⟨by decide, rfl, rfl, Test.noneWaits (by decide), by decide, Test.near_ok 0x40 8 _ _, Test.near_plain 0x40 8 _, Test.near_ok 0x40 4 _ _, Test.near_plain 0x40 4 _⟩
theorem witness_Ordering : Claim.atomic (Test.near + 0x40) = true ∧ Claim.Plain Test.s { key := spadKey 0 0x40 } (Test.near + 0x40) (atBytes .z64) ∧
    Reaches Test.s (Test.s.rdG 5) (Test.near + 0x40) (atBytes .z64) permR .load { key := spadKey 0 0x40 } Test.s ∧
    Reaches Test.s (Test.s.rdG 5) (Test.near + 0x40) (atBytes .z64) permW .store { key := spadKey 0 0x40 } Test.s ∧
    Reaches Test.s (Test.s.rdG 5) (Test.near + 0x40) (atBytes .z64) (permR ||| permW ||| permA) .atomic { key := spadKey 0 0x40 } Test.s ∧
    Test.s.c.sq = [] ∧ Test.s.c.loads = [] ∧ Claim.sent Test.s ∧ Test.s.c.sq.length + 2 ≤ 32 ∧ ∀ e ∈ Test.s.c.stack, e.2.dirty = false :=
  ⟨by decide, Test.near_plain 0x40 8 _, Test.near_ok 0x40 8 _ _, Test.near_ok 0x40 8 _ _, Test.near_ok 0x40 8 _ _, rfl, rfl, Test.noneWaits (by decide), by decide, by decide⟩
/-- Context 0 with barrier 3 of die 0 as given, and g6. -/
def Test.barrier (b : Bar) (x : Nat) : State :=
  { Test.put { g := [(6, ⟨BitVec.ofNat 128 x, false⟩)] } with ctxs := [(0, { bars := [(3, b)] })] }
theorem witness_Barriers_rest : (Test.barrier {} 1).c.sq = [] ∧ (Test.barrier {} 1).c.loads = [] ∧ ((Test.barrier {} 1).getBar 0 0 3).heldBy = [] ∧
    (Test.barrier {} 1).c.wait = none ∧ (Test.barrier {} 1).asyncIn (Test.barrier {} 1).cur (fun _ => true) = false := by decide
theorem witness_Barriers_binit : 1 ≤ ((Test.barrier {} 1).rdI 6).toNat ∧ ((Test.barrier {} 4608).rdI 6).toNat ≤ 4608 := by decide
/-- The sum at both ends of PENDING's range. -/
theorem witness_Barriers_bexp : ((Test.barrier { pending := -1 } (2 ^ 35)).getBar 0 0 3).pending + ((Test.barrier { pending := -1 } (2 ^ 35)).rdI 6).toInt ≤ 2 ^ 35 - 1 ∧
    -(2 ^ 35) ≤ ((Test.barrier { pending := 1 - 2 ^ 35 } (2 ^ 64 - 1)).getBar 0 0 3).pending + ((Test.barrier { pending := 1 - 2 ^ 35 } (2 ^ 64 - 1)).rdI 6).toInt := by decide
theorem witness_Barriers_barr : ((Test.barrier { count := 2, arrived := 1 } 0).getBar 0 0 3).count ≠ 0 ∧ ((Test.barrier { count := 2, arrived := 1 } 0).getBar 0 0 3).broken = false ∧
    ((Test.barrier { count := 2, arrived := 1 } 0).getBar 0 0 3).arrived < ((Test.barrier { count := 2, arrived := 1 } 0).getBar 0 0 3).count := by decide
theorem witness_Barriers_bwait : ((Test.barrier { phase := true } 0).getBar 0 0 3).phase ≠ ((Test.barrier { phase := true } 0).rdI 6).getLsbD 0 ∧
    ((Test.barrier {} 1).getBar 0 0 3).phase ≠ ((Test.barrier {} 1).rdI 6).getLsbD 0 := by decide
/-- A count of 0 and one above 4,608; sums just past both ends of PENDING; no count; broken. -/
theorem witness_Barriers_bounds : ((Test.barrier {} 0).rdI 6).toNat = 0 ∧ 4608 < ((Test.barrier {} 4609).rdI 6).toNat ∧
    2 ^ 35 - 1 < ((Test.barrier {} (2 ^ 35)).getBar 0 0 3).pending + ((Test.barrier {} (2 ^ 35)).rdI 6).toInt ∧
    ((Test.barrier { pending := -(2 ^ 35) } (2 ^ 64 - 1)).getBar 0 0 3).pending + ((Test.barrier { pending := -(2 ^ 35) } (2 ^ 64 - 1)).rdI 6).toInt < -(2 ^ 35) ∧
    ((Test.barrier {} 0).getBar 0 0 3).count = 0 ∧ (((Test.barrier { count := 1, broken := true } 0).getBar 0 0 3).count ≠ 0 ∧
    ((Test.barrier { count := 1, broken := true } 0).getBar 0 0 3).broken = true) ∧
    ((Test.barrier { count := 1, broken := true } 0).getBar 0 0 3).phase = ((Test.barrier { count := 1, broken := true } 0).rdI 6).getLsbD 0 := by decide
/-- A core woken from an excess arrival; the first excess arrival; a completing one with another core held; a phase not over. -/
theorem witness_Barriers_held :
    (let c := (Test.put { wait := some (.barArrive 0 0 3), woken := some 1 }).c
     c.wait = some (.barArrive 0 0 3) ∧ c.woken = some 1) ∧
    (let b := (Test.barrier { count := 2, arrived := 2, pending := 5 } 0).getBar 0 0 3
     b.count ≠ 0 ∧ b.broken = false ∧ b.count ≤ b.arrived ∧ b.heldBy = []) ∧
    (let s := { Test.barrier { count := 2, arrived := 1, heldBy := [1] } 0 with cores := [(0, {}), (1, { wait := some (.barArrive 0 0 3) })] }
     let b := s.getBar 0 0 3
     s.c.sq = [] ∧ s.c.loads = [] ∧ s.asyncIn s.cur (fun _ => true) = false ∧ s.c.wait = none ∧ s.c.tr.pend = false ∧
     2 ≤ b.count ∧ b.broken = false ∧ b.pending = 0 ∧ b.arrived + 1 = b.count ∧ b.heldBy = [1] ∧ 1 ≠ s.cur ∧ 1 < nCores ∧
     (s.getC 1).wait = some (.barArrive 0 0 3) ∧ (s.getC 1).woken = none) ∧
    ((Test.barrier {} 0).getBar 0 0 3).phase = ((Test.barrier {} 0).rdI 6).getLsbD 0 ∧ ((Test.barrier {} 0).getBar 0 0 3).broken = false := by decide
theorem witness_WaitsAndPorts_waitm : Claim.atomic (Test.near + 0x40) = true ∧ Reaches Test.s (Test.s.rdG 5) (Test.near + 0x40) (atBytes .z32) permR .load { key := spadKey 0 0x40 } Test.s ∧
    Claim.Plain Test.s { key := spadKey 0 0x40 } (Test.near + 0x40) (atBytes .z32) ∧ Test.s.c.sq = [] ∧ Test.s.c.loads = [] ∧ Test.s.c.wait = none ∧
    leNat (readBytes Test.s.mem (spadKey 0 0x40) (atBytes .z32)) ≠ (Test.s.rdI 5).toNat % 2 ^ (8 * atBytes .z32) :=
  ⟨by decide, Test.near_ok 0x40 4 _ _, Test.near_plain 0x40 4 _, rfl, rfl, rfl, by decide⟩
/-- To a core by number in system mode, and to a member of the task in user mode. -/
theorem witness_WaitsAndPorts_msend : let s := Test.s
    let t := Test.task2 {} 1 0
    s.c.strict = false ∧ s.c.sys = true ∧
    s.locate s.party .store (0x00F1 * 2 ^ 48 + (s.rdI 0).toNat % 2 ^ 13 * 2 ^ 20) 8 = (.ok { key := spadKey 0 0 }, s) ∧ s.c.sq.length < 32 ∧
    t.c.strict = false ∧ t.locate t.party .store (0x00F5 * 2 ^ 48 + (t.rdI 6).toNat % 2 ^ 13 * 2 ^ 20) 8 = (.ok { key := spadKey 1 0 }, t) ∧
    t.c.sq.length < 32 :=
  ⟨by decide, by decide, Prod.ext (by decide +kernel) (by decide +kernel), by decide, by decide, Prod.ext (by decide +kernel) (by decide +kernel), by decide⟩
theorem witness_WaitsAndPorts_pget : (Test.put { portfull := 0x80 }).c.portfull.getLsbD (7#3).toNat = true ∧ (Test.put { portfull := 0x80 }).c.asyncs = [] := by decide

theorem Test.ready : Claim.Ready Test.s := ⟨fun _ h => Source.noConfusion h, by decide, by decide, by decide⟩
theorem witness_VectorInteger : Claim.Ready Test.s := Test.ready
/-- A core whose v1 holds signalling NaNs, every flag enabled. -/
def Test.nans : State := Test.put { fpctl := 0x1F00, v := [(1, Vector.replicate 16 0x7F800001)] }
theorem Test.nans_ready : Claim.Ready Test.nans := ⟨fun _ h => Source.noConfusion h, by decide, by decide, by decide⟩
theorem witness_VectorReals_fpx : Claim.Ready Test.nans ∧
    ((fAdd false .rne (laneAt (Test.nans.rdV 1) 0) 0).2 &&& Test.nans.c.fpctl.extractLsb' 8 5) ≠ 0 ∧
    ((fAdd false .rne (laneAt (Test.s.rdV 1) 0) 0).2 &&& Test.s.c.fpctl.extractLsb' 8 5) = 0 := ⟨Test.nans_ready, by decide +kernel, by decide +kernel⟩
/-- A quiet NaN, a signalling one, infinity times zero; finite numbers with a sum of zero, and 1, -1, 1/2. -/
theorem witness_VectorReals_operands : Claim.isNan 0x7FC00000 ∧ ¬Claim.isSig 0x7FC00000 ∧ Claim.isSig 0x7F800001 ∧ ¬Claim.isNan 0x3F800000 ∧
    Claim.infZero 0x7F800000 0x80000000 ∧ ¬Claim.infZero 0x3F800000 0 ∧ (Claim.extOf 0x7F800000).1 = true ∧ (Claim.extOf 0x3F800000).1 = false := by
  unfold Claim.isSig Claim.isNan Claim.infZero Claim.extOf
  decide
theorem witness_VectorReals_values : (Claim.extOf 0).2.2 = 0 ∧ (Claim.extOf 0x3F800000).2.2 = 1 ∧ (Claim.extOf 0xBF800000).2.2 = -1 ∧ (Claim.extOf 0x3F000000).2.2 = 1 / 2 := by
  have e0 : (0 : BitVec 32).toNat = 0 := rfl
  have e1 : (0x3F800000 : BitVec 32).toNat = 0x3F800000 := rfl
  have e2 : (0xBF800000 : BitVec 32).toNat = 0xBF800000 := rfl
  have e3 : (0x3F000000 : BitVec 32).toNat = 0x3F000000 := rfl
  unfold Claim.extOf Claim.codeReal
  rw [e0, e1, e2, e3]
  norm_num
/-- A product that is subnormal, and one that is not. -/
theorem witness_VectorReals_ftz : (fMul false .rne 0x00800000 0x3F000000).1 = 0x00400000 ∧ (fMul false .rne 0x3F800000 0x3F800000).1 = 0x3F800000 := by decide
theorem witness_VectorConvert : Claim.Ready Test.nans := Test.nans_ready
/-- E4M3 codes at both ends; a NaN, an infinity of E5M2, a zero and a number. -/
theorem witness_VectorConvert_elements : 255 < 2 ^ Fmt.e4m3.width ∧ Fmt.e4m3 ≠ .rank ∧ Claim.elementOf .e4m3 255 = .nan false ∧ Claim.elementOf .e5m2 0xFC = .inf true ∧
    Claim.elementOf .z8 0 = .real false 0 ∧ Claim.elementOf .s8 255 = .real true (-1) := by
  refine ⟨by decide, by decide, ?_, ?_, ?_, ?_⟩ <;> simp [Claim.elementOf, Claim.shapeOf]
theorem witness_VectorDotMoves : (Test.s.rdI 0).toNat % 512 = (0 : VReg).val ∧ (Test.put { g := [(6, ⟨383, false⟩)] }).rdI 6 = 383 ∧
    384 ≤ ((Test.put { g := [(6, ⟨384, false⟩)] }).rdI 6).toNat % 512 := by decide
theorem witness_VectorScans : Claim.Ready Test.s := Test.ready

/-- A member at a collective to which its publisher, core 1, and itself have contributed sixteen words each. -/
def Test.gather : State :=
  { State.reset with cores := [
    (0, { latch := { valid := true, src := .item }, w := { st := .member, size := 2, rank := 1, pub := 1 } }),
    (1, { w := { st := .publisher, size := 2, followers := [(1, 0)]
                 votes := [(1, 2 :: 0 :: List.replicate 17 7), (0, 2 :: 1 :: List.replicate 17 9)] } })] }
theorem witness_VectorCollectives : ∃ ws, let s := Test.gather
    let m := gathered (List.replicate 17 0)
    let vs := Test.ans m s
    let s1 := (m s).2
    Claim.Ready s ∧ s1.c.pc = s.c.pc ∧ s1.c.latch = s.c.latch ∧ s1.c.w.brw = s.c.w.brw ∧ s1.c.sys = s.c.sys ∧
    ranked vs s1 = (.ok ws, s1) ∧ gatherEnd s1 = (.ok (), s1) ∧ m s = (.ok vs, s1) ∧ ws.length % (2 * 2 ^ (0#2).toNat) = 0 :=
  ⟨[List.replicate 17 7, List.replicate 17 9], ⟨fun _ h => Source.noConfusion h, by decide, by decide, by decide⟩, by decide, by decide, by decide, by decide,
    rfl, rfl, Test.gave (by decide), by decide⟩

/-- One active lane, at the last word of the scratchpad; and two, of which the second lies past it. -/
def Test.lane (k : Mask) : State := Test.put { Test.core with g := [(5, Test.cap 0x7FFFC)], k := [(1, k)] }
theorem witness_VectorMemory : Claim.Ready (Test.lane 1) ∧
    elemAccess ((Test.lane 1).rdG 5) 4 permR .load false 0 [(0, Test.near + 0x7FFFC)] (Test.lane 1) =
      (.ok ([(0, Test.near + 0x7FFFC, { key := spadKey 0 0x7FFFC })], none), Test.lane 1) ∧
    (∃ f, elemAccess ((Test.lane 3).rdG 5) 4 permR .load false 0 [(0, Test.near + 0x7FFFC), (1, Test.near + 0x80000)] (Test.lane 3) =
      (.ok ([(0, Test.near + 0x7FFFC, { key := spadKey 0 0x7FFFC })], some f), Test.lane 3)) ∧
    elemAccess ((Test.lane 1).rdG 5) 4 permW .store false 0 [(0, Test.near + 0x7FFFC)] (Test.lane 1) =
      (.ok ([(0, Test.near + 0x7FFFC, { key := spadKey 0 0x7FFFC })], none), Test.lane 1) ∧
    Claim.AllPlain (Test.lane 1) 4 [(0, Test.near + 0x7FFFC, { key := spadKey 0 0x7FFFC })] ∧
    (Test.lane 1).c.sq.length + 1 ≤ 32 ∧ (Test.lane 1).c.loads.length < 32 := by
  refine ⟨⟨fun _ h => Source.noConfusion h, by decide, by decide, by decide⟩, rfl, ⟨_, rfl⟩, rfl, ?_, by decide, by decide⟩
  intro e he
  simp only [List.mem_singleton] at he
  subst he
  exact ⟨by decide, by decide, by decide, by decide, by decide⟩

/-- Bytes laid out in core 0's scratchpad from offset `at'`. -/
def Test.bytes (at' : Nat) (bs : List (Nat × Byte)) : List Host.Cell := bs.map (fun x => (spadKey 0 (at' + x.1), x.2))
/-- A format block: rows of code `c` with a pitch of 64 bytes, MODE 1, STORE_FMT `sf`. -/
def Test.block (c sf : Byte) : List (Nat × Byte) := [(0, c), (1, c), (2, 1), (5, sf), (8, 0x40), (12, 0x40)]
/-- A core of a task whose FMTCAP names a block at 0x40 and whose g6 is `w`; g8 and g9 name operands and g10 a list of one entry. -/
def Test.mtx (f : List (Nat × Byte)) (w : Nat) : State :=
  let t := Test.task2 {} w 0
  { t.upd (fun c => { c with
      fmtcap := Test.cap 0x40, gang := [0]
      g := [(5, Test.cap 0x40), (6, ⟨BitVec.ofNat 128 w, false⟩), (8, Test.cap 0x1000), (9, Test.cap 0x2000), (10, Test.cap 0x3000)] }) with
    mem := Test.bytes 0x40 f ++ Test.bytes 0x3000 [(0, 1), (3, 2)] }
theorem Test.mtx_ready (f : List (Nat × Byte)) (w : Nat) : Claim.Ready (Test.mtx f w) := ⟨fun _ h => Source.noConfusion h, rfl, rfl, rfl⟩
theorem Test.mtx_live : Live (Test.mtx (Test.block 2 1) 0) (Test.cap 0x40) Test.box (Test.mtx (Test.block 2 1) 0) :=
  ⟨by decide, by decide, by decide, rfl, by decide, by decide⟩
theorem witness_MatrixPosts_mfmt : let s := Test.mtx (Test.block 2 1) 0
    Claim.Ready s ∧ Checked s (s.rdG 5) (capAddr (s.rdG 5)) 64 permR s ∧ capAddr (s.rdG 5) % 64 = 0 :=
  ⟨Test.mtx_ready _ _, ⟨⟨_, Test.mtx_live, by decide, by decide, by decide⟩⟩, by decide⟩
theorem Test.still (s : State) (h : (s.c.sq.isEmpty && s.c.loads.isEmpty && s.c.stack.isEmpty) = true) : Claim.Still s := by
  simp only [Bool.and_eq_true, List.isEmpty_iff] at h
  exact ⟨h.1.1, h.1.2, h.2⟩
/-- A pass by the core alone, and one by its gang. -/
theorem witness_MatrixPosts_mpass (gang : Bool) : let s := Test.mtx (Test.block 2 1) 0
    let s1 := (readFmt s).2
    let f := Test.ans readFmt s
    let m := passOperands f (passK (s1.rdI 6)) (s1.rdG 8) (s1.rdG 9) gang
    let s2 := (m s1).2
    Claim.Ready s ∧ readFmt s = (.ok f, s1) ∧ passFmtBad f (passK (s1.rdI 6)) false = none ∧ passWordBad f (s1.rdI 6) gang = none ∧
    m s1 = (.ok (Test.ans m s1), s2) ∧ Claim.Still s2 ∧ Claim.sent s2 ∧ Claim.Room s2 (if gang then meOfCore s2.cur else meOfIndex s2.cur (bitsOf (s1.rdI 6).toNat 10 8)) := by
  cases gang <;>
    exact ⟨Test.mtx_ready _ _, Test.gave (by decide +kernel), by decide +kernel, by decide +kernel, Test.gave (by decide +kernel),
      Test.still _ (by decide +kernel), Test.noneWaits (by decide +kernel), ⟨by decide +kernel, by decide +kernel, by decide +kernel⟩⟩
theorem witness_MatrixPosts_mlist : let s := Test.mtx (Test.block 2 1) 0
    let s1 := (readFmt s).2
    let f := Test.ans readFmt s
    let m := listOperands f (s1.rdG 10) (s1.rdG 8) (s1.rdG 9)
    let s2 := (m s1).2
    Claim.Ready s ∧ readFmt s = (.ok f, s1) ∧ passFmtBad f 32 true = none ∧ m s1 = (.ok (Test.ans m s1), s2) ∧ Claim.Still s2 ∧ Claim.sent s2 ∧
    Claim.Room s2 (meOfIndex s2.cur (byteAt (Test.ans m s1).1 2)) :=
  ⟨Test.mtx_ready _ _, Test.gave (by decide +kernel), by decide +kernel, Test.gave (by decide +kernel), Test.still _ (by decide +kernel),
    Test.noneWaits (by decide +kernel), ⟨by decide +kernel, by decide +kernel, by decide +kernel⟩⟩
theorem witness_MatrixPosts_mzero : Claim.Room (Test.mtx [] 0) (meOfIndex (Test.mtx [] 0).cur (5#3).toNat) := ⟨by decide, by decide, by decide⟩
/-- A tile of four-byte elements, its rows 128 bytes apart, read and stored. -/
theorem witness_MatrixPosts_tile (store : Bool) : let s := Test.mtx (Test.block 2 1) (128 * 2 ^ 32)
    let m := tileCheck 6 8 store
    let s1 := (m s).2
    let r := @Test.ans _ ⟨([], 0, TReg0, 0)⟩ m s
    m s = (.ok r, s1) ∧ Claim.Room s1 (meOfIndex s1.cur (bitsOf r.2.1.toNat 10 8)) := by
  cases store <;> exact ⟨@Test.gave _ ⟨([], 0, TReg0, 0)⟩ _ _ (by decide +kernel), ⟨by decide +kernel, by decide +kernel, by decide +kernel⟩⟩

theorem Test.fmt (f : List (Nat × Byte)) (w : Nat) (h : Test.ok readFmt (Test.mtx f w) = true) :
    Claim.Ready (Test.mtx f w) ∧ readFmt (Test.mtx f w) = (.ok (Test.ans readFmt (Test.mtx f w)), (readFmt (Test.mtx f w)).2) := ⟨Test.mtx_ready f w, Test.gave h⟩
/-- No format code 0; an ME index of 6 in the descriptor. -/
theorem witness_FormatFaults_block : let s := Test.mtx [] 0
    let f := Test.ans readFmt s
    (Claim.Ready s ∧ readFmt s = (.ok f, (readFmt s).2)) ∧ passFmtBad f (passK ((readFmt s).2.rdI 6)) false = some 0 ∧ passFmtBad f 32 true = some 0 ∧
    tileFmtBad f false = some 2 ∧ tileFmtBad f true = some 2 :=
  ⟨Test.fmt _ _ (by decide +kernel), by decide +kernel, by decide +kernel, by decide +kernel, by decide +kernel⟩
theorem witness_FormatFaults_word : let s := Test.mtx (Test.block 2 1) (6 * 2 ^ 8)
    let f := Test.ans readFmt s
    let w := (readFmt s).2.rdI 6
    (Claim.Ready s ∧ readFmt s = (.ok f, (readFmt s).2)) ∧ passFmtBad f (passK w) false = none ∧ passWordBad f w false = some 8 ∧
    tileFmtBad f true = none ∧ tileDescBad w.toNat (widthOfCode (byteAt f 5)) = some 8 ∧
    tileFmtBad f false = none ∧ tileDescBad w.toNat (widthOfCode (byteAt f 5)) = some 8 :=
  ⟨Test.fmt _ _ (by decide +kernel), by decide +kernel, by decide +kernel, by decide +kernel, by decide +kernel, by decide +kernel, by decide +kernel⟩

theorem witness_MatrixWords : (1 : BitVec 3) ≠ 0 ∧ Claim.Ready Test.s ∧ Test.s.c.out ≤ (0#6).toNat ∧ Test.s.c.loads = [] := ⟨by decide, Test.ready, by decide, by decide⟩
theorem witness_MatrixWords_mtbl : let s := Test.s
    let ea := Test.near + 0x40
    Claim.Ready s ∧ capAddr (s.rdG 5) = ea ∧ Checked s (s.rdG 5) ea 32 permR s ∧ (s.c.strict && !s.ownSpad s.cur ea && !s.c.inStack ea) = false ∧
    s.locate s.party .load ea 16 = (.ok { key := spadKey 0 0x40 }, s) ∧ ea % 32 = 0 ∧
    readBlock ea 32 s = (.ok (Test.ans (readBlock ea 32) s), (readBlock ea 32 s).2) :=
  ⟨Test.ready, by decide, ⟨⟨_, Test.live, by decide, by decide, by decide⟩⟩, by decide, rfl, by decide, Test.gave (by decide +kernel)⟩

/-- At both ends of k, with a count of k and of 0. -/
theorem witness_RankUpdate : (byteAt [62, 62] 0 ≤ 62 ∧ byteAt [62, 62] 1 ≤ byteAt [62, 62] 0) ∧ byteAt [0] 0 ≤ 62 ∧ byteAt [0] 1 ≤ byteAt [0] 0 := by decide
/-- An empty list of two entries at 0x40 of the scratchpad, another at 0x80; g6 is `x`, g7 is `y`. -/
def Test.lists (x y : Nat) : State :=
  { Test.put { Test.core with g := [(5, Test.cap 0x40), (6, ⟨BitVec.ofNat 128 x, false⟩), (7, ⟨BitVec.ofNat 128 y, false⟩), (8, Test.cap 0x80)] } with
    mem := Test.bytes 0x40 [(0, 2), (6, 0x80), (7, 0xFF), (0x40, 2), (0x46, 0x80), (0x47, 0xFF)] }
theorem witness_RankedLists_rkinit : let s := Test.lists 62 0
    let s1 := (listTarget (s.rdG 5) permW .store false s).2
    let l : Loc := { key := spadKey 0 0x40 }
    1 ≤ (s.rdI 6).toNat % 256 ∧ (s.rdI 6).toNat % 256 ≤ 62 ∧ listTarget (s.rdG 5) permW .store false s = (.ok l, s1) ∧
    Checked s1 (s.rdG 5) (capAddr (s.rdG 5)) (rankSize 62) permW s1 ∧ Claim.Plain s1 l (capAddr (s.rdG 5)) 16 ∧ s1.c.sq.length < 32 :=
  ⟨by decide, by decide, Test.got' (by decide +kernel), ⟨⟨Test.box, ⟨by decide, by decide, by decide, rfl, by decide, by decide⟩, by decide, by decide, by decide⟩⟩,
    ⟨by decide, by decide, by decide, by decide, by decide⟩, by decide⟩
/-- The last tiles that hold a list of 62, and the last tile for one of 1. -/
theorem witness_RankedLists_rkinit_acc : let s := Test.lists 62 59
    let t := Test.lists 1 (5 * 2 ^ 8 + 63)
    Claim.Ready s ∧ bitsOf (s.rdI 7).toNat 7 6 = 0 ∧ (s.rdI 7).toNat / 2 ^ 11 = 0 ∧ bitsOf (s.rdI 7).toNat 10 8 ≤ 5 ∧ (s.rdI 7).toNat % 64 + rankRows 62 ≤ 64 ∧
    Claim.Room s (meOfIndex s.cur 0) ∧
    Claim.Ready t ∧ bitsOf (t.rdI 7).toNat 7 6 = 0 ∧ (t.rdI 7).toNat / 2 ^ 11 = 0 ∧ bitsOf (t.rdI 7).toNat 10 8 = 5 ∧ (t.rdI 7).toNat % 64 + rankRows 1 = 64 ∧
    Claim.Room t (meOfIndex t.cur 5) :=
  ⟨⟨fun _ h => Source.noConfusion h, rfl, rfl, rfl⟩, by decide, by decide, by decide, by decide, ⟨by decide, by decide, by decide⟩,
    ⟨fun _ h => Source.noConfusion h, rfl, rfl, rfl⟩, by decide, by decide, by decide, by decide, ⟨by decide, by decide, by decide⟩⟩
theorem witness_RankedLists_rkins : let s := Test.lists 0 0
    let m := listTarget (s.rdG 5) needRWA .atomic true
    let l : Loc := { key := spadKey 0 0x40 }
    let s1 := (m s).2
    let h := listAtHome (s.rdG 5) l needRWA
    m s = (.ok l, s1) ∧ Claim.Still s1 ∧ Claim.sent s1 ∧ h s1 = (.ok (Test.ans h s1), (h s1).2) :=
  ⟨Test.got' (by decide +kernel), Test.still _ (by decide +kernel), Test.noneWaits (by decide +kernel), Test.gave (by decide +kernel)⟩
theorem witness_RankedLists_rkmrg : let s := Test.lists 0 0
    let m2 := listTarget (s.rdG 8) permR .load false
    let l2 : Loc := { key := spadKey 0 0x80 }
    let s1 := (m2 s).2
    let m := listTarget (s.rdG 5) needRWA .atomic true
    let l : Loc := { key := spadKey 0 0x40 }
    let s2 := (m s1).2
    let r := listRead (s.rdG 8) permR
    let s3 := (r s2).2
    let h := listAtHome (s.rdG 5) l needRWA
    m2 s = (.ok l2, s1) ∧ m s1 = (.ok l, s2) ∧ r s2 = (.ok (Test.ans r s2), s3) ∧ Claim.Still s3 ∧ Claim.sent s3 ∧ h s3 = (.ok (Test.ans h s3), (h s3).2) :=
  ⟨Test.got' (by decide +kernel), Test.got' (by decide +kernel), Test.gave (by decide +kernel), Test.still _ (by decide +kernel), Test.noneWaits (by decide +kernel),
    Test.gave (by decide +kernel)⟩
/-- A core in no weave is a chain of one. -/
theorem witness_RankedLists_rkchain : let s := Test.lists 0 0
    let c := s.rdG 5
    let l : Loc := { key := spadKey 0 0x40 }
    let raw : List Byte := [2, 0, 0, 0, 0, 0, 0x80, 0xFF] ++ List.replicate 8 0
    let ws := raw.map (·.toNat)
    listTargetIn true c needRWA .atomic true s = (.ok l, s) ∧ Claim.Still s ∧ Claim.sent s ∧ listAtHome c l needRWA s = (.ok raw, s) ∧
    gathered ws s = (.ok [(0, 1 :: 0 :: ws)], s) ∧ ranked [(0, 1 :: 0 :: ws)] s = (.ok [ws], s) ∧ gatherEnd s = (.ok (), s) :=
  ⟨Prod.ext (by decide +kernel) (by decide +kernel), Test.still _ (by decide), Test.noneWaits (by decide),
    Prod.ext (by decide +kernel) (by decide +kernel), rfl, rfl, rfl⟩
/-- The same list on a core in no weave; on a publisher whose member has not contributed, and on one whose member has and has gone on; and a
publisher that has written its list. -/
theorem witness_RankedLists_chained : (Test.lists 0 0).inStream = false ∧
    (let mine : List Nat := [2, 0, 0, 0, 0, 0, 0x80, 0xFF, 0, 0, 0, 0, 0, 0, 0, 0]
     let s : State := { Test.lists 0 0 with cores := [(0, { (Test.lists 0 0).c with sys := false, w := Test.pub 1 [] }), (1, { sys := false, w := Test.mem 0 [] })] }
     let s3 := (contribute mine s).2
     listTargetIn true (s.rdG 5) needRWA .atomic true s = (.ok { key := spadKey 0 0x40 }, s) ∧
     (listAtHome (s.rdG 5) { key := spadKey 0 0x40 } needRWA s) = (.ok (mine.map (BitVec.ofNat 8)), s) ∧
     s.inStream = true ∧ contribute mine s = (.ok (), s3) ∧ s3.chainIn s3.streamPub 0 = true ∧ s3.myRank = 0 ∧
     ofRank (s3.getC s3.streamPub).w.votes 0 = some mine ∧ Test.ok gatherEnd s3 = false ∧ s3.c.tr.pend = false ∧ s3.c.pc = s.c.pc) ∧
    (let s := Test.two .own { Test.pub 1 [(0, [2, 0, 7]), (1, [2, 1, 8])] with coll := some 5 } (Test.mem 0 [])
     let s3 := (contribute [7] s).2
     contribute [7] s = (.ok (), s3) ∧ s3.chainIn s3.streamPub 0 = true ∧ ofRank (s3.getC s3.streamPub).w.votes 0 = some [7] ∧ gatherEnd s3 = (.ok (), s3)) ∧
    (let s := (Test.two .own { Test.pub 1 [] with coll := some 5 } (Test.mem 0 [])).upd (fun c => { c with wait := some .members, woken := some 1 })
     s.c.wait = some .members ∧ s.c.woken = some 1 ∧ gatherEnd s = (.ok (), s)) :=
  ⟨by decide, ⟨Prod.ext (by decide +kernel) (by decide +kernel), Prod.ext (by decide +kernel) (by decide +kernel), by decide, Test.got (by decide +kernel),
    by decide +kernel, by decide +kernel, by decide +kernel, by decide +kernel, by decide +kernel, by decide +kernel⟩,
    ⟨Test.got (by decide +kernel), by decide +kernel, by decide +kernel, Prod.ext (by decide +kernel) (by decide +kernel)⟩, by decide, by decide, rfl⟩
theorem witness_RankedLists_reads : let s := Test.lists 0 0
    let m := listTarget (s.rdG 5) permR .load false
    let s1 := (m s).2
    let h := readBlock (capAddr (s.rdG 5)) 16
    let r := listRead (s.rdG 5) permR
    m s = (.ok { key := spadKey 0 0x40 }, s1) ∧ h s1 = (.ok (Test.ans h s1), (h s1).2) ∧ r s1 = (.ok (Test.ans r s1), (r s1).2) :=
  ⟨Test.got' (by decide +kernel), Test.gave (by decide +kernel), Test.gave (by decide +kernel)⟩

/-- A grant over every address, the memory that holds it as entry 0 of the table at 0x20000 with an identity page table at 0x10000, and a
system core of context 0 that uses them. -/
def Test.all : Grant := { base := 0, len := 2 ^ 63, perm := 0x7FF, gen := 5, valid := true }
def Test.at' (ea : Nat) : TReg := mkCap 5 0x7FF 0 ea
def Test.table : List Host.Cell := [(0x10000, 0x1F), (0x2000F, 0x80), (0x20010, 0xFF), (0x20011, 0x07), (0x20012, 5), (0x20013, 1)]
def Test.uni (c : Core) (cells : List Host.Cell) : State :=
  { Test.put { c with gcache := [⟨0, 0, Test.all⟩] } with mem := Test.table ++ cells, ctxs := [(0, { xbase := 0x10000, grantbase := 0x20000 })] }
/-- A system core with a 64-byte card at 0x40 of its scratchpad and a capability for engine `e`'s window in g6. -/
def Test.post (e : Nat) (card : List (Nat × Byte)) : State :=
  Test.uni { g := [(5, Test.at' (Test.near + 0x40)), (6, Test.at' (0xF4 * 2 ^ 48 + e * 4096))] } (Test.bytes 0x40 card)
theorem witness_EngineWords_told : ∃ s : State, s.c.wait = some (.card 3) ∧ s.c.woken = some 7 := ⟨Test.put { wait := some (.card 3), woken := some 7 }, rfl, rfl⟩
/-- A card of the Shell that loads a task's area, from the first slot on; and one with every slot but the last taken. -/
theorem witness_EngineWords_epost : let s := Test.post 68 [(0, 0x31)]
    let m := epostCard 5 6
    let r := Test.ans m s
    let s1 := (m s).2
    let s2 := (cardJob r.1 r.2 s1).2
    (∀ n, s.c.wait ≠ some (.card n)) ∧ m s = (.ok r, s1) ∧ Claim.Still s2 ∧ Claim.sent s2 ∧ ¬(cardOp r.2 = 7 ∧ r.1 < 68) ∧
    (∃ j, cardJob r.1 r.2 s1 = (.ok j, s2)) ∧ (s2.liveJobs s2.c.ctx).length < 1024 ∧ cardComb r.2 = false ∧
    ¬∃ sl, mfind s2.c.jobs ((s2.c.lastSlot + 1 + 0) % 32) = some sl ∧ sl.job ≠ none :=
  ⟨fun _ => Test.noWait rfl, Test.gave (by decide +kernel), Test.still _ (by decide +kernel), Test.noneWaits (by decide +kernel), by decide +kernel, Test.has (by decide +kernel), by decide +kernel,
    by decide +kernel, fun ⟨_, h, _⟩ => nomatch h⟩

/-- Core 0's job 1 at engine 1, in its slot 3 under the handle in g5 with engine `e`; and its slot 4, whose job has ended. -/
def Test.jobs (e : Nat) (st : JobSt) : State :=
  let h := fun (n : Nat) => (⟨BitVec.ofNat 128 (e * 2 ^ 25 + n), false⟩ : TReg)
  let s := Test.put { g := [(5, h 3), (6, h 4), (7, h 5)], jobs := [(3, ⟨0, 1, some 1, 0, .sys⟩), (4, ⟨0, 1, none, 2, .sys⟩)] }
  { s with jobs := [(1, { blankJob s 1 [7] [] with id := 1, st := st })] }
theorem witness_EngineWords_status : let s := Test.jobs 1 .parked
    s.c.loads = [] ∧ mfind s.c.jobs ((s.rdI 7).toNat % 2 ^ 32 % 32) = none ∧
    (∃ sl, mfind s.c.jobs ((s.rdI 6).toNat % 2 ^ 32 % 32) = some sl ∧ (sl.seq = (s.rdI 6).toNat % 2 ^ 32 / 32 % 2 ^ 20 ∧ sl.eng = (s.rdI 6).toNat % 2 ^ 32 / 2 ^ 25) ∧
      sl.job.bind s.job? = none) ∧
    (∃ sl j, mfind s.c.jobs ((s.rdI 5).toNat % 2 ^ 32 % 32) = some sl ∧ (sl.seq = (s.rdI 5).toNat % 2 ^ 32 / 32 % 2 ^ 20 ∧ sl.eng = (s.rdI 5).toNat % 2 ^ 32 / 2 ^ 25) ∧
      sl.job.bind s.job? = some j ∧ j.st = .parked) :=
  ⟨rfl, rfl, ⟨_, rfl, by decide, rfl⟩, ⟨_, _, rfl, by decide, rfl, by decide⟩⟩
/-- The same handle at another engine. -/
theorem witness_EngineWords_other : let s := Test.jobs 2 .parked
    ∃ sl, mfind s.c.jobs ((s.rdI 5).toNat % 2 ^ 32 % 32) = some sl ∧ ¬(sl.seq = (s.rdI 5).toNat % 2 ^ 32 / 32 % 2 ^ 20 ∧ sl.eng = (s.rdI 5).toNat % 2 ^ 32 / 2 ^ 25) :=
  ⟨_, rfl, by decide⟩
/-- A RESUME card for the parked job. -/
theorem witness_EngineWords_resume : let t := Test.post 1 [(0, 7), (8, 3), (11, 2)]
    let s := { t.upd (fun c => { c with jobs := [(3, ⟨0, 1, some 1, 0, .sys⟩)] }) with jobs := [(1, { blankJob t 1 [7] [] with id := 1, st := .parked })] }
    let m := epostCard 5 6
    let r := Test.ans m s
    let s1 := (m s).2
    let p := resumePost r.1 r.2
    (∀ n, s.c.wait ≠ some (.card n)) ∧ m s = (.ok r, s1) ∧ cardOp r.2 = 7 ∧ r.1 < 68 ∧ p s1 = (.ok (Test.ans p s1), (p s1).2) ∧
    Claim.Still (p s1).2 ∧ Claim.sent (p s1).2 :=
  ⟨fun _ => Test.noWait rfl, Test.gave (by decide +kernel), by decide +kernel, by decide +kernel, Test.gave (by decide +kernel), Test.still _ (by decide +kernel),
    Test.noneWaits (by decide +kernel)⟩

/-- A launch parameter block: width `w`, edge table at 0x30000 where `e` is 3, else as the other bytes say. -/
def Test.lpb (w e flags : Byte) : List Byte := (List.range 128).map (fun i => if i = 2 then w else if i = 5 then flags else if i = 50 then e else 0)
/-- A task of one member on core 0, of a launch with the indices `lo` to 1 left on die 0, its signals as given; the launch's block at 0x40 of
the scratchpad as well. -/
def Test.job (w e flags : Byte) (lo : Nat) (sig : Word) : State :=
  let s := Test.uni { task := some 0, g := [(5, Test.at' (Test.near + 0x40))] } (Test.bytes 0x40 [(2, w), (5, flags), (50, e)])
  { s with ham := {
      launches := [(0, { lid := 0, ctx := 0, lpb := Test.lpb w e flags, queue := none, st := .ready, level := 1, since := 0, count := 1, ranges := [(0, lo, 2)], retry := []
                         live := 1, hostq := false, ptrs := [], children := 0, block := none, claim := [], dropped := false, failed := false, placeAt := 0 })]
      tasks := [(0, { tid := 0, lid := 0, ctx := 0, index := 0, width := 1, mem := [(0, 0, true)], attempt := 0, signals := if sig = 0 then [] else [(0, sig)]
                      claims := [], doms := [], stepTo := 0, canAt := none, killed := false })] } }
theorem witness_TaskWords_none : Claim.Still Test.s ∧ Claim.sent Test.s ∧ Test.s.c.out = 0 ∧ Test.s.myTask = none := ⟨⟨rfl, rfl, rfl⟩, rfl, rfl, rfl⟩
theorem witness_TaskWords_ttick : let s := Test.job 1 0 0 1 0
    let u := Test.job 1 0 0 2 0
    ∃ t l x v m, s.myTask = some t ∧ s.myLaunch = some l ∧
      (if lpbShape l.lpb ≤ 2 then nextIndex l.ranges ((l.ranges.head?.map (fun r => r.1)).getD (dieOfCore s.cur)) else claimIndex l.ranges (dieOfCore s.cur)) = some x ∧
      u.myTask = some v ∧ u.myLaunch = some m ∧
      (if lpbShape m.lpb ≤ 2 then nextIndex m.ranges ((m.ranges.head?.map (fun r => r.1)).getD (dieOfCore u.cur)) else claimIndex m.ranges (dieOfCore u.cur)) = none :=
  ⟨_, _, _, _, _, rfl, rfl, rfl, rfl, rfl, rfl⟩
/-- No edge table; edge 63 signalled before; edge 63 not signalled yet. -/
theorem witness_TaskWords_tsig : let s := Test.job 1 0 0 0 0
    let u := Test.job 1 3 0 0 (1#64 <<< 63)
    let v := Test.job 1 3 0 0 0
    ∃ l t m k n, s.myLaunch = some l ∧ s.edgeNode l (63#6).toNat = (none, s) ∧
      u.myTask = some t ∧ u.myLaunch = some m ∧ u.edgeNode m (63#6).toNat = (some 0, (u.edgeNode m (63#6).toNat).2) ∧ t.signalled (u.edgeNode m (63#6).toNat).2.c.signalRecord (63#6).toNat = true ∧
      v.myTask = some k ∧ v.myLaunch = some n ∧ v.edgeNode n (63#6).toNat = (some 0, (v.edgeNode n (63#6).toNat).2) ∧ 
      k.signalled (v.edgeNode n (63#6).toNat).2.c.signalRecord (63#6).toNat = false ∧ Claim.Still (v.edgeNode n (63#6).toNat).2 ∧ Claim.sent (v.edgeNode n (63#6).toNat).2 :=
  ⟨_, _, _, _, _, rfl, rfl, rfl, rfl, Prod.ext (by decide +kernel) rfl, by decide, rfl, rfl, Prod.ext (by decide +kernel) rfl, by decide +kernel,
    Test.still _ (by decide +kernel), Test.noneWaits (by decide +kernel)⟩
theorem witness_TaskWords_tyield : let s := Test.job 1 0 0 2 0
    ∃ t l, s.myTask = some t ∧ s.myLaunch = some l ∧ s.tasksWait t.ctx l.level = false ∧ s.ham.saved = [] := ⟨_, _, rfl, rfl, by decide, rfl⟩
/-- A block of no member, one that is indirect, and one that is accepted. -/
theorem witness_TaskWords_tspawn : (∀ x ∈ [((0 : Byte), (0 : Byte)), (1, 2), (1, 0)], let s := Test.job x.1 0 x.2 0 0
      let ea := Test.near + 0x40
      let m := readBlock ea 128
      capAddr (s.rdG 5) = ea ∧ Checked s (s.rdG 5) ea 128 permR s ∧ (s.c.strict && !s.ownSpad s.cur ea && !s.c.inStack ea) = false ∧
      s.locate s.party .load ea 16 = (.ok { key := spadKey 0 0x40 }, s) ∧ ea % 16 = 0 ∧ m s = (.ok (Test.lpb x.1 0 x.2), (m s).2)) ∧
    lpbBad (Test.lpb 0 0 0) = some 2 ∧ lpbBad (Test.lpb 1 0 2) = none ∧ lpbIndirect (Test.lpb 1 0 2) = true ∧
    lpbBad (Test.lpb 1 0 0) = none ∧ lpbIndirect (Test.lpb 1 0 0) = false := by
  refine ⟨?_, by decide, by decide, by decide, by decide, by decide⟩
  intro x hx
  simp only [List.mem_cons, List.not_mem_nil, or_false] at hx
  rcases hx with rfl | rfl | rfl <;>
    exact ⟨by decide, ⟨⟨Test.all, ⟨by decide, by decide, by decide, rfl, by decide, by decide⟩, by decide, by decide, by decide⟩⟩, by decide +kernel,
      rfl, by decide, Test.got' (by decide +kernel)⟩


/-- Context 0's scope 3 with its parent 4 as given; g5 names the scope and g6 `p`. -/
def Test.scope (f g : FScope) (p : Nat) (sys : Bool) : State :=
  { Test.put { sys := sys, g := [(5, ⟨3, false⟩), (6, ⟨BitVec.ofNat 128 p, false⟩)] } with ctxs := [(0, { scopes := [(3, f), (4, g)] })] }
theorem witness_FinishScopes_priv : ((Test.scope {} {} 0xFF false).rdI 6).toNat % 256 = 0xFF ∧ (Test.scope {} {} 0xFF false).c.sys = false := by decide
/-- An open scope, one that has ended under an open parent and under none, one whose parent has closed. -/
theorem witness_FinishScopes_fopen :
    ((Test.scope { st := .opened } {} 0xFF true).getScope 0 3).st ≠ .free ∧
    ((Test.scope { st := .done } { st := .opened } 4 false).getScope 0 3).st = .done ∧
    (((Test.scope { st := .done } { st := .opened } 4 false).setScope 0 3 {}).getScope 0 4).st = .opened ∧
    (((Test.scope {} { st := .closed } 4 false).setScope 0 3 {}).getScope 0 4).st ≠ .opened ∧
    (((Test.scope {} {} 3 false).setScope 0 3 {}).getScope 0 3).st ≠ .opened := by decide
theorem witness_FinishScopes_closed : ((Test.scope { st := .closed } {} 0 true).getScope 0 3).st ≠ .opened ∧ ((Test.scope { st := .closed } {} 0 true).getScope 0 3).st ≠ .free ∧
    ((Test.scope {} {} 0 true).getScope 0 3).st = .free := by decide
/-- A task that counts in the scope, and a core outside it once it has failed. -/
theorem witness_FinishScopes_fwait : (let s := (Test.scope { st := .closed } {} 0 true).upd (fun c => { c with task := some 0, fscope := 3 })
     (s.c.task.isSome && s.scopeUnder s.c.ctx ((s.rdI 5).toNat % 256) 257 (s.c.fscope.toNat % 256)) = true) ∧
    (let s := Test.scope { st := .failed } {} 0 true
     (s.c.task.isSome && s.scopeUnder s.c.ctx ((s.rdI 5).toNat % 256) 257 (s.c.fscope.toNat % 256)) = false ∧
     (s.getScope 0 3).st = .failed ∧ s.c.wait = none ∧ s.c.loads = []) := by decide

/-- An active queue of two senders, no record in it. -/
def Test.queue : RQueue :=
  { ctx := 0, ea := 0x40000, home := 0x40000, nextNo := 0, nextBatch := 0, blocks := [], ovf := [], ovfNext := 0, flushed := 0, lates := []
    live := { head := 0, tail := 0, timer := 0, senders := 2, reserve := 0, pool := 0, batch := 0, ovfBase := 0, ovfCap := 0, ovfCount := 0, hdrs := List.replicate 16 (0, 0) }, lateOvf := [] }
/-- A block of it. -/
def Test.block' (no : Nat) (st : BlockSt) (claims : List (Nat × Nat × Bool)) : Block :=
  { no := no, st := st, batch := 0, claims := claims, freed := [], timer := none, flushAt := none, lateIn := false, released := false }
/-- Its descriptor, at 0x40000, says `2 ^ log` bytes a record, four records, `t` a block and `flags`, the ring at 0x50000, two senders; g5
names a record at 0x80 of the scratchpad, g6 the queue, g7 is `tk` and g8 names a destination. -/
def Test.rq (log t flags : Byte) (q : RQueue) (tk : Nat) : State :=
  let s := Test.uni { g := [(5, Test.at' (Test.near + 0x80)), (6, Test.at' 0x40000), (7, ⟨BitVec.ofNat 128 tk, false⟩), (8, Test.at' (Test.near + 0x100))] }
    [(0x40000, 4), (0x40003, 16 * log), (0x40004, t), (0x40006, flags), (0x40007, 0xFF), (0x4000A, 5), (0x4001C, 2)]
  { s with ham := { queues := [(0, q)] } }
def Test.desc (log t flags : Nat) : QDesc := { sizeLog := log, cap := 4, t := t, flags := flags, node := 0xFF, ring := 0x50000, tmpl := 0 }
/-- The queue words find it. -/
def Test.opens (s : State) (ds : QDesc) (q : RQueue) : Bool :=
  decide ((queueOpen 6 s).1 = .ok (0, ds)) && decide ((queueOpen 6 s).2.queue? 0 = some q) && decide (s.c.wait = none)
theorem Test.opened {s : State} {ds : QDesc} {q : RQueue} (h : Test.opens s ds q = true) :
    queueOpen 6 s = (.ok (0, ds), (queueOpen 6 s).2) ∧ (queueOpen 6 s).2.queue? 0 = some q ∧ s.c.wait = none := by
  simp only [Test.opens, Bool.and_eq_true, decide_eq_true_eq] at h
  exact ⟨Prod.ext h.1.1 rfl, h.1.2, h.2⟩
/-- A launch queue: in memory with room, full, and of the host. -/
theorem witness_RecordQueues_launch :
    (let s := Test.rq 7 1 1 Test.queue 0
     (queueOpen 6 s = (.ok (0, Test.desc 7 1 1), (queueOpen 6 s).2) ∧ (queueOpen 6 s).2.queue? 0 = some Test.queue ∧ s.c.wait = none) ∧
     (Test.desc 7 1 1).launchq = true ∧ (Test.desc 7 1 1).hostq = false ∧ ¬ 4 ≤ (Test.queue.live.tail + 2 ^ 32 - Test.queue.live.head) % 2 ^ 32 ∧
     Test.ok (queueRecord 5 (Test.desc 7 1 1)) (queueOpen 6 s).2 = true ∧ (queueRecord 5 (Test.desc 7 1 1) (queueOpen 6 s).2).2.queue? 0 = some Test.queue) ∧
    (let q := { Test.queue with live := { Test.queue.live with head := 2 ^ 32 - 1, tail := 3 } }
     Test.opens (Test.rq 7 1 1 q 0) (Test.desc 7 1 1) q = true ∧ 4 ≤ (q.live.tail + 2 ^ 32 - q.live.head) % 2 ^ 32) ∧
    Test.opens (Test.rq 7 1 5 Test.queue 0) (Test.desc 7 1 5) Test.queue = true ∧ (Test.desc 7 1 5).hostq = true :=
  ⟨⟨Test.opened (by decide +kernel), by decide, by decide, by decide, by decide +kernel, by decide +kernel⟩, ⟨by decide +kernel, by decide⟩, by decide +kernel, by decide⟩
/-- A claim that takes slot 0 of a new block, one that finds no block and no overflow, one that overflows, one by no sender. -/
theorem witness_RecordQueues_qres :
    (let s1 := (queueOpen 6 (Test.rq 4 2 0 Test.queue 0)).2
     Test.opens (Test.rq 4 2 0 Test.queue 0) (Test.desc 4 2 0) Test.queue = true ∧ (Test.desc 4 2 0).launchq = false ∧
     (0#4).toNat < Test.queue.live.senders ∧ Test.queue.live.senders ≤ (2#4).toNat ∧
     (s1.claimOn 0 0).1 = .slot 0 0 ∧ (((s1.claimOn 0 0).2.queue? 0).bind (fun q => q.blocks.find? (fun x => x.no == 0))).isSome) ∧
    (let q := { Test.queue with nextNo := 2, blocks := [Test.block' 0 .closed [], Test.block' 1 .closed []] }
     Test.opens (Test.rq 4 2 0 q 0) (Test.desc 4 2 0) q = true ∧ ((queueOpen 6 (Test.rq 4 2 0 q 0)).2.claimOn 0 1).1 = .full) ∧
    (let q := { Test.queue with nextNo := 2, blocks := [Test.block' 0 .closed [], Test.block' 1 .closed []], live := { Test.queue.live with ovfCap := 1 } }
     Test.opens (Test.rq 4 2 0 q 0) (Test.desc 4 2 0) q = true ∧ ((queueOpen 6 (Test.rq 4 2 0 q 0)).2.claimOn 0 1).1 = .ovf 0) := by
  decide +kernel
/-- A ticket that stands, one of a closed block that a late claim replaces, one that names nothing. -/
theorem witness_RecordQueues_qcmt :
    (let q := { Test.queue with blocks := [Test.block' 0 .opened [(0, 1, false)]] }
     let s1 := (queueOpen 6 (Test.rq 4 2 0 q 0)).2
     Test.opens (Test.rq 4 2 0 q 0) (Test.desc 4 2 0) q = true ∧ Test.ok (queueRecord 5 (Test.desc 4 2 0)) s1 = true ∧
     (queueRecord 5 (Test.desc 4 2 0) s1).2.queue? 0 = some q ∧ q.ticket (Test.desc 4 2 0) 0 0 0 = some (.slot 0 0) ∧ q.ticket (Test.desc 4 2 0) 0 0 1 = none ∧ q.lates = []) ∧
    (let q := { Test.queue with blocks := [Test.block' 0 .closed [(1, 1, false)]], lates := [(0, 1, 1)] }
     let s1 := (queueOpen 6 (Test.rq 4 2 0 q 1)).2
     let s2 := (queueRecord 5 (Test.desc 4 2 0) s1).2
     Test.opens (Test.rq 4 2 0 q 1) (Test.desc 4 2 0) q = true ∧ Test.ok (queueRecord 5 (Test.desc 4 2 0)) s1 = true ∧
     s2.queue? 0 = some q ∧ (s2.rdI 7).toNat = 1 ∧ q.ticket (Test.desc 4 2 0) 0 0 1 = none ∧
     q.lates.find? (fun (x : BitVec 32 × Nat × Nat) => x.1.toNat == 0 && x.2.1 == 1 && contextOf x.2.2 == s2.c.ctx) = some (0, 1, 1) ∧ (s2.claimOn 0 1).1 ≠ .full) := by
  decide +kernel
/-- A queue with nothing to take, and one whose head block has closed. -/
theorem witness_RecordQueues_qdeq :
    (Test.desc 4 2 0).launchq = false ∧ (Test.desc 4 2 0).tmpl = 0 ∧ Test.queue.headBlock = none ∧ Test.queue.oldestClosed = none ∧
    (let q := { Test.queue with blocks := [Test.block' 0 .closed [(0, 0, true), (1, 1, true)]] }
     let s1 := (queueOpen 6 (Test.rq 4 2 0 q 0)).2
     let dest := s1.rdG 8
     let m := copyPlace dest 16
     let s2 := (m s1).2
     let r := s2.ctxBytes 0 (0x50000 + 0 % 4 * 16) 16
     let bs := r.1.getD []
     Test.opens (Test.rq 4 2 0 q 0) (Test.desc 4 2 0) q = true ∧ q.headBlock = some (Test.block' 0 .closed [(0, 0, true), (1, 1, true)]) ∧
     q.oldestClosed = q.headBlock ∧
     (Test.desc 4 2 0).recSize = 16 ∧ Test.ok m s1 = true ∧ s2.queue? 0 = some q ∧ r.1 = some bs ∧ r.2.c.sq.length + (granParts (capAddr dest) 16).length ≤ 32 ∧
     Test.ok (storeParts (capAddr dest) bs) r.2 = true) ∧
    -- a destination at no multiple of a granule
    (let s1 := (queueOpen 6 (Test.rq 4 2 0 Test.queue 0)).2
     let dest : TReg := Test.at' (Test.near + 0x108)
     Test.ok (copyPlace dest 16) s1 = true ∧ granParts (capAddr dest) 16 = [(Test.near + 0x108, 8), (Test.near + 0x110, 8)] ∧
     Test.ok (storeParts (capAddr dest) (List.replicate 16 1)) s1 = true) := by
  decide +kernel
/-- A launch queue, of which nothing is flushed; and an open block. -/
theorem witness_RecordQueues_qflush :
    (let q := Test.queue
     let s1 := (queueOpen 6 (Test.rq 7 1 1 q 0)).2
     Test.opens (Test.rq 7 1 1 q 0) (Test.desc 7 1 1) q = true ∧ (s1.c.sq.isEmpty && s1.c.loads.isEmpty && s1.c.stack.isEmpty) = true ∧ s1.c.wait = none ∧
     s1.asyncIn s1.cur (fun _ => true) = false ∧ q.blocks = [] ∧ q.ovf = []) ∧
    (let q := { Test.queue with blocks := [Test.block' 0 .opened [(0, 0, true)]] }
     let s1 := (queueOpen 6 (Test.rq 4 2 0 q 0)).2
     let u := s1.flushTurn 0 true
     Test.opens (Test.rq 4 2 0 q 0) (Test.desc 4 2 0) q = true ∧ (s1.c.sq.isEmpty && s1.c.loads.isEmpty && s1.c.stack.isEmpty) = true ∧ s1.c.wait = none ∧
     s1.asyncIn s1.cur (fun _ => true) = false ∧ (u.queue? 0).isSome ∧ ((u.queue? 0).getD q).blocks.all (fun x => x.st == .closed || !(x.flushAt.isSome || x.lateIn)) = true ∧ ((u.queue? 0).getD q).ovf = []) := by
  decide +kernel

/-- Member 0 of a step task of two, at cycle `now` with slots of 16 cycles, after `step` phases; g5 is a source at 0x40, g6 member 1's window and
g7 a block of `n` bytes in slot `slot`. -/
def Test.send (n slot step now : Nat) (loose : Bool) : State :=
  let t := Test.task2 {} 0 0
  { t.upd (fun c => { c with
      stepOn := true, stepNo := step, loose := loose, gcache := [⟨0, 0, Test.all⟩]
      g := [(5, Test.at' (Test.near + 0x40)), (6, Test.at' (0xF5 * 2 ^ 48 + 2 ^ 20)), (7, ⟨BitVec.ofNat 128 (n + slot * 2 ^ 32), false⟩)] }) with
    cycle := now }
/-- Both ends of a send pass their checks. -/
def Test.sends (s : State) (n : Nat) : Prop :=
  s.c.stepOn = true ∧ (s.rdI 7).toNat % 2 ^ 13 = n ∧ Test.ok (sendSource (s.rdG 5) n) s = true ∧ Test.ok (sendDest (s.rdG 6) n) (sendSource (s.rdG 5) n s).2 = true ∧
  capAddr (s.rdG 5) % 16 = 0 ∧ (0xF5 * 2 ^ 48 + 2 ^ 20) % 16 = 0
/-- The state after them. -/
def Test.sent (s : State) (n : Nat) : State := (sendDest (s.rdG 6) n (sendSource (s.rdG 5) n s).2).2
theorem witness_StepInstructions_none : Test.s.c.stepOn = false := by decide
/-- No byte, and one granule more than a slot takes. -/
theorem witness_StepInstructions_block : Test.sends (Test.send 0 2 1 40 false) 0 ∧ (Test.sends (Test.send 1040 2 1 40 false) 1040 ∧ 64 * (Test.send 1040 2 1 40 false).c.slotW < 1040) := by
  unfold Test.sends; decide +kernel
/-- A block of a slot's size in a computation, too early by a cycle, at the slot's first and last cycles, a cycle too late, and loose. -/
theorem witness_StepInstructions_ssend :
    (let s := Test.send 1024 2 0 40 false
     Test.sends s 1024 ∧ 1024 ≤ 64 * s.c.slotW ∧ ((Test.sent s 1024).c.sq.isEmpty && (Test.sent s 1024).c.loads.isEmpty && (Test.sent s 1024).c.stack.isEmpty) = true ∧
     (Test.sent s 1024).asyncIn (Test.sent s 1024).cur (fun _ => true) = false ∧ (Test.sent s 1024).c.comm = false ∧ (Test.sent s 1024).poisoned (spadKey 0 0x40) 1024 = false) ∧
    (let s := Test.sent (Test.send 16 2 1 31 false) 16
     s.c.comm = true ∧ s.c.loose = false ∧ s.mySclk < 2 * 16) ∧
    (let s := Test.sent (Test.send 16 2 1 32 false) 16
     s.c.comm = true ∧ 2 * 16 ≤ s.mySclk ∧ s.mySclk < (2 + 1) * 16 ∧ s.poisoned (spadKey 0 0x40) 16 = false) ∧
    (let s := Test.sent (Test.send 16 2 1 47 false) 16
     s.c.comm = true ∧ 2 * 16 ≤ s.mySclk ∧ s.mySclk < (2 + 1) * 16 ∧ s.poisoned (spadKey 0 0x40) 16 = false) ∧
    (let s := Test.sent (Test.send 16 2 1 48 false) 16
     s.c.comm = true ∧ s.c.loose = false ∧ (2 + 1) * 16 ≤ s.mySclk) ∧
    (Test.sent (Test.send 16 2 1 0 true) 16).c.loose = true := by
  unfold Test.sends; decide +kernel
theorem witness_StepInstructions_sbar :
    (let s := Test.send 0 0 0 0 false
     s.c.stepOn = true ∧ (31#5).toNat ≠ s.c.dom ∧ (0#5).toNat = s.c.dom ∧ s.c.released = false ∧ s.c.wait = none ∧ s.c.arrived = false ∧
     (s.c.sq.isEmpty && s.c.loads.isEmpty && s.c.stack.isEmpty) = true ∧ s.asyncIn s.cur (fun _ => true) = false ∧
     (let bar := ((s.domain? (s.c.task.getD 0) 0).map (·.bar)).getD {}
      bar.broken = false ∧ -(2 ^ 35) ≤ bar.pending + ((s.rdI 0).setWidth 36).toInt ∧ bar.pending + ((s.rdI 0).setWidth 36).toInt ≤ 2 ^ 35 - 1)) ∧
    (let s := (Test.send 0 0 0 0 false).upd (fun c => { c with released := true })
     s.c.released = true ∧ s.c.sbarPc = s.c.wordPc) ∧
    -- released while it waited at another word than the one it arrived at
    (let s := (Test.send 0 0 0 0 false).upd (fun c => { c with released := true, sbarPc := 9, wait := some (.step 0), woken := some 1 })
     s.c.released = true ∧ s.c.wait = some (.step (0#5).toNat) ∧ s.c.woken.isSome = true) := by decide +kernel
theorem witness_StepInstructions_reads : Test.s.c.stepOn = false ∧ ((Test.send 0 0 0 7 false).rdI 0).toNat % 2 ^ 32 ≤ (Test.send 0 0 0 7 false).mySclk := by decide

theorem witness_Pairs : (Claim.half Test.s (.hadd 5 5)).isSome ∧ (Claim.half Test.s (.hmov 6 5)).isSome := by decide
theorem witness_Pairs_vector : Claim.Ready Test.s := Test.ready
/-- The first word a half reaches from g5, and the last. -/
theorem witness_Pairs_access :
    halfAccess (Test.s.rdG 5) (Test.near + 0x40) permR .load Test.s = (.ok { key := spadKey 0 0x40 }, Test.s) ∧
    Claim.Plain Test.s { key := spadKey 0 0x40 } (Test.near + 0x40) 8 ∧
    halfAccess (Test.s.rdG 5) (Test.near + 0x40 + 8 * 0x1FFF) permW .store Test.s = (.ok { key := spadKey 0 (0x40 + 8 * 0x1FFF) }, Test.s) ∧
    Claim.Plain Test.s { key := spadKey 0 (0x40 + 8 * 0x1FFF) } (Test.near + 0x40 + 8 * 0x1FFF) 8 ∧ Test.s.c.sq.length < 32 :=
  ⟨Prod.ext (by decide +kernel) (by decide +kernel), Test.near_plain 0x40 8 _, Prod.ext (by decide +kernel) (by decide +kernel),
    Test.near_plain (0x40 + 8 * 0x1FFF) 8 _, by decide⟩

/-- A result due at cycle `due` from position `spos`, and an asynchronous load of one sector from position 4, into g7 or v7. -/
def Test.load (f : RFile) (due spos : Nat) : State :=
  Test.put { prods := [⟨.g, 7, .g TReg0, due, spos, 1, 0, false, false⟩]
             loads := [{ file := f, reg := 7, ty := some .z8, spos := 4, sectors := [⟨[(0, spadKey 0 0x40)], false⟩] }] }
/-- A result that is due, one older than the load and one younger, both on their way. -/
theorem witness_CoreTraffic_arrivals : (∀ f ∈ [RFile.g, .v], let s := Test.load f 0 0
    (∃ p, (s.getC 0).prods[0]? = some p ∧ p.due ≤ s.cycle) ∧
    (∃ l, (s.getC 0).loads[0]? = some l ∧ l.sectors = [⟨[(0, spadKey 0 0x40)], false⟩] ∧ l.file = f ∧ l.ty = some .z8 ∧ l.reg ≠ 0) ∧
      s.poisoned (spadKey 0 0x40) 1 = false ∧ ∀ p ∈ (s.getC 0).prods, ¬ s.cycle < p.due) ∧
    ∀ x ∈ [(3, true), (4, false)], let s := Test.load .g 9 x.1
      ∃ p l, (s.getC 0).prods = [p] ∧ (s.getC 0).loads[0]? = some l ∧ (p.file = l.file ∧ p.reg = l.reg ∧ s.cycle < p.due) ∧ p.token = 0 ∧
        (decide (p.spos < l.spos) = x.2) := by
  constructor
  · intro f hf
    simp only [List.mem_cons, List.not_mem_nil, or_false] at hf
    rcases hf with rfl | rfl <;> exact ⟨⟨_, rfl, by decide⟩, ⟨_, rfl, rfl, rfl, rfl, by decide⟩, by decide, by decide⟩
  · intro x hx
    simp only [List.mem_cons, List.not_mem_nil, or_false] at hx
    rcases hx with rfl | rfl <;> exact ⟨_, _, rfl, rfl, by decide, rfl, by decide⟩
/-- A sector whose home byte has an error, but whose bytes stand in the own queue. -/
theorem witness_CoreTraffic_forwards :
    let s := { (Test.load .g 0 0).upd (fun c => { c with sq := [⟨.write [(spadKey 0 0x40, 7)] [], .core 0, 0, 0⟩], loads := c.loads.map (fun l => { l with seq := 1 }) }) with
      poison := [spadKey 0 0x40 / 16] }
    ∃ l, (s.getC 0).loads[0]? = some l ∧ l.sectors = [⟨[(0, spadKey 0 0x40)], false⟩] ∧ s.poisoned (spadKey 0 0x40) 1 = true ∧
      sqByte (s.getC 0).sq l.seq (spadKey 0 0x40) ≠ none := ⟨_, rfl, rfl, by decide, by decide⟩
/-- Two stores to one home, of which the second waits; a clean stack granule. -/
theorem witness_CoreTraffic_drains :
    let e : SqEntry := ⟨.write [(spadKey 0 0x40, 7)] [], .core 0, 0, 0⟩
    let s := Test.put { sq := [e, e], stack := [(5, ⟨0, false, false, spadKey 0 0x50, false⟩)] }
    (s.getC 0).sq[0]? = some e ∧ s.mayDrain 0 0 = true ∧ (s.getC 0).loads = [] ∧ s.poison = [] ∧
    (s.getC 0).sq[1]? = some e ∧ s.mayDrain 0 1 = false ∧
    (s.getC 0).stack.getLast? = some (5, ⟨0, false, false, spadKey 0 0x50, false⟩) ∧ ∀ x ∈ (s.getC 0).stack, x.1 / 4 = 5 / 4 → x.2.dirty = false := by decide

theorem witness_CoreEvents_turns :
    (let c := (Test.put { sys := false, w := { st := .member, pub := 1, stream := [{}] } }).getC 0
     c.subscribed = true ∧ c.w.stream = [{}]) ∧
    (Test.put { wait := some .members }).getC 0 = { wait := some .members } ∧
    ((Test.put { wait := some (.memory 7 0) }).getC 0).since + 256 ≤ ({ Test.put { wait := some (.memory 7 0) } with cycle := 256 } : State).cycle ∧
    (((Test.put { delayed := true }).getC 0).delayed = true ∧ ((Test.put { delayed := true }).getC 0).readyAt ≤ 0) ∧
    ((Test.put { wait := some (.card 3), woken := some 9 }).getC 0).woken = some 9 ∧
    7 ≤ ((Test.put { wait := some (.clock 7) }).getC 0).sclk 7 := by decide
/-- A member of core 1 that waits, one that does not, and a core whose registration is on its way. -/
def Test.weave (w p : Weave) (wait : Option Wait) : State :=
  { State.reset with cycle := 0x100001, cores := [(0, { w := w, wait := wait }), (1, { w := p })] }
theorem witness_CoreEvents_weave :
    (let s := Test.weave { st := .member, pub := 1 } { st := .publisher, followers := [(1, 0)] } (some .members)
     (s.getC 0).w.st = .member ∧ (s.getC 0).wait.isSome = true ∧ (s.getC (s.getC 0).w.pub).w.followers.any (fun f => f.2 == 0) = true) ∧
    (let s := Test.weave { st := .member, pub := 1 } { st := .publisher, followers := [(1, 0)] } none
     (s.getC 0).w.st = .member ∧ (s.getC 0).wait = none ∧ (s.getC 0).w.handler = none) ∧
    (let g : Reg := ⟨0, 0, 1, 2, false⟩
     let s := Test.weave { st := .waiting, pub := 1 } { regs := [g] } none
     (s.getC 0).w.st = .waiting ∧ (s.getC (s.getC 0).w.pub).w.st = .alone ∧ (s.getC (s.getC 0).w.pub).w.regs = [g] ∧ g.core = 0 ∧ g.arrived = false) ∧
    (let s := Test.weave { st := .waiting, pub := 1 } {} none
     let c := s.getC 0
     0 = s.cur ∧ c.rdvto ≠ 0 ∧ c.run = .running ∧ c.w.st = .waiting ∧ c.w.handler = none ∧ c.w.since + c.rdvto.toNat < s.cycle ∧ c.tr.exl = false ∧
     c.husk.hooks = [] ∧ c.w.followers = [] ∧ c.w.regs = []) := by decide
theorem witness_CoreEvents_port : let c := (Test.put { asyncs := [(1, 7, 5, 0)] }).getC 0
    c.portfull.getLsbD 7 = false ∧ c.asyncs = [(1, 7, 5, 0)] := by decide
/-- A recorded fault of user mode, its trap pending. -/
theorem witness_CoreEvents_imprecise : let r : RingEntry := { status := 1, cause := 0x10, cls := 1 }
    let s := Test.put { sys := false, ringHead := 1, ring := [(0, r)], tr := { pend := true } }
    let c := s.getC 0
    0 = s.cur ∧ c.tr.pend = true ∧ c.tr.exl = false ∧ c.run = .running ∧ c.parked = false ∧ c.committed = false ∧ c.husk.hooks = [] ∧
    c.w.followers = [] ∧ c.w.st = .alone ∧     c.dueEntry = some r ∧ r.e5 = false ∧ (r.cause ≠ Cause.mcheck.code ∨ c.sys = false) := by decide
theorem witness_CoreEvents_deposit : let e : SqEntry := ⟨.deposit 1 none 3 5 false 0, .core 1, 0, 0⟩
    let s := Test.put { sq := [e] }
    (s.getC 0).sq = [e] ∧ s.mayDrain 0 0 = true ∧ s.depositOk 1 none = true := by decide
/-- The newest set has another number, and holds a vendor image or none. -/
theorem witness_CoreEvents_husk :
    let im : Image := { kind := 1, gen := 1, slots := [], hooks := [], rewrites := [], blobAt := 3584, blob := [5], digest := [] }
    (∀ v ∈ [none, some im], let s := { Test.put {} with sec := { newest := { actn := 1, vendor := v } } }
      0 < nCores ∧ (s.getC 0).task = none ∧ (s.getC 0).run ≠ .halted ∧ (s.getC 0).husk ≠ s.sec.newest ∧ s.sec.newest.vendor = v ∧ s.sec.newest.owner = none) := by
  decide
/-- A sleeping task while its launch has one more to start; and one saved that its core may take up again. -/
theorem witness_CoreEvents_yield : let s := { (Test.job 1 0 0 0 0).upd (fun c => { c with wait := some (.memory 7 0) }) with cycle := 2 ^ 32 }
    (s.getC 0).wait = some (.memory 7 0) ∧ (s.getC 0).task = some 0 ∧ (s.task? 0).any (·.mayYield) = true ∧ (s.getC 0).since + (s.getX (s.getC 0).ctx).ccb.yieldt ≤ s.cycle ∧ s.tasksWait (s.getC 0).ctx 0 = true := by
  decide
def Test.away (whole : Bool) : State :=
  let s := (Test.job 1 0 0 2 0).upd (fun c => { c with task := none })
  { s with ham := { s.ham with saved := [{ tid := 0, was := [(0, 4608)], mes := [], bars := [], watch := none, whole := whole, ready := true, pins := [], diePins := [] }] } }
theorem witness_CoreEvents_restore : ∀ w ∈ [false, true], let s := Test.away w
    ∃ v t, s.ham.saved[0]? = some v ∧ s.task? v.tid = some t ∧ (s.getX t.ctx).serves = true ∧ s.firstReady t.ctx = some 0 ∧ [0].length = v.was.length ∧ [0].Nodup ∧
    oneUnit (match s.launch? t.lid with | some l => lpbShape l.lpb | none => 4) [0] = true ∧
    (∀ m ∈ [0], s.coreFree m = true ∧ s.clusterOk t.ctx m = true ∧ (mvals s.ham.launches).all (fun l => l.ctx == t.ctx || !l.claim.contains m) = true) ∧
    v.whole = w ∧ s.mapOk v ((v.was.map Prod.snd).zip [0]) = true := by
  intro w hw
  simp only [List.mem_cons, List.not_mem_nil, or_false] at hw
  rcases hw with rfl | rfl <;> exact ⟨_, _, rfl, rfl, by decide, by decide +kernel, rfl, by decide, by decide, by decide +kernel, rfl, by decide +kernel⟩

/-- A matrix engine 0 with one entry, in a package whose context 0 has no page table. -/
def Test.me (e : MeEntry) (cells : List Host.Cell) : State := { Test.put {} with mes := [(0, { entries := [{ e with id := 1 }] })], mem := cells }
/-- An entry of a RANK pass with lists of one, bound `b`. -/
def Test.rank (b : Option Lane) : MeEntry := { blankEntry (.pass true 0 0 0 0) with fmt := [2, 2, 0x0D, 0, 0, 0, 0, 1], bound := b }
/-- Thirty-two lists of one entry, each with a floor of 1.0. -/
def Test.floors : List Host.Cell := (List.range 32).flatMap (fun i => [(accKey 0 (128 * i), 1), (accKey 0 (128 * i + 1), 1), (accKey 0 (128 * i + 6), 0x80), (accKey 0 (128 * i + 7), 0x3F)])
/-- What a grant needs. -/
def Test.granted (s : State) : Bool :=
  let t := s.markReady 0
  decide ((t.getM 0).reserved = none) && (t.getM 0).entries.all (fun e => !e.started) && (t.arbiter 0).isSome
/-- A group that holds no lists, a bound of 0 below every floor, a bound of 2.0, and a clear. -/
theorem witness_MatrixSteps_grant :
    (let s := Test.me (Test.rank none) []
     Test.granted s = true ∧ ((s.markReady 0).rankFail 0 (((s.markReady 0).arbiter 0).getD (Test.rank none))).isSome) ∧
    (let s := Test.me (Test.rank (some 0)) Test.floors
     let e := ((s.markReady 0).arbiter 0).getD (Test.rank none)
     Test.granted s = true ∧ (s.markReady 0).rankFail 0 e = none ∧ (s.markReady 0).rankSkips 0 e = true) ∧
    (let s := Test.me (Test.rank (some 0x40000000)) Test.floors
     let e := ((s.markReady 0).arbiter 0).getD (Test.rank none)
     Test.granted s = true ∧ (s.markReady 0).rankFail 0 e = none ∧ (s.markReady 0).rankSkips 0 e = false) ∧
    (let s := Test.me (blankEntry (.zero 0 64)) []
     let e := ((s.markReady 0).arbiter 0).getD (Test.rank none)
     Test.granted s = true ∧ (s.markReady 0).rankFail 0 e = none ∧ (s.markReady 0).rankSkips 0 e = false) := by decide +kernel
theorem witness_MatrixSteps_started : ∀ k ∈ [MeKind.zero 63 1, .rank 0 1], let s := Test.me { blankEntry k with started := true } []
    ∃ e, (s.getM 0).first = some e ∧ e.kind = k := by
  intro k hk
  simp only [List.mem_cons, List.not_mem_nil, or_false] at hk
  rcases hk with rfl | rfl <;> exact ⟨_, rfl, rfl⟩
/-- A tile of fp32 loaded from and stored to core 0's scratchpad. -/
def Test.tile (k : MeKind) : MeEntry := { blankEntry k with id := 1, started := true, desc := 128#64 <<< 32, fmt := [2, 2, 1, 0, 0, 1] }
theorem witness_MatrixSteps_tiles :
    (let e := Test.tile (.ldc Test.near)
     let s := Test.me e []
     (s.getM 0).first = some e ∧ (s.ldcRows 0 e Test.near (List.range 32)).1 = none) ∧
    (let e := Test.tile (.stc Test.near 0)
     let s := Test.me e []
     (s.getM 0).first = some e ∧ (s.stcRows 0 e Test.near 0 (List.range 32)).1 = none) := by decide +kernel
/-- A pass whose operands can be read, and one whose operands lie where context 0 maps nothing. -/
def Test.pass (a : Nat) : MeEntry :=
  { blankEntry (.pass false a a 0 0) with id := 1, started := true, fmt := [2, 2, 1, 0, 0, 0, 0, 0, 64, 0, 0, 0, 64] }
theorem witness_MatrixSteps_pass :
    (let e := Test.pass Test.near
     let s := Test.me e []
     let r := s.readOps 0 e e
     let e' := (r.entry? 0 e.id).getD e
     (s.getM 0).first = some e ∧ (r.finishPass 0 e' e' false).1 = none) ∧
    (let e := Test.pass 0
     let s := Test.me e []
     let r := s.readOps 0 e e
     let e' := (r.entry? 0 e.id).getD e
     (s.getM 0).first = some e ∧ (r.finishPass 0 e' e' false).1.isSome) := by decide +kernel
/-- A list of `k` entries whose first takes both operands from 0x50000, or has failed already. -/
def Test.listed (k : Nat) (started fail : Bool) : State :=
  { Test.uni {} [] with mes := [(0, { entries := [{ blankEntry (.list k 0x60000) with
      id := 1, started := started, fmt := [2, 2, 1, 0, 0, 0, 0, 0, 64, 0, 0, 0, 64], capA := Test.at' 0x50000, capB := Test.at' 0x50000
      cur := (List.range 32).map (fun i => if i = 10 ∨ i = 18 then 5 else 0), fail := if fail then some (mfault 2 0) else none }] })] }
/-- A list's entry that is granted and one that fails; the last of a list, and one that is not. -/
theorem witness_MatrixSteps_list :
    (∀ fail ∈ [false, true], let s := Test.listed 1 false fail
      let t := s.markReady 0
      let e := (t.arbiter 0).getD (Test.rank none)
      Test.granted s = true ∧ t.rankFail 0 e = none ∧ t.rankSkips 0 e = false ∧ e.kind = .list 1 0x60000 ∧ (t.listCheck 0 e).1.isSome = fail) ∧
    (∀ k ∈ [1, 2], let s := Test.listed k true false
      let e := (s.getM 0).first.getD (Test.rank none)
      let r := s.readOps 0 e e
      let e' := (r.entry? 0 e.id).getD e
      (s.getM 0).first.isSome ∧ e.kind = .list k 0x60000 ∧ (r.finishPass 0 e' e' false).1 = none ∧
      (((r.finishPass 0 e' e' false).2.countDone 0 e'.ctx).listArrive 0 e').1 = none ∧ decide (e'.done + 1 = k) = (k == 1)) ∧
    (let s := Test.listed 1 true true
     let e := (s.getM 0).first.getD (Test.rank none)
     let r := s.readOps 0 e e
     let e' := (r.entry? 0 e.id).getD e
     (s.getM 0).first.isSome ∧ e.kind = .list 1 0x60000 ∧ (r.finishPass 0 e' e' false).1.isSome) := by decide +kernel
theorem witness_MatrixSteps_mtbl : ({ Test.put {} with mes := [(0, { mtbl := [(7, 5, 0)] })] } : State).getM 0 = { mtbl := [(7, 5, 0)] } := by decide
/-- A gang that gathers, its one post as old as RDVTO; and a gang whose members are all reserved. -/
theorem witness_MatrixSteps_gangs :
    (let e : MeEntry := { blankEntry (.pass false 0 0 0 0) with id := 1, gangId := 1 }
     let s := { Test.me e [] with cycle := 0x100001, gangs := [⟨1, 0, [0, 4], 0, [(0, 1)], none⟩] }
     s.entry? 0 1 = some e ∧ (s.getC e.core).rdvto ≠ 0 ∧ e.gangId ≠ 0 ∧ e.started = false ∧ e.since + (s.getC e.core).rdvto.toNat < s.cycle ∧
     s.gangs.any (fun g => g.id == e.gangId && g.complete.isNone) = true) ∧
    Test.s.gangHead 0 = none ∧
    (let e : MeEntry := { blankEntry (.pass false 0 0 0 0) with id := 1, gangId := 1 }
     let g : Gang := ⟨1, 0, [0], 0, [(0, 1)], some 0⟩
     let s := { Test.put {} with mes := [(0, { entries := [e], reserved := some 1 })], gangs := [g] }
     s.gangHead 0 = some g ∧ (s.gangEntries g).length = g.cores.length ∧ (s.gangEntries g).all (fun x => (s.getM x.1).reserved == some g.id && s.tilesFree x.1 x.2) = true) := by decide

/-- An MZERO that the arbiter chooses, and one that has started; the other three clauses hold where those above do. -/
theorem witness_MatrixStepsComplete : (let s := Test.me (blankEntry (.zero 63 1)) []
     let e := ((s.markReady 0).arbiter 0).getD (Test.rank none)
     (s.getM 0).reserved = none ∧ (∀ y ∈ (s.getM 0).entries, y.started = false) ∧ (s.markReady 0).arbiter 0 = some e ∧ e.kind = .zero 63 1) ∧
    (let e : MeEntry := { blankEntry (.zero 63 1) with id := 1, started := true }
     let s := Test.me e []
     (s.getM 0).entries.filter (·.started) = [e] ∧ e.kind = .zero 63 1 ∧ s.poison = [] ∧ s.entry? 0 e.id = some e ∧ (s.getC e.core).task = e.task) := by
  decide +kernel

/-- A card of operation `op` at engine 1 in a combining window, its poster waiting. -/
def Test.comb (op : Byte) (closed : Bool) : State :=
  let s := Test.put { wait := some (.card 3) }
  { s with cycle := 64, combs := [⟨0, { blankJob s 1 [op] [] with posters := [(0, 3, 0)] }, 0, closed⟩] }
theorem witness_JobSteps_combine : (∃ x, (Test.comb 1 false).combs[0]? = some x ∧ x.opened + 64 ≤ (Test.comb 1 false).cycle) ∧
    ∀ op ∈ [(1 : Byte), 2, 3, 4, 5, 6, 0x10], ∃ x, (Test.comb op true).combs[0]? = some x ∧ x.closed = true ∧ ((Test.comb op true).liveJobs x.job.ctx).length < 1024 ∧
      cardOp x.job.card = op.toNat := by
  refine ⟨⟨_, rfl, by decide⟩, ?_⟩
  intro op h
  simp only [List.mem_cons, List.not_mem_nil, or_false] at h
  rcases h with rfl | rfl | rfl | rfl | rfl | rfl | rfl <;> exact ⟨_, rfl, rfl, by decide, by decide⟩
/-- Engine 1 free with a job that was parked before, and engine 1 with a running one. -/
def Test.engine (st : JobSt) (total : Nat) : State :=
  let s := Test.put {}
  let sh : Shape := ⟨1, 1, [total], [1]⟩
  { s with jobs := [(1, { blankJob s 1 [4] [sh, sh] with id := 1, st := st, cause := 4 })] }
theorem witness_JobSteps_start : let s := Test.engine .queued 1
    ∃ j, s.engineJob 1 = none ∧ s.engineBest 1 = some j ∧ 1 = j.eng ∧ s.job? j.id = some j ∧ j.cause ≠ 0 := ⟨_, rfl, rfl, rfl, rfl, by decide⟩
theorem witness_JobSteps_complete : (∃ j k, (Test.engine .running 0).engineJob 1 = some j ∧
      ((Test.engine .running 0).jobRun j.id (j.total - j.count)).job? j.id = some k ∧ k.st = .running ∧ k.total ≤ k.count) ∧
    (∃ j k, (Test.engine .running 1).engineJob 1 = some j ∧
      ((Test.engine .running 1).jobRun j.id (j.total - j.count)).job? j.id = some k ∧ ¬(k.st = .running ∧ k.total ≤ k.count)) :=
  ⟨⟨_, _, rfl, rfl, by decide +kernel, by decide +kernel⟩, ⟨_, _, rfl, rfl, by decide +kernel⟩⟩
/-- A Sieve's job that has waited at a full queue for DLCYC cycles. -/
theorem witness_JobSteps_sieve : let s : State := { Test.put {} with cycle := 2 ^ 32, jobs := [(1, { blankJob (Test.put {}) 64 [0x10] [] with id := 1, st := .running, waits := some 0 })] }
    ∃ j w, s.engineJob (64 + 0) = some j ∧ j.waits = some w ∧ max w (s.getX j.ctx).deqAt + (s.getX j.ctx).ccb.dlcyc ≤ s.cycle := ⟨_, _, rfl, rfl, by decide⟩

theorem witness_ShellCards_ctxset : let s : State := { Test.put {} with jobs := [(1, { blankJob (Test.put {}) 72 [0x20] [] with id := 1 })] }
    ∃ j, (mvals s.jobs).find? (fun j => j.eng == 72 && j.st == .queued) = some j := ⟨_, rfl⟩
/-- A running Shell card of die 0, of `len` times 2^16 bytes at 0x100000, for context 0, which has a task on core `n` or, where `n` is no core, none. -/
def Test.shell (op : Byte) (len n : Nat) (asked : Bool) (cells : List Host.Cell) : State :=
  let s := Test.job 1 0 0 2 0
  let s := s.updT 0 (fun t => { t with mem := [(0, n, true)] })
  let card : List Byte := (List.range 64).map (fun i => if i = 0 then op else if i = 10 then 0x10 else if i = 18 then BitVec.ofNat 8 len else if i = 19 then BitVec.ofNat 8 (len / 256) else 0)
  { s.updX 0 (fun x => { x with asked := asked, stage := if asked then 1 else 0 }) with
    jobs := [(1, { blankJob s 68 card [] with id := 1, st := .running })], mem := Test.table ++ cells }
/-- A card that starts the ladder, and one whose area is too small. -/
theorem witness_ShellCards_save :
    (let s := Test.shell 0x30 2 0 false []
     ∃ j, s.shellJob 0 0x30 = some j ∧ s.shellReady j = (some s, s) ∧ (s.getX (byteAt j.card 3)).asked = false ∧
      ((s.startLadder (byteAt j.card 3) true).resident (byteAt j.card 3)).any (fun t => t.mem.any (fun m => m.2.2 && dieOfCore m.2.1 == 0)) = true) ∧
    (let s := Test.shell 0x30 1 9999 true []
     ∃ j, s.shellJob 0 0x30 = some j ∧ s.shellReady j = (some s, s) ∧ (s.getX (byteAt j.card 3)).asked = true ∧
      (s.resident (byteAt j.card 3)).any (fun t => t.mem.any (fun m => m.2.2 && dieOfCore m.2.1 == 0)) = false ∧
      field j.card 16 8 = 0x10000 ∧ (s.ham.saved.filter (s.savedOn (byteAt j.card 3) 0)) = []) :=
  ⟨⟨_, rfl, rfl, by decide, by decide⟩, ⟨_, rfl, rfl, by decide, by decide, by decide, by decide⟩⟩
theorem witness_ShellCards_small : 0x10000 < areaSize 0 0 0 := by unfold areaSize blockAt tableAt blockLen areaTail; omega
/-- The pages from 0x100000 on may all be written, for any number of bytes up to the largest area. -/
theorem Test.pages (s : State) (h : ∀ i < 0x102, (match s.xlate [.hub] 0 (max 0x100000 ((0x100000 / 0x10000 + i) * 0x10000)) { w := true } with
    | (.ok _, _) => true | (.error _, _) => false) = true) : s.pagesBad 0 0x100000 (areaSize 0 0 0) = none := by
  unfold State.pagesBad
  rw [List.findSome?_eq_none_iff]
  intro i hi
  have hn : areaSize 0 0 0 ≤ 0x1010940 := by unfold areaSize blockAt tableAt blockLen areaTail; omega
  have hi' : i < 0x102 := by
    rw [List.mem_range] at hi
    split at hi <;> omega
  have := h i hi'
  simp only
  generalize s.xlate _ _ _ _ = r at this ⊢
  rcases r with ⟨_ | _, _⟩
  · cases this
  · rfl
theorem Test.first_found {α : Type} (f : Nat → Option α) (k : Nat) (b : α) (h : f 0 = some b) : (List.range (k + 1)).findSome? f = some b := by
  rw [List.range_succ_eq_map, List.findSome?_cons, h]
/-- Where the first page cannot be written, that is what is found. -/
theorem Test.unmapped (s : State) (n : Nat) (h0 : 0 < n) (f : XFail)
    (h : (s.xlate [.hub] 0 (max 0x100000 ((0x100000 / 0x10000 + 0) * 0x10000)) { w := true }).1 = .error f) : (s.pagesBad 0 0x100000 n).isSome = true := by
  unfold State.pagesBad
  rw [if_neg h0.ne', Test.first_found _ _ (f.einfo _, _)]
  · rfl
  · simp only
    rw [h]
/-- An area that fits, where no task of the context is left and where one stands on another die. -/
theorem witness_ShellCards_saved (n : Nat) (h : n = 9999 ∨ n = 1152) : let s := Test.shell 0x30 0x200 n true []
    ∃ j, s.shellJob 0 0x30 = some j ∧ s.shellReady j = (some s, s) ∧ (s.getX (byteAt j.card 3)).asked = true ∧
      (s.resident (byteAt j.card 3)).any (fun t => t.mem.any (fun m => m.2.2 && dieOfCore m.2.1 == 0)) = false ∧
      (s.ham.saved.filter (s.savedOn (byteAt j.card 3) 0)) = [] ∧
      areaSize 0 0 0 ≤ field j.card 16 8 ∧ s.pagesBad j.ctx (field j.card 8 8) (areaSize 0 0 0) = none ∧
      ((s.writeArea 0 j).resident (byteAt j.card 3) = [] ↔ n = 9999) := by
  have hn : areaSize 0 0 0 ≤ 0x2000000 := by unfold areaSize blockAt tableAt blockLen areaTail; omega
  rcases h with rfl | rfl
  · refine ⟨_, rfl, rfl, by decide, by decide, by decide, hn, Test.pages _ (by decide +kernel), ?_⟩
    rw [resident_writeArea]
    decide
  · refine ⟨_, rfl, rfl, by decide, by decide, by decide, hn, Test.pages _ (by decide +kernel), ?_⟩
    rw [resident_writeArea]
    decide
/-- The hub's reading of a range: whether it succeeds, and its bytes. -/
def Test.readOk (s : State) (ctx va n : Nat) : Bool := match (s.ctxRead ctx va n).1 with | .ok _ => true | .error _ => false
def Test.readOf (s : State) (ctx va n : Nat) : List Byte := match (s.ctxRead ctx va n).1 with | .ok b => b | .error _ => []
/-- Areas that are too short, of another form, and of this form but of no task this device saved. -/
theorem witness_ShellCards_restore :
    (let s := Test.shell 0x31 0 9999 false []
     ∃ j, s.shellJob 0 0x31 = some j ∧ s.shellReady j = (some s, s) ∧ field j.card 16 8 < 0x10000) ∧
    (let s := Test.shell 0x31 1 9999 false []
     ∃ j, s.shellJob 0 0x31 = some j ∧ s.shellReady j = (some s, s) ∧ 0x10000 ≤ field j.card 16 8 ∧
       Test.readOk s j.ctx (field j.card 8 8) 0x10000 = true ∧ field (Test.readOf s j.ctx (field j.card 8 8) 0x10000) 0 4 ≠ 0x48534C4C) :=
  ⟨⟨_, rfl, rfl, by decide⟩, ⟨_, rfl, rfl, by decide, by decide +kernel, by decide +kernel⟩⟩
/-- Without page tables neither the area to be written nor the one to be read translates. -/
theorem witness_ShellCards_untranslated :
    (let s := (Test.shell 0x30 0x200 9999 true []).updX 0 (fun x => { x with xbase := 0 })
     ∃ j, s.shellJob 0 0x30 = some j ∧ areaSize 0 0 0 ≤ field j.card 16 8 ∧ (s.pagesBad j.ctx (field j.card 8 8) (areaSize 0 0 0)).isSome) ∧
    (let s := (Test.shell 0x31 1 9999 false []).updX 0 (fun x => { x with xbase := 0 })
     ∃ j, s.shellJob 0 0x31 = some j ∧ 0x10000 ≤ field j.card 16 8 ∧ Test.readOk s j.ctx (field j.card 8 8) 0x10000 = false) := by
  have hn : areaSize 0 0 0 ≤ 0x2000000 ∧ 0 < areaSize 0 0 0 := by unfold areaSize blockAt tableAt blockLen areaTail; omega
  exact ⟨⟨_, rfl, hn.1, Test.unmapped _ _ hn.2 ⟨2, 1⟩ (by decide +kernel)⟩, ⟨_, rfl, by decide, by decide +kernel⟩⟩
/-- The bytes of an area that are read, by its header. -/
def Test.need (h : List Byte) : Nat := max (tableAt (field h 8 4) (field h 12 4) + 64) (max (field h 16 8 + 64) (field h 24 8 + blockLen ((field h 24 8 - field h 16 8) / 64)))
theorem Test.needs {h : List Byte} (h8 : field h 8 4 = 0) (h12 : field h 12 4 = 0) (h16 : field h 16 8 = 0x40) (h24 : field h 24 8 = 0) :
    0x10000 < Test.need h ∧ Test.need h ≤ 0x1F00000 := by
  unfold Test.need tableAt blockLen areaTail
  rw [h8, h12, h16, h24]
  omega
/-- The header of an area. -/
def Test.header : List Host.Cell := [(0x100000, 0x4C), (0x100001, 0x4C), (0x100002, 0x53), (0x100003, 0x48), (0x100004, 1), (0x100006, 0xA1), (0x100010, 0x40)]
/-- An area of this form in a buffer that holds its header alone, and in one that holds all that is read. -/
theorem witness_ShellCards_header : ∀ len ∈ [(1 : Nat), 0x200], let s := Test.shell 0x31 len 9999 false Test.header
    let h := Test.readOf s 0 0x100000 0x10000
    ∃ j, s.shellJob 0 0x31 = some j ∧ s.shellReady j = (some s, s) ∧ j.ctx = 0 ∧ field j.card 8 8 = 0x100000 ∧ 0x10000 ≤ field j.card 16 8 ∧
      Test.readOk s 0 0x100000 0x10000 = true ∧ field h 0 4 = 0x48534C4C ∧ field h 4 2 = 1 ∧ field h 6 2 = 0xA1 ∧
      (field j.card 16 8 < Test.need h ↔ len = 1) := by
  intro len hl
  simp only [List.mem_cons, List.not_mem_nil, or_false] at hl
  have hn := fun (x : Nat) (h8 : field (Test.readOf (Test.shell 0x31 x 9999 false Test.header) 0 0x100000 0x10000) 8 4 = 0) => Test.needs h8
  rcases hl with rfl | rfl
  · have h := hn 1 (by decide +kernel) (by decide +kernel) (by decide +kernel) (by decide +kernel)
    exact ⟨_, rfl, rfl, rfl, by decide, by decide, by decide +kernel, by decide +kernel, by decide +kernel, by decide +kernel, fun _ => rfl, fun _ => h.1⟩
  · have h := hn 0x200 (by decide +kernel) (by decide +kernel) (by decide +kernel) (by decide +kernel)
    exact ⟨_, rfl, rfl, rfl, by decide, by decide, by decide +kernel, by decide +kernel, by decide +kernel, by decide +kernel,
      fun g => absurd g (Nat.not_lt.mpr (h.2.trans (by decide))), fun g => absurd g (by decide)⟩

/-- A page outside the host windows is read from memory. -/
theorem Test.physRead_mem (s : State) (pa n : Nat) (h : isHost pa = false) : s.physRead pa n = some (readBytes s.mem pa n, s) := by
  unfold State.physRead
  rw [h]
  rfl
/-- The reading of pages, whatever translates them. -/
theorem Test.pages_read (X : State → List TlbPlace → Nat → Nat → PageNeed → Except XFail Nat × State) (R : State → Nat → Nat → Option (List Byte × State)) (s s' : State) (ctx va n pa0 k : Nat)
    (hR : ∀ s pa n, isHost pa = false → R s pa n = some (readBytes s.mem pa n, s))
    (h0 : X s [.hub] ctx (max va ((va / 0x10000 + 0) * 0x10000)) { r := true } = (.ok pa0, s')) (hh : isHost pa0 = false)
    (h : ∀ i, i < k + 1 → ∃ pa, X s' [.hub] ctx (max va ((va / 0x10000 + i) * 0x10000)) { r := true } = (.ok pa, s') ∧ isHost pa = false) :
    ∃ more, (List.range (k + 1)).foldl (fun (acc : Except ReadFail (List Byte) × State) i =>
      match acc.1 with
      | .error _ => acc
      | .ok bs =>
        match X acc.2 [.hub] ctx (max va ((va / 0x10000 + i) * 0x10000)) { r := true } with
        | (.error f, s) => (.error (.xlate, f.einfo (max va ((va / 0x10000 + i) * 0x10000)), max va ((va / 0x10000 + i) * 0x10000)), s)
        | (.ok pa, s) => match R s pa (min (va + n) ((va / 0x10000 + i + 1) * 0x10000) - max va ((va / 0x10000 + i) * 0x10000)) with
          | some (b, s) => (.ok (bs ++ b), s)
          | none => (.error (.remote, max va ((va / 0x10000 + i) * 0x10000), max va ((va / 0x10000 + i) * 0x10000)), s)) (.ok [], s) =
      (.ok (readBytes s'.mem pa0 (min (va + n) ((va / 0x10000 + 0 + 1) * 0x10000) - max va ((va / 0x10000 + 0) * 0x10000)) ++ more), s') := by
  induction k with
  | zero =>
    refine ⟨[], ?_⟩
    simp only [List.range_succ, List.range_zero, List.nil_append, List.foldl_cons, List.foldl_nil, h0, hR _ _ _ hh, List.append_nil]
  | succ m ih =>
    obtain ⟨more, ih⟩ := ih (fun i hi => h i (by omega))
    obtain ⟨pa, hp, hq⟩ := h (m + 1) (by omega)
    rw [List.range_succ, List.foldl_append, ih]
    simp only [List.foldl_cons, List.foldl_nil, hp, hR _ _ _ hq, List.append_assoc]
    exact ⟨_, rfl⟩
/-- Bytes read page by page where every page is mapped and the first translation is the only one held: those of the first page come first. -/
theorem Test.reads (s s' : State) (ctx va n pa0 : Nat) (h0 : s.xlate [.hub] ctx (max va ((va / 0x10000 + 0) * 0x10000)) { r := true } = (.ok pa0, s')) (hh : isHost pa0 = false)
    (h : ∀ i, i < (va + n - 1) / 0x10000 - va / 0x10000 + 1 → ∃ pa, s'.xlate [.hub] ctx (max va ((va / 0x10000 + i) * 0x10000)) { r := true } = (.ok pa, s') ∧ isHost pa = false) :
    ∃ more, s.ctxRead ctx va n =
      (.ok (readBytes s'.mem pa0 (min (va + n) ((va / 0x10000 + 0 + 1) * 0x10000) - max va ((va / 0x10000 + 0) * 0x10000)) ++ more), s') := by
  unfold State.ctxRead
  exact Test.pages_read State.xlate State.physRead s s' ctx va n pa0 _ Test.physRead_mem h0 hh h
theorem Test.readBytes_get (m : List Host.Cell) (a n i : Nat) (h : i < n) (d : Byte) : (readBytes m a n).getD i d = readByte m (a + i) := by
  induction n generalizing a i with
  | zero => omega
  | succ n ih =>
    cases i with
    | zero => rfl
    | succ i =>
      have := ih (a + 1) i (by omega)
      rw [show a + (i + 1) = a + 1 + i by omega, ← this]
      rfl
/-- The table at 0x10000 maps the first 4 TiB to themselves, and that translation is held. -/
structure Test.Flat (s : State) : Prop where
  base : bitsOf (s.getX 0).xbase.toNat 47 16 = 1
  tlb : s.tlb = [⟨.hub, 0, 1, 0, 0x1F⟩]
  entry : BitVec.ofNat 64 (leNat (readBytes s.mem 0x10000 8)) = 0x1F
theorem Test.page {s : State} (h : Test.Flat s) (va : Nat) (hv : va < 2 ^ 37) : s.xlate [.hub] 0 va { r := true } = (.ok va, s) := by
  have h1 : va / 2 ^ leafLog 1 = 0 := by rw [show leafLog 1 = 42 from rfl]; omega
  have h2 : va % 2 ^ leafLog 1 = va := by rw [show leafLog 1 = 42 from rfl]; omega
  have he : s.tableEntry 0x10000 1 va = 0x1F := by
    unfold State.tableEntry
    rw [h1]
    exact h.entry
  have hs : s.seenEntry [.hub] 0 1 va 0x1F = 0x1F := by
    unfold State.seenEntry
    rw [h.tlb]
    simp [h1]
  have hw : s.walk [.hub] 0 va [1, 2, 3] 0x10000 = .ok (0x1F, 1, [(1, 0x1F)]) := by
    unfold State.walk
    rw [he, hs]
    rfl
  have hk : s.keepAll [.hub] 0 va [(1, 0x1F)] = s := by
    simp only [State.keepAll, List.foldl_cons, List.foldl_nil, State.keep, h.tlb, h1]
    rfl
  have hp : physOk va = true := by
    unfold physOk; simp only [Bool.or_eq_true, decide_eq_true_eq]; left; omega
  unfold State.xlate
  rw [h.base, if_neg (by omega)]
  simp only [show 1 * 0x10000 = 0x10000 from rfl, hw, hk, h2, show ptePA 0x1F = 0 from rfl, Nat.zero_add, hp, if_true]
  rfl
/-- An area of no task, with the header above and the tail of the area under token 1; that area is this device's own if `mine`. -/
def Test.area (mine : Bool) : State :=
  let s := Test.shell 0x31 0x200 9999 false (Test.header ++ (List.range 64).map (fun i => (0x100040 + i, Config.blobByte 1 i)))
  let v : Saved := { tid := 0, was := [], mes := [], bars := [], watch := none, whole := true, ready := false, pins := [], diePins := [] }
  { s with
    ham := { s.ham with areas := if mine then [(1, [v])] else [] }
    tlb := [⟨.hub, 0, 1, 0, 0x1F⟩] }
theorem Test.area_flat (mine : Bool) : Test.Flat (Test.area mine) := ⟨by cases mine <;> rfl, by cases mine <;> rfl, by cases mine <;> decide +kernel⟩
theorem Test.area_read {s : State} (hs : Test.Flat s) (n : Nat) (h1 : 0x10000 ≤ n) (h2 : n ≤ 0x1F00000) :
    ∃ b, s.ctxRead 0 0x100000 n = (.ok b, s) ∧ ∀ i < 0x10000, b.getD i 0 = readByte s.mem (0x100000 + i) := by
  obtain ⟨more, h⟩ := Test.reads s s 0 0x100000 n 0x100000 (Test.page hs _ (by omega)) (by decide) (fun i hi => ⟨_, Test.page hs _ (by omega), by simp [isHost]; omega⟩)
  refine ⟨_, h, fun i hi => ?_⟩
  have hl : ∀ (m : List Host.Cell) (a n : Nat), (readBytes m a n).length = n := by
    intro m a n
    induction n generalizing a with
    | zero => rfl
    | succ n ih => exact congrArg (· + 1) (ih (a + 1))
  rw [List.getD_append _ _ _ _ (by rw [hl]; omega), Test.readBytes_get _ _ _ _ (by omega)]
theorem Test.blob (mine : Bool) : ∀ i < 64, readByte (Test.area mine).mem (0x100040 + i) = Config.blobByte 1 i := by
  intro i hi
  interval_cases i <;> rfl
/-- An area of this form whose tail this device did not write, and one whose tail it did. -/
theorem witness_ShellCards_area (mine : Bool) : let s := Test.area mine
    ∃ j h b, s.shellJob 0 0x31 = some j ∧ s.shellReady j = (some s, s) ∧ 0x10000 ≤ field j.card 16 8 ∧ s.ctxRead j.ctx (field j.card 8 8) 0x10000 = (.ok h, s) ∧
      field h 0 4 = 0x48534C4C ∧ field h 4 2 = 1 ∧ field h 6 2 = 0xA1 ∧ Test.need h ≤ field j.card 16 8 ∧
      s.ctxRead j.ctx (field j.card 8 8) (Test.need h) = (.ok b, s) ∧
      (mine = false → s.areaOf (b.drop (field h 16 8)) = none) ∧ (mine = true → (s.areaOf (b.drop (field h 16 8))).isSome) := by
  have hf := Test.area_flat mine
  obtain ⟨h, hh, -⟩ := Test.area_read hf 0x10000 (by omega) (by omega)
  have e : h = Test.readOf (Test.area mine) 0 0x100000 0x10000 := by unfold Test.readOf; rw [hh]
  have e0 : field h 0 4 = 0x48534C4C := by rw [e]; cases mine <;> decide +kernel
  have e4 : field h 4 2 = 1 := by rw [e]; cases mine <;> decide +kernel
  have e6 : field h 6 2 = 0xA1 := by rw [e]; cases mine <;> decide +kernel
  have e8 : field h 8 4 = 0 := by rw [e]; cases mine <;> decide +kernel
  have e12 : field h 12 4 = 0 := by rw [e]; cases mine <;> decide +kernel
  have e16 : field h 16 8 = 0x40 := by rw [e]; cases mine <;> decide +kernel
  have e24 : field h 24 8 = 0 := by rw [e]; cases mine <;> decide +kernel
  obtain ⟨n1, n2⟩ := Test.needs e8 e12 e16 e24
  obtain ⟨b, hb, hg⟩ := Test.area_read hf (Test.need h) n1.le n2
  have hj : ∃ j, (Test.area mine).shellJob 0 0x31 = some j ∧ (Test.area mine).shellReady j = (some (Test.area mine), Test.area mine) ∧ j.ctx = 0 ∧
      field j.card 8 8 = 0x100000 ∧ field j.card 16 8 = 0x2000000 := by
    cases mine <;> exact ⟨_, rfl, rfl, rfl, by decide, by decide⟩
  obtain ⟨j, h1, h2, h3, h4, h5⟩ := hj
  refine ⟨j, h, b, h1, h2, by omega, by rw [h3, h4]; exact hh, e0, e4, e6, by omega, by rw [h3, h4]; exact hb, ?_, ?_⟩
  · rintro rfl
    rfl
  · rintro rfl
    rw [e16]
    have ht : (List.range 64).all (fun i => (b.drop 0x40).getD i 0 == Config.blobByte 1 i) = true := by
      rw [List.all_eq_true]
      intro i hi
      rw [List.mem_range] at hi
      have := hg (0x40 + i) (by omega)
      rw [show 0x100000 + (0x40 + i) = 0x100040 + i by omega, Test.blob true i hi] at this
      rw [List.getD_eq_getElem?_getD, List.getElem?_drop, ← List.getD_eq_getElem?_getD, this]
      exact beq_self_eq_true _
    unfold State.areaOf
    rw [show (Test.area true).ham.areas = [(1, [_])] from rfl, List.find?_cons, ht]
    rfl

/-- A launch parameter block with the bytes given, a width of `w` else. -/
def Test.params (w : Byte) (xs : List (Nat × Byte)) : List Byte := (List.range 128).map (fun i => (mfind xs i).getD (if i = 2 then w else 0))
/-- A launch of it from queue 0, indices 0 and 1 left on die 0. -/
def Test.launch (lid : Nat) (st : LaunchSt) (lpb : List Byte) : Launch :=
  { lid := lid, ctx := 0, lpb := lpb, queue := some 0, st := st, level := 1, since := 0, count := 2, ranges := [(0, 0, 2)], retry := [], live := 0
    hostq := false, ptrs := [], children := 0, block := none, claim := [], dropped := false, failed := false, placeAt := 0 }
/-- A package whose cores are free, with these launches. -/
def Test.launches (ls : List Launch) (cells : List Host.Cell) : State :=
  { Test.uni {} cells with cycle := 2 ^ 32, ham := { launches := ls.map (fun l => (l.lid, l)) } }
/-- Context 0's launch queue 0 at 0x40000, of four records at 0x50000, with HEAD 0 and TAIL `t`, and the last byte and the width of its record. -/
def Test.lq (t last w : Byte) : State :=
  let s := Test.uni {} [(0x40000, 4), (0x40003, 0x70), (0x40004, 1), (0x40006, 1), (0x40007, 0xFF), (0x4000A, 5), (0x40014, t), (0x4001C, 1), (0x50002, w), (0x5007F, last)]
  s.updX 0 (fun x => { x with ccb := { x.ccb with lqCount := 1, lqAddr := 0x40000 } })
/-- What the steps of a take read of it: the descriptor, the key and the queue, and the record. -/
def Test.lqBytes (s : State) : List Byte := (s.ctxBytes 0 0x40000 128).1.getD []
def Test.lqHome (s : State) : Nat × State := (s.ctxBytes 0 0x40000 128).2.queueHome 0 0x40000
def Test.lqHead (s : State) : List Byte := (Test.lqHome s).2.descNow (Test.lqHome s).1 (Test.lqBytes s)
def Test.lqOpen (s : State) : Nat × State := (Test.lqHome s).2.activate 0 0x40000 (Test.lqHome s).1 (Test.lqHead s)
def Test.lqQueue (s : State) : RQueue := ((Test.lqOpen s).2.queue? (Test.lqOpen s).1).getD Test.queue
def Test.lqRecord (s : State) : Option (List Byte) := ((Test.lqOpen s).2.ctxBytes 0 0x50000 128).1
/-- The queue at hand is a launch queue of the package whose descriptor passes. -/
def Test.taken (s : State) (tail : Nat) : Prop :=
  0 < (s.getX 0).ccb.lqCount ∧ (s.getX 0).ccb.lqAddr + 128 * 0 = 0x40000 ∧ (s.ctxBytes 0 0x40000 128).1 = some (Test.lqBytes s) ∧
  (qdescOf (Test.lqHead s)).launchq = true ∧ (qdescOf (Test.lqHead s)).hostq = false ∧
  qdescBad (qdescOf (Test.lqHead s)) (qliveOf (Test.lqHead s)) (Test.lqHead s) = none ∧
  (Test.lqOpen s).2.queue? (Test.lqOpen s).1 = some (Test.lqQueue s) ∧ (Test.lqQueue s).live.head = 0 ∧ (Test.lqQueue s).live.tail = tail ∧
  (qdescOf (Test.lqHead s)).ring + 0 % (qdescOf (Test.lqHead s)).cap * 128 = 0x50000
/-- Nothing to take, a code load, a block of no member, and one that is accepted. -/
theorem witness_LaunchSteps_take : Test.taken (Test.lq 0 0 0) 0 ∧ Test.taken (Test.lq 1 1 0) 1 ∧ Test.taken (Test.lq 1 0 0) 1 ∧ Test.taken (Test.lq 1 0 1) 1 := by
  unfold Test.taken; decide +kernel
theorem witness_LaunchSteps_record :
    (Test.lqRecord (Test.lq 1 1 0)).isSome ∧ byteAt ((Test.lqRecord (Test.lq 1 1 0)).getD []) 127 = 1 ∧
    (Test.lqRecord (Test.lq 1 0 0)).isSome ∧ byteAt ((Test.lqRecord (Test.lq 1 0 0)).getD []) 127 = 0 ∧ lpbBad ((Test.lqRecord (Test.lq 1 0 0)).getD []) = some 2 ∧
    (Test.lqRecord (Test.lq 1 0 1)).isSome ∧ byteAt ((Test.lqRecord (Test.lq 1 0 1)).getD []) 127 = 0 ∧ lpbBad ((Test.lqRecord (Test.lq 1 0 1)).getD []) = none := by
  decide +kernel
/-- A held launch that writes what an earlier one reads, and one that nothing holds. -/
theorem witness_LaunchSteps_dispatch :
    (let p := Test.params 1 [(58, 6), (64, 1)]
     let l := Test.launch 1 .held p
     let s := Test.launches [Test.launch 0 .ready p, l] [(0x60001, 0x10), (0x60008, 0x10), (0x60010, 3)]
     s.launch? 1 = some l ∧ l.st = .held ∧ s.launchBlocked l = true) ∧
    (let l := Test.launch 0 .held (Test.params 1 [])
     let s := Test.launches [l] []
     s.launch? 0 = some l ∧ s.launchBlocked l = false ∧ (s.getX l.ctx).stage = 0 ∧ (s.getX l.ctx).exh = 0 ∧ l.dropped = false ∧ lpbIndirect l.lpb = false ∧ l.ptrs = [] ∧
     lpbStep l.lpb = 0) := by decide +kernel
/-- A launch at level 14 with indices left; a launch over dies; a wide one with no claim and its cores; one whose next task core 5 takes. -/
theorem witness_LaunchSteps_ready :
    (let l := { Test.launch 0 .ready (Test.params 1 []) with level := 14 }
     let s := Test.launches [l] []
     s.launch? 0 = some l ∧ l.left = true ∧ l.level < 15 ∧ l.since + (s.getX l.ctx).ccb.age ≤ s.cycle) ∧
    (let l := Test.launch 0 .ready (Test.params 1 [(4, 3)])
     (Test.launches [l] []).launch? 0 = some l ∧ l.st = .ready ∧ 3 ≤ lpbShape l.lpb) ∧
    (let l := Test.launch 0 .ready (Test.params 2 [])
     let s := Test.launches [l] []
     s.launch? 0 = some l ∧ l.left = true ∧ (s.getX l.ctx).serves = true ∧ 1 < lpbWidth l.lpb ∧ l.claim = [] ∧ l.placeAt + (s.getX l.ctx).ccb.age < s.cycle ∧
     [5, 6].length = lpbWidth l.lpb ∧ [5, 6].Nodup ∧ oneUnit (lpbShape l.lpb) [5, 6] = true ∧ l.offers (dieOfCore ([5, 6].headD 0)) = true ∧ lpbWoven l.lpb = false ∧
     ∀ n ∈ [5, 6], n < nCores ∧ (s.getC n).run ≠ .halted ∧ s.unclaimed 0 n = true) ∧
    (let l := Test.launch 0 .ready (Test.params 2 [(5, 1)])
     lpbWoven l.lpb = true ∧ (Test.launches [l] []).wovenFits [5, 6] = true) ∧
    (let l := Test.launch 0 .ready (Test.params 1 [])
     let s := Test.launches [l] []
     s.launch? 0 = some l ∧ l.left = true ∧ (s.getX l.ctx).serves = true ∧ s.firstReady l.ctx = none ∧ l.claim = [] ∧ s.isNext l = true ∧ s.placeOk l [5] = true ∧
     (l.take (dieOfCore ([5].headD 0))).isSome ∧ lpbWoven l.lpb = false ∧ s.assisted l.ctx 1 = false ∧ l.asked = none) ∧
    (∀ a ∈ [none, some false, some true],
     let l := { Test.launch 0 .ready (Test.params 1 []) with asked := a }
     let s := (Test.launches [l] []).updX 0 (fun x => { x with duty := 4 })
     s.launch? 0 = some l ∧ l.left = true ∧ (s.getX l.ctx).serves = true ∧ s.firstReady l.ctx = none ∧ l.claim = [] ∧ s.isNext l = true ∧ s.placeOk l [5] = true ∧
     (l.take (dieOfCore ([5].headD 0))).isSome ∧ s.assisted l.ctx 1 = true) := by decide +kernel

theorem witness_Deadlines_cancel : let s := { (Test.job 1 0 0 2 0).updT 0 (fun t => { t with canAt := some 0 }) with cycle := 0x10000 }
    ∃ t, s.task? 0 = some t ∧ t.canAt = some 0 ∧ 0 + (s.getX t.ctx).ccb.cancelDl ≤ s.cycle := ⟨_, rfl, rfl, by decide⟩
theorem witness_Deadlines_spawn : let s := { Test.put {} with cycle := 256, ham := { offers := [⟨0, Test.params 1 [], [0], 0⟩] } }
    ∃ o, (s.ham.offers.filter (fun o => o.die == 0))[0]? = some o ∧ o.opened + 256 ≤ s.cycle := ⟨_, rfl, by decide⟩
/-- Blocks whose timer has run out: one committed, one with a claim open; and one that a QFLUSH marked. -/
theorem witness_Deadlines_blocks : ∀ c ∈ [true, false],
    let b := { Test.block' 0 .opened [(0, 0, c)] with timer := some 0, flushAt := some 0 }
    let q := { Test.queue with blocks := [b], live := { Test.queue.live with timer := 1 } }
    let s := { Test.rq 4 2 0 q 0 with cycle := 1 + 4096 }
    s.queue? 0 = some q ∧ q.blocks.find? (fun b => b.no == 0) = some b ∧ b.st ≠ .closed ∧ b.timer = some 0 ∧ q.live.timer ≠ 0 ∧ 0 + q.live.timer ≤ s.cycle ∧
    b.claims.all (fun c => c.2.2) = c ∧ 0 + q.live.timer + (s.getX q.ctx).ccb.cto ≤ s.cycle ∧ b.flushAt = some 0 ∧ 0 + (s.getX q.ctx).ccb.cto ≤ s.cycle := by decide
theorem witness_Deadlines_senders : let s := { Test.put { task := some 0, wait := some .enq } with cycle := 0x400000 }
    let cs := s.cores.filter (fun e => decide (e.1 < nCores) && e.2.task.isSome && e.2.ctx == 0)
    cs ≠ [] ∧ cs.all (fun e => e.2.wait == some .enq) = true ∧ cs.foldl (fun n e => max n e.2.since) (s.getX 0).deqAt + (s.getX 0).ccb.dlcyc ≤ s.cycle := by decide
/-- Context 0 at stage `st` of the ladder, `asked` for or not, its core budget of one cycle; with a task on core 0 or, where `n` is no core, none. -/
def Test.ladder (st : Nat) (asked : Bool) (used n cycle : Nat) : State :=
  let s := (Test.job 1 0 0 2 0).updT 0 (fun t => { t with mem := [(0, n, true)] })
  { s.updX 0 (fun x => { x with stage := st, asked := asked, usedCore := used, ccb := { x.ccb with coreBud := 1 } }) with cycle := cycle }
theorem witness_Deadlines_ladder :
    (((Test.ladder 0 false 2 0 0).chargeCores 0).getX 0).usedUp 0 = true ∧ (((Test.ladder 0 false 0 0 0).chargeCores 0).getX 0).usedUp 0 = false ∧
    (∀ st ∈ [0, 1], ∀ a ∈ [true, false], let x := (Test.ladder st a 0 0 400000).getX 0
      x.periodAt + x.ccb.period ≤ 400000 ∧ x.stage = st ∧ x.asked = a) ∧
    (Test.ladder 1 true 0 0 400000).resident 0 ≠ [] ∧ (Test.ladder 1 true 0 9999 400000).resident 0 = [] ∧
    (let x := (Test.ladder 1 true 0 0 399999).getX 0
     399999 < x.stageAt + x.ccb.saveDl ∧ x.stageAt + x.ccb.saveDl ≤ 400000) ∧
    (let x := (Test.ladder 2 true 0 0 4000000).getX 0
     x.stage = 2 ∧ x.stageAt + x.ccb.secondDl ≤ 4000000) ∧
    (Test.ladder 2 true 0 0 4000000).resident 0 ≠ [] ∧ (Test.ladder 2 true 0 9999 4000000).resident 0 = [] := by decide +kernel

theorem witness_StepEvents_release : let s := (Test.job 1 0 0 2 0).updT 0 (fun t => { t with doms := [(0, { first := 0, count := 1, stride := 1, held := true })] })
    ∃ t d, s.task? 0 = some t ∧ s.domain? 0 0 = some d ∧ d.held = true ∧ d.relAt ≤ s.cycle ∧ (s.getX t.ctx).stage = 0 ∧ s.isAway 0 = false :=
  ⟨_, _, rfl, rfl, rfl, by decide, rfl, by decide⟩
/-- The same for a task that has been saved. -/
theorem witness_StepEvents_away : (Test.away true).isAway 0 = true := by decide
theorem witness_StepEvents_timeout : let s := { (Test.job 1 0 0 2 0).upd (fun c => { c with wait := some (.step 0) }) with cycle := 1 }
    ∃ t, (s.getC 0).wait = some (.step 0) ∧ (s.getC 0).woken = none ∧ (s.getC 0).task = some 0 ∧ s.task? 0 = some t ∧ (s.getC 0).since + t.stepTo < s.cycle :=
  ⟨_, rfl, rfl, rfl, rfl, by decide⟩
/-- Two granules for one place, for a task that holds its core; and two for a core that no task holds, the send of one of which is recorded. -/
theorem witness_StepEvents_landing : let x : Send := ⟨0, 0, 0, 0, some 0, spadKey 0 0, [1], 0, false⟩
    let s := { Test.job 1 0 0 2 0 with sends := [x, x, { x with core := 1, task := some 7 }, { x with core := 2, task := some 7, told := true }] }
    s.sends[0]? = some x ∧ s.mayLand 0 = true ∧ s.depositOk x.target x.task = true ∧ s.mayLand 1 = false ∧ s.mayLand 2 = true ∧ s.depositOk 0 (some 7) = false ∧ s.mayLand 3 = true ∧ x.told = false ∧ (s.sends[3]?.map (·.told)) = some true := by decide

/-- The link of a device whose ports are up, with grant 0 of context 0 as `Test.table` has it. -/
theorem witness_InboundRdma :
    (let s := Test.uni {} []
     s.host.down = false ∧ (s.rdmaCheck 0 0x50000 16 permW { w := true }).1 = .ok [(0x50000, 16)] ∧ isHost 0x50000 = false ∧
     (s.rdmaCheck 0 0x50000 16 permR { r := true }).1 = .ok [(0x50000, 16)] ∧ ((s.rdmaCheck 0 0x50000 16 permR { r := true }).2.partsBad 0x50000 16 [(0x50000, 16)]).isNone ∧
     (s.rdmaCheck 0 0x50000 16 permR { r := true }).2.poisoned 0x50000 16 = false) := by
  decide +kernel
/-- Keys and addresses that are refused, and a host window's. -/
theorem witness_InboundRdma_atomic :
    (let s := Test.uni {} []
     (s.rdmaCheck 0x10000 0x50000 16 permW { w := true }).1 = .error (.stalegrant, 0, 0x50000) ∧ (s.rdmaCheck 1 0x50000 16 permR { r := true }).1 = .error (.stalegrant, 1, 0x50000) ∧
     (s.rdmaCheck 0 0x50008 8 (permR ||| permW ||| permA) { r := true, w := true }).1 = .ok [(0x50008, 8)] ∧
     (s.rdmaCheck 0 0x50008 8 (permR ||| permW ||| permA) { r := true, w := true }).2.poisoned 0x50008 8 = false ∧
     (s.rdmaCheck 1 0x50008 8 (permR ||| permW ||| permA) { r := true, w := true }).1 = .error (.stalegrant, 1, 0x50008) ∧
     (s.rdmaCheck 0 0x20000000000 8 (permR ||| permW ||| permA) { r := true, w := true }).1 = .ok [(0x20000000000, 8)] ∧ isHost 0x20000000000 = true) := by
  decide +kernel
theorem witness_InboundRdma_poison : let s := { Test.uni {} [] with poison := [0x5000] }
    (s.rdmaCheck 0 0x50000 16 permR { r := true }).1 = .ok [(0x50000, 16)] ∧
    ((s.rdmaCheck 0 0x50000 16 permR { r := true }).2.partsBad 0x50000 16 [(0x50000, 16)]).isSome := by decide +kernel

/-- Context 3's last request had number 5; owner 9 is known. -/
def Test.txc : State := { (Test.uni {} []).updX 3 (fun x => { x with txcSeq := some 5 }) with host := { owners := [9] } }
/-- A stranger; an older request, the same, and a newer one of context 3; a first one of context 0. -/
theorem witness_TxcRequests : ¬(Test.txc.host.down = false ∧ 8 ∈ Test.txc.host.owners) ∧ (Test.txc.host.down = false ∧ 9 ∈ Test.txc.host.owners) ∧
    (Test.txc.getX 3).txcSeq = some 5 ∧ (∀ q, (Test.txc.getX 3).txcSeq = some q → q < 6) ∧ (∀ q, (Test.txc.getX 0).txcSeq = some q → q < 0) := by
  refine ⟨by decide, by decide, by decide, ?_, ?_⟩
  · intro q h
    have : q = 5 := (Option.some.inj h).symm
    omega
  · intro q h
    cases h
/-- Both sides of each bound. -/
theorem witness_TxcRequests_fields : (0x100 ≤ (0x17F#16).toNat ∧ (0x17F#16).toNat < 0x180) ∧ ¬(0x100 ≤ (0x180#16).toNat ∧ (0x180#16).toNat < 0x180) ∧
    isHost (0x20000000000#64).toNat = true ∧ Test.txc.sec.ownerKey = [] ∧ ((List.replicate 133 (0 : Byte)).length = 133) := by decide
/-- A datagram too short, and of another magic; a header with its reserved byte set, one whose length is not the body's, and one of a body
longer than 8,192 bytes; and an unknown type, from an owner. -/
theorem witness_TxcRequests_datagrams :
    (∃ d : List Byte, d.length < 32) ∧ (List.replicate 32 (0 : Byte)).take 4 ≠ [0x54, 0x58, 0x43, 0x01] ∧
    (let h : List Byte := [0x54, 0x58, 0x43, 0x01]
     (let d := h ++ List.replicate 27 0 ++ [1]
      32 ≤ d.length ∧ d.take 4 = h ∧ ¬ (∀ i ∈ ([6, 7, 17, 20, 21, 22, 23, 24, 25, 26, 27, 28, 29, 30, 31] : List Nat), d.getD i 0 = 0)) ∧
     (let d := h ++ List.replicate 29 0
      32 ≤ d.length ∧ d.take 4 = h ∧ field d 18 2 + 32 ≠ d.length) ∧
     8192 + 32 < (h ++ List.replicate 8221 0).length ∧
     datagramOf 9 (h ++ List.replicate 28 0) = .bad 9 0 0 0 ∧ Test.txc.host.down = false ∧ 9 ∈ Test.txc.host.owners ∧
     datagramOf 9 (h ++ [6] ++ List.replicate 11 0 ++ [3] ++ List.replicate 15 0) = .request (.preempt 9 3 0) ∧
     ¬ 16 ≤ 3 ∧ (∀ q, (Test.txc.getX 0).txcSeq = some q → q < 0)) := by
  refine ⟨⟨[], by decide⟩, by decide, by decide, by decide +kernel,
    by rw [List.length_append, List.length_replicate]; decide, by decide, by decide, by decide, by decide, by decide, ?_⟩
  intro q h
  cases h
/-- An activity that stands, and one whose core has gone on. -/
theorem witness_TxcRequests_dreply : let p : Parked := ⟨.core 0, 0, 0, 0, 0, 0, 0, 0, none⟩
    let s := { Test.put { wait := some (.answer 7) } with host := { parked := [(7, p), (8, p)] } }
    mfind s.host.parked 6 = none ∧ mfind s.host.parked 7 = some p ∧ s.standing 7 p = true ∧ mfind s.host.parked 8 = some p ∧ s.standing 8 p = false := by decide

theorem witness_OutsideWorld : let p : Parked := ⟨.core 0, 0, 0, 0, 0, 0, 0, 0, none⟩
    let s := { Test.put { wait := some (.answer 7) } with cycle := 4000001, host := { parked := [(7, p)] } }
    mfind s.host.parked 7 = some p ∧ p.at' + (s.getX p.ctx).ccb.secondDl < s.cycle ∧ p.sentAt + 4000000 ≤ s.cycle ∧ s.standing 7 p = true ∧
    (0x100 ≤ (0x100#16).toNat ∧ (0x100#16).toNat < 0x180) ∧ arrayKey 0 = true ∧ s.stackPlace 0 = none ∧
    arrayKey (spadKey 4607 0x7FFFF) = true ∧ s.stackPlace (spadKey 4607 0x7FFFF) = none := by decide
/-- The temperature read is a free value (R518): of the two cases of a trip one holds, whatever it is. -/
theorem witness_OutsideWorld_trip : (∃ i < 5, 115 ≤ (Test.s.mgmtRead 0x101).toNat / 256 ^ i % 256) ∨ ¬ ∃ i < 5, 115 ≤ (Test.s.mgmtRead 0x101).toNat / 256 ^ i % 256 :=
  Classical.em _
/-- An error in a granule that core 0's stack cache holds. -/
theorem witness_OutsideWorld_stack : ∃ y, (Test.stacked 0x1000 0xFF0 7).stackPlace (2 ^ 64 + Test.near + 0xFF0) = some (0, (Test.near + 0xFF0) / 16, y) :=
  ⟨_, rfl⟩

theorem witness_RegisterSets : 60 < 64 ∧ 63 < 64 ∧ 0 < 60 := by decide
theorem witness_DivisionCorners : let s := Test.put { g := [(5, ⟨0x8000000000000000, false⟩), (6, ⟨0xFFFFFFFFFFFFFFFF, false⟩)] }
    s.rdI 0 = 0 ∧ s.rdI 5 = 0x8000000000000000 ∧ s.rdI 6 = BitVec.allOnes 64 := by decide
/-- In system mode, with a result on its way, before a trap that is no machine check. -/
theorem witness_TrapWaits : let s := Test.put { prods := [⟨.g, 5, .g TReg0, 9, 0, 1, 0, false, false⟩] }
    s.c.tr.exl = false ∧ ¬(Cause.priv.code = Cause.mcheck.code ∧ s.c.sys = true) ∧ s.c.sys = true ∧ s.c.prods ≠ [] := by decide
theorem witness_ResetState : (4607 : Nat) < nCores := by decide
theorem witness_ResetState_word : ∃ w : Word, w = BitVec.allOnes 64 := ⟨_, rfl⟩
/-- Core 0 with a word at its PC, 0. -/
def Test.at0 (c : Core) (w : Word) : State := { State.reset with cores := [(0, c)], mem := (List.range 8).map (fun i => (istoreKey 0 i, w.extractLsb' (8 * i) 8)) }
/-- It runs its own words and nothing holds it. -/
def Test.runs (s : State) : Prop :=
  s.host.tripped = false ∧ s.turns = [] ∧ s.c.run = .running ∧ s.c.parked = false ∧ s.c.subscribed = false ∧ s.c.w.st = .alone ∧
  s.c.replayQ = [] ∧ s.c.rewriteQ = [] ∧ s.c.istale = [] ∧ s.c.pc.toNat < 3584 ∧
  ({ s with tick := s.tick + 1 } : State).atIssue.heldByMembers = false ∧ ({ s with tick := s.tick + 1 } : State).atIssue.c.slotFor (s.istoreWord s.cur s.c.pc.toNat) = none ∧
  ({ s with tick := s.tick + 1 } : State).atIssue.c.offPath = false
/-- An unassigned word, a system word in user mode, and an addition. -/
theorem witness_StepRunsDecoded_runs : Test.runs State.reset ∧ Test.runs (Test.at0 { sys := false } 0x0080000000000010) ∧ Test.runs (Test.at0 {} 0x0C00000024120A00) := by
  unfold Test.runs; decide +kernel
theorem witness_StepKeepsMemory : MemOk (Test.at0 {} 0x0FF00000E0000005) ∧ ∃ t, step (Test.at0 {} 0x0FF00000E0000005) = .next t :=
  ⟨by unfold MemOk; decide +kernel, ⟨_, rfl⟩⟩
/-- The state in which `d` is looked at. -/
noncomputable def Test.looked (s : State) (d : Decoded) : State :=
  ({ s with tick := s.tick + 1 } : State).atIssue.latched .own (s.istoreWord s.cur s.c.pc.toNat) {} (schedOf d)
theorem witness_StepRunsDecoded_refused : (Test.at0 { sys := false } 0x0080000000000010).istoreWord 0 0 = 0x0080000000000010 ∧
    decode 0x0080000000000010 = .ok (.full {} (.tlbinv .all .core 0 0)) ∧
    (Test.looked (Test.at0 { sys := false } 0x0080000000000010) (.full {} (.tlbinv .all .core 0 0))).c.decodeTrap (.full {} (.tlbinv .all .core 0 0)) = true :=
  ⟨by decide, rfl, by decide⟩
/-- A word that goes on where it was held. -/
theorem witness_StepRunsDecoded_committed : (Test.looked (Test.at0 { wait := some (.grant none TReg0) } 0x0C00000024120A00) (.full {} (.add 9 9 10 0))).c.committed = true := by decide
theorem witness_StepRunsDecoded_unassigned : ∃ e, decode (State.reset.istoreWord 0 0) = .error e := ⟨_, rfl⟩
/-- An addition to g9, whose producer has nine of its ten cycles left, in checked mode. -/
theorem witness_StepRunsDecoded_early : let s := Test.at0 { mode := 2, prods := [⟨.g, 9, .g TReg0, 10, 0, 10, 0, false, false⟩] } 0x0C00000024120A00
    let d : Decoded := .full {} (.add 9 9 10 0)
    let v := Test.looked s d
    decode (s.istoreWord 0 0) = .ok d ∧ v.c.decodeTrap d = false ∧ v.c.committed = false ∧ (!v.c.mode.getLsbD 0 && v.c.mode.getLsbD 1) = true ∧
    (v.c.stallchk (v.c.e3 v.cycle d) (usesOf d ++ (if v.c.indexOpen d then [] else v.c.valueUses v.cycle d)) (schedOf d).sbwait).isSome :=
  ⟨rfl, by decide, by decide, by decide, by decide +kernel⟩
/-- The same on an idle core, with the interlocks off and on. -/
theorem witness_StepRunsDecoded_executes : ∀ m ∈ [(0 : BitVec 3), 1], let s := Test.at0 { mode := m } 0x0C00000024120A00
    let d : Decoded := .full {} (.add 9 9 10 0)
    let v := Test.looked s d
    let il := v.c.mode.getLsbD 0
    let us := usesOf d ++ (if v.c.indexOpen d then [] else v.c.valueUses v.cycle d)
    let x := if il then v.interlock (usesOf d) else v.waitTokens (schedOf d).sbwait
    let vs := x.c.valueUses x.cycle d
    decode (s.istoreWord 0 0) = .ok d ∧ v.c.decodeTrap d = false ∧ v.c.committed = false ∧ (!il && v.c.mode.getLsbD 1) = false ∧
    (v.c.tr.pend && !v.c.tr.exl && v.c.touchesFaulted us) = false ∧ v.sourceBusy d = false ∧ (x.c.tr.pend && !x.c.tr.exl && x.c.touchesFaulted vs) = false ∧
    (if il then x.interlock vs else x.waitRoom (schedOf d).sbset.toNat).c.mchk = none := by
  intro m hm
  simp only [List.mem_cons, List.not_mem_nil, or_false] at hm
  rcases hm with rfl | rfl <;>
    exact ⟨rfl, by decide, by decide, by decide, by decide +kernel, by decide +kernel, by decide +kernel, by decide +kernel⟩
theorem witness_StepRunsDecoded_turns : let s := { State.reset with turns := [.core 5] }
    let t := { State.reset with turns := [.event (.scrub 0)] }
    s.host.tripped = false ∧ s.turns = [.core 5] ∧ t.host.tripped = false ∧ t.turns = [.event (.scrub 0)] ∧ isEvent (.scrub 0) = true := ⟨rfl, rfl, rfl, rfl, rfl⟩
/-- SMBus's request comes before those of both ports that were listed first; a request alone. -/
theorem witness_StepRunsDecoded_ports :
    let t : Turn := .event (.smbusAccess false 0x100 0 none)
    let before : List Turn := [.datagram true 9 [], .datagram false 9 []]
    (before.head?.bind Turn.port).isSome = true ∧ (∀ u ∈ before, u.instant = true) ∧ t.port = some 0 ∧ (∀ u ∈ before, ∀ q, u.port = some q → 0 < q) ∧
    (∀ u ∈ ([] : List Turn).takeWhile Turn.instant, ∀ q, u.port = some q → 0 ≤ q) ∧ isEvent (.smbusAccess false 0x100 0 none) = true ∧
    (Turn.event (.scrub 0)).port = none ∧ (Turn.datagram false 9 []).port = some 1 := by
  refine ⟨rfl, by decide, rfl, ?_, ?_, rfl, rfl, rfl⟩
  · intro u hu q hq
    simp only [List.mem_cons, List.not_mem_nil, or_false] at hu
    rcases hu with rfl | rfl <;> (cases hq; decide)
  · intro u hu; simp at hu
theorem witness_DecodeOfEncode : (∃ w, encode {} (.add 9 9 10 0) = some w) ∧ (Instr.add 9 9 10 0).wf = true ∧
    (∃ w, encodePair 1 (.hadd 9 10) (.hsub 4 5) = some w) ∧ pairOk (.hadd 9 10) (.hsub 4 5) = true := ⟨⟨_, rfl⟩, rfl, ⟨_, rfl⟩, rfl⟩
theorem witness_EncodeOfDecode : decode 0x0C00000024120A00 = .ok (.full {} (.add 9 9 10 0)) := rfl
theorem witness_EncodeOfDecode_pair : ∃ h1 h0, decode 0x8000000000000000 = .ok (.pair 0 h1 h0) := ⟨_, _, rfl⟩
end

section
/-!
What reset leaves: an instruction store that nothing has written holds words of all ones (R128), which are unassigned, and
every core holds the reset values.
-/
open Sys2Proof Sys2Proof.Machine

namespace Sys2Proof

/-- The opcode of a half of all ones is 0x3F: R40 refuses every opcode from 0x15 on. -/
theorem decodeHalf_allOnes : decodeHalf (BitVec.allOnes 31) = .error .illegalPair := rfl

/-- Bit 63 makes a word of all ones a pair word (R37), and its upper half is no half. -/
theorem decode_allOnes : decode (BitVec.allOnes 64) = .error .illegalPair := by
  have hpair : (BitVec.allOnes 64).getLsbD 63 = true := by decide
  have hhalf : (BitVec.allOnes 64).extractLsb' 32 31 = BitVec.allOnes 31 := by decide
  rw [decode, if_pos hpair, hhalf, decodeHalf_allOnes]
  rfl

namespace Machine

theorem State.reset_getC (n : Nat) : State.reset.getC n = {} := rfl

theorem readByte_reset (a : Nat) : readByte State.reset.mem a = unlisted a := rfl

/-- Every core's 1 MiB window of instruction-store addresses lies where unwritten bytes are ones. -/
theorem unlisted_istoreKey {n off : Nat} (hn : n < nCores) (hoff : off < 0x100000) : unlisted (istoreKey n off) = 0xFF := by
  unfold nCores at hn
  have hin : istoreBase ≤ istoreKey n off ∧ istoreKey n off < accBase := by
    unfold istoreKey istoreBase accBase
    omega
  exact if_pos hin

/-- Bytes that all read the same. -/
theorem readBytes_eq_replicate {m : List Host.Cell} {b : Byte} {k : Nat} {a : Nat} (h : ∀ j < k, readByte m (a + j) = b) :
    readBytes m a k = List.replicate k b := by
  induction k generalizing a with
  | zero => rfl
  | succ k ih =>
    have hhead : readByte m a = b := h 0 (Nat.succ_pos k)
    have htail : readBytes m (a + 1) k = List.replicate k b := ih fun j hj => by
      rw [Nat.add_right_comm, Nat.add_assoc]
      exact h (j + 1) (Nat.succ_lt_succ hj)
    rw [readBytes, hhead, htail, List.replicate_succ]

theorem State.reset_istoreWord {n i : Nat} (hn : n < nCores) (hi : i < 4096) :
    State.reset.istoreWord n i = BitVec.allOnes 64 := by
  have hbytes : readBytes State.reset.mem (istoreKey n (8 * i)) 8 = List.replicate 8 0xFF := readBytes_eq_replicate fun j hj => by
    rw [readByte_reset, istoreKey, Nat.add_assoc]
    exact unlisted_istoreKey hn (by omega)
  rw [State.istoreWord, hbytes]
  decide

end Machine

/-- Settles O53: a core that nothing has touched has the default fields, and its instruction store is unwritten. -/
theorem resetState : Obligations.ResetState := by
  unfold Obligations.ResetState
  refine ⟨rfl, fun w hw => ⟨.illegalPair, hw ▸ decode_allOnes⟩, fun n hn => ?_⟩
  rw [State.reset_getC]
  refine ⟨rfl, rfl, rfl, rfl, rfl, rfl, rfl, rfl, rfl, rfl, rfl, rfl, rfl, rfl, rfl, rfl, rfl, rfl, rfl, fun i hi => ?_⟩
  exact State.reset_istoreWord hn hi

end Sys2Proof
end

section
/-!
Codec, fields: a word as a number, and what the parts of a decoder accept, as equations of numbers.
-/
namespace Sys2Proof
open BitVec
set_option linter.unusedSimpArgs false
-- One theorem after the other: each thread that waits for another keeps its stack.
set_option Elab.async false

theorem toNat_append_eq_add {m n : Nat} (x : BitVec m) (y : BitVec n) : (x ++ y).toNat = x.toNat * 2 ^ n + y.toNat := by
  rw [toNat_append, ← Nat.shiftLeft_add_eq_or_of_lt y.isLt, Nat.shiftLeft_eq]

theorem toNat_extract {w : Nat} (x : BitVec w) (i n : Nat) : (x.extractLsb' i n).toNat = x.toNat / 2 ^ i % 2 ^ n := by
  rw [extractLsb'_toNat, Nat.shiftRight_eq_div_pow]

theorem areaA_toNat (d a b : BitVec 9) (m : BitVec 8) :
    (areaA d a b m).toNat = d.toNat * 2 ^ 26 + a.toNat * 2 ^ 17 + b.toNat * 2 ^ 8 + m.toNat := by
  change (d ++ (a ++ (b ++ m))).toNat = _
  simp only [toNat_append_eq_add]
  omega

theorem areaI_toNat (d a : BitVec 9) (imm : BitVec 17) : (areaI d a imm).toNat = d.toNat * 2 ^ 26 + a.toNat * 2 ^ 17 + imm.toNat := by
  change (d ++ (a ++ imm)).toNat = _
  simp only [toNat_append_eq_add]
  omega

theorem areaL_toNat (d : BitVec 6) (imm : BitVec 29) : (areaL d imm).toNat = d.toNat * 2 ^ 29 + imm.toNat := by
  change (d ++ imm).toNat = _
  exact toNat_append_eq_add d imm

theorem Raw.area_eq_areaA_iff {r : Raw} {d a b : BitVec 9} {m : BitVec 8} :
    r.area = areaA d a b m ↔ r.d = d ∧ r.a = a ∧ r.b = b ∧ r.m = m := by
  simp only [← toNat_inj, areaA_toNat, Raw.d, Raw.a, Raw.b, Raw.m, toNat_extract]
  have := r.area.isLt; have := d.isLt; have := a.isLt; have := b.isLt; have := m.isLt
  omega

theorem Raw.area_eq_areaI_iff {r : Raw} {d a : BitVec 9} {imm : BitVec 17} :
    r.area = areaI d a imm ↔ r.d = d ∧ r.a = a ∧ r.imm = imm := by
  simp only [← toNat_inj, areaI_toNat, Raw.d, Raw.a, Raw.imm, toNat_extract]
  have := r.area.isLt; have := d.isLt; have := a.isLt; have := imm.isLt
  omega

theorem Raw.toNat_toWord (r : Raw) : r.toWord.toNat = r.g.toNat * 2 ^ 58 + r.f.toNat * 2 ^ 52 + r.stall.toNat * 2 ^ 49 +
    r.sbset.toNat * 2 ^ 46 + r.sbwait.toNat * 2 ^ 39 + r.k.toNat * 2 ^ 35 + r.area.toNat := by
  change (0#1 ++ (r.g ++ (r.f ++ (r.stall ++ (r.sbset ++ (r.sbwait ++ (r.k ++ r.area))))))).toNat = _
  simp only [toNat_append_eq_add, toNat_ofNat]
  omega

theorem Raw.ofWord_toWord (r : Raw) : Raw.ofWord r.toWord = r := by
  obtain ⟨g, f, st, sb, sw, k, area⟩ := r
  have hw := Raw.toNat_toWord ⟨g, f, st, sb, sw, k, area⟩
  have := g.isLt; have := f.isLt; have := st.isLt; have := sb.isLt; have := sw.isLt; have := k.isLt; have := area.isLt
  simp only at hw
  simp only [Raw.ofWord, Raw.mk.injEq, ← toNat_inj, toNat_extract]
  omega

theorem toNat_lt_of_top {w : Word} (h : w.getLsbD 63 = false) : w.toNat < 2 ^ 63 := by
  have := w.isLt
  simp [BitVec.getLsbD, Nat.testBit_eq_decide_div_mod_eq] at h
  omega

theorem Raw.toWord_ofWord {w : Word} (h : w.getLsbD 63 = false) : (Raw.ofWord w).toWord = w := by
  have := toNat_lt_of_top h
  simp only [← toNat_inj, Raw.toNat_toWord, Raw.ofWord, toNat_extract]
  omega

theorem Raw.toWord_top (r : Raw) : r.toWord.getLsbD 63 = false := by
  have h : r.toWord.toNat < 2 ^ 63 := by
    rw [Raw.toNat_toWord]
    have := r.g.isLt; have := r.f.isLt; have := r.stall.isLt; have := r.sbset.isLt; have := r.sbwait.isLt; have := r.k.isLt
    have := r.area.isLt
    omega
  exact Nat.testBit_lt_two_pow h

/-! ## What the parts of a decoder accept -/

@[simp] theorem except_bind_eq_ok {ε α β : Type} {x : Except ε α} {f : α → Except ε β} {y : β} :
    (x >>= f) = .ok y ↔ ∃ a, x = .ok a ∧ f a = .ok y := by
  cases x <;> simp [bind, Except.bind]

@[simp] theorem except_map_eq_ok {ε α β : Type} {x : Except ε α} {f : α → β} {y : β} : f <$> x = .ok y ↔ ∃ a, x = .ok a ∧ f a = y := by
  cases x <;> simp [Functor.map, Except.map]

@[simp] theorem except_pure_eq_ok {ε α : Type} {x y : α} : (pure x : Except ε α) = .ok y ↔ x = y := by simp [pure, Except.pure]
@[simp] theorem need_eq_ok {e : Reject} {c : Bool} {u : Unit} : need e c = .ok u ↔ c = true := by
  cases c <;> simp [need]

@[simp] theorem zero_eq_ok {n : Nat} {x : BitVec n} {u : Unit} : zero x = .ok u ↔ x.toNat = 0 := by
  simp [zero, ← toNat_inj]

@[simp] theorem code_eq_ok {α : Type} {x : Option α} {y : α} : code x = .ok y ↔ x = some y := by cases x <;> simp [code]
@[simp] theorem checked_eq_ok {i j : Instr} : checked i = .ok j ↔ i = j ∧ j.wf = true := by
  unfold checked; split <;> grind

theorem ofFin_eq_ok {n : Nat} {x : BitVec 9} {r : Fin n} {e : Reject} :
    (if h : x.toNat < n then Except.ok ⟨x.toNat, h⟩ else .error e) = .ok r ↔ x.toNat = r.val := by
  have hr := r.isLt
  split
  · simp [Fin.ext_iff]
  · simp; omega

@[simp] theorem gOf_eq_ok {x : BitVec 9} {r : GReg} : gOf x = .ok r ↔ x.toNat = r.val := ofFin_eq_ok
@[simp] theorem vOf_eq_ok {x : BitVec 9} {r : VReg} : vOf x = .ok r ↔ x.toNat = r.val := ofFin_eq_ok
@[simp] theorem kOf_eq_ok {x : BitVec 9} {r : KReg} : kOf x = .ok r ↔ x.toNat = r.val := ofFin_eq_ok
theorem fld_toNat {n : Nat} (hn : n ≤ 512) (r : Fin n) : (fld r).toNat = r.val := by
  have := r.isLt
  rw [fld, toNat_ofNat, Nat.mod_eq_of_lt (by omega)]

@[simp] theorem fld_gReg (r : GReg) : (fld r).toNat = r.val := fld_toNat (by decide) r
@[simp] theorem fld_vReg (r : VReg) : (fld r).toNat = r.val := fld_toNat (by decide) r
@[simp] theorem fld_kReg (r : KReg) : (fld r).toNat = r.val := fld_toNat (by decide) r
@[simp] theorem guardOf_val (x : BitVec 4) : (guardOf x).val = x.toNat := rfl
@[simp] theorem guardOf_eq {x : BitVec 4} {k : KReg} : guardOf x = k ↔ x.toNat = k.val := Fin.ext_iff
@[simp] theorem kfld_toNat (k : KReg) : (kfld k).toNat = k.val := by simp [kfld]
@[simp] theorem vsrcOf_eq_ok {x : BitVec 1} {b : BitVec 9} {v : VSrc} : vsrcOf x b = .ok v ↔ x.toNat = v.sb ∧ b.toNat = v.fld.toNat := by
  obtain h | h := BitVec.eq_zero_or_eq_one x <;> subst h <;> cases v <;> simp [vsrcOf, VSrc.sb, VSrc.fld]

/-- The SB bit as a number of a finite type. -/
def VSrc.sbNum (v : VSrc) : Fin 2 := ⟨v.sb, by cases v <;> simp [VSrc.sb]⟩
@[simp] theorem VSrc.sb_eq_num (v : VSrc) : v.sb = v.sbNum.val := rfl
@[simp] theorem imm17_toNat (x : Nat) : (imm17 x).toNat = x % 2 ^ 17 := toNat_ofNat ..
@[simp] theorem mb_eq (b : Bool) (n : Nat) : mb b n = 2 ^ n * (bit1 b).toNat := by cases b <;> simp [mb, bit1]
@[simp] theorem bit1_beq_one (x : BitVec 1) : (bit1 (x == 1#1)).toNat = x.toNat := by
  obtain h | h := BitVec.eq_zero_or_eq_one x <;> subst h <;> rfl

@[simp] theorem beq_one_eq {x : BitVec 1} {b : Bool} : (x == 1#1) = b ↔ x.toNat = (bit1 b).toNat := by
  obtain h | h := BitVec.eq_zero_or_eq_one x <;> subst h <;> cases b <;> simp [bit1]

@[simp] theorem eq_one_iff {x : BitVec 1} : x = 1#1 ↔ x.toNat = 1 := toNat_inj.symm
@[simp] theorem eq_zero_iff {x : BitVec 1} : x = 0#1 ↔ x.toNat = 0 := toNat_inj.symm
@[simp] theorem extractLsb'_toNat_eq {w : Nat} (x : BitVec w) (i n : Nat) : (x.extractLsb' i n).toNat = x.toNat / 2 ^ i % 2 ^ n :=
  toNat_extract x i n

@[simp] theorem Raw.area_eq_areaA {r : Raw} {d a b : BitVec 9} {m : BitVec 8} :
    r.area = areaA d a b m ↔ r.d.toNat = d.toNat ∧ r.a.toNat = a.toNat ∧ r.b.toNat = b.toNat ∧ r.m.toNat = m.toNat := by
  simp only [toNat_inj, Raw.area_eq_areaA_iff]

@[simp] theorem Raw.area_eq_areaI {r : Raw} {d a : BitVec 9} {imm : BitVec 17} :
    r.area = areaI d a imm ↔ r.d.toNat = d.toNat ∧ r.a.toNat = a.toNat ∧ r.imm.toNat = imm.toNat := by
  simp only [toNat_inj, Raw.area_eq_areaI_iff]

@[simp] theorem Raw.area_eq_areaL {r : Raw} {d : BitVec 6} {imm : BitVec 29} :
    r.area = areaL d imm ↔ r.area.toNat / 2 ^ 29 % 2 ^ 6 = d.toNat ∧ r.area.toNat % 2 ^ 29 = imm.toNat := by
  rw [← toNat_inj, areaL_toNat]
  have := r.area.isLt; have := imm.isLt
  omega

@[simp] theorem Raw.area_eq_zero {r : Raw} : r.area.toNat = 0 ↔ r.d.toNat = 0 ∧ r.a.toNat = 0 ∧ r.b.toNat = 0 ∧ r.m.toNat = 0 := by
  have := r.area.isLt
  simp only [Raw.d, Raw.a, Raw.b, Raw.m, toNat_extract]
  omega

end Sys2Proof
end

section
/-!
Codec, codes: the tables of codes as numbers; when an instruction fits the fields of a word, and what a decoder answers.
-/
namespace Sys2Proof
open BitVec
set_option linter.unusedSimpArgs false
-- One theorem after the other: each thread that waits for another keeps its stack.
set_option Elab.async false

/-! ## The code tables

Each code has one meaning and each meaning one code (`…Of_eq_some`, or `…Of_eq` where every value of the field is a code). A code
is written as the number `num` of a finite type, so that `omega` knows that it fits its field. -/

def Scope.num (y : Scope) : Fin 8 := ⟨y.code, by cases y <;> decide⟩
@[simp] theorem Scope.code_eq_num (y : Scope) : y.code = y.num.val := rfl
@[simp] theorem scopeOf_eq_some {x : Nat} {y : Scope} : scopeOf x = some y ↔ x = y.num.val := by
  unfold scopeOf; split <;> cases y <;> simp_all [Scope.num, Scope.code]

def AmofOp.num (y : AmofOp) : Fin 8 := ⟨y.code, by cases y <;> decide⟩
@[simp] theorem AmofOp.code_eq_num (y : AmofOp) : y.code = y.num.val := rfl
@[simp] theorem amofOpOf_eq_some {x : Nat} {y : AmofOp} : amofOpOf x = some y ↔ x = y.num.val := by
  unfold amofOpOf; split <;> cases y <;> simp_all [AmofOp.num, AmofOp.code]

def TlbKind.num (y : TlbKind) : Fin 4 := ⟨y.code, by cases y <;> decide⟩
@[simp] theorem TlbKind.code_eq_num (y : TlbKind) : y.code = y.num.val := rfl
@[simp] theorem tlbKindOf_eq_some {x : Nat} {y : TlbKind} : tlbKindOf x = some y ↔ x = y.num.val := by
  unfold tlbKindOf; split <;> cases y <;> simp_all [TlbKind.num, TlbKind.code]

def Policy.num (y : Policy) : Fin 4 := ⟨y.code, by cases y <;> decide⟩
@[simp] theorem Policy.code_eq_num (y : Policy) : y.code = y.num.val := rfl
@[simp] theorem policyOf_eq_some {x : Nat} {y : Policy} : policyOf x = some y ↔ x = y.num.val := by
  unfold policyOf; split <;> cases y <;> simp_all [Policy.num, Policy.code]

def CapField.num (y : CapField) : Fin 8 := ⟨y.code, by cases y <;> decide⟩
@[simp] theorem CapField.code_eq_num (y : CapField) : y.code = y.num.val := rfl
@[simp] theorem capFieldOf_eq_some {x : Nat} {y : CapField} : capFieldOf x = some y ↔ x = y.num.val := by
  unfold capFieldOf; split <;> cases y <;> simp_all [CapField.num, CapField.code]

def VType.num (y : VType) : Fin 8 := ⟨y.code, by cases y <;> decide⟩
@[simp] theorem VType.code_eq_num (y : VType) : y.code = y.num.val := rfl
@[simp] theorem vTypeOf_eq_some {x : Nat} {y : VType} : vTypeOf x = some y ↔ x = y.num.val := by
  unfold vTypeOf; split <;> cases y <;> simp_all [VType.num, VType.code]

def VCond.num (y : VCond) : Fin 8 := ⟨y.code, by cases y <;> decide⟩
@[simp] theorem VCond.code_eq_num (y : VCond) : y.code = y.num.val := rfl
@[simp] theorem vCondOf_eq_some {x : Nat} {y : VCond} : vCondOf x = some y ↔ x = y.num.val := by
  unfold vCondOf; split <;> cases y <;> simp_all [VCond.num, VCond.code]

def Rm.num (y : Rm) : Fin 8 := ⟨y.code, by cases y <;> decide⟩
@[simp] theorem Rm.code_eq_num (y : Rm) : y.code = y.num.val := rfl
@[simp] theorem rmOf_eq_some {x : Nat} {y : Rm} : rmOf x = some y ↔ x = y.num.val := by
  unfold rmOf; split <;> cases y <;> simp_all [Rm.num, Rm.code]

def Fmt.num (y : Fmt) : Fin 16 := ⟨y.code, by cases y <;> decide⟩
@[simp] theorem Fmt.code_eq_num (y : Fmt) : y.code = y.num.val := rfl
@[simp] theorem fmtOf_eq_some {x : Nat} {y : Fmt} : fmtOf x = some y ↔ x = y.num.val := by
  unfold fmtOf; split <;> cases y <;> simp_all [Fmt.num, Fmt.code]

def MType.num (y : MType) : Fin 8 := ⟨y.code, by cases y <;> decide⟩
@[simp] theorem MType.code_eq_num (y : MType) : y.code = y.num.val := rfl
@[simp] theorem mTypeOf_eq_some {x : Nat} {y : MType} : mTypeOf x = some y ↔ x = y.num.val := by
  unfold mTypeOf; split <;> cases y <;> simp_all [MType.num, MType.code]

def ScanOp.num (y : ScanOp) : Fin 8 := ⟨y.code, by cases y <;> decide⟩
@[simp] theorem ScanOp.code_eq_num (y : ScanOp) : y.code = y.num.val := rfl
@[simp] theorem scanOpOf_eq_some {x : Nat} {y : ScanOp} : scanOpOf x = some y ↔ x = y.num.val := by
  unfold scanOpOf; split <;> cases y <;> simp_all [ScanOp.num, ScanOp.code]

def ScanType.num (y : ScanType) : Fin 4 := ⟨y.code, by cases y <;> decide⟩
@[simp] theorem ScanType.code_eq_num (y : ScanType) : y.code = y.num.val := rfl
@[simp] theorem scanTypeOf_eq_some {x : Nat} {y : ScanType} : scanTypeOf x = some y ↔ x = y.num.val := by
  unfold scanTypeOf; split <;> cases y <;> simp_all [ScanType.num, ScanType.code]

def BsTarget.num (y : BsTarget) : Fin 16 := ⟨y.code, by cases y <;> decide⟩
@[simp] theorem BsTarget.code_eq_num (y : BsTarget) : y.code = y.num.val := rfl
@[simp] theorem bsTargetOf_eq_some {x : Nat} {y : BsTarget} : bsTargetOf x = some y ↔ x = y.num.val := by
  unfold bsTargetOf; split <;> cases y <;> simp_all [BsTarget.num, BsTarget.code]

def MqWhat.num (y : MqWhat) : Fin 8 := ⟨y.code, by cases y <;> decide⟩
@[simp] theorem MqWhat.code_eq_num (y : MqWhat) : y.code = y.num.val := rfl
@[simp] theorem mqWhatOf_eq_some {x : Nat} {y : MqWhat} : mqWhatOf x = some y ↔ x = y.num.val := by
  unfold mqWhatOf; split <;> cases y <;> simp_all [MqWhat.num, MqWhat.code]

def IdWhat.num (y : IdWhat) : Fin 8 := ⟨y.code, by cases y <;> decide⟩
@[simp] theorem IdWhat.code_eq_num (y : IdWhat) : y.code = y.num.val := rfl
@[simp] theorem idWhatOf_eq_some {x : Nat} {y : IdWhat} : idWhatOf x = some y ↔ x = y.num.val := by
  unfold idWhatOf; split <;> cases y <;> simp_all [IdWhat.num, IdWhat.code]

def LdType.num (y : LdType) : Fin 8 := ⟨y.code, by cases y <;> decide⟩
@[simp] theorem LdType.code_eq_num (y : LdType) : y.code = y.num.val := rfl
@[simp] theorem num_ldTypeOf (x : Nat) : (ldTypeOf (x % 8)).num.val = x % 8 :=
  (by decide : ∀ x < 8, (ldTypeOf x).num.val = x) _ (Nat.mod_lt _ (by decide))

@[simp] theorem ldTypeOf_eq {x : Nat} {y : LdType} : ldTypeOf (x % 8) = y ↔ x % 8 = y.num.val :=
  ⟨fun h => h ▸ (num_ldTypeOf x).symm, fun h => h ▸ (by cases y <;> rfl : ldTypeOf y.code = y)⟩

def AmoOp.num (y : AmoOp) : Fin 8 := ⟨y.code, by cases y <;> decide⟩
@[simp] theorem AmoOp.code_eq_num (y : AmoOp) : y.code = y.num.val := rfl
@[simp] theorem num_amoOpOf (x : Nat) : (amoOpOf (x % 8)).num.val = x % 8 :=
  (by decide : ∀ x < 8, (amoOpOf x).num.val = x) _ (Nat.mod_lt _ (by decide))

@[simp] theorem amoOpOf_eq {x : Nat} {y : AmoOp} : amoOpOf (x % 8) = y ↔ x % 8 = y.num.val :=
  ⟨fun h => h ▸ (num_amoOpOf x).symm, fun h => h ▸ (by cases y <;> rfl : amoOpOf y.code = y)⟩

def FenceKind.num (y : FenceKind) : Fin 4 := ⟨y.code, by cases y <;> decide⟩
@[simp] theorem FenceKind.code_eq_num (y : FenceKind) : y.code = y.num.val := rfl
@[simp] theorem num_fenceKindOf (x : Nat) : (fenceKindOf (x % 4)).num.val = x % 4 :=
  (by decide : ∀ x < 4, (fenceKindOf x).num.val = x) _ (Nat.mod_lt _ (by decide))

@[simp] theorem fenceKindOf_eq {x : Nat} {y : FenceKind} : fenceKindOf (x % 4) = y ↔ x % 4 = y.num.val :=
  ⟨fun h => h ▸ (num_fenceKindOf x).symm, fun h => h ▸ (by cases y <;> rfl : fenceKindOf y.code = y)⟩

def FCond.num (y : FCond) : Fin 8 := ⟨y.code, by cases y <;> decide⟩
@[simp] theorem FCond.code_eq_num (y : FCond) : y.code = y.num.val := rfl
@[simp] theorem num_fCondOf (x : Nat) : (fCondOf (x % 8)).num.val = x % 8 :=
  (by decide : ∀ x < 8, (fCondOf x).num.val = x) _ (Nat.mod_lt _ (by decide))

@[simp] theorem fCondOf_eq {x : Nat} {y : FCond} : fCondOf (x % 8) = y ↔ x % 8 = y.num.val :=
  ⟨fun h => h ▸ (num_fCondOf x).symm, fun h => h ▸ (by cases y <;> rfl : fCondOf y.code = y)⟩

def PackType.num (y : PackType) : Fin 4 := ⟨y.code, by cases y <;> decide⟩
@[simp] theorem PackType.code_eq_num (y : PackType) : y.code = y.num.val := rfl
@[simp] theorem num_packTypeOf (x : Nat) : (packTypeOf (x % 4)).num.val = x % 4 :=
  (by decide : ∀ x < 4, (packTypeOf x).num.val = x) _ (Nat.mod_lt _ (by decide))

@[simp] theorem packTypeOf_eq {x : Nat} {y : PackType} : packTypeOf (x % 4) = y ↔ x % 4 = y.num.val :=
  ⟨fun h => h ▸ (num_packTypeOf x).symm, fun h => h ▸ (by cases y <;> rfl : packTypeOf y.code = y)⟩

def RkWhat.num (y : RkWhat) : Fin 4 := ⟨y.code, by cases y <;> decide⟩
@[simp] theorem RkWhat.code_eq_num (y : RkWhat) : y.code = y.num.val := rfl
@[simp] theorem num_rkWhatOf (x : Nat) : (rkWhatOf (x % 4)).num.val = x % 4 :=
  (by decide : ∀ x < 4, (rkWhatOf x).num.val = x) _ (Nat.mod_lt _ (by decide))

@[simp] theorem rkWhatOf_eq {x : Nat} {y : RkWhat} : rkWhatOf (x % 4) = y ↔ x % 4 = y.num.val :=
  ⟨fun h => h ▸ (num_rkWhatOf x).symm, fun h => h ▸ (by cases y <;> rfl : rkWhatOf y.code = y)⟩

def SdWhat.num (y : SdWhat) : Fin 8 := ⟨y.code, by cases y <;> decide⟩
@[simp] theorem SdWhat.code_eq_num (y : SdWhat) : y.code = y.num.val := rfl
@[simp] theorem num_sdWhatOf (x : Nat) : (sdWhatOf (x % 8)).num.val = x % 8 :=
  (by decide : ∀ x < 8, (sdWhatOf x).num.val = x) _ (Nat.mod_lt _ (by decide))

@[simp] theorem sdWhatOf_eq {x : Nat} {y : SdWhat} : sdWhatOf (x % 8) = y ↔ x % 8 = y.num.val :=
  ⟨fun h => h ▸ (num_sdWhatOf x).symm, fun h => h ▸ (by cases y <;> rfl : sdWhatOf y.code = y)⟩

theorem Order.code_lt (y : Order) : y.code < 16 := by
  obtain _ | s | s | s := y <;> [decide; (cases s <;> decide); (cases s <;> decide); (cases s <;> decide)]

theorem orderOf_code (y : Order) : orderOf y.code = y := by
  obtain _ | s | s | s := y <;> [rfl; (cases s <;> rfl); (cases s <;> rfl); (cases s <;> rfl)]

def Order.num (y : Order) : Fin 16 := ⟨y.code, y.code_lt⟩
@[simp] theorem Order.code_eq_num (y : Order) : y.code = y.num.val := rfl
@[simp] theorem num_orderOf (x : Nat) : (orderOf (x % 16)).num.val = x % 16 :=
  (by decide : ∀ x < 16, (orderOf x).num.val = x) _ (Nat.mod_lt _ (by decide))

@[simp] theorem orderOf_eq {x : Nat} {y : Order} : orderOf (x % 16) = y ↔ x % 16 = y.num.val :=
  ⟨fun h => h ▸ (num_orderOf x).symm, fun h => h ▸ (orderOf_code y : orderOf y.code = y)⟩

@[simp] theorem atSizeOf_eq {b : Bool} {y : AtSize} : atSizeOf b = y ↔ b = y.bit := by cases b <;> cases y <;> simp [atSizeOf, AtSize.bit]
@[simp] theorem bit_atSizeOf (b : Bool) : (atSizeOf b).bit = b := by cases b <;> rfl

/-! ## Fields and instructions -/

/-- The fields of `r` are those of an encoding. -/
def Raw.Has (r : Raw) (e : Enc) : Prop := r.g.toNat = e.g ∧ r.f.toNat = e.f ∧ r.k.toNat = e.k.toNat ∧ r.area = e.area
/-- Instruction `i` is well formed and its fields are those of `r`. -/
def Fits (r : Raw) (i : Instr) : Prop := i.wf = true ∧ i.enc = some ⟨r.g.toNat, r.f.toNat, r.k, r.area⟩
/-- Whatever the decoder `x` answers fits `r`. -/
def Answers (r : Raw) (x : Except Reject Instr) : Prop := ∀ i, x = .ok i → Fits r i
/-- All fields that `i` fits decode to it. -/
def Decodes (i : Instr) : Prop := ∀ r, Fits r i → decodeFull r = .ok i

theorem fits_iff {r : Raw} {i : Instr} {e : Enc} (he : i.enc = some e) : Fits r i ↔ i.wf = true ∧ r.Has e := by
  obtain ⟨g, f, k, a⟩ := e
  simp only [Fits, he, Option.some.injEq, Enc.mk.injEq, Raw.Has, toNat_inj, eq_comm]

theorem decodes_of {i : Instr} {e : Enc} (he : i.enc = some e)
    (h : ∀ r : Raw, i.wf = true → r.g.toNat = e.g → r.f.toNat = e.f → r.k.toNat = e.k.toNat → r.area = e.area → decodeFull r = .ok i) :
    Decodes i := fun r hr => by
  obtain ⟨hw, hg, hf, hk, ha⟩ := (fits_iff he).1 hr
  exact h r hw hg hf hk ha

@[simp] theorem answers_error {r : Raw} {e : Reject} : Answers r (.error e) := nofun
@[simp] theorem answers_pure {r : Raw} {i : Instr} : Answers r (pure i) ↔ Fits r i := by simp [Answers]
@[simp] theorem answers_checked {r : Raw} {i : Instr} : Answers r (checked i) ↔ (i.wf = true → Fits r i) := by
  simp only [Answers, checked_eq_ok]
  exact ⟨fun h hw => h i ⟨rfl, hw⟩, fun h j ⟨hj, hw⟩ => hj ▸ h (hj ▸ hw)⟩

@[simp] theorem answers_bind {α : Type} {r : Raw} {x : Except Reject α} {f : α → Except Reject Instr} :
    Answers r (x >>= f) ↔ ∀ a, x = .ok a → Answers r (f a) := by
  simp only [Answers, except_bind_eq_ok]
  exact ⟨fun h a ha i hi => h i ⟨a, ha, hi⟩, fun h i ⟨a, ha, hi⟩ => h a ha i hi⟩

@[simp] theorem answers_map {α : Type} {r : Raw} {x : Except Reject α} {f : α → Instr} :
    Answers r (f <$> x) ↔ ∀ a, x = .ok a → Fits r (f a) := by
  simp [Answers]

@[simp] theorem answers_ite {r : Raw} {c : Prop} [Decidable c] {x y : Except Reject Instr} :
    Answers r (if c then x else y) ↔ (c → Answers r x) ∧ (¬c → Answers r y) := by
  split <;> simp [*]

end Sys2Proof
end

section
/-!
Codec, soundness: whatever the decoder of a group answers is well formed and fits the fields it read.
-/
namespace Sys2Proof
open BitVec
set_option linter.unusedSimpArgs false
-- One theorem after the other: each thread that waits for another keeps its stack.
set_option Elab.async false

theorem fits_of {r : Raw} {i : Instr} {e : Enc} (he : i.enc = some e) (hw : i.wf = true := by trivial)
    (h : r.Has e := by simp [Raw.Has]; omega) : Fits r i := (fits_iff he).2 ⟨hw, h⟩
section
variable {r : Raw}
theorem decSYS_answers (hg : r.g.toNat = 0) : Answers r (decSYS r) := by
  have hm := r.m.isLt
  have hb := r.b.isLt
  have hi := r.imm.isLt
  unfold decSYS
  split
  case h_10 => simp; intros; constructor <;> intros <;> exact fits_of rfl
  case h_13 => 
    simp
    intro _ _ _ _ b _
    by_cases h : b = 0 <;> simp [h] <;> intros
    · subst h; exact fits_of rfl
    · exact fits_of (e := ⟨_, _, _, _⟩) (if_neg h) (decide_eq_true h)
  case h_15 => 
    have hx := Nat.mod_lt r.m.toNat (show 0 < 4 by decide)
    simp
    interval_cases h : r.m.toNat % 4 <;> simp <;> intros <;> exact fits_of rfl
  all_goals simp [noOps, gg] <;> intros <;> exact fits_of rfl

theorem decCTL_answers (hg : r.g.toNat = 1) : Answers r (decCTL r) := by
  have hm := r.m.isLt
  have hb := r.b.isLt
  have hi := r.imm.isLt
  unfold decCTL
  split <;> simp [noOps] <;> intros <;> exact fits_of rfl

theorem decSTRM_answers (hg : r.g.toNat = 2) : Answers r (decSTRM r) := by
  have hm := r.m.isLt
  have hb := r.b.isLt
  have hi := r.imm.isLt
  unfold decSTRM
  split <;> simp [noOps, ggg] <;> intros <;> exact fits_of rfl

theorem decINT_answers (hg : r.g.toNat = 3) : Answers r (decINT r) := by
  have hm := r.m.isLt
  have hb := r.b.isLt
  have hi := r.imm.isLt
  unfold decINT
  split <;> simp [gggSh, ggg, ggi, gg6, gi, gg, intUn] <;> intros <;> exact fits_of rfl

theorem decCAP_answers (hg : r.g.toNat = 4) : Answers r (decCAP r) := by
  have hm := r.m.isLt
  have hb := r.b.isLt
  have hi := r.imm.isLt
  unfold decCAP
  split <;> simp [ggg, gg, ggi] <;> intros <;> exact fits_of rfl

theorem decLDS_answers (hg : r.g.toNat = 5) : Answers r (decLDS r) := by
  have hm := r.m.isLt
  have hb := r.b.isLt
  have hi := r.imm.isLt
  unfold decLDS
  split <;> simp [ggi] <;> intros <;> exact fits_of rfl

theorem decATM_answers (hg : r.g.toNat = 6) : Answers r (decATM r) := by
  have hm := r.m.isLt
  have hb := r.b.isLt
  have hi := r.imm.isLt
  unfold decATM
  split <;> simp [amoM, sizeScope] <;> intros <;> exact fits_of rfl

theorem decSYN_answers (hg : r.g.toNat = 7) : Answers r (decSYN r) := by
  have hm := r.m.isLt
  have hb := r.b.isLt
  have hi := r.imm.isLt
  unfold decSYN
  split <;> simp [sizeScope] <;> intros <;> exact fits_of rfl

theorem decMSK_answers (hg : r.g.toNat = 8) : Answers r (decMSK r) := by
  have hm := r.m.isLt
  have hb := r.b.isLt
  have hi := r.imm.isLt
  unfold decMSK
  split
  case h_6 => simp; intros; split <;> simp <;> intros <;> exact fits_of rfl
  all_goals simp [kkk] <;> intros <;> exact fits_of rfl

theorem decVINT_answers (hg : r.g.toNat = 9) : Answers r (decVINT r) := by
  have hm := r.m.isLt
  have hb := r.b.isLt
  have hi := r.imm.isLt
  unfold decVINT
  split
  case h_15 => simp; intro _ ty _ hty; cases ty <;> simp [VType.is32, VType.num, VType.code] at * <;> intros <;> exact fits_of rfl
  case h_22 => simp; intros; exact fits_of rfl
  all_goals simp [vint2, vint1] <;> intros <;> exact fits_of rfl

theorem decVFP_answers (hg : r.g.toNat = 10) : Answers r (decVFP r) := by
  have hm := r.m.isLt
  have hb := r.b.isLt
  have hi := r.imm.isLt
  unfold decVFP
  split <;> simp [vfpRm, vfpNum, kvv] <;> intros <;> exact fits_of rfl

theorem decVSFU_answers (hg : r.g.toNat = 11) : Answers r (decVSFU r) := by
  have hm := r.m.isLt
  have hb := r.b.isLt
  have hi := r.imm.isLt
  unfold decVSFU
  split <;> simp [kvv] <;> intros <;> exact fits_of rfl

theorem decVCVT_answers (hg : r.g.toNat = 12) : Answers r (decVCVT r) := by
  have hm := r.m.isLt
  have hb := r.b.isLt
  have hi := r.imm.isLt
  unfold decVCVT
  split
  case h_5 => simp; intros; constructor <;> intros <;> exact fits_of rfl
  all_goals simp <;> intros <;> exact fits_of rfl

theorem decVMEM_answers (hg : r.g.toNat = 13) : Answers r (decVMEM r) := by
  have hm := r.m.isLt
  have hb := r.b.isLt
  have hi := r.imm.isLt
  unfold decVMEM
  split <;> simp [kvgg, kvggT, kvvgT] <;> intros <;> exact fits_of rfl

theorem decVPERM_answers (hg : r.g.toNat = 14) : Answers r (decVPERM r) := by
  have hm := r.m.isLt
  have hb := r.b.isLt
  have hi := r.imm.isLt
  unfold decVPERM
  split
  case h_2 => simp; intros; split <;> simp <;> intros <;> exact fits_of rfl
  case h_3 => simp; intros; constructor <;> intros <;> exact fits_of rfl
  case h_4 => simp; intros; constructor <;> intros <;> exact fits_of rfl
  case h_9 => simp [scanM]; intros; split <;> simp <;> intros <;> exact fits_of rfl
  all_goals simp [scanM] <;> intros <;> exact fits_of rfl

theorem decVDOT_answers (hg : r.g.toNat = 15) : Answers r (decVDOT r) := by
  have hm := r.m.isLt
  have hb := r.b.isLt
  have hi := r.imm.isLt
  unfold decVDOT
  split <;> simp <;> intros <;> exact fits_of rfl

theorem decMTX_answers (hg : r.g.toNat = 16) : Answers r (decMTX r) := by
  have hm := r.m.isLt
  have hb := r.b.isLt
  have hi := r.imm.isLt
  unfold decMTX
  split <;> simp [ggg, gxg] <;> intros <;> exact fits_of rfl

theorem decRANK_answers (hg : r.g.toNat = 17) : Answers r (decRANK r) := by
  have hm := r.m.isLt
  have hb := r.b.isLt
  have hi := r.imm.isLt
  unfold decRANK
  split
  case h_7 => simp; intros; constructor <;> intros <;> exact fits_of rfl
  all_goals simp <;> intros <;> exact fits_of rfl

theorem decENG_answers (hg : r.g.toNat = 18) : Answers r (decENG r) := by
  have hm := r.m.isLt
  have hb := r.b.isLt
  have hi := r.imm.isLt
  unfold decENG
  split <;> simp [ggg, gg] <;> intros <;> exact fits_of rfl

theorem decTASK_answers (hg : r.g.toNat = 19) : Answers r (decTASK r) := by
  have hm := r.m.isLt
  have hb := r.b.isLt
  have hi := r.imm.isLt
  unfold decTASK
  split
  case h_10 => simp; intros; constructor <;> intros <;> exact fits_of rfl
  all_goals simp [noOps, ggg, gg, gxg] <;> intros <;> exact fits_of rfl

theorem decSTEP_answers (hg : r.g.toNat = 20) : Answers r (decSTEP r) := by
  have hm := r.m.isLt
  have hb := r.b.isLt
  have hi := r.imm.isLt
  unfold decSTEP
  split
  case h_5 => simp; intros; constructor <;> intros <;> exact fits_of rfl
  all_goals simp [ggg] <;> intros <;> exact fits_of rfl
end

end Sys2Proof
end

section
/-!
Codec, completeness: the fields that an instruction fits decode to it, group by group. The instructions whose fields take a
case split of their own follow the groups.
-/
namespace Sys2Proof
open BitVec
set_option linter.unusedSimpArgs false
-- One theorem after the other: each thread that waits for another keeps its stack.
set_option Elab.async false

@[simp] theorem decodes_SYS :
    Decodes .nop ∧ (∀ n, Decodes (.trap n)) ∧ (∀ n, Decodes (.bkpt n)) ∧ (∀ rpl kill, Decodes (.eret rpl kill)) ∧
    (∀ d sr, Decodes (.mfsr d sr)) ∧ (∀ sr a, Decodes (.mtsr sr a)) ∧ Decodes .isync ∧ Decodes .idle ∧
    (∀ kind scope a b, Decodes (.tlbinv kind scope a b)) ∧ (∀ a b, Decodes (.echk (.mark a b))) ∧ (∀ d b spad, Decodes (.csave d b spad)) ∧
    (∀ d b spad, Decodes (.crest d b spad)) ∧ (∀ d a, Decodes (.hpact d a)) ∧ (∀ d, Decodes (.hpqry d .gen)) ∧
    (∀ d, Decodes (.hpqry d .pend)) ∧ (∀ d, Decodes (.hpqry d .stage)) ∧ (∀ d a, Decodes (.hpqry d (.digest a))) ∧
    (∀ d what, Decodes (.ident d what)) := by
  and_intros
  all_goals
    intros
    refine decodes_of rfl fun r hw hg hf hk ha => ?_
    simp at hg hf hk ha
    simp [decodeFull, hg, decSYS, hf, hw, hk, ha, ← toNat_inj, noOps, gg]
  all_goals omega

@[simp] theorem decodes_CTL :
    (∀ off, Decodes (.br off)) ∧ (∀ a b off, Decodes (.bcc a b off)) ∧ (∀ a b off, Decodes (.bk a b off)) ∧ (∀ off, Decodes (.call off)) ∧
    (∀ a, Decodes (.callr a)) ∧ Decodes .ret ∧ (∀ a, Decodes (.jmpr a)) ∧ (∀ a off, Decodes (.loop a off)) ∧ (∀ n, Decodes (.enter n)) ∧
    Decodes .leave := by
  and_intros
  all_goals
    intros
    refine decodes_of rfl fun r hw hg hf hk ha => ?_
    simp at hg hf hk ha
    simp [decodeFull, hg, decCTL, hf, hw, hk, ha, ← toNat_inj, noOps]
  all_goals omega

@[simp] theorem decodes_STRM :
    (∀ policy d a b, Decodes (.subStream policy d a b)) ∧ (∀ a b off, Decodes (.unsub a b off)) ∧ (∀ d a b, Decodes (.resub d a b)) ∧
    (∀ tag, Decodes (.rdv tag)) ∧ (∀ tag n, Decodes (.rdvh tag n)) ∧ (∀ a j off, Decodes (.brw a j off)) ∧
    (∀ all d a, Decodes (.wvote all d a)) ∧ Decodes .puboff ∧ Decodes .pubon := by
  and_intros
  all_goals
    intros
    refine decodes_of rfl fun r hw hg hf hk ha => ?_
    simp at hg hf hk ha
    simp [decodeFull, hg, decSTRM, hf, hw, hk, ha, ← toNat_inj, noOps, ggg]
  all_goals omega

@[simp] theorem decodes_INT_a :
    (∀ d a b sh, Decodes (.add d a b sh)) ∧ (∀ d a imm, Decodes (.addi d a imm)) ∧ (∀ d a b sh, Decodes (.sub d a b sh)) ∧
    (∀ d a imm, Decodes (.subi d a imm)) ∧ (∀ d a b, Decodes (.mul d a b)) ∧ (∀ d a imm, Decodes (.muli d a imm)) ∧
    (∀ d a b, Decodes (.mulhS d a b)) ∧ (∀ d a imm, Decodes (.mulhiS d a imm)) ∧ (∀ d a b, Decodes (.mulhZ d a b)) ∧
    (∀ d a imm, Decodes (.mulhiZ d a imm)) ∧ (∀ d a b, Decodes (.divS d a b)) ∧ (∀ d a imm, Decodes (.diviS d a imm)) ∧
    (∀ d a b, Decodes (.divZ d a b)) ∧ (∀ d a imm, Decodes (.diviZ d a imm)) ∧ (∀ d a b, Decodes (.remS d a b)) ∧
    (∀ d a imm, Decodes (.remiS d a imm)) ∧ (∀ d a b, Decodes (.remZ d a b)) ∧ (∀ d a imm, Decodes (.remiZ d a imm)) ∧
    (∀ d a b sh, Decodes (.and d a b sh)) ∧ (∀ d a imm, Decodes (.andi d a imm)) ∧ (∀ d a b sh, Decodes (.or d a b sh)) ∧
    (∀ d a imm, Decodes (.ori d a imm)) ∧ (∀ d a b sh, Decodes (.xor d a b sh)) ∧ (∀ d a imm, Decodes (.xori d a imm)) ∧
    (∀ d a b sh, Decodes (.andn d a b sh)) ∧ (∀ d a imm, Decodes (.andni d a imm)) ∧ (∀ d a b, Decodes (.shl d a b)) ∧
    (∀ d a n, Decodes (.shli d a n)) ∧ (∀ d a b, Decodes (.shr d a b)) ∧ (∀ d a n, Decodes (.shri d a n)) ∧
    (∀ d a b, Decodes (.sar d a b)) ∧ (∀ d a n, Decodes (.sari d a n)) := by
  and_intros
  all_goals
    intros
    refine decodes_of rfl fun r hw hg hf hk ha => ?_
    simp at hg hf hk ha
    simp [-extractLsb'_toNat, decodeFull, hg, decINT, hf, hw, hk, ha, ← toNat_inj, gggSh, ggg, ggi, gg6, gi, gg, intUn]
  all_goals omega

@[simp] theorem decodes_INT_b :
    (∀ d a b, Decodes (.rol d a b)) ∧ (∀ d a n, Decodes (.roli d a n)) ∧ (∀ d a b, Decodes (.minS d a b)) ∧
    (∀ d a imm, Decodes (.miniS d a imm)) ∧ (∀ d a b, Decodes (.minZ d a b)) ∧ (∀ d a imm, Decodes (.miniZ d a imm)) ∧
    (∀ d a b, Decodes (.maxS d a b)) ∧ (∀ d a imm, Decodes (.maxiS d a imm)) ∧ (∀ d a b, Decodes (.maxZ d a b)) ∧
    (∀ d a imm, Decodes (.maxiZ d a imm)) ∧ (∀ d a b, Decodes (.sltS d a b)) ∧ (∀ d a imm, Decodes (.sltiS d a imm)) ∧
    (∀ d a b, Decodes (.sltZ d a b)) ∧ (∀ d a imm, Decodes (.sltiZ d a imm)) ∧ (∀ d a b, Decodes (.seq d a b)) ∧
    (∀ d a imm, Decodes (.seqi d a imm)) ∧ (∀ d a, Decodes (.clz d a)) ∧ (∀ d imm, Decodes (.clzi d imm)) ∧ (∀ d a, Decodes (.ctz d a)) ∧
    (∀ d imm, Decodes (.ctzi d imm)) ∧ (∀ d a, Decodes (.popc d a)) ∧ (∀ d imm, Decodes (.popci d imm)) ∧ (∀ d a, Decodes (.brev d a)) ∧
    (∀ d imm, Decodes (.brevi d imm)) ∧ (∀ d a b w sx, Decodes (.bfx d a b w sx)) ∧ (∀ d a pos wm1 sx, Decodes (.bfxi d a pos wm1 sx)) ∧
    (∀ d a b w, Decodes (.bfi d a b w)) ∧ (∀ d a pos wm1, Decodes (.bfii d a pos wm1)) ∧ (∀ d a b, Decodes (.mad d a b)) ∧
    (∀ d a imm, Decodes (.madi d a imm)) ∧ (∀ d a, Decodes (.mov d a)) ∧ (∀ d imm, Decodes (.li d imm)) := by
  and_intros
  all_goals
    intros
    refine decodes_of rfl fun r hw hg hf hk ha => ?_
    simp at hg hf hk ha
    simp [-extractLsb'_toNat, decodeFull, hg, decINT, hf, hw, hk, ha, ← toNat_inj, gggSh, ggg, ggi, gg6, gi, gg, intUn]
  all_goals omega

@[simp] theorem decodes_CAP :
    (∀ d a field, Decodes (.cget d a field)) ∧ (∀ d a b, Decodes (.cseta d a b)) ∧ (∀ d a imm, Decodes (.cadd d a imm)) ∧
    (∀ d a perms, Decodes (.candp d a perms)) ∧ (∀ d a b, Decodes (.cfrom d a b)) ∧ (∀ d a, Decodes (.cclr d a)) ∧
    (∀ d a b, Decodes (.cchk d a b)) ∧ (∀ d a b, Decodes (.gnew d a b)) ∧ (∀ d a, Decodes (.grev d a)) := by
  and_intros
  all_goals
    intros
    refine decodes_of rfl fun r hw hg hf hk ha => ?_
    simp at hg hf hk ha
    simp [decodeFull, hg, decCAP, hf, hw, hk, ha, ← toNat_inj, ggg, gg, ggi]
  all_goals omega

@[simp] theorem decodes_LDS :
    (∀ d a ty off, Decodes (.ld d a ty off)) ∧ (∀ d a ty off, Decodes (.st d a ty off)) ∧ (∀ d a off, Decodes (.ldc d a off)) ∧
    (∀ d a off, Decodes (.stc d a off)) ∧ (∀ d a ty off, Decodes (.lda d a ty off)) ∧ (∀ n, Decodes (.waitld n)) ∧
    (∀ a off, Decodes (.pref a off)) := by
  and_intros
  all_goals
    intros
    refine decodes_of rfl fun r hw hg hf hk ha => ?_
    simp at hg hf hk ha
    simp [decodeFull, hg, decLDS, hf, hw, hk, ha, ← toNat_inj, ggi]
  all_goals omega

@[simp] theorem decodes_ATM :
    (∀ op size order d a b, Decodes (.amo op size order d a b)) ∧ (∀ op order d a b, Decodes (.amof op order d a b)) ∧
    (∀ size order d a b, Decodes (.cas size order d a b)) ∧ (∀ size scope d b, Decodes (.ldaq size scope d b)) ∧
    (∀ size scope a b, Decodes (.strl size scope a b)) ∧ (∀ op size order a b, Decodes (.amonr op size order a b)) := by
  and_intros
  all_goals
    intros
    refine decodes_of rfl fun r hw hg hf hk ha => ?_
    simp at hg hf hk ha
    simp [decodeFull, hg, decATM, hf, hw, hk, ha, ← toNat_inj, amoM, sizeScope]
  all_goals omega

@[simp] theorem decodes_SYN :
    (∀ kind scope, Decodes (.fence kind scope)) ∧ (∀ a bar, Decodes (.binit a bar)) ∧ (∀ a bar, Decodes (.bexp a bar)) ∧
    (∀ d bar, Decodes (.barr d bar)) ∧ (∀ a bar, Decodes (.bwait a bar)) ∧ (∀ size scope d a b, Decodes (.waitm size scope d a b)) ∧
    (∀ async core port a b, Decodes (.msend async core port a b)) ∧ (∀ d port, Decodes (.pget d port)) := by
  and_intros
  all_goals
    intros
    refine decodes_of rfl fun r hw hg hf hk ha => ?_
    simp at hg hf hk ha
    simp [decodeFull, hg, decSYN, hf, hw, hk, ha, ← toNat_inj, sizeScope]
  all_goals omega

@[simp] theorem decodes_MSK :
    (∀ d a b, Decodes (.kand d a b)) ∧ (∀ d a b, Decodes (.kor d a b)) ∧ (∀ d a b, Decodes (.kxor d a b)) ∧
    (∀ d a b, Decodes (.kandn d a b)) ∧ (∀ d a, Decodes (.knot d a)) ∧ (∀ d a, Decodes (.kmov (.kk d a))) ∧
    (∀ d a, Decodes (.kmov (.kg d a))) ∧ (∀ d a, Decodes (.kmov (.gk d a))) ∧ (∀ d a, Decodes (.kpopc d a)) ∧ (∀ d a, Decodes (.kff d a)) ∧
    (∀ d imm, Decodes (.kset d imm)) := by
  and_intros
  all_goals
    intros
    refine decodes_of rfl fun r hw hg hf hk ha => ?_
    simp at hg hf hk ha
    simp [decodeFull, hg, decMSK, hf, hw, hk, ha, ← toNat_inj, kkk]
  all_goals omega

@[simp] theorem decodes_VINT :
    (∀ k d a b ty, Decodes (.vadd k d a b ty)) ∧ (∀ k d a b ty, Decodes (.vsub k d a b ty)) ∧ (∀ k d a b ty, Decodes (.vmul k d a b ty)) ∧
    (∀ k d a b ty, Decodes (.vmulh k d a b ty)) ∧ (∀ k d a b ty, Decodes (.vmad k d a b ty)) ∧ (∀ k d a b ty, Decodes (.vand k d a b ty)) ∧
    (∀ k d a b ty, Decodes (.vor k d a b ty)) ∧ (∀ k d a b ty, Decodes (.vxor k d a b ty)) ∧ (∀ k d a b ty, Decodes (.vshl k d a b ty)) ∧
    (∀ k d a b ty, Decodes (.vshr k d a b ty)) ∧ (∀ k d a b ty, Decodes (.vsar k d a b ty)) ∧ (∀ k d a b ty, Decodes (.vmin k d a b ty)) ∧
    (∀ k d a b ty, Decodes (.vmax k d a b ty)) ∧ (∀ k d a ty, Decodes (.vabs k d a ty)) ∧ (∀ k d a b ty, Decodes (.vsel k d a b ty)) ∧
    (∀ k d a ty, Decodes (.vpopc k d a ty)) ∧ (∀ k d a ty, Decodes (.vclz k d a ty)) ∧ (∀ k d a b ty, Decodes (.vadds k d a b ty)) ∧
    (∀ k d a b ty, Decodes (.vsubs k d a b ty)) ∧ (∀ k d a ty, Decodes (.vmovs k d a ty)) ∧ (∀ k d a n ty, Decodes (.vext k d a n ty)) := by
  and_intros
  all_goals
    intros
    refine decodes_of rfl fun r hw hg hf hk ha => ?_
    simp at hg hf hk ha
    simp [decodeFull, hg, decVINT, hf, hw, hk, ha, ← toNat_inj, vint2, vint1]
  all_goals omega

@[simp] theorem decodes_VFP :
    (∀ k d a b rm, Decodes (.vfadd k d a b rm)) ∧ (∀ k d a b rm, Decodes (.vfsub k d a b rm)) ∧
    (∀ k d a b rm, Decodes (.vfmul k d a b rm)) ∧ (∀ k d a b rm, Decodes (.vfma k d a b rm)) ∧ (∀ k d a b rm, Decodes (.vfms k d a b rm)) ∧
    (∀ k d a b num, Decodes (.vfmin k d a b num)) ∧ (∀ k d a b num, Decodes (.vfmax k d a b num)) ∧ (∀ k d a, Decodes (.vfabs k d a)) ∧
    (∀ k d a, Decodes (.vfneg k d a)) ∧ (∀ k d a b cond, Decodes (.vfcmp k d a b cond)) ∧
    (∀ k d a classes, Decodes (.vfclass k d a classes)) ∧ (∀ k d a b, Decodes (.vfdiv k d a b)) ∧ (∀ k d a, Decodes (.vfsqrt k d a)) := by
  and_intros
  all_goals
    intros
    refine decodes_of rfl fun r hw hg hf hk ha => ?_
    simp at hg hf hk ha
    simp [decodeFull, hg, decVFP, hf, hw, hk, ha, ← toNat_inj, vfpRm, vfpNum, kvv]
  all_goals omega

@[simp] theorem decodes_VSFU :
    (∀ k d a, Decodes (.vrcp k d a)) ∧ (∀ k d a, Decodes (.vrsq k d a)) ∧ (∀ k d a, Decodes (.vexp2 k d a)) ∧
    (∀ k d a, Decodes (.vlog2 k d a)) ∧ (∀ k d a, Decodes (.vsinpi k d a)) ∧ (∀ k d a, Decodes (.vcospi k d a)) ∧
    (∀ k d a, Decodes (.vtanh k d a)) ∧ (∀ k d a, Decodes (.vsigm k d a)) ∧ (∀ k d a, Decodes (.verf k d a)) ∧
    (∀ k d a b, Decodes (.vrng k d a b)) ∧ (∀ k d a, Decodes (.vgumb k d a)) := by
  and_intros
  all_goals
    intros
    refine decodes_of rfl fun r hw hg hf hk ha => ?_
    simp at hg hf hk ha
    simp [decodeFull, hg, decVSFU, hf, hw, hk, ha, ← toNat_inj, kvv]

@[simp] theorem decodes_VCVT :
    (∀ k d a src dst rm sat slot tbl, Decodes (.vcvt k d a src dst rm sat slot tbl)) ∧
    (∀ k d a b dst sat slot, Decodes (.vcvtsr k d a b dst sat slot)) ∧ (∀ k d a ty sat, Decodes (.vpack k d a ty sat)) ∧
    (∀ k d a ty, Decodes (.vunpk k d a ty)) ∧ (∀ k d a rm x, Decodes (.vrint k d a rm x)) ∧
    (∀ k d a target b32, Decodes (.vbscale k d a target b32)) := by
  and_intros
  all_goals
    intros
    refine decodes_of rfl fun r hw hg hf hk ha => ?_
    simp at hg hf hk ha
    simp [decodeFull, hg, decVCVT, hf, hw, hk, ha, ← toNat_inj]
  all_goals omega

@[simp] theorem decodes_VMEM :
    (∀ k d a b, Decodes (.vld k d a b)) ∧ (∀ k d a b, Decodes (.vst k d a b)) ∧ (∀ k d a b ty, Decodes (.vlds k d a b ty)) ∧
    (∀ k d a b ty, Decodes (.vsts k d a b ty)) ∧ (∀ k d a b ty si scale, Decodes (.vgath k d a b ty si scale)) ∧
    (∀ k d a b ty si scale, Decodes (.vscat k d a b ty si scale)) ∧ (∀ k d a b, Decodes (.vcmpst k d a b)) ∧
    (∀ k d a b, Decodes (.vexpld k d a b)) ∧ (∀ k d a b, Decodes (.vlda k d a b)) := by
  and_intros
  all_goals
    intros
    refine decodes_of rfl fun r hw hg hf hk ha => ?_
    simp at hg hf hk ha
    simp [decodeFull, hg, decVMEM, hf, hw, hk, ha, ← toNat_inj, kvgg, kvggT, kvvgT]
  all_goals omega

@[simp] theorem decodes_VPERM :
    (∀ k d a b two, Decodes (.vperm k d a b two)) ∧ (∀ k d a x, Decodes (.vshuf k d a (.xor x))) ∧
    (∀ k d a b, Decodes (.vshuf k d a (.ziplo b))) ∧ (∀ k d a b, Decodes (.vshuf k d a (.ziphi b))) ∧
    (∀ k d a b, Decodes (.vshuf k d a (.unzipe b))) ∧ (∀ k d a b, Decodes (.vshuf k d a (.unzipo b))) ∧
    (∀ k d a n, Decodes (.vrot k d a (.imm n))) ∧ (∀ k d a b, Decodes (.vrot k d a (.g b))) ∧
    (∀ k d a n, Decodes (.vbcst k d (.lane a n))) ∧ (∀ k d b, Decodes (.vbcst k d (.g b))) ∧
    (∀ k d a op ty ex brk, Decodes (.vscan k d a op ty ex brk)) ∧ (∀ k d a b op ty ex brk, Decodes (.vsscan k d a b op ty ex brk)) ∧
    (∀ k d a op ty, Decodes (.vred k d a op ty)) ∧ (∀ d a n, Decodes (.vxchg d a n)) ∧ (∀ k d a z, Decodes (.vcprs k d a z)) ∧
    (∀ k d a z, Decodes (.vexpd k d a z)) ∧ (∀ k d a, Decodes (.vballot k d a)) ∧ (∀ d a, Decodes (.vgetx d a)) ∧
    (∀ d a, Decodes (.vputx d a)) := by
  and_intros
  all_goals
    intros
    refine decodes_of rfl fun r hw hg hf hk ha => ?_
    simp at hg hf hk ha
    simp [decodeFull, hg, decVPERM, hf, hw, hk, ha, ← toNat_inj, scanM]
  all_goals omega

@[simp] theorem decodes_VDOT :
    (∀ k d a b as bs, Decodes (.vdot4 k d a b as bs)) ∧ (∀ k d a b as bs, Decodes (.vdot8 k d a b as bs)) ∧
    (∀ k d a b f16, Decodes (.vdoth k d a b f16)) ∧ (∀ k d a b tbl half, Decodes (.vdott k d a b tbl half)) ∧
    (∀ tbl a, Decodes (.vtblw tbl a)) := by
  and_intros
  all_goals
    intros
    refine decodes_of rfl fun r hw hg hf hk ha => ?_
    simp at hg hf hk ha
    simp [decodeFull, hg, decVDOT, hf, hw, hk, ha, ← toNat_inj]
  all_goals omega

@[simp] theorem decodes_MTX :
    (∀ b, Decodes (.mfmt b)) ∧ (∀ d a b n, Decodes (.mgang d a b n)) ∧ (∀ d a b gang, Decodes (.mpass d a b gang)) ∧
    (∀ d a b, Decodes (.mlist d a b)) ∧ (∀ tile cm1 me, Decodes (.mzero tile cm1 me)) ∧ (∀ d b, Decodes (.mldc d b)) ∧
    (∀ d a b, Decodes (.mstc d a b)) ∧ (∀ n, Decodes (.mwait n)) ∧ (∀ me tbl b, Decodes (.mtbl me tbl b)) ∧
    (∀ d a what clr, Decodes (.mqry d a what clr)) := by
  and_intros
  all_goals
    intros
    refine decodes_of rfl fun r hw hg hf hk ha => ?_
    simp at hg hf hk ha
    simp [decodeFull, hg, decMTX, hf, hw, hk, ha, ← toNat_inj, ggg, gxg]
  all_goals omega

@[simp] theorem decodes_RANK :
    (∀ acc a b, Decodes (.rkinit acc a b)) ∧ (∀ k d b, Decodes (.rkins k d b)) ∧ (∀ a b, Decodes (.rkmrg a b)) ∧
    (∀ bc b, Decodes (.rkchain bc b)) ∧ (∀ d b what, Decodes (.rkflr d b what)) ∧ (∀ k d a b, Decodes (.rkget k d a b)) ∧
    (∀ a, Decodes (.rkbnd (.put a))) ∧ Decodes (.rkbnd .clr) := by
  and_intros
  all_goals
    intros
    refine decodes_of rfl fun r hw hg hf hk ha => ?_
    simp at hg hf hk ha
    simp [decodeFull, hg, decRANK, hf, hw, hk, ha, ← toNat_inj]
  all_goals omega

@[simp] theorem decodes_ENG :
    (∀ d a b, Decodes (.epost d a b)) ∧ (∀ d a, Decodes (.ewait d a)) ∧ (∀ d a, Decodes (.ecan d a)) ∧ (∀ d a, Decodes (.estat d a)) := by
  and_intros
  all_goals
    intros
    refine decodes_of rfl fun r hw hg hf hk ha => ?_
    simp at hg hf hk ha
    simp [decodeFull, hg, decENG, hf, hw, hk, ha, ← toNat_inj, ggg, gg]

@[simp] theorem decodes_TASK :
    Decodes .tend ∧ (∀ d, Decodes (.ttick d)) ∧ (∀ d a b, Decodes (.tspawn d a b)) ∧ (∀ d e, Decodes (.tsig d e)) ∧
    (∀ d a b, Decodes (.fopen d a b)) ∧ (∀ d a, Decodes (.fclose d a)) ∧ (∀ d a, Decodes (.fwait d a)) ∧ (∀ d a, Decodes (.fcan d a)) ∧
    (∀ d a b s w, Decodes (.qenq d a b s w)) ∧ (∀ d b a, Decodes (.qdeq d b (.plain a))) ∧ (∀ d b, Decodes (.qdeq d b .block)) ∧
    (∀ d b s claim, Decodes (.qres d b s claim)) ∧ (∀ d a b, Decodes (.qcmt d a b)) ∧ (∀ d b, Decodes (.qflush d b)) ∧
    (∀ d, Decodes (.tyield d)) := by
  and_intros
  all_goals
    intros
    refine decodes_of rfl fun r hw hg hf hk ha => ?_
    simp at hg hf hk ha
    simp [decodeFull, hg, decTASK, hf, hw, hk, ha, ← toNat_inj, noOps, ggg, gg, gxg]
  all_goals omega

@[simp] theorem decodes_STEP :
    (∀ d a b, Decodes (.ssend d a b)) ∧ (∀ d a b, Decodes (.ssenda d a b)) ∧ (∀ d a dom, Decodes (.sbar d a dom)) ∧
    (∀ d a what, Decodes (.sdom d a what)) ∧ (∀ d, Decodes (.sclk d .read)) ∧ (∀ d a, Decodes (.sclk d (.wait a))) := by
  and_intros
  all_goals
    intros
    refine decodes_of rfl fun r hw hg hf hk ha => ?_
    simp at hg hf hk ha
    simp [decodeFull, hg, decSTEP, hf, hw, hk, ha, ← toNat_inj, ggg]
  all_goals omega

@[simp] theorem decodes_hpload_mem (d b : GReg) : Decodes (.hpload d (.mem b)) := fun r h => by
  have hb : b ≠ 0 := of_decide_eq_true h.1
  have he : (Instr.hpload d (.mem b)).enc = encA 0 0x0C (fld d) 0 (fld b) 0 := if_neg hb
  obtain ⟨-, hg, hf, hk, ha⟩ := (fits_iff he).1 h
  simp at hg hf hk ha
  have hgb : gOf r.b = .ok b := by simp [ha]
  simp [decodeFull, hg, decSYS, hf, hk, ha]
  exact ⟨d, rfl, b, rfl, by simp [hb, ha]⟩

@[simp] theorem decodes_hpload_fetch (d a : GReg) : Decodes (.hpload d (.fetch a)) := by
  refine decodes_of rfl fun r hw hg hf hk ha => ?_
  simp at hg hf hk ha
  simp [decodeFull, hg, decSYS, hf, hk, ha]
  exact ⟨d, rfl, 0, rfl, by simp [ha]⟩

@[simp] theorem decodes_echk_read (d a : GReg) (hi : Bool) : Decodes (.echk (.read d a hi)) := by
  refine decodes_of rfl fun r hw hg hf hk ha => ?_
  simp at hg hf hk ha
  have h : r.m.toNat / 2 % 2 = 0 := by omega
  simp [-extractLsb'_toNat, decodeFull, hg, decSYS, hf, hk, ha.1, ha.2.1, ha.2.2.1, h]
  omega

@[simp] theorem decodes_vcmp (k : KReg) (d : KReg) (a : VReg) (b : VSrc) (c : VCond) (s : Bool) : Decodes (.vcmp k d a b c s) := by
  refine decodes_of rfl fun r hw hg hf hk ha => ?_
  have h5 : VType.s32.num.val = 5 := rfl
  have h4 : VType.z32.num.val = 4 := rfl
  simp at hg hf hk ha
  simp [decodeFull, hg, decVINT, hf, hk]
  refine ⟨by cases s <;> simp at ha <;> omega, if s then .s32 else .z32, ?_⟩
  cases s <;> simp [VType.is32] at ha ⊢ <;> omega

@[simp] theorem decodes_vscale_none (k : KReg) (d a : VReg) (b : VSrc) (inv : Bool) : Decodes (.vscale k d a b inv none) := by
  refine decodes_of rfl fun r hw hg hf hk ha => ?_
  simp at hg hf hk ha
  have h : r.m.toNat % 2 = 0 := by omega
  simp [decodeFull, hg, decVCVT, hf, h]
  omega

@[simp] theorem decodes_vscale_some (k : KReg) (d a : VReg) (b : VSrc) (inv : Bool) (x : BitVec 2) : Decodes (.vscale k d a b inv (some x)) := by
  refine decodes_of rfl fun r hw hg hf hk ha => ?_
  simp at hg hf hk ha
  have h : r.m.toNat % 2 = 1 := by omega
  simp [-extractLsb'_toNat, decodeFull, hg, decVCVT, hf, h, ← toNat_inj]
  omega

@[simp] theorem decodes_vchain (k : KReg) (d a : VReg) (op : ScanOp) (ty : ScanType) (form : ChainForm) : Decodes (.vchain k d a op ty form) := by
  cases form <;> refine decodes_of rfl fun r hw hg hf hk ha => ?_ <;> simp at hg hf hk ha
  case incl =>
    have h : r.m.toNat / 32 % 4 = 0 := by omega
    simp [-extractLsb'_toNat, decodeFull, hg, decVPERM, hf, scanM, h, hw]
    omega
  case excl =>
    have h : r.m.toNat / 32 % 4 = 1 := by omega
    simp [-extractLsb'_toNat, decodeFull, hg, decVPERM, hf, scanM, h, hw]
    omega
  case bc =>
    have h : r.m.toNat / 32 % 4 = 2 := by omega
    simp [-extractLsb'_toNat, decodeFull, hg, decVPERM, hf, scanM, h, hw]
    omega

end Sys2Proof
end

section
/-!
Codec, pairs: the fields of a half (R37, R38).
-/
namespace Sys2Proof
open BitVec
set_option linter.unusedSimpArgs false
-- One theorem after the other: each thread that waits for another keeps its stack.
set_option Elab.async false

/-! ## Halves -/
@[simp] theorem pairNeed_eq_ok {c : Bool} {u : Unit} : pairNeed c = .ok u ↔ c = true := need_eq_ok
@[simp] theorem halfK_eq_ok {x : BitVec 6} {k : KReg} : halfK x = .ok k ↔ x.toNat = k.val := by
  unfold halfK
  have := k.isLt
  split <;> simp [Fin.ext_iff]; omega

@[simp] theorem half6_val (x : BitVec 6) : (half6 x).val = x.toNat := rfl
@[simp] theorem half6_eq {x : BitVec 6} {r : Fin 64} : half6 x = r ↔ x.toNat = r.val := Fin.ext_iff
theorem halfBits_toNat (op d a : Nat) (imm : BitVec 13) :
    (halfBits op d a imm).toNat = op % 64 * 2 ^ 25 + d % 64 * 2 ^ 19 + a % 64 * 2 ^ 13 + imm.toNat := by
  change (BitVec.ofNat 6 op ++ (BitVec.ofNat 6 d ++ (BitVec.ofNat 6 a ++ imm))).toNat = _
  simp only [toNat_append_eq_add, toNat_ofNat]
  omega

theorem eq_halfBits_iff {h : BitVec 31} {op d a : Nat} {imm : BitVec 13} : h = halfBits op d a imm ↔
    (h.extractLsb' 25 6).toNat = op % 64 ∧ (h.extractLsb' 19 6).toNat = d % 64 ∧ (h.extractLsb' 13 6).toNat = a % 64 ∧
      (h.extractLsb' 0 13).toNat = imm.toNat := by
  rw [← toNat_inj, halfBits_toNat]
  have := h.isLt
  have := imm.isLt
  simp
  omega

theorem encHalf_of_decodeHalf {h : BitVec 31} : ∀ {i}, decodeHalf h = .ok i → i.encHalf = some h := by
  have := h.isLt
  unfold decodeHalf
  split <;> rename_i hop <;> simp [← toNat_inj] at hop ⊢ <;> intros <;> (try subst_vars) <;> refine congrArg some (toNat_inj.1 ?_) <;>
    simp [halfBits_toNat] <;> omega

theorem decodeHalf_of_encHalf {h : BitVec 31} {i : Instr} (hi : i.encHalf = some h) : decodeHalf h = .ok i := by
  have := h.isLt
  cases i with
  | hnop | hadd d a | hsub d a | hand d a | hor d a | hxor d a | hshl d a | hshr d a | hmov d a | haddi d a imm | handi d a imm
  | hshli d a n | hshri d a n | hli d imm | hvfadd d a | hvfmul d a | hvmov d a | hkand d a | hkor d a | hld d a imm | hst d a imm =>
    obtain ⟨ho, hd, ha, hm⟩ := eq_halfBits_iff.1 (Option.some.inj hi).symm
    simp at ho hd ha hm
    simp [decodeHalf, ho, hd, ha, hm, ← toNat_inj]
    try omega
  | _ => exact nomatch hi

end Sys2Proof
end

section
/-!
Codec, words: decoder and encoder agree (O59, O60).
-/
namespace Sys2Proof
open BitVec
set_option linter.unusedSimpArgs false
-- One theorem after the other: each thread that waits for another keeps its stack.
set_option Elab.async false

section
variable {r : Raw}

theorem decodeFull_answers : Answers r (decodeFull r) := by
  unfold decodeFull
  split
  case h_1 h => exact decSYS_answers h
  case h_2 h => exact decCTL_answers h
  case h_3 h => exact decSTRM_answers h
  case h_4 h => exact decINT_answers h
  case h_5 h => exact decCAP_answers h
  case h_6 h => exact decLDS_answers h
  case h_7 h => exact decATM_answers h
  case h_8 h => exact decSYN_answers h
  case h_9 h => exact decMSK_answers h
  case h_10 h => exact decVINT_answers h
  case h_11 h => exact decVFP_answers h
  case h_12 h => exact decVSFU_answers h
  case h_13 h => exact decVCVT_answers h
  case h_14 h => exact decVMEM_answers h
  case h_15 h => exact decVPERM_answers h
  case h_16 h => exact decVDOT_answers h
  case h_17 h => exact decMTX_answers h
  case h_18 h => exact decRANK_answers h
  case h_19 h => exact decENG_answers h
  case h_20 h => exact decTASK_answers h
  case h_21 h => exact decSTEP_answers h
  all_goals exact answers_error

/-- The completeness of the decoder: what fits the fields is what they decode to. -/
theorem decodeFull_of_fits {i : Instr} (h : Fits r i) : decodeFull r = .ok i := by
  revert h r
  change Decodes i
  cases i with
  | hnop | hadd | hsub | hand | hor | hxor | hshl | hshr | hmov | haddi | handi | hshli | hshri | hli | hvfadd | hvfmul | hvmov | hkand | hkor |
  hld | hst | modeWrite | grantbaseWrite | xbaseWrite | dutyWrite | fpflagsWrite | portfullWrite | ecccClear | registerWrite | unassignedEncoding
  | resultWrite | loadSectorArrival | storeQueueDrain | stackSpill | walkComplete | scrub | impreciseTrapDelivery | item | weaveHold |
  weaveRelease | registrationArrival | rdvTimeout | collectiveArrival | depositArrival | asyncDepositApply | waitmWake | waitmPoll | waitmYield |
  savedTaskRestore | postAccept | passGrant | gangStart | gangLatchTimeout | passComplete | mtblArrive | combineWindowExpiry | postAcceptance |
  copy | gather | scatter | fill | iload | convert | resume | route | jobStart | jobComplete | routeToken | sieveDeadlock | ctxset | save |
  restore | launchTake | launchDispatch | agePromotion | taskStart | rangeSteal | cancelDeadline | spawnWindowExpiry | flushTimerExpiry |
  commitTimeout | queueDeadlock | budgetPeriod | saveDeadline | secondDeadline | stepRelease | stepTimeout | sendLanding | sclkWaitExpiry |
  huskSwitch | delayExpiry | rdmaWrite | rdmaRead | compareAndSwap | fetchAndAdd | mread | mwrite | window | ringset | enrol | preempt | release |
  attest | dreply | huskdata | dutyRecordRepeat | smbusAccess | jtagUnlock | powerGood | throttleStep | thermalTrip | budgetExhausted |
  parkedActivityTimeout | placementClaim | hostWindowNak | eccError =>
    exact fun _ h => nomatch h.2
  | echk f | hpload _ f | hpqry _ f | kmov f | vscale _ _ _ _ _ f | vshuf _ _ _ f | vrot _ _ _ f | vbcst _ _ f | rkbnd f | qdeq _ _ f
  | sclk _ f => cases f <;> simp
  | _ => simp

theorem decodeFull_eq_ok {i : Instr} : decodeFull r = .ok i ↔ Fits r i := ⟨decodeFull_answers i, decodeFull_of_fits⟩
end

/-! ## Which instructions are words -/

/-- The instructions that are no full-form words: halves, hardware steps and the rows of register writes. -/
def Wordless (i : Instr) : Prop :=
  i.encHalf.isSome = true ∨ Machine.isEvent i = true ∨ (∃ x, i = .modeWrite x) ∨ (∃ x, i = .grantbaseWrite x) ∨ (∃ x, i = .xbaseWrite x) ∨
    (∃ x, i = .dutyWrite x) ∨ (∃ r x, i = .fpflagsWrite r x) ∨ (∃ x, i = .portfullWrite x) ∨ (∃ x, i = .ecccClear x) ∨
    (∃ r x, i = .registerWrite r x) ∨ (∃ x, i = .unassignedEncoding x)

/-- A well-formed instruction has an encoding whose group and minor code fit their fields, or it is no word. -/
theorem enc_or_wordless {i : Instr} (hw : i.wf = true) : (∃ e, i.enc = some e ∧ e.g < 32 ∧ e.f < 64) ∨ i.enc = none ∧ Wordless i := by
  cases i with
  | hnop | hadd | hsub | hand | hor | hxor | hshl | hshr | hmov | haddi | handi | hshli | hshri | hli | hvfadd | hvfmul | hvmov | hkand | hkor |
  hld | hst =>
    exact .inr ⟨rfl, .inl rfl⟩
  | resultWrite | loadSectorArrival | storeQueueDrain | stackSpill | walkComplete | scrub | impreciseTrapDelivery | item | weaveHold |
  weaveRelease | registrationArrival | rdvTimeout | collectiveArrival | depositArrival | asyncDepositApply | waitmWake | waitmPoll | waitmYield |
  savedTaskRestore | postAccept | passGrant | gangStart | gangLatchTimeout | passComplete | mtblArrive | combineWindowExpiry | postAcceptance |
  copy | gather | scatter | fill | iload | convert | resume | route | jobStart | jobComplete | routeToken | sieveDeadlock | ctxset | save |
  restore | launchTake | launchDispatch | agePromotion | taskStart | rangeSteal | cancelDeadline | spawnWindowExpiry | flushTimerExpiry |
  commitTimeout | queueDeadlock | budgetPeriod | saveDeadline | secondDeadline | stepRelease | stepTimeout | sendLanding | sclkWaitExpiry |
  huskSwitch | delayExpiry | rdmaWrite | rdmaRead | compareAndSwap | fetchAndAdd | mread | mwrite | window | ringset | enrol | preempt | release |
  attest | dreply | huskdata | dutyRecordRepeat | smbusAccess | jtagUnlock | powerGood | throttleStep | thermalTrip | budgetExhausted |
  parkedActivityTimeout | placementClaim | hostWindowNak | eccError =>
    exact .inr ⟨rfl, .inr (.inl rfl)⟩
  | modeWrite | grantbaseWrite | xbaseWrite | dutyWrite | fpflagsWrite | portfullWrite | ecccClear | registerWrite | unassignedEncoding =>
    exact .inr ⟨rfl, by simp [Wordless]⟩
  | hpload d f =>
    cases f with
    | mem b => exact .inl ⟨_, if_neg (of_decide_eq_true hw), of_decide_eq_true rfl, of_decide_eq_true rfl⟩
    | fetch a => exact .inl ⟨_, rfl, of_decide_eq_true rfl, of_decide_eq_true rfl⟩
  | echk f | hpqry _ f | kmov f | vscale _ _ _ _ _ f | vshuf _ _ _ f | vrot _ _ _ f | vbcst _ _ f | vchain _ _ _ _ _ f | rkbnd f
  | qdeq _ _ f | sclk _ f => cases f <;> exact .inl ⟨_, rfl, of_decide_eq_true rfl, of_decide_eq_true rfl⟩
  | _ => exact .inl ⟨_, rfl, of_decide_eq_true rfl, of_decide_eq_true rfl⟩

theorem wordless_of_enc_eq_none {i : Instr} (hw : i.wf = true) (h : i.enc = none) : Wordless i := by
  obtain ⟨e, he, -⟩ | ⟨-, hi⟩ := enc_or_wordless hw
  · simp [h] at he
  · exact hi

/-! ## Whole words -/

@[simp] theorem encode_isSome {sc : Sched} {i : Instr} : (encode sc i).isSome = i.enc.isSome := by simp [encode]

theorem decode_toWord (r : Raw) : decode r.toWord = (decodeFull r).map (.full ⟨r.stall, r.sbset, r.sbwait⟩) := by
  simp only [decode, Raw.toWord_top, Raw.ofWord_toWord]
  cases decodeFull r <;> rfl

theorem decode_eq_full {w : Word} {sc : Sched} {i : Instr} :
    decode w = .ok (.full sc i) ↔ ∃ r : Raw, r.toWord = w ∧ sc = ⟨r.stall, r.sbset, r.sbwait⟩ ∧ Fits r i := by
  constructor
  · intro h
    cases ht : w.getLsbD 63
    · simp [decode, -getLsbD_eq_getElem, ht, decodeFull_eq_ok] at h
      exact ⟨Raw.ofWord w, Raw.toWord_ofWord ht, h.2.symm, h.1⟩
    · simp [decode, -getLsbD_eq_getElem, ht] at h
  · rintro ⟨r, rfl, rfl, h⟩
    simp [decode_toWord, decodeFull_eq_ok.2 h, Except.map]

theorem encode_eq_some {w : Word} {sc : Sched} {i : Instr} (hw : i.wf = true) :
    encode sc i = some w ↔ ∃ r : Raw, r.toWord = w ∧ sc = ⟨r.stall, r.sbset, r.sbwait⟩ ∧ Fits r i := by
  constructor
  · intro h
    obtain ⟨⟨g, f, k, a⟩, he, hg, hf⟩ | ⟨he, -⟩ := enc_or_wordless hw
    · refine ⟨_, by simpa [encode, he] using h, rfl, hw, ?_⟩
      simp [he, Nat.mod_eq_of_lt, hg, hf]
    · simp [encode, he] at h
  · rintro ⟨r, rfl, rfl, -, he⟩
    simp [encode, he]

/-! ## Pair words -/

theorem pairWord_toNat (x y : BitVec 31) (st : BitVec 1) :
    ((1#1 ++ (x ++ (st ++ y))).cast (by decide) : Word).toNat = 2 ^ 63 + x.toNat * 2 ^ 32 + st.toNat * 2 ^ 31 + y.toNat := by
  simp only [toNat_cast, toNat_append_eq_add, toNat_ofNat]
  omega

/-- A pair word is cut into its top bit, its halves and its stall bit. -/
theorem eq_pairWord_iff {w : Word} {x y : BitVec 31} {st : BitVec 1} : (1#1 ++ (x ++ (st ++ y))).cast (by decide) = w ↔
    w.getLsbD 63 = true ∧ w.extractLsb' 32 31 = x ∧ w.extractLsb' 31 1 = st ∧ w.extractLsb' 0 31 = y := by
  rw [← toNat_inj, pairWord_toNat]
  have := w.isLt; have := x.isLt; have := y.isLt; have := st.isLt
  simp [← toNat_inj, BitVec.getLsbD, Nat.testBit_eq_decide_div_mod_eq]
  omega

theorem decodeHalf_eq_ok {h : BitVec 31} {i : Instr} : decodeHalf h = .ok i ↔ i.encHalf = some h := ⟨encHalf_of_decodeHalf, decodeHalf_of_encHalf⟩
theorem encodePair_eq_some {w : Word} {st : BitVec 1} {h1 h0 : Instr} : encodePair st h1 h0 = some w ↔ w.getLsbD 63 = true ∧
    h1.encHalf = some (w.extractLsb' 32 31) ∧ w.extractLsb' 31 1 = st ∧ h0.encHalf = some (w.extractLsb' 0 31) := by
  unfold encodePair
  split
  next x y hx hy => rw [Option.some.injEq, eq_pairWord_iff, hx, hy, Option.some.injEq, Option.some.injEq, eq_comm (a := x), eq_comm (a := y)]
  next h => exact iff_of_false nofun fun ⟨_, h1, _, h0⟩ => h _ _ h1 h0

theorem decode_eq_pair {w : Word} {st : BitVec 1} {h1 h0 : Instr} :
    decode w = .ok (.pair st h1 h0) ↔ pairOk h1 h0 = true ∧ encodePair st h1 h0 = some w := by
  rw [encodePair_eq_some]
  cases ht : w.getLsbD 63 <;> simp [decode, -getLsbD_eq_getElem, ht, decodeHalf_eq_ok]
  tauto

/-- Settles O59: decoder and encoder are characterised by the same fields (`decode_eq_full`, `encode_eq_some`). -/
theorem decodeOfEncode : Obligations.DecodeOfEncode := by
  refine ⟨fun sc i w hw he => ?_, fun sc i hw => ?_, fun st h1 h0 w hp he => decode_eq_pair.2 ⟨hp, he⟩⟩
  · have hd := decode_eq_full.2 ((encode_eq_some hw).1 he)
    simp [hd, decodeTableWord]
  · cases h : i.enc
    · exact .inr (wordless_of_enc_eq_none hw h)
    · simp [h]

/-- Settles O60: what decodes fits its fields (`decode_eq_full`), and the encoder gives the word of the fields. -/
theorem encodeOfDecode : Obligations.EncodeOfDecode := by
  refine ⟨fun w sc i hd => ?_, fun w st h1 h0 => decode_eq_pair.1⟩
  have h := decode_eq_full.1 hd
  have hw : i.wf = true := by
    obtain ⟨r, -, -, hw, -⟩ := h
    exact hw
  exact ⟨hw, (encode_eq_some hw).2 h⟩

end Sys2Proof
end

section
namespace Sys2Proof
/-- Settles O58: each word is the encoding of its instruction under no scheduling fields, and so decodes to it (`decodeOfEncode`). -/
theorem workedWords : Obligations.WorkedWords := by
  have h {w : Word} {i : Instr} (hw : i.wf = true) (he : encode {} i = some w) : decode w = .ok (.full {} i) :=
    (decodeOfEncode.1 {} i w hw he).1
  unfold Obligations.WorkedWords
  simp only [List.forall_mem_cons]
  exact ⟨h rfl rfl, h rfl rfl, h rfl rfl, h rfl rfl, h rfl rfl, h rfl rfl, h rfl rfl, h rfl rfl, h rfl rfl, h rfl rfl, h rfl rfl,
    h rfl rfl, h rfl rfl, h rfl rfl, h rfl rfl, h rfl rfl, h rfl rfl, h rfl rfl, h rfl rfl, h rfl rfl, h rfl rfl, nofun⟩
end Sys2Proof
end

section
/-!
Traps and returns: what the wait for producers, a trap's entry, a halt and an ERET do (O10, O52).
-/
namespace Sys2Proof.Machine

/-! ## The wait for fixed-latency producers (R54) -/

theorem le_foldl_max_due (ps : List Producer) (n : Nat) :
    n ≤ ps.foldl (fun n p => max n p.due) n ∧ ∀ p ∈ ps, p.due ≤ ps.foldl (fun n p => max n p.due) n := by
  induction ps generalizing n with
  | nil => exact ⟨Nat.le_refl n, nofun⟩
  | cons p ps ih =>
    obtain ⟨hn, hps⟩ := ih (max n p.due)
    refine ⟨(Nat.le_max_left ..).trans hn, List.forall_mem_cons.2 ⟨(Nat.le_max_right ..).trans hn, hps⟩⟩

@[simp] theorem awaitProducers_c (s : State) : s.awaitProducers.c = s.c.completeAll := c_upd ..
@[simp] theorem awaitProducers_cur (s : State) : s.awaitProducers.cur = s.cur := rfl
@[simp] theorem awaitProducers_mem (s : State) : s.awaitProducers.mem = s.mem := rfl
@[simp] theorem awaitProducers_tags (s : State) : s.awaitProducers.tags = s.tags := rfl
@[simp] theorem awaitProducers_host (s : State) : s.awaitProducers.host = s.host := rfl
theorem awaitProducers_getC_ne (s : State) {m : Nat} (h : m ≠ s.cur) : s.awaitProducers.getC m = s.getC m := by
  rw [State.awaitProducers, getC_upd, if_neg h]
  rfl

/-- In `t` every fixed-latency producer that the core had in `s` has completed, and its loads are still outstanding. -/
def Awaited (s t : State) : Prop := t.c.prods = [] ∧ t.c.loads = s.c.loads ∧ ∀ p ∈ s.c.prods, p.due ≤ t.cycle

theorem awaited_awaitProducers (s : State) : Awaited s s.awaitProducers :=
  ⟨by simp [Core.completeAll], by simp [Core.completeAll], (le_foldl_max_due s.c.prods s.cycle).2⟩
theorem Awaited.upd {s t : State} (h : Awaited s t) (f : Core → Core) (hp : (f t.c).prods = t.c.prods := by rfl)
    (hl : (f t.c).loads = t.c.loads := by rfl) : Awaited s (t.upd f) := by
  obtain ⟨hprods, hloads, hdue⟩ := h
  exact ⟨by rw [c_upd, hp, hprods], by rw [c_upd, hl, hloads], hdue⟩

theorem Awaited.ite {p : Prop} [Decidable p] {s t u : State} (ht : Awaited s t) (hu : Awaited s u) : Awaited s (if p then t else u) := by
  split <;> assumption

/-- A trap entry that does not kill or halt only changes the core further, and neither its producers nor its loads. -/
theorem awaited_takeTrap {s : State} {e : Entry} (hexl : s.c.tr.exl = false) (hm : ¬(e.cause = Cause.mcheck.code ∧ s.c.sys = true)) :
    Awaited s (s.takeTrap e) := by
  have h := awaited_awaitProducers s
  have hexl' : s.awaitProducers.c.tr.exl = false := by simpa [Core.completeAll] using hexl
  have hm' : ¬(e.cause = Cause.mcheck.code ∧ s.awaitProducers.c.sys = true) := by simpa [Core.completeAll] using hm
  unfold State.takeTrap
  simp only [hexl', hm', Bool.false_eq_true, if_false]
  split
  · exact h.upd _
  · split
    case h_3 => exact .ite ((h.upd _).upd _) (h.upd _)
    case h_4 => exact .ite (h.upd _) (.ite (h.upd _) ((h.upd _).upd _))
    all_goals exact h.upd _

/-! ## Entering a handler -/

theorem takeTrap_of_no_hook {s : State} {e : Entry} (hexl : s.c.tr.exl = false) (hm : e.cause ≠ Cause.mcheck.code)
    (hh : s.c.husk.hooks = []) : s.takeTrap e = s.awaitProducers.upd (·.enter e) := by
  have hhook : s.c.completeAll.hookFor e.cause e.cls e.epc = none := by simp [Core.hookFor, Core.completeAll, hh]
  simp only [State.takeTrap, awaitProducers_c, hhook]
  simp [Core.completeAll, hexl, hm]

/-- The entry of a trap that the core's own word takes at decode. -/
def Core.decodeEntry (c : Core) (cause : Cause) (einfo : Word) : Entry where
  cause := cause.code
  epc := c.pc
  half := c.latch.half
  eword := c.latch.word
  einfo := einfo
  eseq := c.ringHead

/-- A trap taken at decode by a core without followers is not published (R144). -/
theorem trapPrecise_decode {s : State} {c : Cause} {x : Word} (hf : s.c.w.followers = []) (hsrc : s.c.latch.src = .own) :
    s.trapPrecise ⟨c.code, x, true, none⟩ = s.takeTrap (s.c.decodeEntry c x) := by
  simp [State.trapPrecise, State.trapNow, hf, Core.wordPc, hsrc, Core.decodeEntry]

/-- A word that traps at decode, where no hook takes the trap, enters its handler (R450). -/
theorem exec_raiseDecode {s : State} {i : Instr} {c : Cause} {x : Word} (he : exec i s = run (raiseDecode c x) s)
    (hexl : s.c.tr.exl = false) (hm : c.code ≠ Cause.mcheck.code) (hh : s.c.husk.hooks = []) (hf : s.c.w.followers = [])
    (hsrc : s.c.latch.src = .own) : exec i s = .next (s.awaitProducers.upd (·.enter (s.c.decodeEntry c x))) := by
  rw [he, ← takeTrap_of_no_hook hexl hm hh, ← trapPrecise_decode hf hsrc]
  rfl

theorem trapWords : Claim.TrapWords := by
  intro s n w hexl hh hf hsrc enters
  have key {i : Instr} {info : Word → Prop} (c : Cause) {x : Word} (he : exec i s = run (raiseDecode c x) s)
      (hm : c.code ≠ Cause.mcheck.code) (hi : info x) : enters i (BitVec.ofNat 64 c.code.toNat) info := by
    refine ⟨_, exec_raiseDecode he hexl hm hh hf hsrc, ?_⟩
    have hc : (s.awaitProducers.upd (·.enter (s.c.decodeEntry c x))).c = s.c.completeAll.enter (s.c.decodeEntry c x) := by simp
    rw [hc]
    refine ⟨rfl, ?_, rfl, rfl, rfl, rfl, rfl, ?_, hi, rfl, rfl, rfl, rfl, rfl, rfl, rfl, rfl, rfl, rfl, fun m hm => ?_⟩
    · simp [Core.enter, Core.decodeEntry, Entry.ecause]
    · simp [Core.enter, Core.decodeEntry, Core.completeAll]
    · exact (getC_upd ..).trans ((if_neg hm).trans (awaitProducers_getC_ne s hm))
  exact ⟨key (info := (· = n.setWidth 64)) .swtrap rfl (by decide) rfl, key (info := (· = n.setWidth 64)) .bkpt rfl (by decide) rfl,
    key (info := fun _ => True) .illegal rfl (by decide) trivial⟩

/-! ## Halting (R453) -/

/-- A core that stops (R453, R494). -/
def Core.halted (c : Core) : Core := { c with run := .halted, wait := none, latch := {}, husk := {} }

/-- A core with an empty queue drains nothing. -/
theorem drainAll_of_empty {s : State} {n : Nat} (h : (s.getC n).sq = []) : s.drainAll n = s := by
  simp [State.drainAll, h]

/-- A core without a task and with an empty queue is halted, and the host is told. -/
theorem killOrHalt_of_taskless {s : State} {cause : BitVec 8} (ht : s.c.task = none) (hq : s.c.sq = []) :
    let t := s.killOrHalt s.cur cause
    t.c.run = .halted ∧ t.c.husk = {} ∧ t.mem = s.mem ∧ ∃ q, t.host.out = s.host.out ++ [Claim.halting s.cur cause q] := by
  have hk : s.killOrHalt s.cur cause = s.haltCore s.cur cause := by
    change (match s.c.task with | some tid => _ | none => _) = _
    rw [ht]
  rw [hk, State.haltCore, drainAll_of_empty hq]
  have hc : ((s.updC s.cur Core.halted).notice 0xFF ([4] ++ leBytes s.cur 2 ++ [cause])).c = s.c.halted := c_upd s _
  exact ⟨congrArg Core.run hc, congrArg Core.husk hc, rfl, _, rfl⟩

theorem doubleFault : Claim.DoubleFault := by
  intro s e hexl ht hq
  have he : s.takeTrap e = s.awaitProducers.killOrHalt s.cur e.cause := by
    simp [State.takeTrap, Core.completeAll, hexl]
  rw [he]
  exact killOrHalt_of_taskless (s := s.awaitProducers) (by simp [Core.completeAll, ht]) (by simp [Core.completeAll, hq])

/-! ## ERET -/

/-- The core that an ERET without KILL leaves, but for the fields that only say when its next word issues. -/
theorem exec_eret_return {s : State} (rpl : Bool) (h : s.c.sys = true) : ∃ sp ra rt, exec (.eret rpl false) s =
    .next (s.awaitProducers.setC s.cur { s.c.completeAll.eret rpl with spos := sp, readyAt := ra, retries := rt, delayed := false }) := by
  simp only [exec_eret, execEret, runRaw, bind_ok (privileged_run h), bind_modify, modify_run, State.upd, awaitProducers_c, Bool.false_eq_true, if_false]
  exact ⟨_, _, _, rfl⟩

theorem exec_eret_kill {s : State} (rpl : Bool) (h : s.c.sys = true) :
    exec (.eret rpl true) s = .next (s.awaitProducers.killOrHalt s.cur (s.c.tr.ecause.setWidth 8)) := by
  simp only [exec_eret, execEret, runRaw, bind_ok (privileged_run h), bind_modify]
  simp [modify_run, Core.completeAll]

/-- Away from every join the place and the paths stand (R147). -/
theorem brwNext_of_ne {pc : BitVec 12} {fs : List Brw} (h : ∀ f ∈ fs, pc ≠ f.join) (n : Nat) : brwNext pc fs n = (pc, fs) := by
  cases n with
  | zero => rfl
  | succ n =>
    cases fs with
    | nil => rfl
    | cons f r => simp [brwNext, h f (List.mem_cons_self ..)]

/-- At the join of the only path the publisher turns to the other path, or goes on at the join (R147). -/
theorem brwNext_join {f : Brw} (h : f.target ≠ f.join) : brwNext f.join [f] 3 =
    if f.more then (f.target, [{ f with path := true, more := false, mine := f.cond }]) else (f.join, []) := by
  simp [brwNext, h]

theorem eret : Claim.Eret := by
  intro s rpl hsys
  constructor
  · obtain ⟨sp, ra, rt, he⟩ := exec_eret_return rpl hsys
    refine ⟨_, he, ?_⟩
    have hc : ∀ c : Core, (s.awaitProducers.setC s.cur c).c = c := fun c => getC_setC_self ..
    rw [hc]
    refine ⟨rfl, rfl, fun hj => ?_, fun f hf hj hne hpm hpriv hst => ?_, rfl, rfl, rfl, rfl, rfl, rfl, fun m hm => ?_⟩
    · have hn := brwNext_of_ne hj (2 * s.c.w.brw.length + 1)
      simp only [Core.eret, Core.completeAll, hn, ite_self, and_self]
    · cases hm : f.more <;> simp [Core.eret, Core.completeAll, Core.publishes, hf, hj, hpm, hpriv, hst, brwNext_join hne, hm]
    · exact (getC_setC ..).trans ((if_neg hm).trans (awaitProducers_getC_ne s hm))
  · intro ht hq
    obtain ⟨hrun, -, -, q, hout⟩ := killOrHalt_of_taskless (s := s.awaitProducers) (cause := s.c.tr.ecause.setWidth 8)
      (by simp [Core.completeAll, ht]) (by simp [Core.completeAll, hq])
    exact ⟨_, q, exec_eret_kill rpl hsys, hrun, hout⟩

/-- Settles O10: a trap word enters its handler (`exec_raiseDecode`), a double fault without a task halts (`killOrHalt_of_taskless`),
and ERET leaves the core that `exec_eret_return` names. -/
theorem trapsAndReturns : Obligations.TrapsAndReturns := ⟨trapWords, doubleFault, eret⟩

/-- Settles O52: both begin with the wait for the producers (`awaited_awaitProducers`), and what follows starts none. -/
theorem trapWaits : Obligations.TrapWaits := by
  refine ⟨fun s e hexl hm => awaited_takeTrap hexl hm, fun s rpl hsys => ?_⟩
  obtain ⟨sp, ra, rt, he⟩ := exec_eret_return rpl hsys
  refine ⟨_, he, ?_⟩
  obtain ⟨hp, hl, hd⟩ := awaited_awaitProducers s
  have hc : ∀ c : Core, (s.awaitProducers.setC s.cur c).c = c := fun c => getC_setC_self ..
  rw [hc]
  exact ⟨rfl, rfl, hd⟩

end Sys2Proof.Machine
end

section
/-!
Privileged words (R60, R61): in user mode each takes PRIV before it has any effect (O9).
-/
namespace Sys2Proof.Machine

/-- The trap that a privileged word takes in user mode. -/
def State.privTrap (s : State) : State := s.trapPrecise ⟨Cause.priv.code, s.openInfo, true, none⟩

theorem privileged_user {s : State} (h : s.c.sys = false) : privileged s = (.error (.trap ⟨Cause.priv.code, s.openInfo, true, none⟩), s) := by
  unfold privileged
  rw [bind_get, h]
  rfl
theorem run_privileged {s : State} {f : Unit → M Unit} (h : s.c.sys = false) : run (privileged >>= f) s = .next s.privTrap := by
  rw [run, bind_error (privileged_user h)]
  rfl
theorem runRaw_privileged {s : State} {f : Unit → M Unit} (h : s.c.sys = false) : runRaw (privileged >>= f) s = .next s.privTrap := by
  rw [runRaw, bind_error (privileged_user h)]
  rfl
theorem exec_mfsr_user {s : State} {d : GReg} {sr : BitVec 12} (hr : srSysRead sr = true) (h : s.c.sys = false) :
    exec (.mfsr d sr) s = .next s.privTrap := by
  simp [exec_mfsr, execMfsr, run, bind_get, hr, h]
  rfl
theorem exec_mtsr_user {s : State} {a : GReg} {sr : BitVec 12} (hr : srSysWrite sr = true) (h : s.c.sys = false) :
    exec (.mtsr sr a) s = .next s.privTrap := by
  simp [exec_mtsr, execMtsr, mtsrM, run, bind_get, hr, h]
  rfl

/-- Settles O9: the effect of each such word begins with `privileged`, or with the test of the system register. -/
theorem privilegedWords : Obligations.Privileged := by
  intro s i hi h
  change exec i s = .next s.privTrap
  cases i with
  | eret => exact runRaw_privileged h
  | idle | tlbinv | csave | crest | hpload | hpact | gnew | grev => exact run_privileged h
  | echk f =>
    cases f with
    | read => exact nomatch hi
    | mark => exact run_privileged h
  | msend a core =>
    cases core with
    | false => exact nomatch hi
    | true => exact run_privileged h
  | mfsr d sr => exact exec_mfsr_user hi h
  | mtsr sr a => exact exec_mtsr_user hi h
  | _ => exact nomatch hi
end Sys2Proof.Machine
end

section
/-!
No instruction stops the machine (O56): every meaning `exec` runs ends in a next state.
-/
namespace Sys2Proof.Machine
/-- An outcome that is a next state. -/
def Goes (o : Host.Outcome State Fault Refusal) : Prop := ∃ t, o = .next t

theorem goes_next (t : State) : Goes (.next t) := ⟨t, rfl⟩
theorem goes_run (m : M Unit) (s : State) : Goes (run m s) := ⟨_, rfl⟩
theorem goes_runTo (m : M (Option (BitVec 12))) (s : State) : Goes (runTo m s) := by
  unfold runTo
  split <;> exact goes_next _
theorem goes_runRaw (m : M Unit) (s : State) : Goes (runRaw m s) := by
  unfold runRaw
  split <;> exact goes_next _
theorem goes_ite {p : Prop} [Decidable p] {x y : Host.Outcome State Fault Refusal} (hx : Goes x) (hy : Goes y) : Goes (if p then x else y) := by
  split <;> assumption

theorem goes_tyield (d : GReg) (s : State) : Goes (execTyield d s) := by
  unfold execTyield
  split
  · exact goes_ite (goes_ite (goes_next _) (goes_next _)) (goes_run _ _)
  · exact goes_run _ _

theorem goes_exec (i : Instr) (s : State) : Goes (exec i s) := by
  cases i with
  | eret => exact goes_runRaw _ _
  | tend => exact goes_runRaw _ _
  | echk f => cases f <;> exact goes_run _ _
  | kmov f => cases f <;> exact goes_run _ _
  | rdv => exact goes_ite (goes_run _ _) (goes_next _)
  | rdvh => exact goes_ite (goes_run _ _) (goes_ite (goes_next _) (goes_ite (goes_next _) (goes_next _)))
  | brw => exact goes_ite (goes_run _ _) (goes_ite (goes_next _) (goes_ite (goes_run _ _) (goes_ite (goes_run _ _) (goes_runTo _ _))))
  | wvote => exact goes_ite (goes_run _ _) (goes_run _ _)
  | rkinit => exact goes_ite (goes_run _ _) (goes_run _ _)
  | tyield => exact goes_tyield _ _
  | _ =>
    dsimp
    exact ⟨_, rfl⟩

theorem goes_stepPair (h1 h0 : Instr) (s : State) : Goes (stepPair h1 h0 s) :=
  goes_ite (goes_exec ..) (goes_ite (goes_exec ..) (goes_ite (goes_run _ _) (goes_run _ _)))

theorem goes_coreStep (s : State) : Goes s.coreStep := by
  unfold State.coreStep
  split
  · exact goes_next _
  · exact goes_exec ..
  · exact goes_stepPair ..

theorem goes_runDatagram (s : State) (src : Nat) (d : List Byte) : Goes (runDatagram s src d) := by
  unfold runDatagram
  split
  · exact goes_next _
  · exact goes_next _
  · exact goes_exec ..

/-- Settles O56: every meaning that `exec` runs ends in a next state (`goes_exec`), and so does every turn. -/
theorem neverStops : Obligations.NeverStops := by
  refine ⟨goes_exec, fun s => ?_⟩
  by_cases h : s.host.tripped = true ∧ s.turns.head? ≠ some (.event .powerGood)
  · exact .inr ⟨if_pos h, h⟩
  · left
    change Goes (step s)
    unfold step
    rw [if_neg h]
    split
    · exact goes_coreStep _
    · exact goes_coreStep _
    · exact goes_ite (goes_exec ..) (goes_next _)
    · exact goes_runDatagram ..
    · exact goes_next _
end Sys2Proof.Machine
end

section
/-!
Steps (O57): what issue leaves of the word in issue while it waits, the order of turns, and the word that a step runs.
-/
namespace Sys2Proof.Machine

/-! ## What the waits of issue leave of the word in issue -/

theorem SameIssue.ite {p : Prop} [Decidable p] {a b c : Core} (hb : SameIssue a b) (hc : SameIssue a c) : SameIssue a (if p then b else c) := by
  split <;> assumption
theorem settle_eq (c : Core) (now : Nat) : ∃ ts ps, c.settle now = { c with tokens := ts, prods := ps } := by
  unfold Core.settle
  split
  · exact ⟨c.tokens, c.prods, rfl⟩
  · exact ⟨_, _, rfl⟩
theorem sameIssue_settle (c : Core) (now : Nat) : SameIssue c (c.settle now) := by
  obtain ⟨ts, ps, h⟩ := settle_eq c now
  rw [h]
  exact ⟨rfl, rfl, rfl, rfl, rfl, rfl⟩
theorem sameIssue_recordFault (c : Core) (e : RingEntry) (cause cls : BitVec 8) (n : Nat) (a : Word) : SameIssue c (c.recordFault e cause cls n a) := by
  unfold Core.recordFault
  split
  · exact ⟨rfl, rfl, rfl, rfl, rfl, rfl⟩
  · exact .rfl c
theorem sameIssue_sectorFault (s : State) (n : Nat) (l : Load) (sec : Sector) (c : Core) : SameIssue c (s.sectorFault n l sec c) := by
  unfold State.sectorFault
  dsimp only
  split
  · exact ⟨rfl, rfl, rfl, rfl, rfl, rfl⟩
  · exact .ite (.rfl c) (sameIssue_recordFault ..)
theorem sameIssue_setReg (c : Core) (r : Nat) (x : RVal) : SameIssue c (c.setReg r x) := by
  unfold Core.setReg
  split <;> exact ⟨rfl, rfl, rfl, rfl, rfl, rfl⟩
theorem sameIssue_putNow (c : Core) (now : Nat) (f : RFile) (r : Nat) (x : RVal) : SameIssue c (c.putNow now f r x) :=
  .ite ⟨rfl, rfl, rfl, rfl, rfl, rfl⟩ (sameIssue_setReg ..)
theorem sameIssue_land (c : Core) (now : Nat) (l : Load) (f : RVal → RVal) : SameIssue c (c.land now l f) := by
  refine SameIssue.trans ?_ (sameIssue_putNow ..)
  exact ⟨rfl, rfl, rfl, rfl, rfl, rfl⟩

/-- In `t` the same core executes, and the word in issue of every core is the one of `s`. -/
def KeepsIssue (s t : State) : Prop := t.cur = s.cur ∧ ∀ m, SameIssue (s.getC m) (t.getC m)

theorem keepsIssue_refl (s : State) : KeepsIssue s s := ⟨rfl, fun _ => .rfl _⟩
theorem KeepsIssue.trans {s t u : State} (h : KeepsIssue s t) (k : KeepsIssue t u) : KeepsIssue s u :=
  ⟨k.1.trans h.1, fun m => (h.2 m).trans (k.2 m)⟩
theorem KeepsIssue.c {s t : State} (h : KeepsIssue s t) : SameIssue s.c t.c := by
  obtain ⟨hcur, hcores⟩ := h
  rw [State.c, State.c, hcur]
  exact hcores s.cur
theorem keepsIssue_setC {s : State} {n : Nat} {c : Core} (h : SameIssue (s.getC n) c) : KeepsIssue s (s.setC n c) := by
  refine ⟨rfl, fun m => ?_⟩
  rw [getC_setC]
  split
  case isTrue hm => exact hm ▸ h
  case isFalse => exact .rfl _
theorem keepsIssue_foldl {α : Type} {f : State → α → State} (hf : ∀ s a, KeepsIssue s (f s a)) (xs : List α) (s : State) :
    KeepsIssue s (xs.foldl f s) := by
  induction xs generalizing s with
  | nil => exact keepsIssue_refl s
  | cons x xs ih => exact (hf s x).trans (ih (f s x))

theorem keepsIssue_arrive (s : State) (n j i : Nat) : KeepsIssue s (s.arrive n j i) := by
  unfold State.arrive
  dsimp only
  split
  · exact keepsIssue_refl s
  rename_i l _
  split
  · exact keepsIssue_refl s
  rename_i sec _
  split
  · exact keepsIssue_refl s
  have hc : SameIssue (s.getC n) (if sec.bytes.any (fun b => s.byteBad n l.seq b.2) then s.sectorFault n l sec (s.getC n)
      else if l.file = .g ∧ l.reg = 0 then s.getC n
      else (s.getC n).land s.cycle l (l.put (sec.bytes.map fun b => (b.1, s.seenByte n l.seq b.2)))) :=
    .ite (sameIssue_sectorFault ..) (.ite (.rfl _) (sameIssue_land ..))
  split <;> exact keepsIssue_setC (hc.trans ⟨rfl, rfl, rfl, rfl, rfl, rfl⟩)
theorem keepsIssue_arriveLoad (s : State) (n j : Nat) : KeepsIssue s (s.arriveLoad n j) := keepsIssue_foldl (fun s i => keepsIssue_arrive s n j i) _ s
theorem keepsIssue_arriveWhere (s : State) (n : Nat) (p : Load → Bool) : KeepsIssue s (s.arriveWhere n p) :=
  keepsIssue_foldl (fun s j => keepsIssue_arriveLoad s n j) _ s
theorem keepsIssue_advance (s : State) (n : Nat) : KeepsIssue s (s.advance n) := keepsIssue_setC (sameIssue_settle ..)
theorem keepsIssue_interlock (s : State) (us : List RUse) : KeepsIssue s (s.interlock us) :=
  (keepsIssue_arriveWhere ..).trans (keepsIssue_advance ..)
theorem keepsIssue_waitTokens (s : State) (sb : BitVec 7) : KeepsIssue s (s.waitTokens sb) := by
  unfold State.waitTokens
  dsimp only
  split
  · exact keepsIssue_refl s
  · exact (keepsIssue_arriveWhere ..).trans (keepsIssue_advance ..)


/-! ## The core's turn -/

/-- What a turn does after issue. -/
noncomputable def Ready.outcome : Ready → Host.Outcome State Fault Refusal
  | .done t => .next t
  | .run d t => Claim.execWord d t

theorem coreStep_eq (s : State) : s.coreStep = s.issue.outcome := by
  unfold State.coreStep
  split <;> rename_i h <;> rw [h] <;> rfl

theorem atIssue_eq (s : State) : ∃ n ts ps, s.atIssue = ({ s with cycle := n } : State).setC s.cur { s.c with tokens := ts, prods := ps } := by
  obtain ⟨ts, ps, h⟩ := settle_eq s.c (max s.cycle s.c.readyAt)
  exact ⟨max s.cycle s.c.readyAt, ts, ps, congrArg (State.setC { s with cycle := max s.cycle s.c.readyAt } s.cur) h⟩
theorem fetchWord_of_fresh {s : State} (h : s.c.istale = []) : s.fetchWord = s.istoreWord s.cur s.c.pc.toNat := by
  simp [State.fetchWord, h, mfind]

/-- A running core that nothing holds back decodes the word at its PC, at its cycle. -/
theorem issue_own {s : State} (hrun : s.c.run = .running) (hpark : s.c.parked = false) (hsub : s.c.subscribed = false)
    (hwait : s.c.w.st = .waiting → s.c.w.handler.isSome = true) (hreplay : s.c.replayQ = []) (hrewrite : s.c.rewriteQ = [])
    (hstale : s.c.istale = []) (hpc : s.c.sys = true ∨ s.c.pc.toNat < 3584) (hheld : s.atIssue.heldByMembers = false)
    (hslot : s.atIssue.c.slotFor (s.istoreWord s.cur s.c.pc.toNat) = none) :
    s.issue = s.atIssue.decodeWord .own (s.istoreWord s.cur s.c.pc.toNat) {} := by
  have hw : ¬(s.c.w.st = .waiting ∧ s.c.w.handler.isNone = true) := by
    rintro ⟨h1, h2⟩
    simp [Option.isNone_iff_eq_none.1 h2] at hwait
    exact hwait h1
  obtain ⟨n, ts, ps, hu⟩ := atIssue_eq s
  have hc : s.atIssue.c = { s.c with tokens := ts, prods := ps } := hu ▸ getC_setC_self ..
  have hf : s.atIssue.fetchWord = s.istoreWord s.cur s.c.pc.toNat := by
    rw [fetchWord_of_fresh (hc ▸ hstale), hc, hu]
    rfl
  have hpc' : ¬((!s.c.sys) = true ∧ 3584 ≤ s.c.pc.toNat) := by
    rintro ⟨h1, h2⟩
    rcases hpc with h | h
    · simp [h] at h1
    · omega
  unfold State.issue
  dsimp only
  rw [if_neg (by simp [hrun, hpark]), hreplay]
  dsimp only
  rw [if_neg hw, if_neg (by simp [hsub]), if_neg (by simp [hheld]), hrewrite]
  dsimp only
  rw [if_neg hpc', hf, State.slotWord, hslot]

/-- The conditions of issue met: waits over, nothing due. -/
theorem hazards_early {s : State} {d : Decoded} (h : s.c.decodeTrap d = true ∨ s.c.committed = true) : s.hazards d = .run d s := by
  unfold State.hazards
  rw [if_pos (by simpa using h)]

theorem decodeStop_checked {s : State} {d : Decoded} {us : List RUse} {info : Nat}
    (h : (if !s.c.mode.getLsbD 0 && s.c.mode.getLsbD 1 then s.c.stallchk (s.c.e3 s.cycle d) us s.c.latch.sched.sbwait else none) = some info) :
    s.decodeStop d us = some (s.trapPrecise ⟨Cause.stallchk.code, BitVec.ofNat 64 info, true, none⟩) := by
  unfold State.decodeStop
  simp only [h]
theorem decodeStop_none {s : State} {d : Decoded} {us : List RUse}
    (h : (if !s.c.mode.getLsbD 0 && s.c.mode.getLsbD 1 then s.c.stallchk (s.c.e3 s.cycle d) us s.c.latch.sched.sbwait else none) = none)
    (hd : (s.c.tr.pend && !s.c.tr.exl && s.c.touchesFaulted us) = false) : s.decodeStop d us = none := by
  unfold State.decodeStop
  simp only [h]
  rw [if_neg (by simp [hd])]

theorem decodeWord_error {s : State} {src : Source} {w : Word} {it : Item} {e : Reject} (h : decode w = .error e) :
    s.decodeWord src w it = .run (.full {} (.unassignedEncoding w)) (s.latched src w it {}) := by
  simp only [State.decodeWord, h]
theorem decodeWord_ok {s : State} {src : Source} {w : Word} {it : Item} {d : Decoded} (h : decode w = .ok d) (ho : s.c.offPath = false) :
    s.decodeWord src w it = (s.latched src w it (schedOf d)).hazards d := by
  have ho' : (s.latched src w it (schedOf d)).c.offPath = false := by
    rw [State.latched, c_upd]
    exact ho
  simp [State.decodeWord, h, ho']

/-! ## Turns -/

section
variable {s : State} (h : s.host.tripped = false)
include h

theorem step_own_turn (ho : orderTurns s.turns = []) : step s = ({ s with tick := s.tick + 1 } : State).coreStep := by
  unfold step
  dsimp only
  rw [if_neg (by simp [h]), ho]
theorem step_core_turn {n : Nat} {r : List Turn} (ho : orderTurns s.turns = .core n :: r) :
    step s = ({ s with tick := s.tick + 1, turns := r, cur := n % nCores } : State).coreStep := by
  unfold step
  dsimp only
  rw [if_neg (by simp [h]), ho]
theorem step_event_turn {i : Instr} {r : List Turn} (ho : orderTurns s.turns = .event i :: r) (hi : isEvent i = true) :
    step s = exec i { s with tick := s.tick + 1, turns := r } := by
  unfold step
  dsimp only
  rw [if_neg (by simp [h]), ho]
  exact if_pos hi
theorem step_datagram_turn {second : Bool} {src : Nat} {d : List Byte} {r : List Turn} (ho : orderTurns s.turns = .datagram second src d :: r) :
    step s = runDatagram { s with tick := s.tick + 1, turns := r } src d := by
  unfold step
  dsimp only
  rw [if_neg (by simp [h]), ho]
end

theorem orderTurns_of_no_port {ts : List Turn} (h : ts.head?.bind Turn.port = none) : orderTurns ts = ts := by
  simp [orderTurns, h]

theorem Turn.port_lt {t : Turn} {p : Nat} (h : t.port = some p) : p < 3 := by
  unfold Turn.port at h
  split at h <;> simp at h <;> (try split at h) <;> omega
theorem Turn.instant_of_port {t : Turn} {p : Nat} (h : t.port = some p) : t.instant = true := by
  cases t with
  | core | idle => exact nomatch h
  | event | datagram => rfl

/-- Of the requests of one cycle the first of the lowest port comes first (R508). -/
theorem orderTurns_of_port {t : Turn} {before rest : List Turn} {p : Nat} (ht : t.port = some p)
    (hb : ∀ u ∈ before, u.instant = true) (hhead : before = [] ∨ (before.head?.bind Turn.port).isSome = true)
    (hlt : ∀ u ∈ before, ∀ q, u.port = some q → p < q) (hle : ∀ u ∈ rest.takeWhile Turn.instant, ∀ q, u.port = some q → p ≤ q) :
    orderTurns (before ++ t :: rest) = t :: (before ++ rest) := by
  have hnot : t ∉ before := fun h => Nat.lt_irrefl p (hlt t h p ht)
  have htake : (before ++ t :: rest).takeWhile Turn.instant = before ++ t :: rest.takeWhile Turn.instant := by
    rw [List.takeWhile_append_of_pos hb, List.takeWhile_cons_of_pos (Turn.instant_of_port ht)]
  have hsome : ((before ++ t :: rest).head?.bind Turn.port).isNone = false := by
    rcases hhead with h | h
    · simp [h, ht]
    · cases before with
      | nil => simp at h
      | cons x xs => simpa [Option.isSome_iff_ne_none] using h
  have hmiss : ∀ q < p, (before ++ t :: rest.takeWhile Turn.instant).find? (fun u => u.port == some q) = none := by
    intro q hq
    rw [List.find?_eq_none]
    intro u hu
    rcases List.mem_append.1 hu with hu | hu
    · intro he
      exact absurd (hlt u hu q (by simpa using he)) (by omega)
    · rcases List.mem_cons.1 hu with rfl | hu
      · simp [ht]; omega
      · intro he
        exact absurd (hle u hu q (by simpa using he)) (by omega)
  have hhit : (before ++ t :: rest.takeWhile Turn.instant).find? (fun u => u.port == some p) = some t := by
    rw [List.find?_append, List.find?_eq_none.2, Option.none_or, List.find?_cons_of_pos (by simp [ht])]
    intro u hu he
    exact absurd (hlt u hu p (by simpa using he)) (by omega)
  have hfirst : (List.range 3).findSome? (fun p => (before ++ t :: rest.takeWhile Turn.instant).find? (fun u => u.port == some p)) = some t := by
    have hp := Turn.port_lt ht
    rw [show List.range 3 = [0, 1, 2] from rfl]
    interval_cases p
    · simp only [List.findSome?_cons, hhit]
    · simp only [List.findSome?_cons, hhit, hmiss 0 (by decide)]
    · simp only [List.findSome?_cons, hhit, hmiss 0 (by decide), hmiss 1 (by decide)]
  unfold orderTurns
  rw [if_neg (by rw [hsome]; exact Bool.false_ne_true), htake, hfirst]
  simp only
  rw [List.erase_append_right _ hnot, List.erase_cons_head]

/-- The turn of a core that runs its own words: the word at its PC, once decoded. -/
theorem step_own {s : State} (htrip : s.host.tripped = false) (hturns : s.turns = []) (hrun : s.c.run = .running)
    (hpark : s.c.parked = false) (hsub : s.c.subscribed = false) (hwait : s.c.w.st = .waiting → s.c.w.handler.isSome = true)
    (hreplay : s.c.replayQ = []) (hrewrite : s.c.rewriteQ = []) (hstale : s.c.istale = []) (hpc : s.c.sys = true ∨ s.c.pc.toNat < 3584)
    (hheld : ({ s with tick := s.tick + 1 } : State).atIssue.heldByMembers = false)
    (hslot : ({ s with tick := s.tick + 1 } : State).atIssue.c.slotFor (s.istoreWord s.cur s.c.pc.toNat) = none) :
    step s = (({ s with tick := s.tick + 1 } : State).atIssue.decodeWord .own (s.istoreWord s.cur s.c.pc.toNat) {}).outcome := by
  rw [step_own_turn htrip (by rw [hturns]; rfl), coreStep_eq]
  exact congrArg Ready.outcome (issue_own (s := { s with tick := s.tick + 1 }) hrun hpark hsub hwait hreplay hrewrite hstale hpc hheld hslot)

/-- A word that meets the conditions of issue, and what it waits for first (R43, R47, R52, R53). -/
theorem hazards_run {v : State} {d : Decoded} (hl : v.c.latch.sched = schedOf d) :
    let il := v.c.mode.getLsbD 0
    let early := fun (x : State) (us : List RUse) =>
      if !il && v.c.mode.getLsbD 1 then x.c.stallchk (x.c.e3 x.cycle d) us (schedOf d).sbwait else none
    let due := fun (x : State) (us : List RUse) => x.c.tr.pend && !x.c.tr.exl && x.c.touchesFaulted us
    let us := usesOf d ++ (if v.c.indexOpen d then [] else v.c.valueUses v.cycle d)
    let x := if il then v.interlock (usesOf d) else v.waitTokens (schedOf d).sbwait
    let vs := x.c.valueUses x.cycle d
    let ready := if il then x.interlock vs else x.waitRoom (schedOf d).sbset.toNat
    v.c.decodeTrap d = false → v.c.committed = false →
      (∀ info, early v us = some info → v.hazards d = .done (v.trapPrecise ⟨Cause.stallchk.code, BitVec.ofNat 64 info, true, none⟩)) ∧
      (early v us = none → due v us = false → v.sourceBusy d = false → early x vs = none → due x vs = false → ready.c.mchk = none →
        v.hazards d = .run d ready) := by
  intro il early due us x vs ready hdec hcom
  have hneg : ¬(v.c.decodeTrap d || v.c.committed) = true := by simp [hdec, hcom]
  have hx : SameIssue v.c x.c := by
    refine KeepsIssue.c ?_
    dsimp only [x]
    split
    · exact keepsIssue_interlock ..
    · exact keepsIssue_waitTokens ..
  constructor
  · intro info he
    have hs : v.decodeStop d us = _ := decodeStop_checked (by rw [hl]; exact he)
    unfold State.hazards
    dsimp only
    rw [if_neg hneg, hs]
  · intro he hd hb he' hd' hm
    have hs : v.decodeStop d us = none := decodeStop_none (by rw [hl]; exact he) hd
    have hs' : x.decodeStop d vs = none := decodeStop_none (by rw [hx.mode, hx.latch, hl]; exact he') hd'
    unfold State.hazards
    dsimp only
    rw [if_neg hneg, hs]
    dsimp only
    rw [if_neg (by simp [hb]), hl, hs']
    dsimp only
    rw [hm]

/-- Settles O57: the own word of a core (`step_own`, `hazards_run`), and the listed turns (`orderTurns_of_port`). -/
theorem stepRunsDecoded : Obligations.StepRunsDecoded := by
  refine ⟨?_, ?_, ?_⟩
  · intro s htrip hturns hrun hpark hsub hwait hreplay hrewrite hstale hpc u w hheld hslot hoff
    have hstep : step s = (u.decodeWord .own w {}).outcome :=
      step_own htrip hturns hrun hpark hsub hwait hreplay hrewrite hstale hpc hheld hslot
    constructor
    · intro e he
      rw [hstep, decodeWord_error he]
      rfl
    · intro d hd v
      have hv : step s = (v.hazards d).outcome := by rw [hstep, decodeWord_ok hd hoff]
      have hl : v.c.latch.sched = schedOf d := by
        simp only [v, State.latched, c_upd]
      intro il early due us x vs ready
      refine ⟨fun h => by rw [hv, hazards_early h]; rfl, fun hdec hcom => ?_⟩
      obtain ⟨h1, h2⟩ := hazards_run hl hdec hcom
      constructor
      · intro info he
        rw [hv, h1 info he]
        rfl
      · intro he hd hb he' hd' hm
        rw [hv, h2 he hd hb he' hd' hm]
        rfl
  · intro s n r htrip hturns
    exact step_core_turn htrip (by rw [hturns, orderTurns_of_no_port rfl])
  · intro s t before rest i second src d htrip hturns hbefore hport v
    have ho : orderTurns s.turns = t :: (before ++ rest) := by
      rw [hturns]
      rcases hport with ⟨rfl, ht⟩ | ⟨p, ht, hlt, hle⟩
      · exact orderTurns_of_no_port ht
      · refine orderTurns_of_port ht ?_ ?_ hlt hle
        · rcases hbefore with rfl | ⟨-, h⟩
          · exact fun u hu => absurd hu List.not_mem_nil
          · exact h
        · exact hbefore.imp_right And.left
    constructor
    · rintro rfl hi
      exact step_event_turn htrip ho hi
    · rintro rfl
      exact step_datagram_turn htrip ho

end Sys2Proof.Machine
end

section
/-!
Pair words (O36, R36 to R42): what each half reads and writes, alone beside HNOP and with another half.
-/
namespace Sys2Proof.Machine

open Safety (bare outside Became Ends putG putI putV putK CompletesTo Completes OnlyCaches)

/-! ## Halves that write one register -/

/-- In `u` the g and k registers read as in `s`. -/
def SameReads (s u : State) : Prop := (∀ r, u.rdG r = s.rdG r) ∧ ∀ r, u.rdK r = s.rdK r

theorem SameReads.trans {s t u : State} (h : SameReads s t) (k : SameReads t u) : SameReads s u :=
  ⟨fun r => (k.1 r).trans (h.1 r), fun r => (k.2 r).trans (h.2 r)⟩
theorem SameReads.rdI {s u : State} (h : SameReads s u) (r : GReg) : u.rdI r = s.rdI r := congrArg TReg.int (h.1 r)

/-- Half `h` reads in `u` and then changes the core by `f`, whatever happens between. -/
structure Commits (h : Instr) (u : State) (f : Core → Core) : Prop where
  write : ∃ g, halfRead h u = (.ok (do modify g; return none), u) ∧ ∀ t, Became t (g t) (f t.c) ∧ SameIssue t.c (g t).c
  /-- What `f` does does not depend on what issue keeps. -/
  bare : ∀ c c', bare c = bare c' → bare (f c) = bare (f c')

theorem bare_putG (c : Core) (r : GReg) (x : TReg) : bare (putG c r x) = putG (bare c) r x := by
  unfold putG
  split <;> rfl
theorem bare_putK (c : Core) (r : KReg) (x : Mask) : bare (putK c r x) = putK (bare c) r x := by
  unfold putK
  split <;> rfl

theorem commits_g {h : Instr} {u : State} {d : GReg} {x : TReg} (hr : halfRead h u = (.ok (do modify (·.wrG d x 1); return none), u)) :
    Commits h u (fun c => putG c d x) :=
  ⟨⟨_, hr, fun t => ⟨became_wrG t d x 1, issue_wrG t d x 1⟩⟩, fun c c' hc => by rw [bare_putG, bare_putG, hc]⟩
theorem commits_int {h : Instr} {u : State} {d : GReg} {x : Word} (hr : halfRead h u = (.ok (do modify (·.wrI d x 1); return none), u)) :
    Commits h u (fun c => putI c d x) := commits_g hr
theorem commits_mask {h : Instr} {u : State} {d : KReg} {x : Mask} (hr : halfRead h u = (.ok (do modify (·.wrK d x 1); return none), u)) :
    Commits h u (fun c => putK c d x) :=
  ⟨⟨_, hr, fun t => ⟨became_wrK t d x 1, issue_wrK t d x 1⟩⟩, fun c c' hc => by rw [bare_putK, bare_putK, hc]⟩

/-- What each integer, mask or move half writes (R38). -/
theorem commits_of_half {s u : State} {h : Instr} {f : Core → Core} (hf : Claim.half s h = some f) (hu : SameReads s u) : Commits h u f := by
  have hI := hu.rdI
  obtain ⟨hG, hK⟩ := hu
  cases h with
  | hnop =>
    cases hf
    exact ⟨⟨id, rfl, fun t => ⟨became_refl t, .rfl _⟩⟩, fun _ _ hc => hc⟩
  | hli =>
    cases hf
    exact commits_int rfl
  | hadd | hsub | hand | hor | hxor | hshl | hshr | haddi | handi | hshli | hshri =>
    cases hf
    simp only [← hI]
    exact commits_int rfl
  | hmov d a =>
    cases hf
    simp only [← hG]
    exact commits_g rfl
  | hkand | hkor =>
    cases hf
    simp only [← hK]
    exact commits_mask rfl
  | _ => exact nomatch hf

theorem exec_of_half {s : State} {h : Instr} {f : Core → Core} (hf : Claim.half s h = some f) : exec h s = runHalf (halfRead h) s := by
  cases h with
  | hnop | hadd | hsub | hand | hor | hxor | hshl | hshr | haddi | handi | hshli | hshri | hli | hmov | hkand | hkor => rfl
  | _ => exact nomatch hf
theorem vecHalf_of_half {s : State} {h : Instr} {f : Core → Core} (hf : Claim.half s h = some f) : vecHalf h = false := by
  cases h with
  | hvfadd | hvfmul | hvmov => exact nomatch hf
  | _ => rfl

/-- Such a half beside HNOP completes. -/
theorem completes_half {s : State} {h : Instr} {f : Core → Core} (hf : Claim.half s h = some f) : Completes h s (f s.c) := by
  obtain ⟨⟨g, hg, hgt⟩, -⟩ := commits_of_half hf (u := s) ⟨fun _ => rfl, fun _ => rfl⟩
  obtain ⟨hb, hi⟩ := hgt s
  refine completes_run (u := g s) (m := do let c ← halfRead h; let _ ← c) (exec_of_half hf) ?_ hb hi
  rw [bind_ok hg]
  rfl

/-! ## Two such halves (R41) -/

/-- The state with a half marked as the one at work. -/
def State.atHalf (s : State) (h1 : Bool) : State := s.upd (fun c => { c with latch := { c.latch with half := h1 } })

theorem bind_atHalf {β : Type} (b : Bool) (f : Unit → M β) (s : State) : (atHalf b >>= f) s = f () (s.atHalf b) := rfl

/-- Where the word in issue stands, whichever of its halves is at work. -/
def place (c : Core) : BitVec 12 × Source × Weave := (c.pc, c.latch.src, c.w)

theorem place_of_issue {c d : Core} (h : SameIssue c d) : place d = place c := by rw [place, place, h.pc, h.latch, h.w]
theorem place_atHalf (s : State) (b : Bool) : place (s.atHalf b).c = place s.c := by rw [State.atHalf, c_upd]; rfl
theorem sameReads_atHalf (s : State) (b : Bool) : SameReads s (s.atHalf b) :=
  ⟨fun _ => by simp only [State.rdG, State.atHalf, c_upd]; rfl, fun _ => by simp only [State.rdK, State.atHalf, c_upd]; rfl⟩
theorem became_atHalf {s u : State} {c : Core} (h : Became s u c) (b : Bool) : Became s (u.atHalf b) c :=
  became_next h (became_upd u _) h.2.1
/-- A further change of the core, whatever it was before. -/
theorem became_chain {s u t : State} {c d e : Core} (h : Became s u c) (k : Became u t d) (he : bare d = bare e) : Became s t e := by
  obtain ⟨hout, -, hothers⟩ := h
  obtain ⟨kout, kc, kothers⟩ := k
  exact ⟨kout.trans hout, kc.trans he, fun n hn => (kothers n (by rwa [cur_of_outside hout])).trans (hothers n hn)⟩
theorem ends_of_place {s u t : State} {p : BitVec 12} (h : place u.c = place s.c) (e : Ends u t p) : Ends s t p := by
  obtain ⟨-, h⟩ := Prod.ext_iff.1 h
  obtain ⟨hsrc, hw⟩ := Prod.ext_iff.1 h
  intro h1 h2
  exact e (Eq.trans hsrc h1) (Eq.trans (congrArg Weave.brw hw) h2)

/-- What a pair of them leaves: both have read the state at issue; half 1 has written, then half 0. -/
theorem pairBody_halves {s : State} {h1 h0 : Instr} {f1 f0 : Core → Core} (hf1 : Claim.half s h1 = some f1) (hf0 : Claim.half s h0 = some f0) :
    ∃ u, pairBody h1 h0 s = (.ok none, u) ∧ Became s u (f0 (f1 s.c)) ∧ place u.c = place s.c := by
  have r1 := sameReads_atHalf s true
  have r2 := r1.trans (sameReads_atHalf (s.atHalf true) false)
  obtain ⟨⟨g1, hg1, w1⟩, b1⟩ := commits_of_half hf1 r1
  obtain ⟨⟨g0, hg0, w0⟩, b0⟩ := commits_of_half hf0 r2
  let s3 := ((s.atHalf true).atHalf false).atHalf true
  let s5 := (g1 s3).atHalf false
  refine ⟨(g0 s5).atHalf false, ?_, ?_, ?_⟩
  · have hrun : pairBody h1 h0 s = (.ok none, (g0 s5).atHalf (vecHalf h1)) := by
      unfold pairBody
      rw [bind_atHalf, bind_ok hg1, bind_atHalf, bind_ok hg0]
      rfl
    rw [hrun, vecHalf_of_half hf1]
  · have hs3 : Became s s3 s.c := became_atHalf (became_atHalf (became_atHalf (became_refl s) _) _) _
    have hs4 : Became s (g1 s3) (f1 s.c) := became_chain hs3 (w1 s3).1 (b1 _ _ hs3.2.1)
    have hs5 : Became s s5 (f1 s.c) := became_atHalf hs4 _
    exact became_atHalf (became_chain hs5 (w0 s5).1 (b0 _ _ hs5.2.1)) _
  · rw [place_atHalf, place_of_issue (w0 s5).2, place_atHalf, place_of_issue (w1 s3).2, place_atHalf, place_atHalf, place_atHalf]

theorem pairWords : Claim.PairWords := by
  intro s h1 h0 f1 f0 hf1 hf0
  obtain ⟨u, hu, hb, hp⟩ := pairBody_halves hf1 hf0
  have he : execPair h1 h0 s = .next (u.finish none) := by
    unfold execPair
    rw [vecHalf_of_half hf1, vecHalf_of_half hf0, if_neg (by decide)]
    refine run_ok ?_
    rw [bind_ok hu]
    rfl
  refine ⟨_, he, became_trans hb (became_of_bare (became_finish u none _ _) rfl), ?_⟩
  have hpc : u.c.pc = s.c.pc := congrArg Prod.fst hp
  exact hpc ▸ ends_of_place hp (ends_finish u none _ _)

/-! ## What an effect that ends well has passed -/

theorem bind_eq_ok {α β : Type} {m : M α} {f : α → M β} {s t : State} {b : β} :
    (m >>= f) s = (.ok b, t) ↔ ∃ a u, m s = (.ok a, u) ∧ f a u = (.ok b, t) := by
  rw [bind_run]
  rcases m s with ⟨e | a, u⟩
  · exact ⟨nofun, fun ⟨_, _, h, _⟩ => nomatch h⟩
  · refine ⟨fun h => ⟨a, u, rfl, h⟩, fun ⟨_, _, h, hf⟩ => ?_⟩
    cases h
    exact hf
theorem raiseIf_eq_ok {b : Bool} {c : Cause} {n : Nat} {s t : State} {x : Unit} : raiseIf b c n s = (.ok x, t) ↔ b = false ∧ t = s := by
  cases b
  · exact ⟨fun h => by cases h; exact ⟨rfl, rfl⟩, fun ⟨_, h⟩ => h ▸ rfl⟩
  · exact ⟨fun h => (nomatch congrArg Prod.fst h), nofun⟩
theorem pure_eq_ok {α : Type} {a b : α} {s t : State} : (pure a : M α) s = (.ok b, t) ↔ a = b ∧ t = s := by
  rw [pure_run]
  exact ⟨fun h => by cases h; exact ⟨rfl, rfl⟩, fun ⟨h, k⟩ => h ▸ k ▸ rfl⟩
theorem get_eq_ok {s t u : State} : (get : M State) s = (.ok u, t) ↔ s = u ∧ t = s := by
  rw [get_run]
  exact ⟨fun h => by cases h; exact ⟨rfl, rfl⟩, fun ⟨h, k⟩ => by subst h; subst k; rfl⟩

theorem capLive_caches {s s' : State} {c : TReg} {ea : Nat} {e : Grant} (h : capLive c ea s = (.ok e, s')) : OnlyCaches s s' := by
  simp only [capLive, bind_eq_ok, raiseIf_eq_ok, get_eq_ok, pure_eq_ok] at h
  obtain ⟨_, _, ⟨-, rfl⟩, _, _, ⟨rfl, rfl⟩, _, _, ⟨-, rfl⟩, _, _, hg, _, _, ⟨-, rfl⟩, -, rfl⟩ := h
  exact grantEntry_caches hg
theorem capcheck_caches {s s' : State} {c : TReg} {ea n : Nat} {need : BitVec 12} {e : Grant} (h : capcheck c ea n need s = (.ok e, s')) :
    OnlyCaches s s' := by
  simp only [capcheck, bind_eq_ok, raiseIf_eq_ok, pure_eq_ok] at h
  obtain ⟨_, _, hl, _, _, ⟨-, rfl⟩, _, _, ⟨-, rfl⟩, -, rfl⟩ := h
  exact capLive_caches hl
theorem stepLocal_stays {s s' : State} {ea : Nat} {x : Unit} (h : stepLocal ea s = (.ok x, s')) : s' = s := by
  simp only [stepLocal, bind_eq_ok, get_eq_ok, raiseIf_eq_ok] at h
  obtain ⟨_, _, ⟨rfl, rfl⟩, -, rfl⟩ := h
  rfl
theorem locateM_caches {s s' : State} {a : Acc} {ea n : Nat} {l : Loc} (h : locateM a ea n s = (.ok l, s')) : OnlyCaches s s' := by
  obtain ⟨t, ht⟩ := locate_tlb s s.party a ea n
  unfold locateM at h
  rw [bind_get] at h
  rcases hl : s.locate s.party a ea n with ⟨f | l', u⟩ <;> rw [hl] at h ht
  · exact nomatch congrArg Prod.fst h
  · simp only at h ht
    rw [bind_set] at h
    cases h
    exact ht ▸ onlyCaches_tlb s t

/-- HLD and HST that pass their checks have changed only what those may cache (R39). -/
theorem halfAccess_caches {s s' : State} {c : TReg} {ea : Nat} {need : BitVec 12} {a : Acc} {l : Loc}
    (h : halfAccess c ea need a s = (.ok l, s')) : OnlyCaches s s' := by
  simp only [halfAccess, bind_eq_ok, raiseIf_eq_ok] at h
  obtain ⟨_, s1, hc, _, s2, hs, _, _, ⟨-, rfl⟩, _, _, ⟨-, rfl⟩, hl⟩ := h
  rw [stepLocal_stays hs] at hl
  exact onlyCaches_trans (capcheck_caches hc) (locateM_caches hl)

/-! ## Loads and stores of a plain home -/

theorem awaitsAmo_of_plain {s : State} {l : Loc} {ea n : Nat} (h : Claim.Plain s l ea n) : s.awaitsAmo l.key n = false := by
  unfold State.awaitsAmo
  rw [List.any_eq_false]
  intro i hi
  simpa using h.known i hi
theorem became_block (s : State) (salt : Nat) : Became s (s.block salt) s.c := became_of_bare (became_upd s _) rfl
theorem issue_block (s : State) (salt : Nat) : SameIssue s.c (s.block salt).c := by
  rw [State.block, c_upd]
  exact ⟨rfl, rfl, rfl, rfl, rfl, rfl⟩

/-- A load of a plain home gives the bytes the core sees, and at most delays the next word (R190, R202). -/
theorem loadBytes_plain {s : State} {l : Loc} {ea n : Nat} (h : Claim.Plain s l ea n) :
    ∃ tag u, loadBytes l ea n s = (.ok (Claim.seen s l.key n, tag), u) ∧ Became s u s.c ∧ SameIssue s.c u.c := by
  have ha := awaitsAmo_of_plain h
  have hf : s.flushAmo l.key n = s := if_neg (by simp [ha])
  have hm : s.meetsError l.key n = false := by simp [State.meetsError, h.good]
  unfold loadBytes
  simp only [bind_get, h.stack, h.host, amoFirst, Bool.false_eq_true, if_false]
  rw [bind_holdIf h.free]
  simp only [bind_run, modify_run, get_run, hf, ha, holdIf, hm, raiseIf, Bool.false_eq_true, if_false, pure_run]
  split
  · exact ⟨_, _, rfl, became_block .., issue_block ..⟩
  · exact ⟨_, _, rfl, became_refl s, .rfl _⟩

theorem roomFor_free {s : State} {n : Nat} (h : s.c.sq.length + n ≤ 32) : roomFor n s = (.ok (), s) := by
  have h0 : s.c.sq.length + n - 32 = 0 := by omega
  have h1 : decide (32 < s.c.sq.length + n) = false := by simpa using h
  unfold roomFor
  simp only [bind_modify, h0, List.range_zero, List.foldl_nil, bind_get, h1]
  rfl
/-- A store to a plain home joins the queue (R191). -/
theorem storeBytes_plain {s : State} {l : Loc} {ea n : Nat} {bs : List Byte} {tag : Bool} (h : Claim.Plain s l ea n) (hq : s.c.sq.length < 32) :
    storeBytes l ea bs tag s =
      (.ok (), s.enqueue (.write (cellsAt l.key bs) (if l.tagless then [] else [(l.key / 16, tag)])) (homeOf l.key)) := by
  unfold storeBytes
  simp only [bind_get, h.stack, h.host, Bool.false_eq_true, if_false]
  rw [bind_holdIf h.free, bind_ok (roomFor_free hq)]
  rfl
theorem enqueue_free {s : State} {op : SqOp} {home : Home} (hq : s.c.sq.length < 32) :
    s.enqueue op home = s.upd (fun c => Claim.queued c [(op, home)]) := by
  unfold State.enqueue
  simp only [if_neg (Nat.not_le.2 hq)]
  rfl

theorem halfEa_eq (c : TReg) (imm : BitVec 13) : halfEa c imm = (c.int.toNat + 8 * imm.toNat) % 2 ^ 64 := by
  have hb : capAddr c = c.int.toNat := by simp [capAddr, bitsOf, TReg.int]
  unfold halfEa eaOf addEa
  rw [hb]
  omega

theorem completes_hld {s s' : State} {d a : GReg} {imm : BitVec 13} {l : Loc}
    (h : halfAccess (s.rdG a) (halfEa (s.rdG a) imm) permR .load s = (.ok l, s')) (hp : Claim.Plain s' l (halfEa (s.rdG a) imm) 8) :
    CompletesTo (.hld d a imm) s s' (putI s'.c d (BitVec.ofNat 64 (leNat (Claim.seen s' l.key 8)))) (s.c.pc + 1) := by
  obtain ⟨tag, u, hload, hb, hi⟩ := loadBytes_plain hp
  have hr : readHld d a imm s = (.ok (do modify (·.wrI d (BitVec.ofNat 64 (leNat (Claim.seen s' l.key 8))) 4); return none), u) := by
    unfold readHld
    rw [bind_get]
    simp only
    rw [bind_ok h, bind_ok hload]
    rfl
  have hissue := (issue_caches (halfAccess_caches h)).trans hi
  obtain ⟨t, he, ht, hend⟩ := completes_wr (i := .hld d a imm) (m := do let c ← readHld d a imm; let _ ← c) (d := d) (u := u) (lat := 4)
    (x := TReg.ofInt (BitVec.ofNat 64 (leNat (Claim.seen s' l.key 8)))) rfl (by rw [bind_ok hr]; rfl) hissue
  exact ⟨t, he, became_chain hb ht (by rw [bare_putG, hb.2.1, ← bare_putG]; rfl), hend⟩

theorem completes_hst {s s' : State} {d a : GReg} {imm : BitVec 13} {l : Loc}
    (h : halfAccess (s.rdG a) (halfEa (s.rdG a) imm) permW .store s = (.ok l, s')) (hp : Claim.Plain s' l (halfEa (s.rdG a) imm) 8)
    (hq : s'.c.sq.length < 32) :
    CompletesTo (.hst d a imm) s s' (Claim.queued s'.c [(.write (cellsAt l.key (leBytes (s.rdI d).toNat 8))
      (if l.tagless then [] else [(l.key / 16, false)]), homeOf l.key)]) (s.c.pc + 1) := by
  have hr : readHst d a imm s = (.ok (do storeBytes l (halfEa (s.rdG a) imm) (leBytes (s.rdI d).toNat 8) false; return none), s') := by
    unfold readHst
    rw [bind_get, bind_ok h, bind_ok (roomFor_free hq)]
    rfl
  have hrun : (do let c ← readHst d a imm; let _ ← c : M Unit) s = (.ok (), s'.upd fun c => Claim.queued c
      [(.write (cellsAt l.key (leBytes (s.rdI d).toNat 8)) (if l.tagless then [] else [(l.key / 16, false)]), homeOf l.key)]) := by
    rw [bind_ok hr, ← enqueue_free hq]
    simp only [bind_run, storeBytes_plain hp hq, pure_run]
  have hissue : SameIssue s.c (s'.upd fun c => Claim.queued c
      [(.write (cellsAt l.key (leBytes (s.rdI d).toNat 8)) (if l.tagless then [] else [(l.key / 16, false)]), homeOf l.key)]).c := by
    rw [c_upd]
    exact (issue_caches (halfAccess_caches h)).trans ⟨rfl, rfl, rfl, rfl, rfl, rfl⟩
  obtain ⟨t, he, ht, hend⟩ := leaves_run (i := .hst d a imm) rfl hrun hissue
  exact ⟨t, he, became_chain (became_upd s' _) ht (by rw [c_upd]), hend⟩

/-! ## Vector halves (R38, R455) -/

/-- How a ring word that issues takes its entry, once its effect has said whether it faulted. -/
def ringEnd : Option VFault → M Unit
  | none => modify (·.upd (·.takeEntry 0))
  | some f => modify (·.upd (·.ringFault f))

/-- A ring word that may issue has its effect and takes its entry (R455). -/
theorem ringWordM_ready {s : State} {body : Nat → M (Option VFault)} (h : Claim.Ready s) :
    ringWordM body s = (body 0 >>= ringEnd) s := by
  unfold ringWordM
  rw [bind_get]
  cases hsrc : s.c.latch.src with
  | replay q => exact absurd hsrc (h.fresh q)
  | own | item | rewrite =>
    simp only [h.quiet, h.slot, h.unit, Bool.false_eq_true, if_false]
    rw [bind_holdIf_false]
    refine congrArg (fun f => (body 0 >>= f) s) (funext ?_)
    rintro (_ | f) <;> rfl

theorem became_upd_c (s : State) (f : Core → Core) : Became s (s.upd f) (s.upd f).c := (c_upd s f).symm ▸ became_upd s f

section
variable {i : Instr} {s u : State} {body : Nat → M (Option VFault)} {k c : Core}

/-- A ring word whose effect leaves `u`, where the executing core is `k`, completes; its entry is done. -/
theorem completes_ring (hx : exec i s = runRing body s) (hr : Claim.Ready s) (hbody : body 0 s = (.ok none, u)) (hb : Became s u u.c)
    (hk : u.c = k) (hi : SameIssue s.c k) (he : bare (k.takeEntry 0) = bare (Claim.entered c) := by rfl) :
    Completes i s (Claim.entered c) := by
  refine completes_run (u := u.upd (·.takeEntry 0)) hx ?_ (became_chain hb (became_upd u _) (hk ▸ he)) ?_
  · rw [ringWordM_ready hr, bind_ok hbody]
    rfl
  · rw [c_upd, hk]
    exact hi.trans ⟨rfl, rfl, rfl, rfl, rfl, rfl⟩
/-- One whose effect faults completes too; its entry holds the fault. -/
theorem completes_ringFault {f : VFault} (hx : exec i s = runRing body s) (hr : Claim.Ready s) (hbody : body 0 s = (.ok (some f), u))
    (hb : Became s u u.c) (hk : u.c = k) (hi : SameIssue s.c k) (he : bare (k.ringFault f) = bare (Claim.faulted c f) := by rfl) :
    Completes i s (Claim.faulted c f) := by
  refine completes_run (u := u.upd (·.ringFault f)) hx ?_ (became_chain hb (became_upd u _) (hk ▸ he)) ?_
  · rw [ringWordM_ready hr, bind_ok hbody]
    rfl
  · rw [c_upd, hk]
    exact hi.trans ⟨rfl, rfl, rfl, rfl, rfl, rfl⟩
end

theorem writesV_hvmov {s : State} (hr : Claim.Ready s) (v w : Fin 64) : Claim.writesV (.hvmov v w) s (halfV v) (s.rdV (halfV w)) :=
  completes_ring (u := s.wrV (halfV v) (s.rdV (halfV w)) 2) rfl hr rfl (became_upd_c s _) (c_upd s _) (sameIssue_writeV ..)

/-! ## The FPX record (R245) -/

theorem foldl_or_and_eq_zero {ls : List Nat} {f : Nat → FFlags} {en x : FFlags} :
    ls.foldl (fun x l => x ||| f l) x &&& en = 0 ↔ x &&& en = 0 ∧ ∀ l ∈ ls, f l &&& en = 0 := by
  induction ls generalizing x with
  | nil => simp
  | cons l ls ih =>
    rw [List.foldl_cons, ih, List.forall_mem_cons, ← and_assoc, BitVec.and_or_distrib_right]
    exact and_congr_left' BitVec.or_eq_zero_iff
/-- No lane raises an enabled flag exactly when none of the flags raised is enabled. -/
theorem hotLanes_eq_nil {ls : List Nat} {f : Nat → FFlags} {en : FFlags} :
    ls.filter (fun l => f l &&& en != 0) = [] ↔ orFlags ls f &&& en = 0 := by
  unfold orFlags
  rw [foldl_or_and_eq_zero, List.filter_eq_nil_iff]
  simp

/-- Adding up the powers of two of some lanes gives the number with those bits. -/
theorem foldl_pow_of_bits (n k a : Nat) (p : Nat → Bool) : (List.range n).foldl (fun x l => if p l then x + 2 ^ (k + l) else x) a =
    a + Nat.ofBits (fun l : Fin n => p l) * 2 ^ k := by
  induction n generalizing k a p with
  | zero => simp
  | succ n ih =>
    have hk : ∀ l, 2 ^ (k + (l + 1)) = 2 ^ (k + 1 + l) := fun l => by rw [Nat.add_right_comm, Nat.add_assoc]
    have h0 : Nat.ofBits (fun l : Fin (n + 1) => p l) = 2 * Nat.ofBits (fun l : Fin n => p (l + 1)) + (p 0).toNat := Nat.ofBits_succ _
    rw [List.range_succ_eq_map, List.foldl_cons, List.foldl_map]
    simp only [Nat.succ_eq_add_one, hk]
    rw [ih (k + 1) _ (fun l => p (l + 1)), h0]
    cases p 0 <;> simp <;> ring

/-- The flags in the low bits and the lanes from bit 16 on are one number. -/
theorem ofNat_flags_lanes (x : FFlags) (m : Mask) :
    BitVec.ofNat 64 (x.toNat + m.toNat * 2 ^ 16) = x.setWidth 64 ||| (m.setWidth 64 <<< 16) := by
  have hx : x.toNat < 2 ^ 5 := x.isLt
  have hm : m.toNat < 2 ^ 16 := m.isLt
  refine BitVec.eq_of_toNat_eq ?_
  have hor : x.toNat ||| m.toNat <<< 16 = x.toNat + m.toNat * 2 ^ 16 := by
    rw [Nat.or_comm, ← Nat.shiftLeft_add_eq_or_of_lt (by omega), Nat.shiftLeft_eq, Nat.add_comm]
  rw [BitVec.toNat_or, BitVec.toNat_shiftLeft, BitVec.toNat_setWidth, BitVec.toNat_setWidth, BitVec.toNat_ofNat,
    Nat.mod_eq_of_lt (by omega : x.toNat < 2 ^ 64), Nat.mod_eq_of_lt (by omega : m.toNat < 2 ^ 64),
    Nat.mod_eq_of_lt (a := m.toNat <<< 16) (by rw [Nat.shiftLeft_eq]; omega), hor, Nat.mod_eq_of_lt (by omega)]

/-- The record of an FPX: the enabled flags raised, and the lanes that raised them as a mask. -/
theorem fpxRecord_of_hot {m : Mask} {f : Nat → FFlags} {en : FFlags} (h : orFlags (lanesOf m) f &&& en ≠ 0) (n : Nat) :
    fpxRecord en n (lanesOf m) f = some { cause := Cause.fpx.code, count := n, addr := ((orFlags (lanesOf m) f &&& en).setWidth 64) |||
      ((BitVec.ofFnLE (fun l : Fin 16 => m.getLsbD l && f l &&& en != 0)).setWidth 64 <<< 16) } := by
  have hne : (lanesOf m).filter (fun l => f l &&& en != 0) ≠ [] := mt hotLanes_eq_nil.1 h
  have hsum : ((lanesOf m).filter (fun l => f l &&& en != 0)).foldl (fun n l => n + 2 ^ (16 + l)) 0 =
      (BitVec.ofFnLE (fun l : Fin 16 => m.getLsbD l && f l &&& en != 0)).toNat * 2 ^ 16 := by
    rw [lanesOf, List.filter_filter, List.foldl_filter, foldl_pow_of_bits, Nat.zero_add, BitVec.toNat_ofFnLE]
    simp only [Bool.and_comm]
  simp only [fpxRecord, if_neg hne, hsum, ofNat_flags_lanes]
theorem fpxRecord_of_none {m : Mask} {f : Nat → FFlags} {en : FFlags} (h : orFlags (lanesOf m) f &&& en = 0) (n : Nat) :
    fpxRecord en n (lanesOf m) f = none := if_pos (hotLanes_eq_nil.2 h)

/-! ## The floating-point halves -/

theorem rdK_zero (s : State) : s.rdK 0 = 0xFFFF := by
  simp only [State.rdK, Core.readK, Core.k']
  split <;> rfl
theorem lanes_all (s : State) (d : VReg) (f : Nat → Lane) : Claim.lanes s 0 d f = vecOf f := by
  unfold Claim.lanes vecOf
  congr 1
  funext l
  have h : (s.rdK 0).getLsbD l = true := by
    rw [rdK_zero]
    fin_cases l <;> rfl
  rw [if_pos h]

/-- A core with a vector result written and flags collected. -/
def Core.fpResult (c : Core) (now : Nat) (d : VReg) (x : Vec) (lat : Nat) (flags : FFlags) : Core :=
  { c.writeV now d.val x lat with fpflags := c.fpflags ||| flags }

section
variable {s : State} {i : Instr} {body : Nat → M (Option VFault)} {d : VReg} {x : Vec} {lat : Nat} {m : Mask} {f : Nat → FFlags}
  (hr : Claim.Ready s) (hx : exec i s = runRing body s)
  (hbody : body 0 s = (.ok (fpxRecord s.c.fpEnable (lanesOf m).length (lanesOf m) f),
    (s.wrV d x lat).upd (fun c => { c with fpflags := c.fpflags ||| orFlags (lanesOf m) f })))
include hr hx hbody

/-- A floating-point word that raises no enabled flag. -/
theorem completes_fp (h : orFlags (lanesOf m) f &&& s.c.fpEnable = 0) :
    Completes i s (Claim.entered (putV { s.c with fpflags := s.c.fpflags ||| orFlags (lanesOf m) f } d x)) := by
  rw [fpxRecord_of_none h] at hbody
  exact completes_ring (k := s.c.fpResult s.cycle d x lat (orFlags (lanesOf m) f)) hx hr hbody
    (became_chain (became_upd_c s _) (became_upd_c _ _) rfl) ((c_upd ..).trans (by rw [State.wrV, c_upd]; rfl)) ⟨rfl, rfl, rfl, rfl, rfl, rfl⟩
/-- One that raises an enabled flag records FPX. -/
theorem completes_fpx (h : orFlags (lanesOf m) f &&& s.c.fpEnable ≠ 0) :
    Completes i s (Claim.faulted (putV { s.c with fpflags := s.c.fpflags ||| orFlags (lanesOf m) f } d x)
      { cause := 0x0F, count := (lanesOf m).length, addr := ((orFlags (lanesOf m) f &&& s.c.fpEnable).setWidth 64) |||
        ((BitVec.ofFnLE (fun l : Fin 16 => m.getLsbD l && f l &&& s.c.fpEnable != 0)).setWidth 64 <<< 16) }) := by
  rw [fpxRecord_of_hot h] at hbody
  exact completes_ringFault (k := s.c.fpResult s.cycle d x lat (orFlags (lanesOf m) f)) hx hr hbody
    (became_chain (became_upd_c s _) (became_upd_c _ _) rfl) ((c_upd ..).trans (by rw [State.wrV, c_upd]; rfl)) ⟨rfl, rfl, rfl, rfl, rfl, rfl⟩
end

theorem fpEnable_wrV (s : State) (d : VReg) (x : Vec) (lat : Nat) : (s.wrV d x lat).c.fpEnable = s.c.fpEnable := by
  rw [State.wrV, c_upd]
  rfl

/-- A floating-point word on all sixteen lanes, by its results (R38, R245). -/
theorem fpVec_all {s : State} {i : Instr} {body : Nat → M (Option VFault)} {d : VReg} {lat : Nat} {r : Nat → FRes} (hr : Claim.Ready s)
    (hx : exec i s = runRing body s)
    (hbody : body 0 s = (.ok (fpxRecord (s.wrV d (vecOf (fun l => (r l).1)) lat).c.fpEnable (lanesOf 0xFFFF).length (lanesOf 0xFFFF) (fun l => (r l).2)),
      (s.wrV d (vecOf (fun l => (r l).1)) lat).upd (fun c => { c with fpflags := c.fpflags ||| orFlags (lanesOf 0xFFFF) (fun l => (r l).2) }))) :
    Claim.fpVec i s s 0 d r := by
  rw [fpEnable_wrV] at hbody
  unfold Claim.fpVec Claim.fpWord Claim.mask
  rw [rdK_zero, lanes_all]
  exact ⟨completes_fp hr hx hbody, completes_fpx hr hx hbody⟩

/-- The floating-point halves work on all sixteen lanes (R38). -/
theorem fpVec_half {s : State} {i : Instr} {v w : Fin 64} (f : Bool → Lane → Lane → FRes) (hr : Claim.Ready s)
    (hx : exec i s = runVecHalf (halfFp v w f) s) :
    Claim.fpVec i s s 0 (halfV v) (fun l => f s.c.ftz (laneAt (s.rdV (halfV v)) l) (laneAt (s.rdV (halfV w)) l)) :=
  fpVec_all (body := fun _ => halfFp v w f >>= id) hr hx rfl

theorem pairHalves : Claim.PairHalves := by
  intro s s' h f d a v w imm l c ea r
  have hea : ea = halfEa c imm := (halfEa_eq c imm).symm
  refine ⟨completes_half, fun hr => ⟨fpVec_half (fun z x y => fAdd z .rne x y) hr rfl, fpVec_half (fun z x y => fMul z .rne x y) hr rfl,
    writesV_hvmov hr v w⟩, fun ha hp => ?_, fun ha hp hq => ?_⟩
  · exact completes_hld (hea ▸ ha) (hea ▸ hp)
  · exact completes_hst (hea ▸ ha) (hea ▸ hp) hq

/-- Settles O36: a half alone (`completes_half`, `fpVec_half`, `completes_hld`, `completes_hst`), and two (`pairBody_halves`). -/
theorem pairs : Obligations.Pairs := ⟨pairHalves, pairWords⟩

end Sys2Proof.Machine
end

section
/-!
O37, refuted: a load's last sector and a younger producer whose old value is of another register file.
-/
namespace Sys2Proof.Machine

/-- A g result on its way to g5 whose old value is a mask: `writeG` produces no such one, but the statement's states are
not restricted to those where a producer's old value is of the producer's file. -/
def Traffic.producer : Producer := { file := .g, reg := 5, old := .k 0, due := 100, spos := 10, lat := 4, token := 0 }

/-- An outstanding LDA of 8 bytes to g5, one sector of one byte to come, from a word before the producer's. -/
def Traffic.sector : Sector := ⟨[(0, 0)], false⟩
def Traffic.load : Load := { file := .g, reg := 5, ty := some .z64, sectors := [Traffic.sector] }

/-- A package whose core 0 holds the two. -/
def Traffic.state : State := Test.put { prods := [Traffic.producer], loads := [Traffic.load] }

/-- `Load.put` leaves a value of another file as it is, so the arriving sector leaves the producer's mask. -/
theorem Traffic.arrive_keeps_mask :
    (((Traffic.state.arrive 0 0 0).getC 0).prods.map Producer.old) = [.k 0] := by
  decide

/-- Refutes O37: where an older load's last sector finds a younger producer on its way to the g register, the claim has the
producer show the loaded value; a producer whose `old` is not a g value keeps it (`Load.put`), and nothing in the
statement ties `p.old` to `p.file`. -/
theorem not_coreTraffic : ¬ Obligations.CoreTraffic := by
  unfold Obligations.CoreTraffic
  intro h
  obtain ⟨-, hload, -⟩ := h Traffic.state 0 0 0 0 Traffic.producer Traffic.load Traffic.sector .z64
    ⟨.release .cluster, .hub, 0, 0⟩ [] [] 0 ⟨0, false, false, 0, false⟩
  obtain ⟨hg, -⟩ := hload rfl rfl rfl (by decide)
  obtain ⟨-, -, hyounger⟩ := hg rfl rfl (by decide)
  have hgives := hyounger rfl (by decide) (by decide)
  have hstate := Host.Outcome.next.inj hgives
  have hold := congrArg (fun t : State => (t.getC 0).prods.map Producer.old) hstate
  rw [getC_setC_self, Traffic.arrive_keeps_mask] at hold
  exact absurd hold (by decide)

end Sys2Proof.Machine
end

section
/-!
Integer functions (R104, R105, R108): each of the model's equals the words of the rules, read bit by bit.
-/
namespace Sys2Proof.Machine

/-! ## Counts -/

theorem length_takeWhile_range {p : Nat → Bool} {n k : Nat} (hk : k ≤ n) (hlt : ∀ i < k, p i = true) (hat : k < n → p k = false) :
    ((List.range n).takeWhile p).length = k := by
  obtain ⟨m, rfl⟩ := Nat.exists_eq_add_of_le hk
  rw [List.range_add, List.takeWhile_append_of_pos (fun i hi => hlt i (List.mem_range.1 hi))]
  cases m with
  | zero => simp
  | succ m => simp [List.range_succ_eq_map, hat (by omega)]

theorem popcountNat_eq (n x : Nat) : popcountNat n x = ((List.range n).filter (fun i => x.testBit i)).length := by
  induction n generalizing x with
  | zero => rfl
  | succ n ih =>
    have hsucc : (fun i => x.testBit (i + 1)) = fun i => (x / 2).testBit i := funext fun i => Nat.testBit_succ x i
    rw [popcountNat, ih, List.range_succ_eq_map, List.filter_cons, List.filter_map, Nat.testBit_zero]
    simp only [Function.comp_def, Nat.succ_eq_add_one, hsucc]
    rcases Nat.mod_two_eq_zero_or_one x with h | h <;> simp [h, Nat.add_comm]

theorem alPopc_eq_ones (x : Word) : alPopc x = BitVec.ofNat 64 (Claim.ones x) := by
  rw [alPopc, popcountNat_eq]
  rfl

theorem alClz_eq_lead (x : Word) : alClz x = BitVec.ofNat 64 (Claim.lead x) := by
  unfold alClz Claim.lead
  split
  case isTrue h =>
    rw [length_takeWhile_range (k := 64) (Nat.le_refl 64) (by simp [h]) (by omega)]
    rfl
  case isFalse h =>
    have hx : x.toNat ≠ 0 := fun h0 => h (BitVec.eq_of_toNat_eq h0)
    have hlog : x.toNat.log2 < 64 := (Nat.log2_lt hx).2 x.isLt
    rw [length_takeWhile_range (k := 63 - x.toNat.log2) (by omega)]
    · intro i hi
      have hzero : x.toNat.testBit (63 - i) = false := Nat.testBit_lt_two_pow ((Nat.log2_lt hx).1 (by omega))
      simp [BitVec.getLsbD, hzero]
    · intro _
      have hone : x.toNat.testBit (63 - (63 - x.toNat.log2)) = true := by
        rw [show 63 - (63 - x.toNat.log2) = x.toNat.log2 by omega]
        exact Nat.testBit_log2 hx
      simp [BitVec.getLsbD, hone]

/-- A word and its negative share the lowest one alone. -/
theorem and_neg_eq_twoPow {x : Word} {k : Nat} (hlt : ∀ i < k, x.getLsbD i = false) (hat : x.getLsbD k = true) :
    x &&& (0 - x) = BitVec.twoPow 64 k := by
  refine BitVec.eq_of_getLsbD_eq fun i hi => ?_
  rw [show 0 - x = -x from BitVec.zero_sub x, BitVec.getLsbD_and, BitVec.getLsbD_neg, BitVec.getLsbD_twoPow]
  rcases Nat.lt_trichotomy i k with h | rfl | h
  · simp [hlt i h, Nat.ne_of_gt h]
  · have hnone : ¬ ∃ j < i, x.getLsbD j = true := fun ⟨j, hj, h⟩ => by simp [hlt j hj] at h
    simp [hat, hnone, hi]
  · have hsome : ∃ j < i, x.getLsbD j = true := ⟨k, h, hat⟩
    simp [hsome, hi, Nat.ne_of_lt h]

theorem alCtz_eq_trail (x : Word) : alCtz x = BitVec.ofNat 64 (Claim.trail x) := by
  unfold alCtz Claim.trail
  split
  case isTrue h =>
    rw [length_takeWhile_range (k := 64) (Nat.le_refl 64) (by simp [h]) (by omega)]
    rfl
  case isFalse h =>
    have hex : ∃ k, x.getLsbD k = true := by
      by_contra hno
      exact h (BitVec.eq_of_getLsbD_eq fun i _ => by simpa using fun hi => hno ⟨i, hi⟩)
    have hk : Nat.find hex < 64 := BitVec.lt_of_getLsbD (Nat.find_spec hex)
    have hlt : ∀ i < Nat.find hex, x.getLsbD i = false := fun i hi => by simpa using Nat.find_min hex hi
    rw [and_neg_eq_twoPow hlt (Nat.find_spec hex), length_takeWhile_range (Nat.le_of_lt hk) (fun i hi => by simp [hlt i hi])
      (fun _ => by simp [Nat.find_spec hex]), BitVec.toNat_twoPow, Nat.mod_eq_of_lt (Nat.pow_lt_pow_right (by omega) hk), Nat.log2_two_pow]

/-! ## Bit reversal -/

theorem testBit_revBits (n x i : Nat) : (revBits n x).testBit i = (decide (i < n) && x.testBit (n - 1 - i)) := by
  induction n generalizing i with
  | zero => simp [revBits]
  | succ n ih =>
    have hstep : revBits (n + 1) x = 2 * revBits n x + x / 2 ^ n % 2 := by
      simp [revBits, List.range_succ, Nat.mul_comm]
    rw [hstep]
    cases i with
    | zero => simp [Nat.testBit_eq_decide_div_mod_eq, Nat.add_mod]
    | succ i =>
      have hhalf : (2 * revBits n x + x / 2 ^ n % 2) / 2 = revBits n x := by omega
      rw [Nat.testBit_succ, hhalf, ih]
      simp [Nat.sub_sub, Nat.add_comm]

theorem alBrev_eq_reverse (x : Word) : alBrev x = x.reverse := by
  refine BitVec.eq_of_getLsbD_eq fun i hi => ?_
  rw [alBrev, BitVec.getLsbD_ofNat, testBit_revBits, BitVec.getLsbD_reverse, BitVec.getMsbD]
  simp [BitVec.getLsbD, hi]

/-! ## Fields -/

theorem sextInt_toNat {w : Nat} (h : 0 < w) (y : BitVec w) : sextInt y.toNat w = y.toInt := by
  have hpow : 2 * 2 ^ (w - 1) = 2 ^ w := by rw [← Nat.pow_succ', Nat.succ_eq_add_one, Nat.sub_add_cancel h]
  have hsign : 2 * y.toNat < 2 ^ w ↔ y.toNat < 2 ^ (w - 1) := by omega
  have hmod : y.toNat % 2 ^ w = y.toNat := Nat.mod_eq_of_lt y.isLt
  simp only [sextInt, hmod, if_neg (Nat.ne_of_gt h), BitVec.toInt_eq_toNat_cond, hsign]
  push_cast
  rfl

/-- BFX takes the field's bits and extends them. -/
theorem alBfx_eq_field (x : Word) (pos : Nat) {w : Nat} (h : 0 < w) (sx : Bool) : alBfx x pos w sx = Claim.field x pos w sx := by
  have hf : x.toNat / 2 ^ pos % 2 ^ w = (x.extractLsb' pos w).toNat := by rw [BitVec.extractLsb'_toNat, Nat.shiftRight_eq_div_pow]
  refine BitVec.eq_of_getLsbD_eq fun i hi => ?_
  simp only [alBfx, Claim.field, hf, sextInt_toNat h, BitVec.getLsbD_ofFnLE, hi]
  cases sx with
  | false =>
    rw [if_neg Bool.false_ne_true, BitVec.getLsbD_ofNat]
    change (decide (i < 64) && (x.extractLsb' pos w).getLsbD i) = _
    by_cases hw : i < w <;> simp [hi, hw, BitVec.getLsbD_extractLsb']
  | true =>
    rw [if_pos rfl]
    change ((x.extractLsb' pos w).signExtend 64).getLsbD i = _
    have hmsb : (x.extractLsb' pos w).msb = x.getLsbD (pos + w - 1) := by
      rw [BitVec.msb_eq_getLsbD_last, BitVec.getLsbD_extractLsb', Nat.add_sub_assoc h]
      simp [h]
    rw [BitVec.getLsbD_signExtend, hmsb]
    by_cases hw : i < w <;> simp [hi, hw]

/-- BFI replaces the bits that its mask of `w` ones at `pos` covers. -/
theorem alBfi_eq_insert (d x : Word) (pos w : Nat) : alBfi d x pos w = Claim.insert d x pos w := by
  refine BitVec.eq_of_getLsbD_eq fun i hi => ?_
  simp only [alBfi, Claim.insert, BitVec.getLsbD_ofFnLE, hi, BitVec.getLsbD_or, BitVec.getLsbD_and, BitVec.getLsbD_not, BitVec.getLsbD_ofNat,
    Nat.testBit_mul_two_pow, Nat.testBit_two_pow_sub_one, Nat.testBit_mod_two_pow]
  by_cases hp : pos ≤ i
  · by_cases hw : i < pos + w
    · simp [hp, hw, show i - pos < w by omega, BitVec.getLsbD]
    · simp [hp, hw, hi, show ¬ i - pos < w by omega]
  · simp [hp, hi]

/-! ## Shifts -/

theorem sh6_setWidth (n : BitVec 6) : sh6 (n.setWidth 64) = n.toNat := by
  have := n.isLt
  simp [sh6]
  omega

end Sys2Proof.Machine
end

section
/-!
The integer and mask words (O1, O2, O3): each writes one result to one register (`intTo`, `maskTo`); division's corners (O51).
-/
namespace Sys2Proof.Machine

open Safety (Completes putI putG putK)

/-! ## Integer words -/

/-- Settles O1: each writes an integer result, and the model's functions are those of R105 by definition. -/
theorem intMulDiv : Obligations.IntMulDiv := by
  intro s d a b imm x y z hiS hiZ
  and_intros
  all_goals exact completes_int rfl rfl

theorem intAddLogic : Claim.IntAddLogic := by
  intro s d a b sh imm x y z
  and_intros
  all_goals exact completes_int rfl rfl

theorem intCompare : Claim.IntCompare := by
  intro s d a b imm x y z bit
  have hbit (p : Prop) [Decidable p] : (if p then 1 else 0) = bit (decide p) := by simp [bit]
  refine ⟨completes_int rfl rfl, completes_int rfl rfl, completes_int rfl rfl, completes_int rfl rfl, completes_int rfl rfl,
    completes_int rfl rfl, completes_int rfl rfl, completes_int rfl rfl, ?_⟩
  and_intros
  all_goals exact completes_int rfl (hbit _)

theorem intShiftCount : Claim.IntShiftCount := by
  intro s d a b n imm x k z
  have hn : sh6 (n.setWidth 64) = n.toNat := sh6_setWidth n
  exact ⟨completes_int rfl rfl, completes_int rfl (congrArg (x <<< ·) hn), completes_int rfl rfl, completes_int rfl (congrArg (x >>> ·) hn),
    completes_int rfl rfl, completes_int rfl (congrArg x.sshiftRight hn), completes_int rfl rfl, completes_int rfl (congrArg x.rotateLeft hn),
    completes_int rfl (alClz_eq_lead x), completes_int rfl (alClz_eq_lead z), completes_int rfl (alCtz_eq_trail x),
    completes_int rfl (alCtz_eq_trail z), completes_int rfl (alPopc_eq_ones x), completes_int rfl (alPopc_eq_ones z),
    completes_int rfl (alBrev_eq_reverse x), completes_int rfl (alBrev_eq_reverse z)⟩

theorem intFieldMove : Claim.IntFieldMove := by
  intro s d a b w pos wm1 sx imm x k
  exact ⟨fun ⟨hw, _⟩ => ⟨completes_int rfl (alBfx_eq_field _ _ hw sx), completes_int rfl (alBfi_eq_insert ..)⟩,
    completes_int rfl (alBfx_eq_field _ _ (Nat.succ_pos _) sx), completes_int rfl (alBfi_eq_insert ..),
    completes_reg rfl rfl, completes_int rfl rfl⟩

/-- Settles O2: each writes one result, and the model's counts and fields are the rules' (`alClz_eq_lead`, `alCtz_eq_trail`,
`alPopc_eq_ones`, `alBrev_eq_reverse`, `alBfx_eq_field`, `alBfi_eq_insert`). -/
theorem intWords : Obligations.IntWords := ⟨intAddLogic, intCompare, intShiftCount, intFieldMove⟩

/-! ## Mask words -/

/-- The first number below `n` with a property, `n` where there is none, is how many come before it. -/
theorem headD_filter_range (p : Nat → Bool) (n : Nat) : ((List.range n).filter p).headD n = ((List.range n).takeWhile (fun i => !p i)).length := by
  rw [List.headD_eq_head?_getD, List.head?_filter]
  cases hf : (List.range n).find? p with
  | none =>
    have hnone : ∀ i < n, (!p i) = true := by simpa [List.find?_range_eq_none] using hf
    rw [length_takeWhile_range (Nat.le_refl n) hnone (fun h => absurd h (Nat.lt_irrefl n)), Option.getD_none]
  | some k =>
    obtain ⟨hp, hk, hlt⟩ := List.find?_range_eq_some.1 hf
    rw [length_takeWhile_range (Nat.le_of_lt (List.mem_range.1 hk)) hlt (fun _ => by simp [hp]), Option.getD_some]

/-- Settles O3: each writes one result; KPOPC and KFF count as R111 says (`popcountNat_eq`, `headD_filter_range`). -/
theorem maskWords : Obligations.MaskWords := by
  intro s d a b g h imm x y
  have hones : popcountNat 16 x.toNat = ((List.range 16).filter (fun i => x.getLsbD i)).length := popcountNat_eq 16 x.toNat
  have hfirst : (lanesOf x).headD 16 = ((List.range 16).takeWhile (fun i => !x.getLsbD i)).length := headD_filter_range x.getLsbD 16
  exact ⟨completes_mask rfl rfl, completes_mask rfl rfl, completes_mask rfl rfl, completes_mask rfl rfl, completes_mask rfl rfl,
    completes_mask rfl rfl, completes_mask rfl rfl, completes_mask rfl rfl, completes_int rfl rfl,
    completes_int rfl (congrArg (BitVec.ofNat 64) hones), completes_int rfl (congrArg (BitVec.ofNat 64) hfirst)⟩

/-! ## Division's corners (R105) -/

theorem alDivS_zero (x : Word) : alDivS x 0 = 0xFFFFFFFFFFFFFFFF := rfl
theorem alDivZ_zero (x : Word) : alDivZ x 0 = 0xFFFFFFFFFFFFFFFF := rfl
theorem alRemS_zero (x : Word) : alRemS x 0 = x := rfl
theorem alRemZ_zero (x : Word) : alRemZ x 0 = x := rfl
theorem alDivS_low_neg_one : alDivS 0x8000000000000000 (BitVec.allOnes 64) = 0x8000000000000000 := by decide
theorem alRemS_low_neg_one : alRemS 0x8000000000000000 (BitVec.allOnes 64) = 0 := by decide
theorem simm_zero : simm 0 = 0 := by decide
theorem simm_allOnes : simm (BitVec.allOnes 17) = BitVec.allOnes 64 := by decide

/-- Settles O51: the corners are those of the model's functions (`alDivS_zero`, `alDivS_low_neg_one` and the like), every such word
writes some result, and sums, differences and products of words are those of integers, reduced. -/
theorem divisionCorners : Obligations.DivisionCorners := by
  intro s d a b sh imm x y z low
  refine ⟨fun hy => ?_, fun hi => ?_, fun hx hy => ?_, fun hx hi => ?_, ?_, ?_⟩
  · change s.rdI b = 0 at hy
    exact ⟨completes_int rfl (hy ▸ alDivS_zero x), completes_int rfl (hy ▸ alDivZ_zero x), completes_int rfl (hy ▸ alRemS_zero x),
      completes_int rfl (hy ▸ alRemZ_zero x)⟩
  · have hz : simm imm = 0 := hi ▸ simm_zero
    exact ⟨completes_int rfl (hz ▸ alDivS_zero x), completes_int rfl (hz ▸ alDivZ_zero x), completes_int rfl (hz ▸ alRemS_zero x),
      completes_int rfl (hz ▸ alRemZ_zero x)⟩
  · change s.rdI a = low at hx
    change s.rdI b = _ at hy
    exact ⟨completes_int rfl (by rw [hx, hy]; exact alDivS_low_neg_one), completes_int rfl (by rw [hx, hy]; exact alRemS_low_neg_one)⟩
  · change s.rdI a = low at hx
    have hz : simm imm = BitVec.allOnes 64 := hi ▸ simm_allOnes
    exact ⟨completes_int rfl (by rw [hx, hz]; exact alDivS_low_neg_one), completes_int rfl (by rw [hx, hz]; exact alRemS_low_neg_one)⟩
  · intro i hi
    simp only [List.mem_cons, List.not_mem_nil, or_false] at hi
    rcases hi with rfl | rfl | rfl | rfl | rfl | rfl | rfl | rfl | rfl | rfl | rfl | rfl | rfl | rfl
    all_goals exact ⟨_, completes_int rfl rfl⟩
  · intro wraps
    have hadd (p q : Word) : BitVec.ofInt 64 (p.toInt + q.toInt) = p + q := by simp [BitVec.ofInt_add]
    have hsub (p q : Word) : BitVec.ofInt 64 (p.toInt - q.toInt) = p - q := by
      simp [Int.sub_eq_add_neg, BitVec.ofInt_add, BitVec.ofInt_neg, BitVec.sub_eq_add_neg]
    have hmul (p q : Word) : BitVec.ofInt 64 (p.toInt * q.toInt) = p * q := by simp [BitVec.ofInt_mul]
    have hmad (o p q : Word) : BitVec.ofInt 64 (o.toInt + p.toInt * q.toInt) = o + p * q := by simp [BitVec.ofInt_add, BitVec.ofInt_mul]
    exact ⟨completes_int rfl (hadd ..).symm, completes_int rfl (hadd ..).symm, completes_int rfl (hsub ..).symm, completes_int rfl (hsub ..).symm,
      completes_int rfl (hmul ..).symm, completes_int rfl (hmul ..).symm, completes_int rfl (hmad ..).symm, completes_int rfl (hmad ..).symm⟩

end Sys2Proof.Machine
end

section
/-!
Registers that hold constants (R93) and registers banked by mode (R95): O49 and O50.
-/
namespace Sys2Proof.Machine

open Safety (Completes putI putK)

theorem readG_zero (c : Core) (now : Nat) : c.readG now 0 = TReg0 := by
  unfold Core.readG
  split <;> rfl
theorem readK_zero (c : Core) (now : Nat) : c.readK now 0 = 0xFFFF := by
  unfold Core.readK
  split <;> rfl

/-- Settles O49: whatever a producer still shows of g0 or k0 is not what is read (`readG_zero`, `readK_zero`), and a write ends there. -/
theorem zeroRegisters : Obligations.ZeroRegisters :=
  ⟨fun c now _ _ _ => ⟨readG_zero c now, rfl, readK_zero c now, rfl⟩,
    fun _ _ _ => ⟨completes_int (d := 0) rfl rfl, completes_mask (d := 0) rfl rfl⟩⟩

/-- Two register numbers name one register, each in its mode, when they are equal and the mode does not matter to them (R95). -/
theorem gKey_eq_iff {m n : Bool} {q r : Nat} (hq : q < 64) (hr : r < 64) : gKey m q = gKey n r ↔ q = r ∧ (m = n ∨ r < 60) := by
  have hsys (a : Nat) : gKey true a = if 60 ≤ a then a + 4 else a := by simp [gKey]
  have huser (a : Nat) : gKey false a = a := by simp [gKey]
  cases m <;> cases n
  · simp [huser]
  · rw [huser, hsys]
    split <;> simp <;> omega
  · rw [huser, hsys]
    split <;> simp <;> omega
  · rw [hsys, hsys]
    split <;> split <;> simp <;> omega

/-- Settles O50: a write changes one key of the register map, and `gKey_eq_iff` says which numbers name it in which mode. -/
theorem registerSets : Obligations.RegisterSets := by
  intro c now lat r q x hr hq hr0 mode m w
  have hw (n : Bool) : (mode n w).g' q = if q = r ∧ (n = m ∨ r < 60) then x else (mode n c).g' q := by
    have hg : w.g = mput TReg0 c.g (gKey m r) x := by simp only [w, Core.writeG, if_neg (Nat.ne_of_gt hr0), mode]
    change (if q = 0 then TReg0 else mget TReg0 w.g (gKey n q)) = if _ then x else if q = 0 then TReg0 else mget TReg0 c.g (gKey n q)
    simp only [hg, mget_mput, gKey_eq_iff hq hr]
    by_cases h0 : q = 0
    · simp [h0, Nat.ne_of_lt hr0]
    · simp only [if_neg h0]
  exact ⟨by simp [hw], by simp [hw]⟩

end Sys2Proof.Machine
end

section
/-!
Where the checks of an access end it (R102, R177, R188, R437): one lemma per test, and their order (O5).
-/
namespace Sys2Proof.Machine

open Safety (Live Checked Reaches OnlyCaches)

/-- The stop of a precise trap with EINFO `n`. -/
abbrev Cause.stop (k : Cause) (n : Nat) : Stop := .trap ⟨k.code, BitVec.ofNat 64 n, false, none⟩

theorem bind_raiseIf_true {β : Type} {b : Bool} (h : b = true) (k : Cause) (n : Nat) (f : Unit → M β) (s : State) :
    (raiseIf b k n >>= f) s = (.error (k.stop n), s) := by rw [h]; rfl

/-! ## The capability (R102) -/

theorem bitsOf_top (x : BitVec 128) : bitsOf x.toNat 127 100 = (x.extractLsb' 100 28).toNat := by
  rw [bitsOf, BitVec.extractLsb'_toNat, Nat.shiftRight_eq_div_pow]

section
variable {s u : State} {c : TReg} {e : Grant} (ea : Nat)

theorem capLive_untagged (h : c.tag = false ∨ c.val.extractLsb' 100 28 ≠ 0) : capLive c ea s = (.error (Cause.tag.stop ea), s) := by
  refine bind_raiseIf_true ?_ _ _ _ s
  rw [bitsOf_top, Bool.or_eq_true, Bool.not_eq_true', decide_eq_true_iff]
  exact h.imp_right fun hz h0 => hz (BitVec.eq_of_toNat_eq h0)

theorem capLive_out (ht : c.tag = true) (hz : c.val.extractLsb' 100 28 = 0) (hid : 2 ^ (s.getX s.c.ctx).log2n ≤ capGid c) :
    capLive c ea s = (.error (Cause.stalegrant.stop ea), s) := by
  unfold capLive
  rw [bind_raiseIf (by simp [ht, top_bits hz]), bind_get, bind_raiseIf_true (by simpa using hid)]

theorem capLive_gone (ht : c.tag = true) (hz : c.val.extractLsb' 100 28 = 0) (hid : capGid c < 2 ^ (s.getX s.c.ctx).log2n)
    (hg : grantEntry (capGid c) s = (.ok e, u)) (he : e.valid = false ∨ e.gen ≠ capGen c) :
    capLive c ea s = (.error (Cause.stalegrant.stop ea), u) := by
  unfold capLive
  rw [bind_raiseIf (by simp [ht, top_bits hz]), bind_get, bind_raiseIf (by simpa using hid), bind_ok hg,
    bind_raiseIf_true (by simpa using he)]

variable {ea} {n : Nat} {need : BitVec 12}

theorem capcheck_of_capLive {x : Stop} (h : capLive c ea s = (.error x, u)) : capcheck c ea n need s = (.error x, u) := bind_error h

theorem capcheck_perm (h : Live s c e u) (hp : need &&& ~~~(capPerm c &&& e.perm) ≠ 0) :
    capcheck c ea n need s = (.error (Cause.perm.stop ea), u) := by
  unfold capcheck
  rw [bind_ok (capLive_ok h ea), bind_raiseIf_true (by simpa using hp)]

theorem capcheck_bounds (h : Live s c e u) (hp : need &&& ~~~(capPerm c &&& e.perm) = 0) (hb : ea < e.base ∨ e.base + e.len < ea + n) :
    capcheck c ea n need s = (.error (Cause.bounds.stop ea), u) := by
  unfold capcheck
  rw [bind_ok (capLive_ok h ea), bind_raiseIf (by simp [hp]), bind_raiseIf_true (by simpa using hb)]

/-! ## What follows it (R188) -/

variable {a : Acc} {s1 : State}

theorem access_of_capcheck {x : Stop} (h : capcheck c ea n need s = (.error x, u)) : access c ea n need a s = (.error x, u) := bind_error h

theorem access_of_capLive {x : Stop} (h : capLive c ea s = (.error x, u)) : access c ea n need a s = (.error x, u) :=
  access_of_capcheck (capcheck_of_capLive h)

theorem access_steplocal (hc : Checked s c ea n need u) (hs : (u.c.strict && !u.ownSpad u.cur ea && !u.c.inStack ea) = true) :
    access c ea n need a s = (.error (Cause.steplocal.stop ea), u) := by
  obtain ⟨e, -, hcap⟩ := capcheck_ok hc
  have hstep : stepLocal ea u = (.error (Cause.steplocal.stop ea), u) := by
    unfold stepLocal
    rw [bind_get, hs]
    rfl
  unfold access accessOr
  rw [bind_ok hcap, bind_error hstep]

/-- What an access does once the capability and the locality test have passed. -/
theorem access_local (hc : Checked s c ea n need u) (hs : (u.c.strict && !u.ownSpad u.cur ea && !u.c.inStack ea) = false) :
    access c ea n need a s = (do
      let l ← locateM a ea n
      raiseIf (decide (ea % n ≠ 0) || false) .align ea
      raiseIf l.remote .remote ea
      return l : M Loc) u := by
  obtain ⟨e, -, hcap⟩ := capcheck_ok hc
  unfold access accessOr
  rw [bind_ok hcap, bind_ok (stepLocal_ok hs)]

theorem access_xlate {f : XFail} (hc : Checked s c ea n need u) (hs : (u.c.strict && !u.ownSpad u.cur ea && !u.c.inStack ea) = false)
    (hl : u.locate u.party a ea n = (.error f, s1)) : access c ea n need a s = (.error (Cause.xlate.stop (f.einfo ea)), s1) := by
  have hloc : locateM a ea n u = (.error (Cause.xlate.stop (f.einfo ea)), s1) := by
    unfold locateM
    rw [bind_get, hl]
    rfl
  rw [access_local hc hs, bind_error hloc]

theorem access_align {l : Loc} (hc : Checked s c ea n need u) (hs : (u.c.strict && !u.ownSpad u.cur ea && !u.c.inStack ea) = false)
    (hl : u.locate u.party a ea n = (.ok l, s1)) (hn : ea % n ≠ 0) : access c ea n need a s = (.error (Cause.align.stop ea), s1) := by
  rw [access_local hc hs, bind_ok (locateM_ok hl), bind_raiseIf_true (by simpa using hn)]

theorem access_remote {l : Loc} (hc : Checked s c ea n need u) (hs : (u.c.strict && !u.ownSpad u.cur ea && !u.c.inStack ea) = false)
    (hl : u.locate u.party a ea n = (.ok l, s1)) (hn : ea % n = 0) (hr : l.remote = true) :
    access c ea n need a s = (.error (Cause.remote.stop ea), s1) := by
  rw [access_local hc hs, bind_ok (locateM_ok hl), bind_raiseIf (by simpa using hn), bind_raiseIf_true hr]

end

/-- Settles O5: each test's lemma, from `capLive_untagged` to `access_remote`, supposes that the tests before it have passed. -/
theorem accessOrder : Obligations.AccessOrder := by
  intro s s' s2 c ea n need a e l f stops gone
  refine ⟨fun h => ?_, fun ht hz => ⟨fun hid => ?_, fun hid hg he => ?_⟩, fun hl => ⟨fun hp => ?_, fun hp hb => ?_⟩,
    fun hc => ⟨fun h1 h2 h3 => ?_, fun hs => ⟨fun hx => ?_, fun hx => ⟨fun hn => ?_, fun hn hr => ?_⟩⟩⟩, fun h => ?_⟩
  · exact ⟨_, access_of_capLive (capLive_untagged ea h)⟩
  · exact ⟨_, access_of_capLive (capLive_out ea ht hz hid)⟩
  · exact ⟨_, access_of_capLive (capLive_gone ea ht hz hid hg he)⟩
  · exact ⟨_, access_of_capcheck (capcheck_perm hl hp)⟩
  · exact ⟨_, access_of_capcheck (capcheck_bounds hl hp hb)⟩
  · exact ⟨_, access_steplocal hc (by simp [h1, h2, h3])⟩
  · exact access_xlate hc hs hx
  · exact ⟨_, access_align hc hs hx hn⟩
  · exact ⟨_, access_remote hc hs hx hn hr⟩
  · exact ⟨access_ok h, reaches_caches h⟩

end Sys2Proof.Machine
end

section
/-!
Branches (R126, R140, R141, R150, R151): what a fetching core does, and a member for which the branch is an item (O6).
-/
namespace Sys2Proof.Machine

open Safety (bare outside Became Ends putG putI CompletesTo)

/-! ## Targets -/

/-- A format-B target is a sum in 12 bits (R126). -/
theorem rel_eq_relTo (pc : BitVec 12) (off : BitVec 17) : Claim.rel pc off = relTo pc off := by
  have hoff : BitVec.ofInt 12 off.toInt = off.setWidth 12 := BitVec.signExtend_eq_setWidth_of_le off (by omega)
  rw [Claim.rel, relTo, BitVec.ofInt_add, BitVec.ofInt_natCast, BitVec.ofNat_toNat, BitVec.setWidth_eq, hoff]

theorem getD_if_some (p : Prop) [Decidable p] (t next : BitVec 12) : (if p then some t else none).getD next = if p then t else next := by
  split <;> rfl

/-- LOOP's test of the decremented counter is a test of the counter (R151). -/
theorem loop_taken_iff {a : GReg} {x : Word} : a.val ≠ 0 ∧ x - 1 ≠ 0 ↔ a.val ≠ 0 ∧ x ≠ 1 := by
  rw [ne_eq (x - 1), sub_eq_zero]

section
variable (s : State) (a b : GReg) (m n : KReg) (off : BitVec 17)

theorem branchTo_br : s.branchTo (.br off) = some (Claim.rel s.c.wordPc off) := by rw [rel_eq_relTo]; rfl
theorem branchTo_call : s.branchTo (.call off) = some (Claim.rel s.c.wordPc off) := by rw [rel_eq_relTo]; rfl
theorem branchTo_bcc : s.branchTo (.bcc a b off) = if s.rdI a ≠ s.rdI b then some (Claim.rel s.c.wordPc off) else none := by
  rw [rel_eq_relTo]; rfl
theorem branchTo_bk : s.branchTo (.bk m n off) = if s.rdK m &&& s.rdK n ≠ 0 then some (Claim.rel s.c.wordPc off) else none := by
  rw [rel_eq_relTo]; rfl
theorem branchTo_loop : s.branchTo (.loop a off) = if a.val ≠ 0 ∧ s.rdI a ≠ 1 then some (Claim.rel s.c.wordPc off) else none := by
  simp only [rel_eq_relTo, ← loop_taken_iff]
  rfl

end

/-! ## On a fetching core -/

theorem wordPc_of_fetching {c : Core} (h : c.latch.src ≠ .item) : c.wordPc = c.pc := if_neg h
theorem wordPc_of_item {c : Core} (h : c.latch.src = .item) : c.wordPc = c.latch.item.pc := if_pos h

/-- A word whose effects leave `u`, where the executing core is `c`, transfers as `next` says. -/
theorem completes_branch {i : Instr} {s u : State} {c : Core} {next : Option (BitVec 12)} (he : exec i s = .next (u.finish next))
    (hb : Became s u c) (hi : SameIssue s.c u.c) : CompletesTo i s s c (next.getD (s.c.pc + 1)) := by
  refine ⟨_, he, became_trans hb (became_finish u next _ _), ?_⟩
  have h := ends_of_issue hi (ends_finish u next next.isSome id)
  rwa [hi.pc] at h

/-- One that leaves all but the PC. -/
theorem completes_jump {i : Instr} {s : State} {next : Option (BitVec 12)} (he : exec i s = .next (s.finish next)) :
    CompletesTo i s s s.c (next.getD (s.c.pc + 1)) := completes_branch he (became_refl s) (.rfl _)

theorem branchEnd_of_fetching {s : State} (h : s.c.latch.src ≠ .item) (t : Option (BitVec 12)) : s.branchEnd t = s.finish t := if_neg h

theorem branches : Claim.Branches := by
  intro s a b m n off hsrc pc t next linked
  have hpc : s.c.wordPc = pc := wordPc_of_fetching hsrc
  have hlink : Became s s.link linked ∧ SameIssue s.c s.link.c := by
    rw [State.link, hpc]
    exact ⟨became_wrI .., issue_wrI ..⟩
  have hloop : (s.wrI a (s.rdI a - 1) 1).c.latch.src ≠ .item := by rwa [(issue_wrI s a (s.rdI a - 1) 1).latch]
  refine ⟨?_, ?_, ?_, ?_, ?_, ?_, ?_, ?_⟩
  · have h := completes_jump (i := .br off) (s := s) rfl
    rwa [branchTo_br, hpc] at h
  · have h := completes_jump (i := .bcc a b off) (congrArg Host.Outcome.next (branchEnd_of_fetching hsrc _))
    rwa [branchTo_bcc, hpc, getD_if_some] at h
  · have h := completes_jump (i := .bk m n off) (congrArg Host.Outcome.next (branchEnd_of_fetching hsrc _))
    rwa [branchTo_bk, hpc, getD_if_some] at h
  · have h := completes_branch (i := .call off) (s := s) rfl hlink.1 hlink.2
    rwa [branchTo_call, hpc] at h
  · exact completes_branch (i := .callr a) (s := s) rfl hlink.1 hlink.2
  · exact completes_jump (i := .ret) (s := s) rfl
  · exact completes_jump (i := .jmpr a) (congrArg Host.Outcome.next (if_neg hsrc))
  · have h := completes_branch (i := .loop a off) (congrArg Host.Outcome.next (branchEnd_of_fetching hloop _))
      (became_wrI s a (s.rdI a - 1) 1) (issue_wrI ..)
    rwa [branchTo_loop, hpc, getD_if_some] at h

/-! ## The end of an item -/

/-- The end of an item takes it from its member's stream (R129). -/
theorem finish_item_w {s : State} (h : s.c.latch.src = .item) (next : Option (BitVec 12)) :
    (s.finish next).c.w = { s.c.w with stream := s.c.w.stream.drop 1 } := by
  have hdue : s.c.itemDue = false := by simp [Core.itemDue, h]
  simp only [State.finish, hdue, Bool.false_eq_true, if_false, c_upd, h]

/-! ## Leaving a weave -/

theorem publisherSt_regs (w : Weave) : w.publisherSt.regs = w.regs := by
  unfold Weave.publisherSt
  split <;> rfl

/-- A core that leaves its weave changes of itself only its place there, and gains no registration. -/
theorem unfollow_self (s : State) (q : Nat) :
    ∃ w, (s.unfollow q).getC q = { s.getC q with w := w } ∧ ∀ r ∈ w.regs, r ∈ (s.getC q).w.regs := by
  unfold State.unfollow
  simp only
  split
  case h_4 => exact ⟨_, rfl, fun r h => h⟩
  all_goals
    rw [getC_updC, if_pos rfl, getC_updC]
    split
    case isTrue hq =>
      -- it follows itself
      rw [← hq]
      exact ⟨_, rfl, fun r h => List.mem_of_mem_filter (publisherSt_regs _ ▸ h)⟩
    case isFalse => exact ⟨_, rfl, fun r h => h⟩

theorem unfollow_mem (s : State) (q : Nat) : (s.unfollow q).mem = s.mem := by
  unfold State.unfollow
  simp only
  split <;> rfl

/-- A core with no registration to accept that leaves its weave is detached (R156). -/
theorem detach_self (s : State) (q : Nat) : ∃ w, (s.detach q).getC q = { s.getC q with w := w } ∧
    ((∀ r ∈ (s.getC q).w.regs, r.arrived = false) → w.st = .detached) := by
  obtain ⟨w, hw, hr⟩ := unfollow_self s q
  refine ⟨Weave.accept { w with st := .detached }, by rw [State.detach, getC_updC, if_pos rfl, hw], fun hno => ?_⟩
  have hnone : w.regs.find? (·.arrived) = none := List.find?_eq_none.2 fun r h => by simp [hno r (hr r h)]
  simp [Weave.accept, hnone]

/-- A member that goes on in its own store keeps its registers and memory (R141). -/
theorem goOwn_self (s : State) (own : BitVec 12) : (s.goOwn own).c.pc = own ∧ (s.goOwn own).mem = s.mem ∧ (s.goOwn own).c.g = s.c.g ∧
    (s.goOwn own).c.v = s.c.v ∧ (s.goOwn own).c.k = s.c.k ∧ ((∀ r ∈ s.c.w.regs, r.arrived = false) → (s.goOwn own).c.w.st = .detached) := by
  obtain ⟨w, hw, hst⟩ := detach_self s s.cur
  have hcur : (s.detach s.cur).cur = s.cur := by
    unfold State.detach State.unfollow
    simp only
    split <;> rfl
  have hc : (s.detach s.cur).c = { s.c with w := w } := by
    unfold State.c
    rw [hcur]
    exact hw
  rw [State.goOwn, c_upd, hc]
  exact ⟨rfl, unfollow_mem s s.cur, rfl, rfl, rfl, hst⟩

/-! ## As an item at a member -/

section
variable {i : Instr} {s u : State} {c : Core} {t : Option (BitVec 12)} {own : BitVec 12}

/-- A member's item whose effects leave `u`, where its core is `c`: it goes on in its stream. -/
theorem follows_finish (he : exec i s = .next (u.finish t)) (hsrc : s.c.latch.src = .item) (hb : Became s u c) (hi : SameIssue s.c u.c) :
    ∃ v, exec i s = .next v ∧ Became s v c ∧ v.c.w.stream = s.c.w.stream.drop 1 := by
  refine ⟨_, he, became_trans hb (became_finish u t _ _), ?_⟩
  rw [finish_item_w (by rwa [hi.latch]) t, hi.w]

/-- The same where its place in the weave changes by `f` at the end. -/
theorem follows_weave (f : Weave → Weave) (hbare : ∀ c : Core, bare { c with w := f c.w } = { bare c with w := f (bare c).w })
    (hf : ∀ w, (f w).stream = w.stream) (he : exec i s = .next ((u.finish t).upd (fun c => { c with w := f c.w })))
    (hsrc : s.c.latch.src = .item) (hb : Became s u c) (hi : SameIssue s.c u.c) :
    ∃ v, exec i s = .next v ∧ Became s v { c with w := f c.w } ∧ v.c.w.stream = s.c.w.stream.drop 1 := by
  have hend : Became s (u.finish t) c := became_trans hb (became_finish u t _ _)
  refine ⟨_, he, became_chain hend (became_upd _ _) (by rw [hbare, hbare, hend.2.1]), ?_⟩
  rw [c_upd, hf, finish_item_w (by rwa [hi.latch]) t, hi.w]

/-- What BCC, BK and LOOP do at a member whose core is `c` after their effects and whose own next PC is `own` (R140, R141): it goes
on where that is the published one; else its policy decides. -/
def MemberBranch (s : State) (i : Instr) (c : Core) (own : BitVec 12) : Prop :=
  let it := s.c.latch.item
  let left := fun (t : State) => t.c.w.stream = s.c.w.stream.drop 1
  let same := fun (t : State) => t.mem = s.mem ∧ t.c.g = c.g ∧ t.c.v = c.v ∧ t.c.k = c.k
  let follows := fun (c : Core) => ∃ t, exec i s = .next t ∧ Became s t c ∧ left t
  (own = it.next → follows c) ∧
  (own ≠ it.next → c.w.policy = .dormant → follows { c with w := { c.w with st := .dormant, wake := some own } }) ∧
  (own ≠ it.next → c.w.policy = .detach → ∃ t, exec i s = .next t ∧
    (s.c.w.st = .member → (∀ r ∈ s.c.w.regs, r.arrived = false) → t.c.w.st = .detached) ∧ t.c.pc = own ∧ same t) ∧
  (own ≠ it.next → c.w.policy = .trap → s.c.tr.exl = false → s.c.husk.hooks = [] → ∃ t, exec i s = .next t ∧
    t.c.tr.exl = true ∧ t.c.tr.ecause = 0x12 ∧ t.c.tr.epc = it.pc ∧ t.c.tr.eword = it.word ∧ t.c.tr.einfo = 0x1000 + own.setWidth 64 ∧
    t.c.sys = true ∧ t.c.pc = s.c.tr.trapvec ∧ left t ∧ same t)

/-- The registers are among what `bare` keeps, and memory among what lies outside the cores. -/
theorem regs_of_became {v : State} (h : Became s v c) : v.mem = s.mem ∧ v.c.g = c.g ∧ v.c.v = c.v ∧ v.c.k = c.k := by
  obtain ⟨hout, hc, -⟩ := h
  refine ⟨(congrArg State.mem hout : (outside v).mem = _), ?_, ?_, ?_⟩
  · exact (congrArg Core.g hc : (bare v.c).g = _)
  · exact (congrArg Core.v hc : (bare v.c).v = _)
  · exact (congrArg Core.k hc : (bare v.c).k = _)
/-- So are the trap registers and the Husk set. -/
theorem traps_of_became {v : State} (h : Became s v c) : v.c.tr = c.tr ∧ v.c.husk = c.husk := by
  obtain ⟨-, hc, -⟩ := h
  exact ⟨(congrArg Core.tr hc : (bare v.c).tr = _), (congrArg Core.husk hc : (bare v.c).husk = _)⟩

/-- The entry of WEAVE KIND 1 at branch item `it` (R141, R450). -/
def Core.divergeEntry (c : Core) (it : Item) (own : BitVec 12) : Entry where
  cause := Cause.weave.code
  epc := it.pc
  eword := it.word
  einfo := BitVec.ofNat 64 (1 * 4096 + own.toNat)
  eseq := c.ringHead

/-- Its EINFO: the member's own next PC below the kind. -/
theorem divergeInfo_eq (own : BitVec 12) : BitVec.ofNat 64 (1 * 4096 + own.toNat) = 0x1000 + own.setWidth 64 := by
  have hlt : own.toNat < 4096 := own.isLt
  refine BitVec.eq_of_toNat_eq ?_
  rw [BitVec.toNat_add, BitVec.toNat_ofNat, BitVec.toNat_setWidth]
  change _ = (4096 + own.toNat % 2 ^ 64) % 2 ^ 64
  omega

theorem memberBranch (he : exec i s = .next (u.branchEnd t)) (hsrc : s.c.latch.src = .item) (hb : Became s u c) (hi : SameIssue s.c u.c)
    (hw : c.w = s.c.w) (htr : c.tr = s.c.tr) (hh : c.husk = s.c.husk) (hown : t.getD (s.c.latch.item.pc + 1) = own) :
    MemberBranch s i c own := by
  have hsrc' : u.c.latch.src = .item := by rwa [hi.latch]
  have hend : Became s (u.finish none) c := became_trans hb (became_finish u none _ _)
  have hwend : (u.finish none).c.w = { s.c.w with stream := s.c.w.stream.drop 1 } := hi.w ▸ finish_item_w hsrc' none
  have hpolicy : (u.finish none).c.w.policy = c.w.policy := by rw [hwend, hw]
  have hstep : exec i s = .next (if own = s.c.latch.item.next then u.finish none else (u.finish none).diverge s.c.latch.item own) := by
    rw [he, State.branchEnd, if_pos hsrc', State.branchItem, hi.latch, hown]
  obtain ⟨hmem, hg, hv, hk⟩ := regs_of_became hend
  refine ⟨fun heq => ?_, fun hne hp => ?_, fun hne hp => ?_, fun hne hp hexl hhooks => ?_⟩
  · exact follows_finish (by rw [hstep, if_pos heq]) hsrc hb hi
  · refine follows_weave (fun w => { w with st := .dormant, wake := some own }) (fun _ => rfl) (fun _ => rfl) ?_ hsrc hb hi (t := none)
    rw [hstep, if_neg hne, State.diverge, hpolicy, hp]
  · obtain ⟨hpc, hm, hgo, hvo, hko, hst⟩ := goOwn_self (u.finish none) own
    refine ⟨(u.finish none).goOwn own, by rw [hstep, if_neg hne, State.diverge, hpolicy, hp], fun _ hno => hst (by rwa [hwend]), hpc, ?_⟩
    exact ⟨hm.trans hmem, hgo.trans hg, hvo.trans hv, hko.trans hk⟩
  · obtain ⟨htrend, hhend⟩ := traps_of_became hend
    rw [htr] at htrend
    rw [hh] at hhend
    have hno : (u.finish none).takeTrap ((u.finish none).c.divergeEntry s.c.latch.item own) =
        (u.finish none).awaitProducers.upd (·.enter ((u.finish none).c.divergeEntry s.c.latch.item own)) :=
      takeTrap_of_no_hook (by rwa [htrend]) (show Cause.weave.code ≠ Cause.mcheck.code by decide) (by rwa [hhend])
    have htrap : exec i s = .next ((u.finish none).takeTrap ((u.finish none).c.divergeEntry s.c.latch.item own)) := by
      rw [hstep, if_neg hne, State.diverge, hpolicy, hp]
      rfl
    refine ⟨_, htrap, ?_⟩
    rw [hno]
    dsimp only
    rw [c_upd, awaitProducers_c]
    refine ⟨rfl, ?_, rfl, rfl, divergeInfo_eq own, rfl, congrArg TrapRegs.trapvec htrend, congrArg Weave.stream hwend, hmem, hg, hv, hk⟩
    simp [Core.enter, Core.divergeEntry, Entry.ecause, Cause.code]

end

theorem memberBranches : Claim.MemberBranches := by
  intro s a b m n off hsrc it left same follows plain next
  have hpc : s.c.wordPc = it.pc := wordPc_of_item hsrc
  have hlink : Became s s.link (putI s.c 1 (next.setWidth 64)) ∧ SameIssue s.c s.link.c := by
    rw [State.link, hpc]
    exact ⟨became_wrI .., issue_wrI ..⟩
  have hput : (putI s.c a (s.rdI a - 1)).w = s.c.w ∧ (putI s.c a (s.rdI a - 1)).tr = s.c.tr ∧ (putI s.c a (s.rdI a - 1)).husk = s.c.husk := by
    unfold putI putG
    split <;> exact ⟨rfl, rfl, rfl⟩
  obtain ⟨hw, htr, hh⟩ := hput
  refine ⟨?_, ?_, ?_, ?_, ?_, ?_, ?_, ?_⟩
  · refine memberBranch (i := .bcc a b off) rfl hsrc (became_refl s) (.rfl _) rfl rfl rfl ?_
    rw [branchTo_bcc, hpc, getD_if_some]
  · refine memberBranch (i := .bk m n off) rfl hsrc (became_refl s) (.rfl _) rfl rfl rfl ?_
    rw [branchTo_bk, hpc, getD_if_some]
  · refine memberBranch (i := .loop a off) rfl hsrc (became_wrI ..) (issue_wrI ..) hw htr hh ?_
    rw [branchTo_loop, hpc, getD_if_some]
  · exact follows_weave (fun w => { w with jump := some ((s.rdI a).setWidth 12, it) }) (fun _ => rfl) (fun _ => rfl)
      (congrArg Host.Outcome.next (if_pos hsrc)) hsrc (became_refl s) (.rfl _)
  · exact follows_finish (i := .br off) rfl hsrc (became_refl s) (.rfl _)
  · exact follows_finish (i := .ret) rfl hsrc (became_refl s) (.rfl _)
  · exact follows_finish (i := .call off) rfl hsrc hlink.1 hlink.2
  · exact follows_finish (i := .callr a) rfl hsrc hlink.1 hlink.2

/-- Settles O6: `completes_branch` on a fetching core; at a member `memberBranch` for the words that are compared, `follows_finish` for
those that are not. -/
theorem branchWords : Obligations.BranchWords := ⟨branches, memberBranches⟩

end Sys2Proof.Machine
end

section
/-!
O4 and O11, refuted: a load that GREV or a write of XBASE performs, though the statements suppose that no core of the context has an
access under way.
-/
namespace Sys2Proof.Machine

open Safety (bare CompletesTo)

/-- An outstanding LDA of context 0 to g5, one sector of one byte at 0x1000 to come. -/
def Leftover.load : Load := { file := .g, reg := 5, ty := some .z64, sectors := [⟨[(0, 0x1000)], false⟩] }

/-- The loads outstanding at core 1 after a word. -/
def Leftover.after : Host.Outcome State Fault Refusal → List Load
  | .next t => (t.getC 1).loads
  | _ => []

/-- A word that leaves all but the executing core as `u` has it leaves the loads of core 1, where another core executes. -/
theorem Leftover.after_of_completes {i : Instr} {s u : State} {c : Core} {next : BitVec 12} (h : CompletesTo i s u c next) (hcur : u.cur ≠ 1) :
    Leftover.after (exec i s) = (u.getC 1).loads := by
  obtain ⟨t, ht, ⟨-, -, hothers⟩, -⟩ := h
  have hloads : (bare (t.getC 1)).loads = (bare (u.getC 1)).loads := congrArg Core.loads (hothers 1 hcur.symm)
  rw [ht]
  exact hloads

/-! ## XBASE (R172) -/

/-- Core 1 stands in context 1, a load that it issued in context 0 is outstanding, and the translation of context 0 is held. -/
def Leftover.moved : State :=
  { State.reset with
    cores := [(0, {}), (1, { ctx := 1, loads := [Leftover.load] })]
    tlb := [{ place := .core 1, ctx := 0, level := 0, va := 0, pte := 0x1F }] }

/-- `dropTlb` looks at the load's own context, and performs it. -/
theorem Leftover.moved_performed : Leftover.after (exec (.mtsr 0x017 0) Leftover.moved) = [] := by decide

/-- Refutes O11: where XBASE of context 0 is written the statement asks of the cores of context 0 that they be quiet. A load keeps the
context it was issued in, and `dropTlb` performs every load made through a translation that goes: in `Leftover.moved` one of core 1, which
is of context 1, so another core than the writing one changes. -/
theorem not_systemRegisters : ¬ Obligations.SystemRegisters := by
  rintro ⟨-, h⟩
  obtain ⟨-, hsys⟩ := h Leftover.moved 0 0x017
  obtain ⟨-, -, -, -, -, -, -, -, -, -, -, hxbase, -⟩ := hsys rfl
  have hquiet : ∀ e ∈ Leftover.moved.cores, e.2.ctx = 0 → Claim.quiet e.2 := by
    intro e he hctx
    simp only [Leftover.moved, List.mem_cons, List.not_mem_nil, or_false] at he
    rcases he with rfl | rfl
    · exact ⟨rfl, rfl⟩
    · exact absurd hctx (by decide)
  have hleaves := hxbase ⟨by decide, hquiet⟩ rfl (.mtsr 0x017 0) (by simp)
  have hloads := Leftover.after_of_completes hleaves (by decide)
  rw [Leftover.moved_performed] at hloads
  exact absurd hloads (by decide)

/-! ## GREV (R121, R122) -/

/-- A state whose list of cores names core 1 twice: the first entry, which `getC` reads, is of context 1 and has a load outstanding; the
second is of context 0 and quiet. -/
def Leftover.twice : State :=
  { Test.paged {} [] with cores := [(0, {}), (1, { ctx := 1, loads := [Leftover.load] }), (1, {})] }

/-- `coresOf` lists core 1 by its second entry, and `performAll` performs the loads of the first. -/
theorem Leftover.twice_performed : Leftover.after (exec (.grev 5 0) Leftover.twice) = [] := by decide

/-- Refutes O4: GREV (and so GNEW) is said to change no other core where every listed core of the context is quiet, over all states. In
`Leftover.twice`, whose cores are not in canonical form, core 1 is listed in the context by an entry that is quiet, while the core that is
read there has a load, which GREV's wait performs. Nothing in the statement asks that the list of cores be canonical
(`mwf`). -/
theorem not_capabilityWords : ¬ Obligations.CapabilityWords := by
  rintro ⟨-, -, h, -⟩
  obtain ⟨hgrev, -⟩ := h Leftover.twice (entryPlace 0 Leftover.twice).2 Leftover.twice Leftover.twice 5 0 0 [] 0x20000
    (by decide) (by decide) (fun _ _ => Test.noWait rfl)
  have hwrites := hgrev (Test.got (by decide)) ⟨by decide, by decide⟩
  have hloads := Leftover.after_of_completes hwrites (by decide)
  rw [Leftover.twice_performed] at hloads
  exact absurd hloads (by decide)

end Sys2Proof.Machine
end

section
/-!
Loads, stores and frames (O7, O14): an access that has passed its checks, in the stack cache and at a plain home.
-/
namespace Sys2Proof.Machine

open Safety (bare outside Became Ends putG Checked Turned Traps Completes CompletesTo Reaches OnlyCaches)

/-! ## Little-endian bytes (R4) -/

theorem leNat_leBytes (x n : Nat) : leNat (leBytes x n) = x % 2 ^ (8 * n) := by
  induction n generalizing x with
  | zero => rw [leBytes, leNat, Nat.mul_zero, Nat.pow_zero, Nat.mod_one]
  | succ n ih =>
    have hpow : 2 ^ (8 * (n + 1)) = 256 * 2 ^ (8 * n) := by rw [Nat.mul_succ, Nat.pow_add, Nat.mul_comm]
    rw [leBytes, leNat, ih, BitVec.toNat_ofNat, hpow, Nat.mod_mul]

theorem leNat_append (xs ys : List Byte) : leNat (xs ++ ys) = leNat xs + 2 ^ (8 * xs.length) * leNat ys := by
  induction xs with
  | nil => simp [leNat]
  | cons x xs ih =>
    have hpow : 2 ^ (8 * (xs.length + 1)) = 256 * 2 ^ (8 * xs.length) := by rw [Nat.mul_succ, Nat.pow_add, Nat.mul_comm]
    rw [List.cons_append, leNat, leNat, ih, List.length_cons, hpow, Nat.mul_add, Nat.mul_assoc, Nat.add_assoc]

theorem take_leBytes (x : Nat) {m n : Nat} (h : m ≤ n) : (leBytes x n).take m = leBytes x m := by
  induction m generalizing x n with
  | zero => rfl
  | succ m ih =>
    obtain ⟨n, rfl⟩ := Nat.exists_eq_succ_of_ne_zero (by omega : n ≠ 0)
    rw [leBytes, leBytes, List.take_succ_cons, ih _ (Nat.le_of_succ_le_succ h)]

theorem drop_leBytes (x n m : Nat) : (leBytes x n).drop m = leBytes (x / 2 ^ (8 * m)) (n - m) := by
  induction m generalizing x n with
  | zero => simp
  | succ m ih =>
    cases n with
    | zero => simp [leBytes]
    | succ n =>
      have hpow : 2 ^ (8 * (m + 1)) = 256 * 2 ^ (8 * m) := by rw [Nat.mul_succ, Nat.pow_add, Nat.mul_comm]
      rw [leBytes, List.drop_succ_cons, ih, hpow, Nat.div_div_eq_div_mul, Nat.succ_sub_succ]

/-- The bytes of a granule from an aligned address are bits of its value. -/
theorem leNat_bytes (x : SLine) {ea n : Nat} (h : ea % 16 + n ≤ 16) :
    leNat (x.bytes ea n) = x.val.toNat / 2 ^ (8 * (ea % 16)) % 2 ^ (8 * n) := by
  rw [SLine.bytes, drop_leBytes, take_leBytes _ (by omega), leNat_leBytes]

/-- Bytes put in the middle of a granule replace its bits there. -/
theorem ofNat_leNat_patch (old new : BitVec 128) {k n : Nat} (h : k + n ≤ 16) :
    BitVec.ofNat 128 (leNat ((leBytes old.toNat 16).take k ++ leBytes new.toNat n ++ (leBytes old.toNat 16).drop (k + n))) =
      Claim.patched old new k n := by
  have hlow : old.toNat % 2 ^ (8 * k) < 2 ^ (8 * k) := Nat.mod_lt _ (Nat.two_pow_pos _)
  have hmid : new.toNat % 2 ^ (8 * n) < 2 ^ (8 * n) := Nat.mod_lt _ (Nat.two_pow_pos _)
  rw [List.append_assoc, take_leBytes _ (by omega), drop_leBytes, leNat_append, leNat_append, leNat_leBytes, leNat_leBytes, leNat_leBytes,
    leBytes_length, leBytes_length, Nat.add_comm (old.toNat % _), Nat.add_comm (new.toNat % _)]
  refine BitVec.eq_of_getLsbD_eq fun i hi => ?_
  rw [BitVec.getLsbD_ofNat, Claim.patched, BitVec.getLsbD_ofFnLE, Nat.testBit_two_pow_mul_add _ hlow, Nat.testBit_two_pow_mul_add _ hmid]
  simp only [hi, decide_true, Bool.true_and, dite_true]
  by_cases h1 : i < 8 * k
  · simp [h1, show ¬ 8 * k ≤ i by omega, Nat.testBit_mod_two_pow, BitVec.getLsbD]
  · by_cases h2 : i < 8 * (k + n)
    · simp [h1, h2, show 8 * k ≤ i by omega, show i - 8 * k < 8 * n by omega, Nat.testBit_mod_two_pow, BitVec.getLsbD]
    · have hsub : i - 8 * k - 8 * n + 8 * (k + n) = i := by omega
      simp [h1, h2, show ¬ i - 8 * k < 8 * n by omega, Nat.testBit_mod_two_pow, Nat.testBit_div_two_pow, hsub, BitVec.getLsbD]
      omega

theorem patched_whole (old new : BitVec 128) : Claim.patched old new 0 16 = new := by
  refine BitVec.eq_of_getLsbD_eq fun i hi => ?_
  simp [Claim.patched, hi]

/-! ## What the checks leave of the executing core -/

section
variable {s s' : State} (h : OnlyCaches s s')
include h

theorem core_caches : ∃ gc r, s'.c = { s.c with gcache := gc, readyAt := r } := by
  obtain ⟨-, -, -, hc⟩ := h
  exact hc
theorem cur_caches : s'.cur = s.cur := by
  obtain ⟨-, hout, -⟩ := h
  exact (congrArg State.cur hout : (outside { s' with tlb := s.tlb, host := s.host }).cur = (outside s).cur)
theorem mem_caches : s'.mem = s.mem := by
  obtain ⟨-, hout, -⟩ := h
  exact (congrArg State.mem hout : (outside { s' with tlb := s.tlb, host := s.host }).mem = (outside s).mem)
theorem tags_caches : s'.tags = s.tags := by
  obtain ⟨-, hout, -⟩ := h
  exact (congrArg State.tags hout : (outside { s' with tlb := s.tlb, host := s.host }).tags = (outside s).tags)
theorem ham_caches : s'.ham = s.ham := by
  obtain ⟨-, hout, -⟩ := h
  exact (congrArg State.ham hout : (outside { s' with tlb := s.tlb, host := s.host }).ham = (outside s).ham)
theorem stack_caches : s'.c.stack = s.c.stack := by
  obtain ⟨gc, r, hc⟩ := core_caches h
  rw [hc]
theorem inStack_caches (ea : Nat) : s'.c.inStack ea = s.c.inStack ea := by
  obtain ⟨gc, r, hc⟩ := core_caches h
  rw [hc]
  rfl
theorem sq_caches : s'.c.sq = s.c.sq := by
  obtain ⟨gc, r, hc⟩ := core_caches h
  rw [hc]
end

/-! ## Words that have passed their checks -/

section
variable {i : Instr} {m : M Unit} {s s' u : State} {c : Core}

/-- A word that changes only its core after the checks. -/
theorem completes_upd {f : Core → Core} (he : exec i s = run m s) (h : m s = (.ok (), s'.upd f)) (hi : SameIssue s.c (f s'.c)) :
    CompletesTo i s s' (f s'.c) (s.c.pc + 1) := by
  obtain ⟨t, ht, hb, hend⟩ := leaves_run he h (by rwa [c_upd])
  exact ⟨t, ht, became_chain (became_upd s' f) hb (by rw [c_upd]), hend⟩

/-- A word that writes a general register after the core has become `c`. -/
theorem completes_wr_of_became {d : GReg} {x : TReg} {lat : Nat} (he : exec i s = run m s) (h : m s = (.ok (), u.wrG d x lat))
    (hb : Became s' u c) (hi : SameIssue s.c u.c) : CompletesTo i s s' (putG c d x) (s.c.pc + 1) := by
  obtain ⟨t, ht, hw, hend⟩ := completes_wr he h hi
  have hcore : bare (putG u.c d x) = bare (putG c d x) := by
    rw [bare_putG, bare_putG]
    exact congrArg (fun c => putG c d x) hb.2.1
  exact ⟨t, ht, became_chain hb hw hcore, hend⟩
end

/-! ## A granule that the stack cache holds (R149) -/

/-- The core with a granule in its stack cache. -/
def Core.cached (c : Core) (g : Nat) (y : SLine) : Core := { c with stack := mset c.stack g y }

theorem cached_caches {s s' : State} (h : OnlyCaches s s') (g : Nat) (y : SLine) :
    s'.c.cached g y = { s'.c with stack := mset s.c.stack g y } := by rw [Core.cached, stack_caches h]
theorem sameIssue_cached {s s' : State} (h : OnlyCaches s s') (g : Nat) (y : SLine) : SameIssue s.c (s'.c.cached g y) :=
  (issue_caches h).trans ⟨rfl, rfl, rfl, rfl, rfl, rfl⟩

theorem any_of_mfind {α : Type} {m : SMap α} {k : Nat} {x : α} (h : mfind m k = some x) {p : Nat × α → Bool} (hp : ∀ y, p (k, y) = true) :
    m.any p = true := by
  induction m with
  | nil => exact nomatch h
  | cons e r ih =>
    obtain ⟨j, v⟩ := e
    by_cases hj : j = k
    · simp [hj, hp]
    · simp only [mfind, hj, if_false] at h
      simp [ih h]

section
variable {s : State} {l : Loc} {ea n : Nat} {x : SLine}

theorem fillLine_of_held (h : mfind s.c.stack (ea / 16) = some x) : s.fillLine l ea = s := if_pos (by simp [h])

theorem stackLook_of_held (h : mfind s.c.stack (ea / 16) = some x) (hb : x.bad = false) : stackLook l ea s = (.ok (.ok x), s) := by
  unfold stackLook
  rw [bind_modify, fillLine_of_held h, bind_get]
  simp only [h, hb]
  rfl

theorem loadBytes_of_held (hin : s.c.inStack ea = true) (h : mfind s.c.stack (ea / 16) = some x) (hb : x.bad = false) :
    loadBytes l ea n s = (.ok (x.bytes ea n, x.tag), s) := by
  have hg : stackGranule l ea s = (.ok x, s) := by
    unfold stackGranule
    rw [bind_ok (stackLook_of_held h hb)]
    rfl
  unfold loadBytes
  rw [bind_get, if_pos hin, bind_ok hg]
  rfl

/-- A granule of a line that the cache holds displaces none. -/
theorem putLine_of_held {y : SLine} {g : Nat} (h : mfind s.c.stack g = some x) :
    s.putLine s.cur g y = s.upd (·.cached g y) := by
  have hany : (s.getC s.cur).stack.any (fun e => e.1 / 4 == g / 4) = true := any_of_mfind h fun y => by simp
  unfold State.putLine
  simp only [hany, Bool.not_true, Bool.false_and, Bool.false_eq_true, if_false]
  rfl

/-- A store of a whole granule. -/
theorem stackStore_whole {q : BitVec 128} {tag : Bool} (h : mfind s.c.stack (ea / 16) = some x) :
    s.stackStore l ea (leBytes q.toNat 16) tag = s.upd (·.cached (ea / 16) ⟨q, tag, true, x.key, false⟩) := by
  have hq : BitVec.ofNat 128 (leNat (leBytes q.toNat 16)) = q := by
    rw [leNat_leBytes, Nat.mod_eq_of_lt q.isLt, BitVec.ofNat_toNat, BitVec.setWidth_eq]
  unfold State.stackStore
  simp only [fillLine_of_held h, h, leBytes_length, if_true, hq]
  exact putLine_of_held h

/-- A store within a granule. -/
theorem stackStore_of_held {q : BitVec 128} {tag : Bool} (h : mfind s.c.stack (ea / 16) = some x) (hb : x.bad = false) (hn : ea % 16 + n ≤ 16) :
    s.stackStore l ea (leBytes q.toNat n) tag =
      s.upd (·.cached (ea / 16) ⟨Claim.patched x.val q (ea % 16) n, tag, true, x.key, false⟩) := by
  by_cases h16 : n = 16
  · subst h16
    rw [stackStore_whole h, show ea % 16 = 0 by omega, patched_whole]
  · unfold State.stackStore
    simp only [fillLine_of_held h, h, leBytes_length, if_neg h16, hb, Bool.false_eq_true, if_false, ofNat_leNat_patch x.val q hn]
    exact putLine_of_held h

theorem storeBytes_of_inStack {bs : List Byte} {tag : Bool} (h : s.c.inStack ea = true) :
    storeBytes l ea bs tag s = (.ok (), s.stackStore l ea bs tag) := by
  unfold storeBytes
  rw [bind_get, if_pos h]
  rfl
end

/-! ## Frames (R152, R153) -/

theorem capAddr_lt (c : TReg) : capAddr c < 2 ^ 64 := Nat.mod_lt _ (Nat.two_pow_pos _)

/-- A capability's address replaced: the upper half stands. -/
theorem withAddr_eq (c : TReg) (x : Word) : withAddr c x = ⟨c.val.extractLsb' 64 64 ++ x, c.tag⟩ := by
  have hval : BitVec.ofNat 128 (c.val.toNat / 2 ^ 64 * 2 ^ 64 + x.toNat) = c.val.extractLsb' 64 64 ++ x := by
    have hx := x.isLt
    have hc := c.val.isLt
    refine BitVec.eq_of_toNat_eq ?_
    rw [toNat_append_eq_add, toNat_extract, BitVec.toNat_ofNat]
    omega
  rw [withAddr, hval]

section
variable {s s' : State} {n : BitVec 10} {l : Loc} {x : SLine} {old ea : Nat} {link : Word}

theorem completes_enter (hold : capAddr (s.rdG 2) = old) (hea : old - 16 * n.toNat = ea) (hx : mfind s.c.stack (ea / 16) = some x)
    (hin : s.c.inStack ea = true) (h16 : old % 16 = 0) (hn : 16 * n.toNat ≤ old) (h : Reaches s (s.rdG 2) ea 16 permW .store l s') :
    CompletesTo (.enter n) s s' (putG { s'.c with stack := mset s.c.stack (ea / 16) ⟨BitVec.ofNat 128 old, false, true, x.key, false⟩ } 2
      ⟨(s.rdG 2).val.extractLsb' 64 64 ++ BitVec.ofNat 64 ea, (s.rdG 2).tag⟩) (s.c.pc + 1) := by
  have hlt : old < 2 ^ 64 := hold ▸ capAddr_lt _
  have hnew : (((old : Int) - 16 * n.toNat) % 2 ^ 64).toNat = ea := by omega
  have hlim : s.c.slim.toNat ≤ ea := by simpa [Core.inStack] using (Bool.and_eq_true_iff.1 hin).1
  have hcaches := reaches_caches h
  have hx' : mfind s'.c.stack (ea / 16) = some x := by rw [stack_caches hcaches, hx]
  have hbytes : leBytes old 16 = leBytes (BitVec.ofNat 128 old).toNat 16 := by
    rw [BitVec.toNat_ofNat, Nat.mod_eq_of_lt (by omega)]
  have hstore : storeBytes l ea (leBytes old 16) false s' = (.ok (), s'.upd
      (·.cached (ea / 16) ⟨BitVec.ofNat 128 old, false, true, x.key, false⟩)) := by
    rw [storeBytes_of_inStack (by rw [inStack_caches hcaches, hin]), hbytes, stackStore_whole hx']
  rw [← cached_caches hcaches]
  refine completes_wr_of_became (m := enterFrame n.toNat) (lat := 1) rfl ?_ (became_upd s' (·.cached _ _)) ?_
  · have hc : s.c.readG s.cycle 2 = s.rdG 2 := rfl
    unfold enterFrame
    rw [bind_get]
    simp only [hc, hold, hnew]
    rw [bind_raiseIf (by simpa using h16), bind_raiseIf (by simp; omega), bind_ok (access_ok h), bind_ok hstore, setG_run, withAddr_eq]
  · rw [c_upd]
    exact sameIssue_cached hcaches _ _

theorem completes_leave (hold : capAddr (s.rdG 2) = old) (hx : mfind s.c.stack (old / 16) = some x) (hin : s.c.inStack old = true)
    (hb : x.bad = false) (h : Reaches s (s.rdG 2) old 8 permR .load l s') (hlink : (x.val >>> (8 * (old % 16))).setWidth 64 = link)
    (hup : old < link.toNat) (hbase : link.toNat ≤ s.c.sbase.toNat) (hal : link.toNat % 16 = 0) :
    CompletesTo .leave s s' (putG s'.c 2 ⟨(s.rdG 2).val.extractLsb' 64 64 ++ link, (s.rdG 2).tag⟩) (s.c.pc + 1) := by
  have hcaches := reaches_caches h
  have hload : loadBytes l old 8 s' = (.ok (x.bytes old 8, x.tag), s') :=
    loadBytes_of_held (by rw [inStack_caches hcaches, hin]) (by rw [stack_caches hcaches, hx]) hb
  have hbytes : leNat (x.bytes old 8) = link.toNat := by
    have h8 := h.aligned
    rw [leNat_bytes x (by omega), ← hlink, BitVec.toNat_setWidth, BitVec.toNat_ushiftRight, Nat.shiftRight_eq_div_pow]
  refine completes_wr_of_became (m := leaveFrame) (lat := 1) rfl ?_ (became_refl s') (issue_caches hcaches)
  have hc : s.c.readG s.cycle 2 = s.rdG 2 := rfl
  unfold leaveFrame
  rw [bind_get]
  simp only [hc, hold]
  rw [bind_ok (access_ok h), bind_ok hload]
  simp only [hbytes]
  rw [bind_raiseIf (by simp; omega), setG_run, withAddr_eq, BitVec.ofNat_toNat, BitVec.setWidth_eq]
end

/-- Settles O7: a frame's granule is one that the stack cache holds (`stackStore_whole`, `loadBytes_of_held`). -/
theorem frames : Obligations.Frames := by
  intro s s' n l x c old hi _ hx hin
  refine ⟨fun h16 hn h => completes_enter rfl rfl hx hin h16 hn h, fun hn hb h => ?_⟩
  have hold : old - 16 * n.toNat = old := by rw [hn]; rfl
  rw [hold] at hin
  have hx' : mfind s.c.stack (old / 16) = some x := by rwa [← hold]
  exact completes_leave rfl hx' hin hb h rfl

/-! ## Loads and stores of the stack (R149, R190, R193) -/

theorem sub_granule {ea : Nat} {ty : LdType} (h : ea % ldSize ty = 0) : ea % 16 + ldSize ty ≤ 16 := by
  cases ty <;> simp only [ldSize] at h ⊢ <;> omega

/-- The core with one more load outstanding (R194). -/
def Core.withLoad (c : Core) (l : Nat → Load) : Core :=
  { c with
    loads := c.loads ++ [{ l c.spos with token := c.tokenOf, seq := c.seq, ctx := c.ctx }]
    seq := c.seq + 1
    tokens := if c.tokenOf = 0 then c.tokens else mput 0 c.tokens c.tokenOf (mget 0 c.tokens c.tokenOf + 1) }

theorem addLoad_run (l : Nat → Load) (s : State) : addLoad l s = (.ok (), s.upd (·.withLoad l)) := rfl
theorem loadRoom_free {s : State} (h : s.c.loads.length < 32) : loadRoom s = (.ok (), s) := by
  unfold loadRoom
  rw [modify_run, if_neg (by omega)]

section
variable {s s' : State} {d a : GReg} {ty : LdType} {off : BitVec 14} {goff : BitVec 17} {l : Loc} {x : SLine} {ea : Nat}

section
variable (hin : s.c.inStack ea = true) (hx : mfind s.c.stack (ea / 16) = some x) (hb : x.bad = false)
include hin hx hb

theorem completes_ld_stack (hea : ldEa (s.rdG a) ty off = ea) (h : Reaches s (s.rdG a) ea (ldSize ty) permR .load l s') :
    CompletesTo (.ld d a ty off) s s'
      (putG s'.c d (loadResult ty (x.val.toNat / 2 ^ (8 * (ea % 16)) % 2 ^ (8 * ldSize ty)))) (s.c.pc + 1) := by
  have hcaches := reaches_caches h
  have hload : loadBytes l ea (ldSize ty) s' = (.ok (x.bytes ea (ldSize ty), x.tag), s') :=
    loadBytes_of_held (by rw [inStack_caches hcaches, hin]) (by rw [stack_caches hcaches, hx]) hb
  rw [← leNat_bytes x (sub_granule h.aligned)]
  refine completes_wr_of_became (m := loadTo d a ty off) (lat := s'.loadLat ea) rfl ?_ (became_refl s') (issue_caches hcaches)
  unfold loadTo
  rw [bind_get]
  simp only [hea]
  rw [bind_ok (access_ok h), bind_get, bind_ok hload]
  rfl

theorem completes_ldc_stack (hea : ldcEa (s.rdG a) goff = ea) (h : Reaches s (s.rdG a) ea 16 (permR ||| permCL) .load l s') :
    CompletesTo (.ldc d a goff) s s' (putG s'.c d ⟨x.val, x.tag⟩) (s.c.pc + 1) := by
  have hcaches := reaches_caches h
  have hload : loadBytes l ea 16 s' = (.ok (x.bytes ea 16, x.tag), s') :=
    loadBytes_of_held (by rw [inStack_caches hcaches, hin]) (by rw [stack_caches hcaches, hx]) hb
  have h16 : ea % 16 = 0 := h.aligned
  have hval : BitVec.ofNat 128 (leNat (x.bytes ea 16)) = x.val := by
    rw [leNat_bytes x (by omega), h16, Nat.mul_zero, Nat.pow_zero, Nat.div_one, Nat.mod_eq_of_lt x.val.isLt, BitVec.ofNat_toNat,
      BitVec.setWidth_eq]
  refine completes_wr_of_became (lat := s'.loadLat ea) rfl ?_ (became_refl s') (issue_caches hcaches)
  rw [bind_get]
  simp only [hea]
  rw [bind_ok (access_ok h), bind_get, bind_ok hload]
  simp only [hval]
  rfl

/-- LDA of a granule in the cache gives its bytes at once. -/
theorem completes_lda_stack (hea : ldEa (s.rdG a) ty off = ea) (h : Reaches s (s.rdG a) ea (ldSize ty) permR .load l s')
    (hroom : s.c.loads.length < 32) : CompletesTo (.lda d a ty off) s s'
      (putG s'.c d (loadResult ty (x.val.toNat / 2 ^ (8 * (ea % 16)) % 2 ^ (8 * ldSize ty)))) (s.c.pc + 1) := by
  have hcaches := reaches_caches h
  have hin' : s'.c.inStack ea = true := by rw [inStack_caches hcaches, hin]
  have hlook : stackLook l ea s' = (.ok (.ok x), s') := stackLook_of_held (by rw [stack_caches hcaches, hx]) hb
  rw [← leNat_bytes x (sub_granule h.aligned)]
  refine completes_wr_of_became (lat := 1) rfl ?_ (became_refl s') (issue_caches hcaches)
  rw [bind_ok (loadRoom_free hroom), bind_get]
  simp only [hea]
  rw [bind_ok (access_ok h), bind_get, if_pos hin', bind_ok hlook]
  rfl

theorem completes_st_stack (hea : ldEa (s.rdG a) ty off = ea) (h : Reaches s (s.rdG a) ea (ldSize ty) permW .store l s') :
    CompletesTo (.st d a ty off) s s'
      { s'.c with stack := mset s.c.stack (ea / 16) ⟨Claim.patched x.val (s.rdG d).val (ea % 16) (ldSize ty), false, true, x.key, false⟩ }
      (s.c.pc + 1) := by
  have hcaches := reaches_caches h
  rw [← cached_caches hcaches]
  refine completes_upd (f := (·.cached _ _)) (m := storeFrom d a ty off) rfl ?_ (sameIssue_cached hcaches _ _)
  unfold storeFrom
  rw [bind_get]
  simp only [hea]
  rw [bind_ok (access_ok h), storeBytes_of_inStack (by rw [inStack_caches hcaches, hin]),
    stackStore_of_held (by rw [stack_caches hcaches, hx]) hb (sub_granule h.aligned)]

omit hb in
theorem completes_stc_stack (hea : ldcEa (s.rdG a) goff = ea)
    (h : Reaches s (s.rdG a) ea 16 (if (s.rdG d).tag then permW ||| permCS else permW) .store l s')
    (htag : ((s.rdG d).tag && l.tagless) = false) :
    CompletesTo (.stc d a goff) s s' { s'.c with stack := mset s.c.stack (ea / 16) ⟨(s.rdG d).val, (s.rdG d).tag, true, x.key, false⟩ }
      (s.c.pc + 1) := by
  have hcaches := reaches_caches h
  rw [← cached_caches hcaches]
  refine completes_upd (f := (·.cached _ _)) rfl ?_ (sameIssue_cached hcaches _ _)
  rw [bind_get]
  simp only [hea]
  rw [bind_ok (access_ok h), bind_raiseIf htag, storeBytes_of_inStack (by rw [inStack_caches hcaches, hin]),
    stackStore_whole (by rw [stack_caches hcaches, hx])]

end

/-! ## Loads and stores of a plain home (R190, R191, R193, R194) -/

theorem completes_ld_plain (hea : ldEa (s.rdG a) ty off = ea) (h : Reaches s (s.rdG a) ea (ldSize ty) permR .load l s')
    (hp : Claim.Plain s' l ea (ldSize ty)) :
    CompletesTo (.ld d a ty off) s s' (putG s'.c d (loadResult ty (leNat (Claim.seen s' l.key (ldSize ty))))) (s.c.pc + 1) := by
  obtain ⟨tag, u, hload, hb, hi⟩ := loadBytes_plain hp
  refine completes_wr_of_became (m := loadTo d a ty off) (lat := s'.loadLat ea) rfl ?_ hb ((issue_caches (reaches_caches h)).trans hi)
  unfold loadTo
  rw [bind_get]
  simp only [hea]
  rw [bind_ok (access_ok h), bind_get, bind_ok hload]
  rfl

theorem completes_st_plain (hea : ldEa (s.rdG a) ty off = ea) (h : Reaches s (s.rdG a) ea (ldSize ty) permW .store l s')
    (hp : Claim.Plain s' l ea (ldSize ty)) (hroom : s.c.sq.length < 32) :
    CompletesTo (.st d a ty off) s s' (Claim.queued s'.c [(.write (cellsAt l.key (leBytes (s.rdG d).val.toNat (ldSize ty)))
      (if l.tagless then [] else [(l.key / 16, false)]), homeOf l.key)]) (s.c.pc + 1) := by
  have hcaches := reaches_caches h
  have hroom' : s'.c.sq.length < 32 := by rwa [sq_caches hcaches]
  refine completes_upd (f := fun c => Claim.queued c _) (m := storeFrom d a ty off) rfl ?_ ((issue_caches hcaches).trans ⟨rfl, rfl, rfl, rfl, rfl, rfl⟩)
  unfold storeFrom
  rw [bind_get]
  simp only [hea]
  rw [bind_ok (access_ok h), storeBytes_plain hp hroom', enqueue_free hroom']

theorem completes_stc_plain (hea : ldcEa (s.rdG a) goff = ea)
    (h : Reaches s (s.rdG a) ea 16 (if (s.rdG d).tag then permW ||| permCS else permW) .store l s')
    (hp : Claim.Plain s' l ea 16) (hroom : s.c.sq.length < 32) (htag : ((s.rdG d).tag && l.tagless) = false) :
    CompletesTo (.stc d a goff) s s' (Claim.queued s'.c [(.write (cellsAt l.key (leBytes (s.rdG d).val.toNat 16))
      (if l.tagless then [] else [(l.key / 16, (s.rdG d).tag)]), homeOf l.key)]) (s.c.pc + 1) := by
  have hcaches := reaches_caches h
  have hroom' : s'.c.sq.length < 32 := by rwa [sq_caches hcaches]
  refine completes_upd (f := fun c => Claim.queued c _) rfl ?_ ((issue_caches hcaches).trans ⟨rfl, rfl, rfl, rfl, rfl, rfl⟩)
  rw [bind_get]
  simp only [hea]
  rw [bind_ok (access_ok h), bind_raiseIf htag, storeBytes_plain hp hroom', enqueue_free hroom']

/-- LDA of a plain home becomes outstanding. -/
theorem completes_lda_plain (hea : ldEa (s.rdG a) ty off = ea) (h : Reaches s (s.rdG a) ea (ldSize ty) permR .load l s')
    (hp : Claim.Plain s' l ea (ldSize ty)) (hroom : s.c.loads.length < 32) :
    CompletesTo (.lda d a ty off) s s' { s'.c with
      loads := s'.c.loads ++ [{ file := .g, reg := gKey s.c.sys d.val, ty := some ty, token := s.c.tokenOf, seq := s.c.seq, ctx := s.c.ctx
                                spos := s.c.spos, ea := ea, sectors := [⟨(List.range (ldSize ty)).map (fun i => (i, l.key + i)), false⟩] }]
      seq := s.c.seq + 1 } (s.c.pc + 1) := by
  have hcaches := reaches_caches h
  have ha := awaitsAmo_of_plain hp
  have hf : s'.flushAmo l.key (ldSize ty) = s' := if_neg (by simp [ha])
  have hamo : amoFirst l.key (ldSize ty) s' = (.ok (), s') := by
    unfold amoFirst
    rw [bind_modify, hf, bind_get, ha]
    rfl
  have hread : asyncRead l ea (ldSize ty) s' = (.ok (), s') := by
    unfold asyncRead
    rw [hp.host]
    rfl
  have hissue : SameIssue s.c (s'.c.withLoad fun spos =>
      { file := .g, reg := gKey s'.c.sys d.val, ty := some ty, spos := spos, ea := ea
        sectors := [⟨(List.range (ldSize ty)).map (fun i => (i, l.key + i)), false⟩] }) :=
    (issue_caches hcaches).trans ⟨rfl, rfl, rfl, rfl, rfl, rfl⟩
  obtain ⟨t, ht, hb, hend⟩ := completes_upd (i := .lda d a ty off) (f := (·.withLoad _)) rfl (by
    rw [bind_ok (loadRoom_free hroom), bind_get]
    simp only [hea]
    rw [bind_ok (access_ok h), bind_get, hp.stack, if_neg Bool.false_ne_true, bind_get, bind_holdIf hp.free, bind_ok hamo, bind_ok hread,
      addLoad_run]) hissue
  refine ⟨t, ht, became_of_bare hb ?_, hend⟩
  obtain ⟨gc, r, hc⟩ := core_caches hcaches
  rw [hc]
  rfl

end

/-! ## Where a plain home lies (R162, R169) -/

theorem isHost_of_window {k : Nat} (h : spadBase ≤ k) : isHost k = false := by
  unfold spadBase at h
  simp [isHost]
  omega

theorem memberLoc_window {s : State} {p : Party} {m : Nat} {mk : Nat → Loc} {l : Loc} (hmk : ∀ n, spadBase ≤ (mk n).key)
    (h : s.memberLoc p m mk = .ok l) : spadBase ≤ l.key := by
  unfold State.memberLoc at h
  split at h
  · exact nomatch h
  · split at h
    · cases h
      exact hmk 0
    · split at h <;> cases h <;> exact hmk _

/-- Pages are aligned, so that translation keeps the place in a granule (R171). -/
theorem xlate_granule {s s' : State} {ps : List TlbPlace} {ctx va pa : Nat} {need : PageNeed} (h : s.xlate ps ctx va need = (.ok pa, s')) :
    pa % 16 = va % 16 := by
  have hleaf (e : Word) (level : Nat) : (ptePA e + va % 2 ^ leafLog level) % 16 = va % 16 := by
    have hdvd : 16 ∣ 2 ^ leafLog level := by
      unfold leafLog
      split <;> decide
    rw [ptePA, Nat.add_mod, Nat.mod_mod_of_dvd _ hdvd]
    omega
  unfold State.xlate at h
  split at h
  · exact nomatch congrArg Prod.fst h
  · split at h
    · exact nomatch congrArg Prod.fst h
    · rename_i e level es _
      simp only at h
      split at h
      · exact nomatch congrArg Prod.fst h
      · split at h
        · cases h
          exact hleaf e level
        · exact nomatch congrArg Prod.fst h

theorem eq_ok_of_ite {ε α : Type} {c : Prop} [Decidable c] {m : Except ε α} {e : ε} {y : α} (h : (if c then m else .error e) = .ok y) : m = .ok y := by
  split at h
  · exact h
  · exact nomatch h
theorem ok_of_ite {ε α : Type} {c : Prop} [Decidable c] {x y : α} {e : ε} (h : (if c then .ok x else .error e) = Except.ok y) : y = x :=
  (Except.ok.inj (eq_ok_of_ite h)).symm

/-- An access goes to a window, whose units are the package's own, or keeps its place in a granule of a physical address. -/
theorem locate_home {s s' : State} {p : Party} {a : Acc} {ea n : Nat} {l : Loc} (h : s.locate p a ea n = (.ok l, s')) :
    spadBase ≤ l.key ∨ (isHost l.key = l.host ∧ l.key % 16 = ea % 16) := by
  have hspad (c o : Nat) : spadBase ≤ spadKey c o := by unfold spadKey; omega
  have histore (c o : Nat) : spadBase ≤ istoreKey c o := by unfold istoreKey spadBase istoreBase; omega
  have hacc (c o : Nat) : spadBase ≤ accKey c o := by unfold accKey spadBase accBase; omega
  unfold State.locate at h
  split at h
  · exact nomatch congrArg Prod.fst h
  · split at h
    · exact nomatch congrArg Prod.fst h
    · next hx =>
      cases h
      exact .inr ⟨rfl, xlate_granule hx⟩
  · next w unit off _ =>
    left
    have hl := congrArg Prod.fst h
    cases w with
    | eng => exact nomatch hl
    | near | spad => exact ok_of_ite hl ▸ hspad _ _
    | istore => exact ok_of_ite hl ▸ histore _ _
    | acc => exact ok_of_ite hl ▸ hacc _ _
    | mspad => exact memberLoc_window (fun n => hspad n _) (eq_ok_of_ite hl)
    | mistore => exact memberLoc_window (fun n => histore n _) (eq_ok_of_ite hl)

/-- No byte of a granule outside the host windows lies in one. -/
theorem isHost_granule {k i : Nat} (h16 : k % 16 = 0) (h : isHost k = false) (hi : i < 16) : isHost (k + i) = false := by
  simp only [isHost, Bool.and_eq_false_iff, decide_eq_false_iff_not] at h ⊢
  omega

theorem readBytes_eq_map (m : List Host.Cell) (a n : Nat) : readBytes m a n = (List.range n).map (fun i => readByte m (a + i)) := by
  induction n generalizing a with
  | zero => rfl
  | succ n ih =>
    rw [readBytes, ih, List.range_succ_eq_map, List.map_cons, List.map_map]
    simp only [Function.comp_def, Nat.succ_eq_add_one, Nat.add_right_comm, Nat.add_assoc, Nat.add_zero]

/-- With an empty queue the core sees memory (R202). -/
theorem seen_of_empty {s : State} {k n : Nat} (hsq : s.c.sq = []) (hh : ∀ i < n, isHost (k + i) = false) :
    Claim.seen s k n = readBytes s.mem k n := by
  rw [Claim.seen, readBytes_eq_map]
  refine List.map_congr_left fun i hi => ?_
  have hq : sqByte (s.getC s.cur).sq s.c.seq (k + i) = none := by
    change sqByte s.c.sq _ _ = none
    rw [hsq]
    rfl
  simp only [State.seenByte, hq, hh i (List.mem_range.1 hi), Bool.false_eq_true, if_false]

/-- With an empty queue a load's tag is its granule's (R178, R193). -/
theorem loadBytes_tag_of_empty {s u : State} {l : Loc} {ea n : Nat} {bs : List Byte} {tag : Bool} (hp : Claim.Plain s l ea n)
    (hsq : s.c.sq = []) (h : loadBytes l ea n s = (.ok (bs, tag), u)) : tag = (s.tagAt l.key && !l.tagless) := by
  have ha := awaitsAmo_of_plain hp
  have hf : s.flushAmo l.key n = s := if_neg (by simp [ha])
  have hm : s.meetsError l.key n = false := by simp [State.meetsError, hp.good]
  unfold loadBytes at h
  simp only [bind_get, hp.stack, hp.host, amoFirst, Bool.false_eq_true, if_false] at h
  rw [bind_holdIf hp.free] at h
  simp only [bind_run, modify_run, get_run, hf, ha, holdIf, hm, raiseIf, hsq, List.foldl_nil, Bool.false_eq_true, if_false, pure_run] at h
  split at h <;> cases h <;> rfl

theorem completes_ldc_plain {s s' : State} {d a : GReg} {goff : BitVec 17} {l : Loc} {ea : Nat} (hea : ldcEa (s.rdG a) goff = ea)
    (h : Reaches s (s.rdG a) ea 16 (permR ||| permCL) .load l s') (hp : Claim.Plain s' l ea 16) (hsq : s.c.sq = []) :
    CompletesTo (.ldc d a goff) s s'
      (putG s'.c d ⟨BitVec.ofNat 128 (leNat (readBytes s.mem l.key 16)), s.tagAt l.key && !l.tagless⟩) (s.c.pc + 1) := by
  have hcaches := reaches_caches h
  have hsq' : s'.c.sq = [] := by rw [sq_caches hcaches, hsq]
  obtain ⟨s1, -, -, hloc⟩ := h.checked
  have hhost : ∀ i < 16, isHost (l.key + i) = false := by
    intro i hi
    rcases locate_home hloc with hk | ⟨hk, h16⟩
    · exact isHost_of_window (by omega)
    · exact isHost_granule (by rw [h16, h.aligned]) (by rw [hk, hp.host]) hi
  obtain ⟨tag, u, hload, hb, hi⟩ := loadBytes_plain hp
  have htag : tag = (s.tagAt l.key && !l.tagless) := by
    rw [loadBytes_tag_of_empty hp hsq' hload, State.tagAt, State.tagAt, tags_caches hcaches]
  rw [seen_of_empty hsq' hhost, mem_caches hcaches, htag] at hload
  refine completes_wr_of_became (lat := s'.loadLat ea) rfl ?_ hb ((issue_caches hcaches).trans hi)
  rw [bind_get]
  simp only [hea]
  rw [bind_ok (access_ok h), bind_get, bind_ok hload]
  rfl

theorem loadsStores : Claim.LoadsStores := by
  intro s s' d a ty off goff l x c n ea gea v next
  refine ⟨fun h => ⟨fun hp => ⟨completes_ld_plain rfl h hp, completes_lda_plain rfl h hp⟩, fun hin hx hb => ?_⟩,
    ⟨fun hin hx hb h => completes_st_stack hin hx hb rfl h, fun hin hx => ⟨fun hb h => completes_ldc_stack hin hx hb rfl h,
      fun h htag => completes_stc_stack hin hx rfl h htag⟩⟩,
    completes_st_plain rfl, completes_ldc_plain rfl, completes_stc_plain rfl⟩
  exact ⟨completes_ld_stack hin hx hb rfl h, completes_lda_stack hin hx hb rfl h⟩

/-! ## PREF (R192, R437) -/

/-- An effect that never ends in STEPLOCAL. -/
def NeverLocal {α : Type} (m : M α) : Prop := ∀ s t u, m s = (.error (.trap t), u) → t.cause ≠ Cause.steplocal.code

theorem bind_eq_error {α β : Type} {m : M α} {f : α → M β} {s t : State} {e : Stop} (h : (m >>= f) s = (.error e, t)) :
    m s = (.error e, t) ∨ ∃ a u, m s = (.ok a, u) ∧ f a u = (.error e, t) := by
  rw [bind_run] at h
  rcases hm : m s with ⟨x | a, u⟩ <;> rw [hm] at h
  · cases h
    exact .inl rfl
  · exact .inr ⟨a, u, rfl, h⟩

theorem NeverLocal.bind {α β : Type} {m : M α} {f : α → M β} (hm : NeverLocal m) (hf : ∀ a, NeverLocal (f a)) : NeverLocal (m >>= f) := by
  intro s t u h
  rcases bind_eq_error h with h | ⟨a, v, -, h⟩
  · exact hm s t u h
  · exact hf a v t u h
theorem neverLocal_pure {α : Type} (a : α) : NeverLocal (pure a) := fun _ _ _ h => nomatch congrArg Prod.fst h
theorem neverLocal_get : NeverLocal get := fun _ _ _ h => nomatch congrArg Prod.fst h
theorem neverLocal_set (s : State) : NeverLocal (set s : M PUnit) := fun _ _ _ h => nomatch congrArg Prod.fst h
theorem neverLocal_raise {α : Type} {c : Cause} (hc : c.code ≠ Cause.steplocal.code) (n : Nat) : NeverLocal (raise c n : M α) := by
  intro s t u h
  cases h
  exact hc
theorem neverLocal_raiseIf {c : Cause} (hc : c.code ≠ Cause.steplocal.code) (b : Bool) (n : Nat) : NeverLocal (raiseIf b c n) := by
  cases b
  · exact neverLocal_pure ()
  · exact neverLocal_raise hc n

/-- A grant table that cannot be read is XLATE, MCHECK or REMOTE (R101). -/
theorem grantInMem_cause {s u : State} {ps : List TlbPlace} {ctx gid : Nat} {f : Cause × Nat} (h : s.grantInMem ps ctx gid = (.error f, u)) :
    f.1.code ≠ Cause.steplocal.code := by
  unfold State.grantInMem at h
  simp only at h
  split at h
  · cases h
    show Cause.xlate.code ≠ _
    decide
  · split at h
    · cases h
      show Cause.mcheck.code ≠ _
      decide
    · split at h
      · exact nomatch congrArg Prod.fst h
      · cases h
        show Cause.remote.code ≠ _
        decide

theorem neverLocal_grantEntry (gid : Nat) : NeverLocal (grantEntry gid) := by
  refine neverLocal_get.bind fun s => ?_
  dsimp only
  split
  · exact neverLocal_pure _
  · split
    · next h => exact (neverLocal_set _).bind fun _ => neverLocal_raise (grantInMem_cause h) _
    · exact (neverLocal_set _).bind fun _ => neverLocal_pure _

theorem neverLocal_capcheck (c : TReg) (ea n : Nat) (need : BitVec 12) : NeverLocal (capcheck c ea n need) := by
  have hlive : NeverLocal (capLive c ea) :=
    (neverLocal_raiseIf (by decide) _ _).bind fun _ => neverLocal_get.bind fun _ => (neverLocal_raiseIf (by decide) _ _).bind fun _ =>
      (neverLocal_grantEntry _).bind fun _ => (neverLocal_raiseIf (by decide) _ _).bind fun _ => neverLocal_pure _
  exact hlive.bind fun _ => (neverLocal_raiseIf (by decide) _ _).bind fun _ => (neverLocal_raiseIf (by decide) _ _).bind fun _ => neverLocal_pure _

theorem neverLocal_locateM (a : Acc) (ea n : Nat) : NeverLocal (locateM a ea n) := by
  refine neverLocal_get.bind fun s => ?_
  split
  · exact (neverLocal_set _).bind fun _ => neverLocal_raise (by decide) _
  · exact (neverLocal_set _).bind fun _ => neverLocal_pure _

/-- Whether STEPSTRICT keeps the core from an address (R437). -/
def State.away (s : State) (ea : Nat) : Bool := s.c.strict && !s.ownSpad s.cur ea && !s.c.inStack ea

theorem away_caches {s s' : State} (h : OnlyCaches s s') (ea : Nat) : s'.away ea = s.away ea := by
  obtain ⟨gc, r, hc⟩ := core_caches h
  have hspad : s'.ownSpad s'.cur ea = s.ownSpad s.cur ea := by
    have htask : (s'.getC s'.cur).task = (s.getC s.cur).task := by
      change s'.c.task = s.c.task
      rw [hc]
    have hfind (t : Nat) : s'.task? t = s.task? t := by rw [State.task?, State.task?, ham_caches h]
    unfold State.ownSpad
    rw [htask, cur_caches h]
    simp only [hfind]
  rw [State.away, State.away, hspad, inStack_caches h, hc]
  rfl

/-- Where STEPSTRICT allows the address no test of an access is STEPLOCAL. -/
theorem access_near {s u : State} {c : TReg} {ea n : Nat} {need : BitVec 12} {a : Acc} {t : Trap} (hs : s.away ea = false)
    (h : access c ea n need a s = (.error (.trap t), u)) : t.cause ≠ Cause.steplocal.code := by
  rcases bind_eq_error h with h | ⟨e, s1, hcap, h⟩
  · exact neverLocal_capcheck c ea n need s t u h
  · have hs1 : s1.away ea = false := by rw [away_caches (capcheck_caches hcap), hs]
    rw [bind_ok (stepLocal_ok hs1)] at h
    refine NeverLocal.bind (neverLocal_locateM a ea n) (fun l => ?_) s1 t u h
    exact (neverLocal_raiseIf (by decide) _ _).bind fun _ => (neverLocal_raiseIf (by decide) _ _).bind fun _ => neverLocal_pure _

section
variable {s t u : State} {a : GReg} {off : BitVec 17} {l : Loc} {e : Stop} {x : Trap}

theorem exec_pref_ok (h : access (s.rdG a) (eaOf (s.rdG a) off.toInt) 1 permR .load s = (.ok l, t)) :
    exec (.pref a off) s = run (set ({ s with tlb := t.tlb }.upd (fun k => { k with gcache := t.c.gcache }))) s := by
  rw [exec_pref, execPref, run, bind_get, on_eq, h]
  rfl
theorem exec_pref_steplocal (h : access (s.rdG a) (eaOf (s.rdG a) off.toInt) 1 permR .load s = (.error (.trap x), u))
    (hx : x.cause = Cause.steplocal.code) : exec (.pref a off) s = .next (s.trapPrecise x) := by
  rw [exec_pref, execPref, run, bind_get, on_eq, h]
  dsimp only
  rw [if_pos hx]
  rfl
theorem exec_pref_stopped (h : access (s.rdG a) (eaOf (s.rdG a) off.toInt) 1 permR .load s = (.error e, u))
    (he : ∀ x, e = .trap x → x.cause ≠ Cause.steplocal.code) : exec (.pref a off) s = run (pure ()) s := by
  rw [exec_pref, execPref, run, bind_get, on_eq, h]
  cases e with
  | trap x =>
    dsimp only
    rw [if_neg (he x rfl)]
    rfl
  | hold | deliver => rfl
end

/-- The state with what a check has cached: translations, and entries of the executing core's grant cache. -/
def State.caching (s t : State) : State := { s with tlb := t.tlb }.upd (fun k => { k with gcache := t.c.gcache })

theorem completes_waitld {s : State} {n : BitVec 6} (h : s.c.loads.length ≤ n.toNat) : Completes (.waitld n) s s.c := by
  refine completes_run (m := act (·.loadsTo n.toNat)) (u := s) rfl ?_ (became_refl s) (.rfl _)
  rw [act, modify_run, State.loadsTo, Nat.sub_eq_zero_of_le h]
  rfl

/-- Where STEPSTRICT allows the address PREF completes, and leaves at most what its check may cache. -/
theorem pref_near {s : State} {a : GReg} {off : BitVec 17} (hs : s.away (eaOf (s.rdG a) off.toInt) = false) :
    ∃ t, exec (.pref a off) s = .next t ∧ outside { t with tlb := s.tlb } = outside s ∧
      bare { t.c with gcache := s.c.gcache } = bare s.c ∧ Ends s t (s.c.pc + 1) := by
  rcases h : access (s.rdG a) (eaOf (s.rdG a) off.toInt) 1 permR .load s with ⟨e | l, u⟩
  · obtain ⟨t, ht, ⟨hout, hc, -⟩, hend⟩ := completes_run (exec_pref_stopped h fun x hx => access_near hs (hx ▸ h)) rfl (became_refl s) (.rfl _)
    refine ⟨t, ht, ?_, ?_, hend⟩
    · exact congrArg (fun x : State => { x with tlb := s.tlb }) hout
    · exact congrArg (fun c : Core => { c with gcache := s.c.gcache }) hc
  · have hi : SameIssue s.c (s.caching u).c := by
      rw [State.caching, c_upd]
      exact ⟨rfl, rfl, rfl, rfl, rfl, rfl⟩
    obtain ⟨t, ht, ⟨hout, hc, -⟩, hend⟩ := leaves_run (u := s.caching u) (exec_pref_ok h) rfl hi
    refine ⟨t, ht, ?_, ?_, hend⟩
    · exact congrArg (fun x : State => { x with tlb := s.tlb }) hout
    · refine (congrArg (fun c : Core => { c with gcache := s.c.gcache }) hc).trans ?_
      rw [State.caching, c_upd]
      rfl

/-- A capability that fails its check stops the access with that cause. -/
theorem access_turned {s u : State} {c : TReg} {ea n : Nat} {need : BitVec 12} {a : Acc} {k : Cause} (h : Turned s c ea n need k u) :
    access c ea n need a s = (.error (k.stop ea), u) ∧ k.code ≠ Cause.steplocal.code := by
  obtain ⟨rfl, rfl, ht⟩ | ⟨rfl, ht, hz, ⟨hid, rfl⟩ | ⟨hid, e, hg, he⟩⟩ | ⟨e, hl, ⟨rfl, hp⟩ | ⟨rfl, hp, hb⟩⟩ := h
  · exact ⟨access_of_capLive (capLive_untagged ea ht), by decide⟩
  · exact ⟨access_of_capLive (capLive_out ea ht hz hid), by decide⟩
  · exact ⟨access_of_capLive (capLive_gone ea ht hz hid hg he), by decide⟩
  · exact ⟨access_of_capcheck (capcheck_perm hl hp), by decide⟩
  · exact ⟨access_of_capcheck (capcheck_bounds hl hp hb), by decide⟩

theorem waitPrefetch : Claim.WaitPrefetch := by
  intro s a n off
  refine ⟨completes_waitld, ?_⟩
  intro c ea away
  refine ⟨fun hs => pref_near (Bool.not_eq_true _ ▸ hs), fun hs ⟨s', hc⟩ => ?_, fun _ ⟨k, u, hk⟩ => ?_⟩
  · exact exec_pref_steplocal (access_steplocal hc ((away_caches (checked_caches hc) ea).trans hs)) rfl
  · obtain ⟨hk, hcode⟩ := access_turned (a := .load) hk
    exact completes_run (exec_pref_stopped hk fun x hx => by cases hx; exact hcode) rfl (became_refl s) (.rfl _)

/-- Settles O14: the stack (`loadBytes_of_held`, `stackStore_of_held`), plain homes (`loadBytes_plain`, `storeBytes_plain`), and PREF by
what its access answers (`access_near`, `access_steplocal`, `access_turned`). -/
theorem loadsAndStores : Obligations.LoadsAndStores := ⟨loadsStores, waitPrefetch⟩

end Sys2Proof.Machine
end

section
/-!
The hardware steps of a core (O38): each step's condition, and what it then does.
-/
namespace Sys2Proof.Machine

open Safety (bare outside Became Ends)

/-! ## The next turn -/

/-- A step that gives a core the next turn where its test passes. -/
theorem wakes_of_test {i : Instr} {s : State} {n : Nat} {p : Prop} [Decidable p] (he : exec i s = .next (if p then s.turnOf n else s)) (h : p) :
    Claim.wakes i s n := he.trans (congrArg Host.Outcome.next (if_pos h))

section
variable {s : State} {n : Nat}

theorem wakes_item {it : Item} {is : List Item} (hsub : (s.getC n).subscribed = true) (hw : (s.getC n).w.stream = it :: is) :
    Claim.wakes (.item n) s n :=
  wakes_of_test (p := ((s.getC n).subscribed && !(s.getC n).w.stream.isEmpty) = true) rfl (by rw [hsub, hw]; rfl)

theorem wakes_waitmWake {k gid : Nat} (hw : (s.getC n).wait = some (.memory k gid)) : Claim.wakes (.waitmWake n) s n := by
  have he : exec (.waitmWake n) s = .next (match (s.getC n).wait with | some (.memory _ _) => s.turnOf n | _ => s) := rfl
  rw [hw] at he
  exact he

theorem wakes_waitmPoll {k gid : Nat} (hw : (s.getC n).wait = some (.memory k gid)) (hp : (s.getC n).since + 256 ≤ s.cycle) :
    Claim.wakes (.waitmPoll n) s n := by
  have he : exec (.waitmPoll n) s = .next (match (s.getC n).wait with
    | some (.memory _ _) => if (s.getC n).since + 256 ≤ s.cycle then s.turnOf n else s
    | _ => s) := rfl
  rw [hw] at he
  exact wakes_of_test he hp

theorem wakes_delayExpiry (hd : (s.getC n).delayed = true) (hr : (s.getC n).readyAt ≤ s.cycle) : Claim.wakes (.delayExpiry n) s n :=
  wakes_of_test (p := ((s.getC n).delayed && decide ((s.getC n).readyAt ≤ s.cycle)) = true) rfl (by rw [hd, decide_eq_true hr]; rfl)

theorem wakes_postAcceptance {k : Nat} {x : Word} (hw : (s.getC n).wait = some (.card k)) (hx : (s.getC n).woken = some x) :
    Claim.wakes (.postAcceptance n) s n := by
  unfold Claim.wakes Claim.gives
  show execPostAcceptance n s = _
  simp only [execPostAcceptance, hw, hx]

theorem wakes_sclkWaitExpiry {v : Nat} (hw : (s.getC n).wait = some (.clock v)) (hv : v ≤ (s.getC n).sclk s.cycle) :
    Claim.wakes (.sclkWaitExpiry n) s n := by
  have he : exec (.sclkWaitExpiry n) s = .next (match (s.getC n).wait with
    | some (.clock v) => if v ≤ (s.getC n).sclk s.cycle then s.turnOf n else s
    | _ => s) := rfl
  rw [hw] at he
  exact wakes_of_test he hv

end

/-! ## Weaves -/

section
variable {s : State} {n : Nat}

theorem gives_weaveHold (hst : (s.getC n).w.st = .member) (hw : (s.getC n).wait.isSome = true)
    (hf : (s.getC (s.getC n).w.pub).w.followers.any (fun f => f.2 == n) = true) :
    Claim.gives (.weaveHold n) s (s.updC (s.getC n).w.pub (fun p => { p with w := { p.w with holds := nins n p.w.holds } })) :=
  congrArg Host.Outcome.next (if_pos ⟨hst, by rw [Core.stalls, hw]; rfl, hf⟩)

theorem gives_weaveRelease (hst : (s.getC n).w.st = .member) (hw : (s.getC n).wait = none) (hh : (s.getC n).w.handler = none) :
    Claim.gives (.weaveRelease n) s (s.updC (s.getC n).w.pub (fun p => { p with w := { p.w with holds := ndel n p.w.holds } })) :=
  congrArg Host.Outcome.next (if_pos ⟨.inl hst, by rw [hw]; rfl, by rw [hh]; rfl⟩)

/-- A weave in which a single registration has arrived accepts it where it stands in no weave of another. -/
theorem accept_one {w : Weave} {r : Reg} (hr : w.regs = [r]) (ha : r.arrived = true) (hst : w.st = .alone ∨ w.st = .detached) :
    w.accept = { w with st := .publisher, rank := 0, size := r.size } := by
  simp [Weave.accept, hr, ha, hst]

theorem gives_registrationArrival {g : Reg} (hst : (s.getC n).w.st = .waiting)
    (hp : (s.getC (s.getC n).w.pub).w.st = .alone ∨ (s.getC (s.getC n).w.pub).w.st = .detached)
    (hr : (s.getC (s.getC n).w.pub).w.regs = [g]) (hg : g.core = n) :
    Claim.gives (.registrationArrival n) s (s.updC (s.getC n).w.pub (fun c => { c with w := { c.w with
      rank := 0, st := .publisher, size := g.size, regs := [{ g with arrived := true }] } })) := by
  have hmap : (s.getC (s.getC n).w.pub).w.regs.map (fun r : Reg => if r.core = n then { r with arrived := true } else r) =
      [{ g with arrived := true }] := by simp [hr, hg]
  have hacc := accept_one (w := { (s.getC (s.getC n).w.pub).w with regs := [{ g with arrived := true }] }) rfl rfl hp
  rw [← hmap] at hacc
  refine (congrArg Host.Outcome.next (if_pos hst)).trans
    (congrArg (fun w => Host.Outcome.next (s.updC (s.getC n).w.pub fun c => { c with w := w })) (hacc.trans ?_))
  rw [hmap]

/-- What a core's leaving does to others: only its publisher's place changes. -/
theorem unfollow_getC_ne (s : State) (q m : Nat) (hq : m ≠ q) (hp : m ≠ (s.getC q).w.pub) : (s.unfollow q).getC m = s.getC m := by
  unfold State.unfollow
  simp only
  split
  case h_4 => rfl
  all_goals rw [getC_updC, if_neg hq, getC_updC, if_neg hp]

theorem unfollow_cur (s : State) (q : Nat) : (s.unfollow q).cur = s.cur := by
  unfold State.unfollow
  simp only
  split <;> rfl

@[simp] theorem detach_cur (s : State) (q : Nat) : (s.detach q).cur = s.cur := unfollow_cur s q
@[simp] theorem detach_mem (s : State) (q : Nat) : (s.detach q).mem = s.mem := unfollow_mem s q
theorem detach_getC_ne (s : State) (q m : Nat) (hq : m ≠ q) (hp : m ≠ (s.getC q).w.pub) : (s.detach q).getC m = s.getC m := by
  rw [State.detach, getC_updC, if_neg hq, unfollow_getC_ne s q m hq hp]

end

/-! ## Traps between words -/

/-- A trap that no hook takes and that is no MCHECK in system code enters its handler. -/
theorem takeTrap_enters {s : State} {e : Entry} (hexl : s.c.tr.exl = false) (hm : e.cause ≠ Cause.mcheck.code ∨ s.c.sys = false)
    (hh : s.c.husk.hooks = []) : s.takeTrap e = s.awaitProducers.upd (·.enter e) := by
  obtain hm | hm := hm
  · exact takeTrap_of_no_hook hexl hm hh
  have hhook : s.c.completeAll.hookFor e.cause e.cls e.epc = none := by simp [Core.hookFor, Core.completeAll, hh]
  simp only [State.takeTrap, awaitProducers_c, hhook]
  simp [Core.completeAll, hexl, hm]

/-- What such an entry does: the executing core has awaited its producers and stands in its handler; no other core changes. -/
theorem takeTrap_effect {s : State} {e : Entry} (hexl : s.c.tr.exl = false) (hm : e.cause ≠ Cause.mcheck.code ∨ s.c.sys = false)
    (hh : s.c.husk.hooks = []) : (s.takeTrap e).getC s.cur = s.c.completeAll.enter e ∧ (s.takeTrap e).mem = s.mem ∧
      ∀ m, m ≠ s.cur → (s.takeTrap e).getC m = s.getC m := by
  rw [takeTrap_enters hexl hm hh]
  refine ⟨(c_upd ..).trans (congrArg (·.enter e) (awaitProducers_c s)), rfl, fun m hne => ?_⟩
  rw [getC_upd, awaitProducers_cur, if_neg hne, awaitProducers_getC_ne s hne]

/-- The TIMEOUT that a core WAITING too long takes (R139). -/
def State.lateEntry (s : State) (tag : BitVec 4) : Entry where
  cause := Cause.timeout.code
  epc := s.c.pc
  eword := (s.c.rewriteQ.head?).getD (s.istoreWord s.cur s.c.pc.toNat)
  einfo := tag.setWidth 64
  eseq := s.c.ringHead

theorem lateEntry_ecause (s : State) (tag : BitVec 4) : (s.lateEntry tag).ecause = 0x16 := by
  simp only [Entry.ecause, State.lateEntry, Bool.false_eq_true, if_false]
  decide

theorem exec_rdvTimeout_waiting {s : State} (hto : s.c.rdvto ≠ 0) (hrun : s.c.run = .running) (hst : s.c.w.st = .waiting)
    (hh : s.c.w.handler = none) (hlate : s.c.w.since + s.c.rdvto.toNat < s.cycle) :
    exec (.rdvTimeout s.cur) s = .next (s.asCore s.cur fun s => (s.detach s.cur).takeTrap ((s.detach s.cur).lateEntry s.c.w.waitTag)) := by
  have hcond : s.c.w.st = .waiting ∧ s.c.w.handler.isNone = true ∧ s.c.w.since + s.c.rdvto.toNat < s.cycle := ⟨hst, by rw [hh]; rfl, hlate⟩
  have hgo : ¬(s.c.rdvto = 0 ∨ s.c.run ≠ .running) := not_or.2 ⟨hto, not_not.2 hrun⟩
  exact congrArg Host.Outcome.next ((if_neg hgo).trans (if_pos hcond))

theorem gives_rdvTimeout {s : State} (hto : s.c.rdvto ≠ 0) (hrun : s.c.run = .running) (hst : s.c.w.st = .waiting)
    (hh : s.c.w.handler = none) (hlate : s.c.w.since + s.c.rdvto.toNat < s.cycle) (hexl : s.c.tr.exl = false)
    (hhook : s.c.husk.hooks = []) (hregs : s.c.w.regs = []) : ∃ t, Claim.gives (.rdvTimeout s.cur) s t ∧
      (t.getC s.cur).w.st = .detached ∧ (t.getC s.cur).tr.exl = true ∧ (t.getC s.cur).tr.ecause = 0x16 ∧
      (t.getC s.cur).tr.epc = s.c.pc ∧ (t.getC s.cur).tr.einfo = s.c.w.waitTag.setWidth 64 ∧ t.mem = s.mem ∧
      ∀ m, m ≠ s.cur → m ≠ s.c.w.pub → t.getC m = s.getC m := by
  obtain ⟨w, hw, hdet⟩ := detach_self s s.cur
  have hdet : w.st = .detached := hdet (by rw [show (s.getC s.cur).w.regs = [] from hregs]; exact nofun)
  have hc : (s.detach s.cur).c = { s.c with w := w } := by
    rw [State.c, detach_cur, hw]
    rfl
  obtain ⟨hself, hmem, hother⟩ := takeTrap_effect (s := s.detach s.cur) (e := (s.detach s.cur).lateEntry s.c.w.waitTag) (by rwa [hc])
    (.inl (show Cause.timeout.code ≠ Cause.mcheck.code by decide)) (by rwa [hc])
  rw [detach_cur, hc] at hself
  refine ⟨_, exec_rdvTimeout_waiting hto hrun hst hh hlate, (congrArg (·.w.st) hself).trans hdet, congrArg (·.tr.exl) hself,
    (congrArg (·.tr.ecause) hself).trans (lateEntry_ecause ..), (congrArg (·.tr.epc) hself).trans (congrArg Core.pc hc),
    congrArg (·.tr.einfo) hself, hmem.trans (detach_mem ..), fun m hn hp => ?_⟩
  exact (hother m (by rwa [detach_cur])).trans (detach_getC_ne s s.cur m hn hp)

/-! ## Imprecise traps -/

/-- The entry of the imprecise trap for ring entry `r` (R456), at a core outside every weave. -/
def Core.lateTrap (c : Core) (r : RingEntry) : Entry where
  cause := r.cause
  cls := if r.e5 then 2 else r.cls.toNat
  imp := true
  epc := c.pc
  eword := r.eword
  einfo := r.addr
  eseq := r.seq

/-- The fault ring once its entries have been told, and the latch emptied. -/
def Core.told (c : Core) : Core :=
  { c with ring := c.ring.map (fun e => if e.2.status = 0 then e else (e.1, { e.2 with told := true })), latch := {} }

theorem deliver_due {s : State} {r : RingEntry} (hr : s.c.dueEntry = some r) (hst : s.c.w.st = .alone) :
    s.deliver = (s.upd Core.told).takeTrap (s.c.lateTrap r) := by
  simp only [State.deliver, hr, hst]
  rfl

theorem lateTrap_ecause (c : Core) {r : RingEntry} (h5 : r.e5 = false) :
    (c.lateTrap r).ecause = BitVec.ofNat 64 (r.cls.toNat * 1024 + 256) + r.cause.setWidth 64 := by
  rw [← BitVec.ofNat_toNat, ← BitVec.ofNat_add]
  simp only [Entry.ecause, Core.lateTrap, h5, Bool.false_eq_true, if_false, if_true]

theorem gives_impreciseTrapDelivery {s : State} {r : RingEntry} (hpend : s.c.tr.pend = true) (hexl : s.c.tr.exl = false)
    (hrun : s.c.run = .running) (hpark : s.c.parked = false) (hcom : s.c.committed = false) (hhook : s.c.husk.hooks = [])
    (hst : s.c.w.st = .alone) (hr : s.c.dueEntry = some r) (h5 : r.e5 = false) (hm : r.cause ≠ Cause.mcheck.code ∨ s.c.sys = false) :
    ∃ t, Claim.gives (.impreciseTrapDelivery s.cur) s t ∧ (t.getC s.cur).tr.exl = true ∧ (t.getC s.cur).tr.epc = s.c.pc ∧
      (t.getC s.cur).tr.ecause = BitVec.ofNat 64 (r.cls.toNat * 1024 + 256) + r.cause.setWidth 64 ∧ (t.getC s.cur).tr.eword = r.eword ∧
      (t.getC s.cur).tr.einfo = r.addr ∧ (t.getC s.cur).tr.eseq = r.seq.setWidth 64 ∧ (t.getC s.cur).pc = s.c.tr.trapvec ∧
      t.mem = s.mem := by
  have hcond : (s.c.tr.pend && !s.c.tr.exl && s.c.run == .running && !s.c.parked && !s.c.committed) = true := by
    rw [hpend, hexl, hrun, hpark, hcom]
    rfl
  have hc : (s.upd Core.told).c = s.c.told := c_upd ..
  obtain ⟨hself, hmem, -⟩ := takeTrap_effect (s := s.upd Core.told) (e := s.c.lateTrap r) (by rwa [hc]) (by rwa [hc]) (by rwa [hc])
  rw [hc, ← deliver_due hr hst] at hself
  rw [← deliver_due hr hst] at hmem
  exact ⟨_, congrArg Host.Outcome.next (if_pos hcond), congrArg (·.tr.exl) hself, congrArg (·.tr.epc) hself,
    (congrArg (·.tr.ecause) hself).trans (lateTrap_ecause s.c h5), congrArg (·.tr.eword) hself, congrArg (·.tr.einfo) hself,
    congrArg (·.tr.eseq) hself, congrArg (·.pc) hself, hmem⟩

/-! ## Deposits (R231, R232) -/

section
variable {s : State} {n : Nat}

theorem gives_asyncDepositApply {port : Nat} {a : Nat × Nat × Word × Nat} (hp : port < 8) (hfree : (s.getC n).portfull.getLsbD port = false)
    (ha : (s.getC n).asyncs = [a]) (hport : a.2.1 = port) :
    Claim.gives (.asyncDepositApply n port) s ((s.updC n (fun c => { c with asyncs := [] })).applyDeposit n port a.2.2.1) := by
  have hone : (s.getC n).asyncs.filter (fun x => x.2.1 == port) = [a] := by simp [ha, hport]
  have hrest : (s.getC n).asyncs.filter (fun y => y != a) = [] := by simp [ha]
  refine congrArg Host.Outcome.next ((if_pos hp).trans ?_)
  simp only [State.applyAsync, hfree, hone, List.foldl_cons, List.foldl_nil, Bool.false_eq_true, if_false, State.updC, hrest]

/-- Whether a deposit's target stands does not hang on any core's queue. -/
theorem depositOk_updC_sq (s : State) (n : Nat) (es : List SqEntry) (target : Nat) (task : Option Nat) :
    (s.updC n (fun c => { c with sq := es })).depositOk target task = s.depositOk target task := by
  have hrun : ((s.updC n (fun c => { c with sq := es })).getC target).run = (s.getC target).run := by
    rw [getC_updC]
    split
    case isTrue h => rw [h]
    case isFalse => rfl
  unfold State.depositOk
  rw [hrun]
  rfl

theorem gives_depositArrival {target port ea : Nat} {task : Option Nat} {x : Word} {e : SqEntry} {es : List SqEntry}
    (hsq : (s.getC n).sq = e :: es) (hop : e.op = .deposit target task port x false ea) (hmay : s.mayDrain n 0 = true)
    (hok : s.depositOk target task = true) :
    Claim.gives (.depositArrival n) s ((s.updC n (fun c => { c with sq := es })).applyDeposit target port x) := by
  have hdrain : s.drain n 0 = (s.updC n (fun c => { c with sq := es })).performEntry n e := by
    simp only [State.drain, hmay, if_true, State.updC, hsq, List.getElem?_cons_zero, List.eraseIdx_cons_zero]
  have hperform : (s.updC n (fun c => { c with sq := es })).performEntry n e =
      (s.updC n (fun c => { c with sq := es })).applyDeposit target port x := by
    simp only [State.performEntry, hop, depositOk_updC_sq, hok, if_true, Bool.false_and, Bool.false_eq_true, if_false]
  show execDepositArrival n s = _
  simp only [execDepositArrival, hsq, List.length_cons, List.range_succ_eq_map, List.find?_cons, List.getElem?_cons_zero, hop, hdrain, hperform]

end

/-! ## What a core runs -/

/-- The blob of an image, if there is one, put into a core's instruction store. -/
def State.putImage (s : State) (n : Nat) : Option Image → State
  | some i => s.putCode n i.blobAt i.blob
  | none => s

@[simp] theorem putImage_getC (s : State) (n m : Nat) (im : Option Image) : (s.putImage n im).getC m = s.getC m := by cases im <;> rfl

theorem gives_huskSwitch {s : State} {n : Nat} (hn : n < nCores) (htask : (s.getC n).task = none) (hrun : (s.getC n).run ≠ .halted)
    (hhusk : (s.getC n).husk ≠ s.sec.newest) : Claim.gives (.huskSwitch n) s
      (((s.putImage n s.sec.newest.vendor).putImage n s.sec.newest.owner).updC n
        (fun c => { c with husk := s.sec.newest, retries := 0 })) := by
  refine congrArg Host.Outcome.next ((if_pos ⟨hn, by rw [htask]; rfl⟩).trans ((if_neg (not_or.2 ⟨hhusk, hrun⟩)).trans ?_))
  cases hv : s.sec.newest.vendor <;> cases ho : s.sec.newest.owner <;> rfl

theorem huskSwitches {s : State} {n : Nat} (hn : n < nCores) (htask : (s.getC n).task = none) (hrun : (s.getC n).run ≠ .halted)
    (hhusk : (s.getC n).husk ≠ s.sec.newest) : ∃ t, Claim.gives (.huskSwitch n) s t ∧
      t.getC n = { s.getC n with husk := s.sec.newest, retries := 0 } ∧
      (s.sec.newest.vendor = none → s.sec.newest.owner = none → t.mem = s.mem) ∧
      (∀ im, s.sec.newest.vendor = some im → s.sec.newest.owner = none → t.mem = (s.putCode n im.blobAt im.blob).mem) ∧
      ∀ m, m ≠ n → t.getC m = s.getC m := by
  refine ⟨_, gives_huskSwitch hn htask hrun hhusk, ?_, fun hv ho => ?_, fun im hv ho => ?_, fun m hm => ?_⟩
  · rw [getC_updC, if_pos rfl, putImage_getC, putImage_getC]
  · rw [hv, ho]
    rfl
  · rw [hv, ho]
    rfl
  · rw [getC_updC, if_neg hm, putImage_getC, putImage_getC]

theorem gives_waitmYield {s : State} {n key gid tid : Nat} (hw : (s.getC n).wait = some (.memory key gid)) (ht : (s.getC n).task = some tid)
    (hmay : (s.task? tid).any (·.mayYield) = true) (hn : n < nCores)
    (hlong : (s.getC n).since + (s.getX (s.getC n).ctx).ccb.yieldt ≤ s.cycle) (hother : s.tasksWait (s.getC n).ctx 0 = true) :
    Claim.gives (.waitmYield n) s (s.stash tid false false (some (key / 16))) := by
  show execWaitmYield n s = _
  simp [execWaitmYield, hw, ht, hn, hlong, hother, hmay]

/-- The shape that a task's launch asks for (R398). -/
def State.taskShape (s : State) (t : Task) : Nat := match s.launch? t.lid with | some l => lpbShape l.lpb | none => 4

theorem gives_savedTaskRestore {s : State} {idx : Nat} {cores : List Nat} {v : Saved} {t : Task} (hv : s.ham.saved[idx]? = some v)
    (ht : s.task? v.tid = some t) (hserves : (s.getX t.ctx).serves = true) (hready : s.firstReady t.ctx = some idx)
    (hlen : cores.length = v.was.length) (hnodup : cores.Nodup)
    (hunit : oneUnit (s.taskShape t) cores = true)
    (hfree : ∀ m ∈ cores, s.coreFree m = true ∧ s.clusterOk t.ctx m = true ∧
      (mvals s.ham.launches).all (fun l => l.ctx == t.ctx || !l.claim.contains m) = true)
    (hmap : v.whole = true → s.mapOk v ((v.was.map Prod.snd).zip cores) = true) :
    Claim.gives (.savedTaskRestore idx cores) s (s.unstash v cores) := by
  have hcores : cores.all (fun n => s.coreFree n && s.clusterOk t.ctx n &&
      (mvals s.ham.launches).all (fun l => l.ctx == t.ctx || !l.claim.contains n)) = true := by
    refine List.all_eq_true.2 fun m hm => ?_
    obtain ⟨hf, hc, hl⟩ := hfree m hm
    rw [hf, hc, hl]
    rfl
  have hwhole : (!v.whole || s.mapOk v ((v.was.map Prod.snd).zip cores)) = true := by
    cases h : v.whole
    · rfl
    · exact hmap h
  refine congrArg Host.Outcome.next ?_
  simp only [State.restoreSaved, hv, ht, hserves, hready, hlen, hnodup, hcores, hwhole, beq_self_eq_true, decide_true,
    Bool.true_and, Bool.and_true]
  exact if_pos hunit

theorem coreWaits : Claim.CoreWaits := by
  intro s n port it is k gid x v r a g
  refine ⟨wakes_item, wakes_of_test rfl, fun h => ⟨wakes_waitmWake h, wakes_waitmPoll h⟩, wakes_delayExpiry, wakes_of_test rfl,
    wakes_postAcceptance, wakes_sclkWaitExpiry, gives_weaveHold, gives_weaveRelease,
    fun hst hp hr hg _ => gives_registrationArrival hst hp hr hg, ?_, gives_asyncDepositApply, ?_⟩
  · rintro rfl hto hrun hst hh hlate hexl hhook - hregs
    exact gives_rdvTimeout hto hrun hst hh hlate hexl hhook hregs
  · rintro rfl hpend hexl hrun hpark hcom hhook - hst hr h5 hm
    exact gives_impreciseTrapDelivery hpend hexl hrun hpark hcom hhook hst hr h5 hm

theorem coreSwitches : Claim.CoreSwitches := fun _ _ _ _ _ _ _ _ _ _ _ _ _ _ _ =>
  ⟨gives_depositArrival, huskSwitches, gives_waitmYield,
    fun hv _ ht hserves hready hlen hnodup hunit hfree hmap => gives_savedTaskRestore hv ht hserves hready hlen hnodup hunit hfree hmap⟩

/-- Settles O38, a lemma for each step. -/
theorem coreEvents : Obligations.CoreEvents := ⟨coreWaits, coreSwitches⟩

end Sys2Proof.Machine
end

section
/-!
The stream words (O8): registration, and what each word does on a core outside every weave, on a member and on a publisher.
-/
namespace Sys2Proof.Machine

open Safety (bare outside Became Ends putG putI Completes CompletesTo)

/-! ## Words whose end is all that is left -/

/-- The end of a word seen from a state where it came from the same place. -/
theorem ends_of_source {s u t : State} {p : BitVec 12} (hsrc : u.c.latch.src = s.c.latch.src) (hbrw : u.c.w.brw = s.c.w.brw)
    (e : Ends u t p) : Ends s t p := fun h1 h2 => e (hsrc.trans h1) (hbrw.trans h2)

/-- An effect that leaves `v` completes the word; in terms of a state `u` with the executing core become `c`. -/
theorem completesTo_run {i : Instr} {m : M Unit} {s u v : State} {c : Core} (he : exec i s = run m s) (h : m s = (.ok (), v))
    (hb : Became u v c) (hpc : v.c.pc = s.c.pc) (hsrc : v.c.latch.src = s.c.latch.src) (hbrw : v.c.w.brw = s.c.w.brw) :
    CompletesTo i s u c (s.c.pc + 1) := by
  have hend := ends_finish v none (none : Option (BitVec 12)).isSome id
  rw [hpc] at hend
  exact ⟨_, he.trans (run_ok h), became_trans hb (became_finish v none _ _), ends_of_source hsrc hbrw hend⟩

/-! ## SUB and RESUB (R155) -/

section
variable {s : State} {t : Task} {resub : Bool} {a b : Word}

theorem subStatus_busy (h1 : s.c.w.st ≠ .alone) (h2 : s.c.w.st ≠ .detached) : s.subStatus resub a b = (4, 0) := by
  unfold State.subStatus
  cases hst : s.c.w.st with
  | alone => exact absurd hst h1
  | detached => exact absurd hst h2
  | publisher | member | dormant | waiting => simp only [if_true]

/-- What the fields of a SUB or RESUB break (R155). -/
abbrev Task.badSub (t : Task) (resub : Bool) (size y : Nat) : Prop :=
  bitsOf y 63 36 ≠ 0 ∨ bitsOf y 31 29 ≠ 0 ∨ bitsOf y 15 13 ≠ 0 ∨ ((!resub) = true ∧ (size < 2 ∨ t.width < size)) ∨ size = 0 ∨
    bitsOf y 12 0 = 0 ∨ size ≤ bitsOf y 12 0

section
variable (ht : s.c.task.bind s.task? = some t) (hst : s.c.w.st = .alone ∨ s.c.w.st = .detached)
include ht hst

/-- On a core in no weave of another the first test passes. -/
theorem subStatus_open : s.subStatus resub a b =
    if t.width ≤ a.toNat ∨ a.toNat = s.c.member then (3, 0)
    else if t.badSub resub (if resub then s.c.w.size else bitsOf b.toNat 28 16) b.toNat then (2, 0)
    else (t.memberCore a.toNat).elim (3, 0) (fun p => if s.routeOk p.1 s.cur then (0, p.1) else (1, 0)) := by
  obtain ⟨k, hk, ht⟩ := Option.bind_eq_some_iff.1 ht
  obtain hst | hst := hst
  all_goals
    simp only [State.subStatus, hk, ht, hst, Bool.false_eq_true, if_false]
    cases t.memberCore a.toNat <;> rfl

theorem subStatus_nobody (hx : t.width ≤ a.toNat ∨ a.toNat = s.c.member) : s.subStatus resub a b = (3, 0) :=
  (subStatus_open ht hst).trans (if_pos hx)

theorem subStatus_fields (hx : ¬(t.width ≤ a.toNat ∨ a.toNat = s.c.member))
    (hbad : t.badSub resub (if resub then s.c.w.size else bitsOf b.toNat 28 16) b.toNat) : s.subStatus resub a b = (2, 0) :=
  (subStatus_open ht hst).trans ((if_neg hx).trans (if_pos hbad))

theorem subStatus_free {p : Nat} {h : Bool} (hx : ¬(t.width ≤ a.toNat ∨ a.toNat = s.c.member)) (hp : t.memberCore a.toNat = some (p, h))
    (hok : ¬t.badSub resub (if resub then s.c.w.size else bitsOf b.toNat 28 16) b.toNat) :
    s.subStatus resub a b = if s.routeOk p s.cur then (0, p) else (1, 0) := by
  rw [subStatus_open ht hst, if_neg hx, if_neg hok, hp]
  rfl

end
end

/-! ### What a registration leaves -/

/-- Where a registering core then stands (R138). -/
def Weave.waiting (w : Weave) (sz rank chan : Nat) (pol : Policy) (p : Nat) (tag : BitVec 4) (now : Nat) : Weave :=
  { w with st := .waiting, size := sz, rank := rank, chan := chan, policy := pol, pub := p, waitTag := tag, since := now }

/-- A core with its place in the weaves changed. -/
def Core.weave (f : Weave → Weave) (c : Core) : Core := { c with w := f c.w }

theorem writeG_weave (c : Core) (now r : Nat) (x : TReg) (lat : Nat) (f : Weave → Weave) :
    (c.writeG now r x lat).weave f = (c.weave f).writeG now r x lat := by
  unfold Core.writeG
  split <;> rfl

/-- From `s` to `t` the executing core has written a general register, and nothing else has changed. -/
def Wrote (d : GReg) (x : TReg) (lat : Nat) (s t : State) : Prop :=
  outside t = outside s ∧ ∀ m, t.getC m = if m = s.cur then (s.getC m).writeG s.cycle d.val x lat else s.getC m

section
variable {d : GReg} {x : TReg} {lat : Nat} {s t : State}

theorem wrote_wrG : Wrote d x lat s (s.wrG d x lat) := by
  refine ⟨rfl, fun m => ?_⟩
  rw [State.wrG, getC_upd]
  split
  case isTrue h => rw [h]; rfl
  case isFalse => rfl

/-- The write stands beside a change of any core's place in the weaves. -/
theorem Wrote.weave (h : Wrote d x lat s t) (p : Nat) (f : Weave → Weave) : Wrote d x lat (s.updC p (·.weave f)) (t.updC p (·.weave f)) := by
  obtain ⟨hout, hc⟩ := h
  refine ⟨hout, fun m => ?_⟩
  rw [getC_updC, getC_updC, hc, hc]
  show _ = if m = s.cur then Core.writeG _ s.cycle _ _ _ else _
  by_cases hp : m = p
  · subst hp
    simp only [if_true]
    split
    · rw [writeG_weave]
    · rfl
  · simp only [if_neg hp]

theorem Wrote.became (h : Wrote d x lat s t) : Became s t (putG s.c d x) := by
  obtain ⟨hout, hc⟩ := h
  refine ⟨hout, ?_, fun m hm => by rw [hc, if_neg hm]⟩
  rw [State.c, cur_of_outside hout, hc, if_pos rfl]
  exact bare_writeG ..

theorem Wrote.issue (h : Wrote d x lat s t) : SameIssue s.c t.c := by
  obtain ⟨hout, hc⟩ := h
  rw [State.c, State.c, cur_of_outside hout, hc, if_pos rfl]
  exact sameIssue_writeG ..

end

/-- A registering core's place, and its publisher's. -/
theorem register_eq (s : State) (p : Nat) (a b : Word) (sz : Nat) (pol : Policy) : s.register p a b sz pol =
    (s.updC s.cur (·.weave (·.waiting sz (bitsOf b.toNat 12 0) a.toNat pol p (BitVec.ofNat 4 (bitsOf b.toNat 35 32)) s.cycle))).updC p
      (·.weave (fun w => { w with regs := w.regs ++ [⟨s.cur, BitVec.ofNat 4 (bitsOf b.toNat 35 32), bitsOf b.toNat 12 0, sz, false⟩] })) := rfl

theorem Wrote.register {d : GReg} {x : TReg} {lat : Nat} {s t : State} (h : Wrote d x lat s t) (p : Nat) (a b : Word) (sz : Nat)
    (pol : Policy) : Wrote d x lat (s.register p a b sz pol) (t.register p a b sz pol) := by
  have hcycle : (outside t).cycle = (outside s).cycle := congrArg State.cycle h.1
  rw [register_eq, register_eq, cur_of_outside h.1, show t.cycle = s.cycle from hcycle]
  exact (h.weave s.cur _).weave p _

/-- A registration leaves the word in issue and the core's BRWs. -/
theorem register_issue (s : State) (p : Nat) (a b : Word) (sz : Nat) (pol : Policy) : (s.register p a b sz pol).c.pc = s.c.pc ∧
    (s.register p a b sz pol).c.latch = s.c.latch ∧ (s.register p a b sz pol).c.w.brw = s.c.w.brw := by
  have hc : ∃ w, (s.register p a b sz pol).c = { s.c with w := w } ∧ w.brw = s.c.w.brw := by
    rw [register_eq, State.c, cur_updC, cur_updC, getC_updC, getC_updC, getC_updC, if_pos rfl]
    split
    case isTrue h => rw [← h, if_pos rfl]; exact ⟨_, rfl, rfl⟩
    case isFalse => exact ⟨_, rfl, rfl⟩
  obtain ⟨w, hc, hbrw⟩ := hc
  rw [hc]
  exact ⟨rfl, rfl, hbrw⟩

/-! ### The two words -/

/-- What SUB and RESUB leave but for the status: status 0 registers the core. -/
def State.subbed (s : State) (resub : Bool) (pol : Option Policy) (x y : Word) (r : Nat × Nat) : State :=
  if r.1 = 0 then s.register r.2 x y (if resub then s.c.w.size else bitsOf y.toNat 28 16) (pol.getD s.c.w.policy) else s

section
variable {resub : Bool} {pol : Option Policy} {x y : Word} {r : Nat × Nat}

theorem subbed_issue (s : State) : (s.subbed resub pol x y r).c.pc = s.c.pc ∧ (s.subbed resub pol x y r).c.latch = s.c.latch ∧
    (s.subbed resub pol x y r).c.w.brw = s.c.w.brw := by
  unfold State.subbed
  split
  · exact register_issue ..
  · exact ⟨rfl, rfl, rfl⟩

theorem Wrote.subbed {d : GReg} {g : TReg} {lat : Nat} {s t : State} (h : Wrote d g lat s t) :
    Wrote d g lat (s.subbed resub pol x y r) (t.subbed resub pol x y r) := by
  unfold State.subbed
  rw [h.issue.w]
  split
  · exact h.register ..
  · exact h

theorem subscribe_run (s : State) (d a b : GReg) (hr : s.subStatus resub (s.rdI a) (s.rdI b) = r) :
    subscribe resub pol d a b s = (.ok (), ((s.wrI d (BitVec.ofNat 64 r.1) 1).subbed resub pol (s.rdI a) (s.rdI b) r).upd
      (fun c => { c with readyAt := max c.readyAt (((s.wrI d (BitVec.ofNat 64 r.1) 1).subbed resub pol (s.rdI a) (s.rdI b) r).cycle + 2) })) := by
  subst hr
  unfold subscribe State.subbed
  rw [bind_get, bind_ok (setI_run ..)]
  split <;> rfl

theorem completes_subscribe {i : Instr} {s : State} {d a b : GReg} (he : exec i s = run (subscribe resub pol d a b) s)
    (hr : s.subStatus resub (s.rdI a) (s.rdI b) = r) :
    CompletesTo i s (s.subbed resub pol (s.rdI a) (s.rdI b) r) (putI (s.subbed resub pol (s.rdI a) (s.rdI b) r).c d (BitVec.ofNat 64 r.1))
      (s.c.pc + 1) := by
  have hwrote := (wrote_wrG (d := d) (x := ⟨(BitVec.ofNat 64 r.1).setWidth 128, false⟩) (lat := 1) (s := s)).subbed (resub := resub)
    (pol := pol) (x := s.rdI a) (y := s.rdI b) (r := r)
  obtain ⟨hpc, hlatch, hbrw⟩ := subbed_issue (resub := resub) (pol := pol) (x := s.rdI a) (y := s.rdI b) (r := r) s
  have hissue := hwrote.issue
  refine completesTo_run he (subscribe_run s d a b hr) (became_trans hwrote.became (became_of_bare (became_upd _ _) rfl)) ?_ ?_ ?_
  · rw [c_upd]
    exact hissue.pc.trans hpc
  · rw [c_upd]
    exact congrArg Latch.src (hissue.latch.trans hlatch)
  · rw [c_upd]
    exact (congrArg Weave.brw hissue.w).trans hbrw

/-- A SUB or RESUB that fails writes its status only. -/
theorem completes_subscribe_failed {i : Instr} {s : State} {d a b : GReg} {n q : Nat} (he : exec i s = run (subscribe resub pol d a b) s)
    (hn : n ≠ 0) (hr : s.subStatus resub (s.rdI a) (s.rdI b) = (n, q)) : CompletesTo i s s (putI s.c d (BitVec.ofNat 64 n)) (s.c.pc + 1) := by
  have h := completes_subscribe he hr
  rwa [State.subbed, if_neg hn] at h

/-- One whose fields are right succeeds as far as there are routes (R134). -/
theorem completes_subscribe_routed {i : Instr} {s u : State} {d a b : GReg} {p : Nat} (he : exec i s = run (subscribe resub pol d a b) s)
    (hr : s.subStatus resub (s.rdI a) (s.rdI b) = if s.routeOk p s.cur then (0, p) else (1, 0))
    (hu : u = s.subbed resub pol (s.rdI a) (s.rdI b) (0, p)) :
    CompletesTo i s (if s.routeOk p s.cur then u else s) (putI (if s.routeOk p s.cur then u else s).c d (if s.routeOk p s.cur then 0 else 1))
      (s.c.pc + 1) := by
  subst hu
  cases hok : s.routeOk p s.cur <;> rw [hok] at hr
  · exact completes_subscribe_failed he (by decide) hr
  · exact completes_subscribe he hr

end

theorem badSub_sub_iff {t : Task} {size y : Nat} : t.badSub false size y ↔
    (bitsOf y 63 36 ≠ 0 ∨ bitsOf y 31 29 ≠ 0 ∨ bitsOf y 15 13 ≠ 0) ∨ size < 2 ∨ t.width < size ∨ bitsOf y 12 0 = 0 ∨ size ≤ bitsOf y 12 0 := by
  simp only [Task.badSub, Bool.not_false, true_and]
  omega

theorem badSub_resub_iff {t : Task} {size y : Nat} : t.badSub true size y ↔
    (bitsOf y 63 36 ≠ 0 ∨ bitsOf y 31 29 ≠ 0 ∨ bitsOf y 15 13 ≠ 0) ∨ size = 0 ∨ bitsOf y 12 0 = 0 ∨ size ≤ bitsOf y 12 0 := by
  simp only [Task.badSub, Bool.not_true, Bool.false_eq_true, false_and, false_or, or_assoc]

theorem subscribing : Claim.Subscribe := by
  intro s pol d a b t p h x y st done badFields size rank ht
  refine ⟨fun h1 h2 => ?_, fun hst => ⟨fun hx => ?_, fun hx hm => ?_⟩⟩
  · exact ⟨completes_subscribe_failed rfl (n := 4) (by decide) (subStatus_busy h1 h2),
      completes_subscribe_failed rfl (n := 4) (by decide) (subStatus_busy h1 h2)⟩
  · exact ⟨completes_subscribe_failed rfl (n := 3) (by decide) (subStatus_nobody ht hst hx),
      completes_subscribe_failed rfl (n := 3) (by decide) (subStatus_nobody ht hst hx)⟩
  have hopen : ¬(t.width ≤ x ∨ x = s.c.member) := not_or.2 ⟨not_le.2 hx, hm⟩
  refine ⟨fun hbad => ?_, fun hbad => ?_, fun hp hf hr => ⟨fun h2 hw hlt => ?_, fun hlt => ?_⟩⟩
  · exact completes_subscribe_failed rfl (n := 2) (by decide) (subStatus_fields ht hst hopen (badSub_sub_iff.2 hbad))
  · exact completes_subscribe_failed rfl (n := 2) (by decide) (subStatus_fields ht hst hopen (badSub_resub_iff.2 hbad))
  · have hok : ¬t.badSub false size y := fun hbad => by
      have := (badSub_sub_iff.1 hbad).resolve_left hf
      omega
    exact completes_subscribe_routed rfl (subStatus_free ht hst hopen hp hok) rfl
  · have hok : ¬t.badSub true s.c.w.size y := fun hbad => by
      have := (badSub_resub_iff.1 hbad).resolve_left hf
      omega
    exact completes_subscribe_routed rfl (subStatus_free ht hst hopen hp hok) rfl

/-! ## What the end of a word keeps of a place in the weaves -/

/-- A place in the weaves without what moves at a core's words. -/
def Weave.still (w : Weave) : Weave := { w with stream := [], brw := [], coll := none, votes := [] }

theorem still_of_became {s v : State} {c : Core} (h : Became s v c) : v.c.w.still = c.w.still :=
  (congrArg Core.w h.2.1 : (bare v.c).w = _)
theorem regs_of_still {w x : Weave} (h : w.still = x.still) : w.regs = x.regs := (congrArg Weave.regs h : w.still.regs = _)

@[simp] theorem finish_cur (s : State) (next : Option (BitVec 12)) (taken : Bool) (item : Item → Item) : (s.finish next taken item).cur = s.cur :=
  cur_of_outside (became_finish s next taken item).1

/-- Where nobody has registered, nobody joins. -/
theorem joinAll_of_none {s : State} {p : Nat} (h : (s.getC p).w.regs = []) (tag : BitVec 4) : s.joinAll p tag = s := by
  rw [State.joinAll, h]
  rfl

theorem finish_joinAll {s : State} (h : s.c.w.regs = []) (next : Option (BitVec 12)) (taken : Bool) (item : Item → Item) (tag : BitVec 4) :
    (s.finish next taken item).joinAll s.cur tag = s.finish next taken item := by
  refine joinAll_of_none ?_ tag
  have hregs : (s.finish next taken item).c.w.regs = [] := (regs_of_still (still_of_became (became_finish s next taken item))).trans h
  rwa [State.c, finish_cur] at hregs

/-- A word that only ends completes, whatever item it is published as. -/
theorem completes_finish {i : Instr} {s : State} {taken : Bool} {item : Item → Item} (he : exec i s = .next (s.finish none taken item)) :
    Completes i s s.c := ⟨_, he, became_finish s none taken item, ends_finish s none taken item⟩

/-- So does one that has changed the core before. -/
theorem completes_upd_finish {i : Instr} {s : State} {f : Core → Core} (he : exec i s = .next ((s.upd f).finish none))
    (hpc : (f s.c).pc = s.c.pc) (hsrc : (f s.c).latch.src = s.c.latch.src) (hbrw : (f s.c).w.brw = s.c.w.brw) : Completes i s (f s.c) := by
  have hend := ends_finish (s.upd f) none (none : Option (BitVec 12)).isSome id
  rw [c_upd, hpc] at hend
  exact ⟨_, he, became_trans (became_upd s f) (became_finish ..), ends_of_source (by rwa [c_upd]) (by rwa [c_upd]) hend⟩

/-- What WVOTE makes of the contributions (R159). -/
def tally (all : Bool) (vs : List (Nat × List Nat)) : Word :=
  if (if all then (vs.map (fun v => v.2.getD 2 0 != 0)).all id else (vs.map (fun v => v.2.getD 2 0 != 0)).any id) then 1 else 0

theorem tally_one (all : Bool) (n : Nat) (p : Prop) [Decidable p] : tally all [(n, [1, 0, if p then 1 else 0])] = if p then 1 else 0 := by
  by_cases h : p <;> cases all <;> simp [tally, h]

theorem exec_wvote_public {s : State} {d a : GReg} {all : Bool} (h : (s.c.latch.src != .item && s.c.inPrivate) = false) :
    exec (.wvote all d a) s = run (do
      let own := if (← get).rdI a ≠ 0 then 1 else 0
      let vs ← gathered [own]
      gatherEnd
      setI d (tally all vs)) s := by
  unfold tally
  exact if_neg (by rw [h]; exact Bool.false_ne_true)

/-- A word published before it waits leaves its core but for the marks of that. -/
theorem publishOnce_effect (s : State) (item : Item → Item) : Became s (s.publishOnce item) s.c ∧
    ∃ w, (s.publishOnce item).c = { s.c with w := w } ∧ w.brw = s.c.w.brw := by
  unfold State.publishOnce
  simp only
  split
  · exact ⟨became_refl s, s.c.w, rfl, rfl⟩
  · obtain ⟨k, hk⟩ := c_publish s s.cur (item (s.c.itemOf none false))
    refine ⟨became_trans (became_publish ..) (became_of_bare (became_upd _ _) rfl),
      { s.c.w with stream := s.c.w.stream ++ k, coll := some s.c.pc, votes := [] }, (c_upd ..).trans ?_, rfl⟩
    exact congrArg (fun c : Core => { c with w := { c.w with coll := some c.pc, votes := [] } }) hk

/-! ## A core outside every weave (R161) -/

theorem rdvBad_false {s : State} (hbrw : s.c.w.brw = []) (hpriv : s.c.inPrivate = false) : s.rdvBad = false := by
  simp [State.rdvBad, hbrw, hpriv]

section
variable {s : State} (hst : s.c.w.st = .alone)
include hst

theorem inPrivate_alone : s.c.inPrivate = false := by
  rw [Core.inPrivate, hst]
  exact Bool.and_false _

theorem exec_puboff_alone : exec .puboff s = .next (s.finish none) := by
  have hown : (s.c.latch.src != .item && s.c.w.st == .publisher) = false := by
    rw [hst]
    exact Bool.and_false _
  simp only [exec_puboff, execPuboff, hown, Bool.false_eq_true, if_false]

theorem exec_rdv_alone (hregs : s.c.w.regs = []) (hbrw : s.c.w.brw = []) (tag : BitVec 4) :
    exec (.rdv tag) s = .next (s.finish none false (rdvItem tag false)) := by
  have hbad := rdvBad_false hbrw (inPrivate_alone hst)
  simp only [exec_rdv, execRdv, hbad, Bool.false_eq_true, if_false, finish_cur, finish_joinAll hregs, ite_self]

variable (hsrc : s.c.latch.src = .own)
include hsrc

theorem exec_unsub_alone (a b : GReg) (off : BitVec 17) : exec (.unsub a b off) s = .next (s.finish none) := by
  simp only [exec_unsub, execUnsub, hsrc, hst, reduceCtorEq, if_false]

theorem inStream_alone : s.inStream = false := by
  simp only [State.inStream, hsrc, hst]
  exact Bool.and_false _

theorem exec_brw_alone (a : GReg) (j : BitVec 9) (off : BitVec 17) :
    exec (.brw a j off) s = .next (s.finish (if decide (s.rdI a ≠ 0) = true then some (relTo s.c.wordPc off) else none)) := by
  have hout : (!s.inStream || s.c.latch.src != .item && s.c.w.followers == []) = true := by rw [inStream_alone hst hsrc]; rfl
  simp only [exec_brw, execBrw, inPrivate_alone hst, hout, Bool.and_false, Bool.false_eq_true, if_false, if_true]

/-- Outside a stream what is gathered is the own contribution. -/
theorem gathered_alone (ws : List Nat) : gathered ws s = (.ok [(s.cur, 1 :: 0 :: ws)], s) := by
  unfold gathered
  rw [bind_get, inStream_alone hst hsrc]
  rfl

theorem gatherEnd_alone : gatherEnd s = (.ok (), s) := by
  unfold gatherEnd
  rw [bind_get, inStream_alone hst hsrc]
  rfl

theorem completes_wvote_alone (all : Bool) (d a : GReg) : Completes (.wvote all d a) s (putI s.c d (if s.rdI a ≠ 0 then 1 else 0)) := by
  rw [← tally_one all s.cur (s.rdI a ≠ 0)]
  refine completes_run (exec_wvote_public (by rw [inPrivate_alone hst, Bool.and_false])) ?_ (became_wrI s d _ 1) (issue_wrI s d _ 1)
  rw [bind_get, bind_ok (gathered_alone hst hsrc _), bind_ok (gatherEnd_alone hst hsrc), setI_run]

end

/-! ### RDVH -/

/-- The state in which the registrations that an RDVH waits for have arrived: it is published and holds no more (R157). -/
def State.met (s : State) (tag : BitVec 4) : State :=
  (s.publishOnce (rdvItem tag true)).upd (fun c => { c with w := { c.w with rdvh := none } })

theorem became_met (s : State) (tag : BitVec 4) : Became s (s.met tag) { s.c with w := { s.c.w with rdvh := none } } := by
  obtain ⟨hb, -⟩ := publishOnce_effect s (rdvItem tag true)
  exact became_chain hb (became_upd _ _) (congrArg (fun c : Core => { c with w := { c.w with rdvh := none } }) hb.2.1)

theorem met_c (s : State) (tag : BitVec 4) : ∃ w, (s.met tag).c = { s.c with w := w } ∧ w.brw = s.c.w.brw := by
  obtain ⟨-, w, hc, hbrw⟩ := publishOnce_effect s (rdvItem tag true)
  exact ⟨{ w with rdvh := none }, by rw [State.met, c_upd, hc], hbrw⟩

@[simp] theorem met_cur (s : State) (tag : BitVec 4) : (s.met tag).cur = s.cur := cur_of_outside (became_met s tag).1
theorem met_regs (s : State) (tag : BitVec 4) : (s.met tag).c.w.regs = s.c.w.regs :=
  (regs_of_still (still_of_became (became_met s tag))).trans rfl

section
variable {s : State} {tag : BitVec 4} {n : BitVec 13} (hbad : s.rdvBad = false)
include hbad

/-- Where no word is published an RDVH has no effect. -/
theorem exec_rdvh_unpublished (h : s.c.latch.src = .item ∨ (!s.c.publishes) = true) : exec (.rdvh tag n) s = .next (s.finish none) :=
  (if_neg (by rw [hbad]; exact Bool.false_ne_true)).trans (if_pos h)

theorem exec_rdvh_met (h : ¬(s.c.latch.src = .item ∨ (!s.c.publishes) = true)) (hn : n.toNat ≤ s.c.w.arrivedWith tag) :
    exec (.rdvh tag n) s = .next (((s.met tag).finish none).joinAll (s.met tag).cur tag) := by
  have hregs : (s.publishOnce (rdvItem tag true)).c.w.regs = s.c.w.regs :=
    regs_of_still (still_of_became (publishOnce_effect s (rdvItem tag true)).1)
  have harr : (s.publishOnce (rdvItem tag true)).c.w.arrivedWith tag = s.c.w.arrivedWith tag := by
    rw [Weave.arrivedWith, hregs, Weave.arrivedWith]
  exact (if_neg (by rw [hbad]; exact Bool.false_ne_true)).trans ((if_neg h).trans (if_neg (by rw [harr]; exact not_lt.2 hn)))

end

/-- RDVH 0 where nobody has registered (R157). -/
theorem completes_rdvh_alone {s : State} (hsrc : s.c.latch.src = .own) (hst : s.c.w.st = .alone) (hregs : s.c.w.regs = [])
    (hbrw : s.c.w.brw = []) (hpriv : s.c.w.priv = false) (tag : BitVec 4) :
    Completes (.rdvh tag 0) s { s.c with w := { s.c.w with rdvh := if s.c.sys then s.c.w.rdvh else none } } := by
  have hbad := rdvBad_false hbrw (inPrivate_alone hst)
  cases hsys : s.c.sys
  case true => exact completes_finish (exec_rdvh_unpublished hbad (.inr (by rw [Core.publishes, hsys]; rfl)))
  case false =>
    have hpub : ¬(s.c.latch.src = .item ∨ (!s.c.publishes) = true) := by simp [hsrc, Core.publishes, hsys, hpriv, hst]
    obtain ⟨w, hc, hwbrw⟩ := met_c s tag
    have hend : exec (.rdvh tag 0) s = .next ((s.met tag).finish none) := by
      rw [exec_rdvh_met hbad hpub (Nat.zero_le _), finish_joinAll ((met_regs s tag).trans hregs)]
    have hfin := ends_finish (s.met tag) none (none : Option (BitVec 12)).isSome id
    rw [hc] at hfin
    exact ⟨_, hend, became_trans (became_met s tag) (became_finish ..), ends_of_source (by rw [hc]) (by rw [hc, hwbrw]) hfin⟩

theorem completes_pubon {s : State} (hsrc : s.c.latch.src = .own) : Completes .pubon s { s.c with w := { s.c.w with priv := false } } := by
  have hown : (s.c.latch.src != .item) = true := by rw [hsrc]; rfl
  have hend : exec .pubon s = .next ((s.upd (fun c => { c with w := { c.w with priv := false } })).finish none) := by
    simp only [exec_pubon, execPubon, hown, if_true]
  exact completes_upd_finish hend rfl rfl rfl

theorem streamAlone : Claim.StreamAlone := by
  intro s d a b tag j off hsrc hst hf hregs hbrw hpriv hpend
  refine ⟨completes_jump (next := none) (exec_unsub_alone hst hsrc a b off), completes_jump (next := none) (exec_puboff_alone hst), ?_,
    completes_finish (exec_rdv_alone hst hregs hbrw tag), ?_, ?_, completes_wvote_alone hst hsrc true d a, completes_wvote_alone hst hsrc false d a⟩
  · have hoff : { s.c with w := { s.c.w with priv := false } } = s.c := by rw [← hpriv]
    exact (congrArg (Completes .pubon s) hoff).mp (completes_pubon hsrc)
  · exact completes_rdvh_alone hsrc hst hregs hbrw hpriv tag
  · have h := completes_jump (exec_brw_alone hst hsrc a j off)
    rw [getD_if_some, wordPc_of_fetching (by rw [hsrc]; exact nofun), ← rel_eq_relTo] at h
    simpa only [decide_eq_true_eq] using h

/-! ## A member's items, and a publisher's PUBOFF and PUBON (R156, R160) -/

section
variable {s : State} (hsrc : s.c.latch.src = .item)
include hsrc

theorem rdvBad_item : s.rdvBad = false := by simp [State.rdvBad, hsrc]

theorem exec_rdv_item (tag : BitVec 4) : exec (.rdv tag) s = .next (s.finish none false (rdvItem tag false)) := by
  have hjoins : (s.c.latch.src != .item && s.c.publishes) = false := by rw [hsrc]; rfl
  simp only [exec_rdv, execRdv, rdvBad_item hsrc, hjoins, Bool.false_eq_true, if_false]

theorem exec_puboff_item : exec .puboff s = .next (s.finish none) := by
  have hown : (s.c.latch.src != .item && s.c.w.st == .publisher) = false := by rw [hsrc]; rfl
  simp only [exec_puboff, execPuboff, hown, Bool.false_eq_true, if_false]

theorem exec_pubon_item : exec .pubon s = .next (s.finish none) := by
  have hown : (s.c.latch.src != .item) = false := by rw [hsrc]; rfl
  simp only [exec_pubon, execPubon, hown, Bool.false_eq_true, if_false]

theorem exec_unsub_stays {a b : GReg} (h : s.rdI a ≠ s.rdI b) (off : BitVec 17) : exec (.unsub a b off) s = .next (s.finish none) := by
  simp only [exec_unsub, execUnsub, hsrc, h, decide_false, Bool.false_eq_true, if_true, if_false]

theorem exec_unsub_leaves {a b : GReg} (h : s.rdI a = s.rdI b) (off : BitVec 17) :
    exec (.unsub a b off) s = .next ((s.finish none).goOwn (relTo s.c.latch.item.pc off)) := by
  simp only [exec_unsub, execUnsub, hsrc, h, decide_true, if_true, wordPc_of_item hsrc, State.leaveTo]

end

/-- A publisher alone again keeps who follows it. -/
theorem publisherSt_followers (w : Weave) : w.publisherSt.followers = w.followers := by
  unfold Weave.publisherSt
  split <;> rfl

theorem accept_stream (w : Weave) : w.accept.stream = w.stream := by
  unfold Weave.accept
  split
  · split <;> rfl
  · rfl

/-- A member that leaves has no more items, and its publisher no longer counts it among its followers. -/
theorem unfollow_member {s : State} {q : Nat} (hst : (s.getC q).w.st = .member) (hp : (s.getC q).w.pub ≠ q) :
    ((s.unfollow q).getC q).w.stream = [] ∧ ∀ f ∈ ((s.unfollow q).getC (s.getC q).w.pub).w.followers, f.2 ≠ q := by
  simp only [State.unfollow, hst]
  refine ⟨?_, fun f hf => ?_⟩
  · rw [getC_updC, if_pos rfl]
  · rw [getC_updC, if_neg hp, getC_updC, if_pos rfl, publisherSt_followers] at hf
    exact bne_iff_ne.1 (List.mem_filter.1 hf).2

theorem goOwn_member {s : State} (hst : s.c.w.st = .member) (hp : s.c.w.pub ≠ s.cur) (t : BitVec 12) :
    (s.goOwn t).c.w.stream = [] ∧ ∀ f ∈ ((s.goOwn t).getC s.c.w.pub).w.followers, f.2 ≠ s.cur := by
  obtain ⟨hstream, hf⟩ := unfollow_member (s := s) (q := s.cur) hst hp
  refine ⟨?_, ?_⟩
  · rw [State.goOwn, c_upd, State.c, detach_cur, State.detach, getC_updC, if_pos rfl]
    exact (accept_stream _).trans hstream
  · rw [State.goOwn, getC_upd, detach_cur, if_neg hp, State.detach, getC_updC, if_neg hp]
    exact hf

theorem unsub_leaves {s : State} (hsrc : s.c.latch.src = .item) (hst : s.c.w.st = .member) {a b : GReg} (h : s.rdI a = s.rdI b)
    (hp : s.c.w.pub ≠ s.cur) (hno : ∀ r ∈ s.c.w.regs, r.arrived = false) (off : BitVec 17) :
    ∃ t, exec (.unsub a b off) s = .next t ∧ t.c.w.st = .detached ∧ t.c.pc = Claim.rel s.c.latch.item.pc off ∧ t.c.w.stream = [] ∧
      t.c.g = s.c.g ∧ t.mem = s.mem ∧ ∀ f ∈ (t.getC s.c.w.pub).w.followers, f.2 ≠ s.cur := by
  have hw := finish_item_w hsrc none
  obtain ⟨hpc, hmem, hg, -, -, hdet⟩ := goOwn_self (s.finish none) (relTo s.c.latch.item.pc off)
  obtain ⟨hmem', hg', -, -⟩ := regs_of_became (became_finish s none (none : Option (BitVec 12)).isSome id)
  obtain ⟨hstream, hf⟩ := goOwn_member (s := s.finish none) (by rw [hw]; exact hst) (by rw [hw, finish_cur]; exact hp)
    (relTo s.c.latch.item.pc off)
  rw [hw, finish_cur] at hf
  exact ⟨_, exec_unsub_leaves hsrc h off, hdet (by rwa [hw]), hpc.trans (rel_eq_relTo ..).symm, hstream, hg.trans hg', hmem.trans hmem', hf⟩

theorem ends_upd {s t : State} {p : BitVec 12} {f : Core → Core} (e : Ends s t p) (hpc : (f t.c).pc = t.c.pc)
    (hbrw : (f t.c).w.brw = t.c.w.brw) : Ends s (t.upd f) p := by
  intro hsrc hb
  rw [c_upd, hpc, hbrw]
  exact e hsrc hb

theorem completes_puboff {s : State} (hsrc : s.c.latch.src = .own) (hst : s.c.w.st = .publisher) :
    Completes .puboff s { s.c with w := { s.c.w with priv := true } } := by
  have hown : (s.c.latch.src != .item && s.c.w.st == .publisher) = true := by rw [hsrc, hst]; rfl
  have hend : exec .puboff s = .next ((s.finish none).upd (fun c => { c with w := { c.w with priv := true } })) := by
    simp only [exec_puboff, execPuboff, hown, if_true]
  have hfin := became_finish s none (none : Option (BitVec 12)).isSome id
  exact ⟨_, hend, became_chain hfin (became_upd _ _) (congrArg (fun c : Core => { c with w := { c.w with priv := true } }) hfin.2.1),
    ends_upd (ends_finish s none (none : Option (BitVec 12)).isSome id) rfl rfl⟩

theorem streamMembers : Claim.StreamMembers := by
  intro s a b tag n off
  refine ⟨fun hsrc hst => ⟨completes_finish (exec_rdv_item hsrc tag), completes_finish (exec_rdvh_unpublished (rdvBad_item hsrc) (.inl hsrc)),
    completes_finish (exec_puboff_item hsrc), completes_finish (exec_pubon_item hsrc),
    fun h => completes_finish (exec_unsub_stays hsrc h off), fun h hp hno => unsub_leaves hsrc hst h hp hno off⟩,
    fun hsrc hst _ => ⟨completes_puboff hsrc hst, completes_pubon hsrc⟩⟩

/-! ## Contributions (R308) -/

theorem addVote_new {vs : List (Nat × List Nat)} {n : Nat} (h : ∀ v ∈ vs, v.1 ≠ n) (ws : List Nat) : addVote vs n ws = vs ++ [(n, ws)] := by
  have hno : vs.any (fun v => v.1 == n) = false := by simpa using h
  rw [addVote, hno]
  rfl

theorem addVote_again {vs : List (Nat × List Nat)} {n : Nat} (h : ∃ v ∈ vs, v.1 = n) (ws : List Nat) : addVote vs n ws = vs := by
  have hin : vs.any (fun v => v.1 == n) = true := by simpa using h
  rw [addVote, hin]
  rfl

/-- Two states with the same cores and the same rest. -/
def Alike (s t : State) : Prop := outside t = outside s ∧ ∀ m, t.getC m = s.getC m

theorem Alike.c {s t : State} (h : Alike s t) : t.c = s.c := by
  rw [State.c, State.c, cur_of_outside h.1, h.2]
theorem Alike.became {s t : State} (h : Alike s t) : Became s t s.c := ⟨h.1, by rw [h.c], fun m _ => by rw [h.2]⟩
theorem Alike.inStream {s t : State} (h : Alike s t) : t.inStream = s.inStream := by rw [State.inStream, State.inStream, h.c]
theorem Alike.streamPub {s t : State} (h : Alike s t) : t.streamPub = s.streamPub := by
  rw [State.streamPub, State.streamPub, h.c, cur_of_outside h.1]
theorem Alike.allIn {s t : State} (h : Alike s t) (p : Nat) : t.allIn p = s.allIn p := by
  simp only [State.allIn, State.participants, h.2]

theorem alike_updC {s : State} {n : Nat} {f : Core → Core} (h : f (s.getC n) = s.getC n) : Alike s (s.updC n f) := by
  refine ⟨rfl, fun m => ?_⟩
  rw [getC_updC]
  split
  case isTrue hm => rw [h, hm]
  case isFalse => rfl

/-- The state once a core has contributed to what publisher `p` gathers. -/
def State.voted (s : State) (p : Nat) (ws : List Nat) : State :=
  s.updC p (fun c => { c with w := { c.w with votes := addVote c.w.votes s.cur (s.c.vote s.c.latch.src ws) } })

/-- A member contributes to its publisher's collective. -/
theorem contribute_item {s : State} (h : s.c.latch.src = .item) (ws : List Nat) : contribute ws s = (.ok (), s.voted s.c.w.pub ws) := by
  unfold contribute
  rw [bind_get, set_run, if_pos h, State.streamPub, if_pos h]
  rfl

/-- A fetching core publishes the word first. -/
theorem contribute_own {s : State} (h : s.c.latch.src = .own) (ws : List Nat) :
    contribute ws s = (.ok (), s.publishOnce.voted s.cur ws) := by
  obtain ⟨hb, w, hc, -⟩ := publishOnce_effect s id
  have hne : s.c.latch.src ≠ .item := by rw [h]; exact nofun
  have hne' : s.publishOnce.c.latch.src ≠ .item := by rw [hc]; exact hne
  unfold contribute State.voted
  rw [bind_get, set_run, if_neg hne, State.streamPub, if_neg hne', cur_of_outside hb.1]

/-- A word of a stream whose core has already contributed gathers what all have, once they have (R308). -/
theorem gathered_all {s : State} {p : Nat} {ws : List Nat} (hin : s.inStream = true) (hp : s.streamPub = p)
    (hcon : contribute ws s = (.ok (), s.voted p ws)) (hvote : ∃ v ∈ (s.getC p).w.votes, v.1 = s.cur) (hall : s.allIn p = true) :
    gathered ws s = (.ok (s.getC p).w.votes, s.voted p ws) ∧ Alike s (s.voted p ws) := by
  have halike : Alike s (s.voted p ws) := alike_updC (by rw [addVote_again hvote])
  refine ⟨?_, halike⟩
  unfold gathered
  rw [bind_get, if_neg (by rw [hin]; exact Bool.false_ne_true), bind_ok hcon, bind_get, halike.streamPub, hp,
    bind_holdIf (by rw [halike.allIn, hall]; rfl), halike.2, pure_run]

/-! ## Words of a member's stream -/

section
variable {s : State} (hsrc : s.c.latch.src = .item)
include hsrc

theorem inStream_item : s.inStream = true := by simp [State.inStream, hsrc]
theorem streamPub_item : s.streamPub = s.c.w.pub := if_pos hsrc

theorem gatherEnd_item : gatherEnd s = (.ok (), s) := by
  unfold gatherEnd
  rw [bind_get, hsrc]
  simp only [bne_self_eq_false, Bool.and_false, Bool.false_eq_true, if_false]
  rfl

theorem itemDue_item : s.c.itemDue = false := by simp [Core.itemDue, hsrc]

end

/-- A word that is not published changes at its end no other core. -/
theorem finish_getC_ne {s : State} (h : s.c.itemDue = false) (next : Option (BitVec 12)) {m : Nat} (hm : m ≠ s.cur) :
    (s.finish next).getC m = s.getC m := by
  simp only [State.finish, h, Bool.false_eq_true, if_false]
  rw [getC_upd, if_neg hm]

theorem c_updC_ne {s : State} {n : Nat} (h : n ≠ s.cur) (f : Core → Core) : (s.updC n f).c = s.c := by
  rw [State.c, cur_updC, getC_updC, if_neg h.symm]
  rfl

/-- A contribution stands among what a core's place in the weaves moves with its words. -/
theorem became_voted (s : State) (p : Nat) (ws : List Nat) : Became s (s.voted p ws) s.c := by
  refine ⟨rfl, ?_, fun m _ => ?_⟩
  all_goals
    simp only [State.c, State.voted, cur_updC, getC_updC]
    split
    case isTrue h => rw [h]; rfl
    case isFalse => rfl

/-- The frame of a BRW at a member (R147). -/
def Brw.ofMember (target join : BitVec 12) (cond : Bool) : Brw :=
  { target := target, join := join, path := false, more := false, mine := true, cond := cond }

theorem exec_brw_item {s : State} (hsrc : s.c.latch.src = .item) (a : GReg) (j : BitVec 9) (off : BitVec 17) :
    exec (.brw a j off) s = run (do
      contribute [if decide (s.rdI a ≠ 0) then 1 else 0]
      modify (·.upd (fun c => { c with w := { c.w with
        brw := Brw.ofMember (relTo s.c.wordPc off) (relTo s.c.wordPc off + j.setWidth 12) (decide (s.rdI a ≠ 0)) :: c.w.brw } }))) s := by
  have hpriv : ¬(s.c.latch.src != .item && s.c.inPrivate) = true := by rw [hsrc]; exact Bool.false_ne_true
  have hout : ¬(!s.inStream || s.c.latch.src != .item && s.c.w.followers == []) = true := by
    rw [inStream_item hsrc, hsrc]
    exact Bool.false_ne_true
  exact (if_neg hpriv).trans ((if_neg hout).trans (if_pos hsrc))

theorem brw_member {s : State} (hsrc : s.c.latch.src = .item) (hp : s.c.w.pub ≠ s.cur) (a : GReg) (j : BitVec 9) (off : BitVec 17)
    (hvotes : ∀ v ∈ (s.getC s.c.w.pub).w.votes, v.1 ≠ s.cur) :
    let t := Claim.rel s.c.latch.item.pc off
    ∃ u, exec (.brw a j off) s = .next u ∧ Became s u s.c ∧ u.c.w.stream = s.c.w.stream.drop 1 ∧
      u.c.w.brw = Brw.ofMember t (t + j.setWidth 12) (decide (s.rdI a ≠ 0)) :: s.c.w.brw ∧
      (u.getC s.c.w.pub).w.votes = (s.getC s.c.w.pub).w.votes ++ [(s.cur, [s.c.w.size, s.c.w.rank, if s.rdI a ≠ 0 then 1 else 0])] := by
  intro t
  let u := (s.voted s.c.w.pub [if decide (s.rdI a ≠ 0) then 1 else 0]).upd (fun c => { c with w := { c.w with
    brw := Brw.ofMember (relTo s.c.wordPc off) (relTo s.c.wordPc off + j.setWidth 12) (decide (s.rdI a ≠ 0)) :: c.w.brw } })
  have hc : (s.voted s.c.w.pub [if decide (s.rdI a ≠ 0) then 1 else 0]).c = s.c := c_updC_ne hp _
  have hu : Became s u s.c := became_trans (became_voted ..) (became_of_bare (became_upd _ _) rfl)
  have huc : u.c = { s.c with w := { s.c.w with brw := Brw.ofMember t (t + j.setWidth 12) (decide (s.rdI a ≠ 0)) :: s.c.w.brw } } := by
    rw [c_upd, hc, wordPc_of_item hsrc, ← rel_eq_relTo]
  have husrc : u.c.latch.src = .item := by rw [huc]; exact hsrc
  have hw := finish_item_w husrc none
  have hvoted : (u.getC s.c.w.pub).w.votes = _ := congrArg (fun c : Core => c.w.votes)
    ((getC_upd ..).trans ((if_neg hp).trans ((getC_updC ..).trans (if_pos rfl))))
  refine ⟨u.finish none, (exec_brw_item hsrc a j off).trans (run_ok ?_), became_trans hu (became_finish ..), ?_, ?_, ?_⟩
  · rw [bind_ok (contribute_item hsrc _), modify_run]
  · rw [hw, huc]
  · rw [hw, huc]
  · rw [finish_getC_ne (itemDue_item husrc) none hp, hvoted, addVote_new hvotes, Core.vote, if_pos hsrc]
    simp only [decide_eq_true_eq]

/-- The vote of a member that has contributed, once all have (R159). -/
theorem wvote_member {s : State} (hsrc : s.c.latch.src = .item) (all : Bool) (d a : GReg)
    (hvote : ∃ v ∈ (s.getC s.c.w.pub).w.votes, v.1 = s.cur) (hall : s.allIn s.c.w.pub = true) :
    ∃ u, exec (.wvote all d a) s = .next u ∧ Became s u (putI s.c d (tally all (s.getC s.c.w.pub).w.votes)) ∧
      u.c.w.stream = s.c.w.stream.drop 1 := by
  obtain ⟨hgather, halike⟩ := gathered_all (inStream_item hsrc) (streamPub_item hsrc)
    (contribute_item hsrc [if s.rdI a ≠ 0 then 1 else 0]) hvote hall
  let u := (s.voted s.c.w.pub [if s.rdI a ≠ 0 then 1 else 0]).wrI d (tally all (s.getC s.c.w.pub).w.votes) 1
  have hi : SameIssue s.c u.c := halike.c ▸ issue_wrI ..
  have hrun : exec (.wvote all d a) s = .next (u.finish none) := by
    refine (exec_wvote_public (by rw [hsrc]; rfl)).trans (run_ok ?_)
    rw [bind_get, bind_ok hgather, bind_ok (gatherEnd_item (by rw [halike.c]; exact hsrc)), setI_run]
  refine follows_finish hrun hsrc (became_chain halike.became (became_wrI ..) ?_) hi
  rw [halike.c]

/-! ## Publication to each follower (R130) -/

/-- An item sent to the members of a list. -/
def State.sendAll (s : State) (fs : List (Nat × Nat)) (it : Item) : State :=
  fs.foldl (fun s f => s.updC f.2 (fun c => { c with w := { c.w with stream := c.w.stream ++ [it] } })) s

theorem outside_sendAll (s : State) (fs : List (Nat × Nat)) (it : Item) : outside (s.sendAll fs it) = outside s := by
  induction fs generalizing s with
  | nil => rfl
  | cons f fs ih => exact (ih _).trans (outside_updC ..)

theorem sendAll_getC_other {fs : List (Nat × Nat)} {m : Nat} (h : ∀ f ∈ fs, f.2 ≠ m) (s : State) (it : Item) :
    (s.sendAll fs it).getC m = s.getC m := by
  induction fs generalizing s with
  | nil => rfl
  | cons f fs ih =>
    obtain ⟨hf, hfs⟩ := List.forall_mem_cons.1 h
    exact (ih hfs _).trans ((getC_updC ..).trans (if_neg hf.symm))

theorem sendAll_stream {fs : List (Nat × Nat)} (hnodup : (fs.map Prod.snd).Nodup) {f : Nat × Nat} (hf : f ∈ fs) (s : State) (it : Item) :
    ((s.sendAll fs it).getC f.2).w.stream = (s.getC f.2).w.stream ++ [it] := by
  induction fs generalizing s with
  | nil => exact absurd hf (List.not_mem_nil)
  | cons g fs ih =>
    obtain ⟨hg, hnodup⟩ := List.nodup_cons.1 hnodup
    have hrest : ∀ x ∈ fs, x.2 ≠ g.2 := fun x hx heq => hg (heq ▸ List.mem_map_of_mem hx)
    obtain rfl | hf := List.mem_cons.1 hf
    · exact (congrArg (fun c : Core => c.w.stream) ((sendAll_getC_other hrest _ it).trans ((getC_updC ..).trans (if_pos rfl))))
    · refine (ih hnodup hf _).trans (congrArg (fun c : Core => c.w.stream ++ [it]) ((getC_updC ..).trans (if_neg (hrest f hf))))

/-! ## Words that a publisher issues in public code -/

/-- A core whose word in issue is its own, and which publishes its words (R135). -/
structure Publishing (c : Core) : Prop where
  src : c.latch.src = .own
  sys : c.sys = false
  priv : c.w.priv = false
  st : c.w.st = .publisher

section
variable {s : State} (h : Publishing s.c)
include h

theorem Publishing.publishes : s.c.publishes = true := by simp [Core.publishes, h.sys, h.priv, h.st]
theorem Publishing.inStream : s.inStream = true := by simp [State.inStream, h.src, h.publishes, h.st]
theorem Publishing.not_item : s.c.latch.src ≠ .item := by rw [h.src]; exact nofun
theorem Publishing.streamPub : s.streamPub = s.cur := if_neg h.not_item
theorem Publishing.inPrivate : s.c.inPrivate = false := by rw [Core.inPrivate, h.priv]; rfl
theorem Publishing.unpublished_iff : ¬(s.c.latch.src = .item ∨ (!s.c.publishes) = true) := by simp [h.src, h.publishes]

/-- The end of a word that a publisher has published before. -/
theorem Publishing.finish (hcoll : s.c.w.coll = some s.c.pc) (next : Option (BitVec 12)) :
    let r := brwNext (next.getD (s.c.pc + 1)) s.c.w.brw (2 * s.c.w.brw.length + 1)
    (s.finish next).c.pc = r.1 ∧ (s.finish next).c.w.brw = r.2 := by
  have hdue : s.c.itemDue = false := by simp [Core.itemDue, hcoll]
  simp only [State.finish, hdue, Bool.false_eq_true, if_false, c_upd, h.src, reduceCtorEq, false_and, h.publishes, if_true]
  exact ⟨trivial, trivial⟩

end

/-- At a BRW's end the core goes on inside it, unless it stands at its join. -/
theorem brwNext_inside {pc : BitVec 12} {f : Brw} (h : pc ≠ f.join) (r : List Brw) (n : Nat) : brwNext pc (f :: r) n = (pc, f :: r) := by
  cases n with
  | zero => rfl
  | succ n => simp [brwNext, h]

/-- The item a publisher's word at a collective is published as. -/
def State.heldItem (s : State) : Item := { s.c.itemOf none false with at' := s.cycle }

section
variable {s : State} (hcoll : s.c.w.coll ≠ some s.c.pc)
include hcoll

theorem publishOnce_eq : s.publishOnce = (s.sendAll s.c.w.followers s.heldItem).upd
    (fun c => { c with w := { c.w with coll := some c.pc, votes := [] } }) := if_neg hcoll

variable (hne : ∀ f ∈ s.c.w.followers, f.2 ≠ s.cur)
include hne

theorem publishOnce_c : s.publishOnce.c = { s.c with w := { s.c.w with coll := some s.c.pc, votes := [] } } := by
  have hsent : (s.sendAll s.c.w.followers s.heldItem).c = s.c := by
    rw [State.c, cur_of_outside (outside_sendAll ..), sendAll_getC_other hne]
    rfl
  rw [publishOnce_eq hcoll, c_upd, hsent]

/-- The publisher after it has published and contributed. -/
theorem voted_publishOnce_c (h : Publishing s.c) (ws : List Nat) : (s.publishOnce.voted s.cur ws).c =
    { s.c with w := { s.c.w with coll := some s.c.pc, votes := [(s.cur, s.c.w.size :: 0 :: ws)] } } := by
  have hcur : s.publishOnce.cur = s.cur := cur_of_outside (publishOnce_effect s id).1.1
  have hc : s.publishOnce.getC s.cur = { s.c with w := { s.c.w with coll := some s.c.pc, votes := [] } } := by
    rw [← publishOnce_c hcoll hne, State.c, hcur]
  rw [State.voted, State.c, cur_updC, hcur, getC_updC, if_pos rfl, hc, publishOnce_c hcoll hne, Core.vote, if_neg h.not_item]
  rfl

/-- Each follower has the item. -/
theorem voted_publishOnce_stream (hnodup : (s.c.w.followers.map Prod.snd).Nodup) (ws : List Nat) {f : Nat × Nat} (hf : f ∈ s.c.w.followers) :
    ((s.publishOnce.voted s.cur ws).getC f.2).w.stream = (s.getC f.2).w.stream ++ [s.heldItem] := by
  rw [State.voted, getC_updC, if_neg (hne f hf), publishOnce_eq hcoll, getC_upd, cur_of_outside (outside_sendAll ..), if_neg (hne f hf)]
  exact sendAll_stream hnodup hf s _

/-- While a follower has not executed the item, not all have contributed. -/
theorem voted_publishOnce_waits (h : Publishing s.c) (hf : s.c.w.followers ≠ []) (hnodup : (s.c.w.followers.map Prod.snd).Nodup)
    (ws : List Nat) : (s.publishOnce.voted s.cur ws).allIn s.cur = false := by
  have hcur : (s.publishOnce.voted s.cur ws).cur = s.cur := cur_of_outside (publishOnce_effect s id).1.1
  have hw : ((s.publishOnce.voted s.cur ws).getC s.cur).w = _ := congrArg Core.w ((congrArg _ hcur.symm).trans (voted_publishOnce_c hcoll hne h ws))
  obtain ⟨f, fs, hfs⟩ := List.exists_cons_of_ne_nil hf
  have hmem : f ∈ s.c.w.followers := hfs ▸ List.mem_cons_self ..
  have hnovote : ([(s.cur, s.c.w.size :: 0 :: ws)] : List (Nat × List Nat)).any (fun v => v.1 == f.2) = false := by
    simpa using (hne f hmem).symm
  have hitem : (((s.publishOnce.voted s.cur ws).getC f.2).w.stream == []) = false := by
    rw [voted_publishOnce_stream hcoll hne hnodup ws hmem]
    simp
  refine List.all_eq_false.2 ⟨f, by rw [hw]; exact hmem, ?_⟩
  rw [hw, hnovote, hitem]
  exact Bool.false_ne_true

/-- A publisher whose followers have still to contribute waits. -/
theorem gathered_waits (h : Publishing s.c) (hf : s.c.w.followers ≠ []) (hnodup : (s.c.w.followers.map Prod.snd).Nodup)
    (ws : List Nat) : gathered ws s = (.error (.hold .members), s.publishOnce.voted s.cur ws) := by
  have hc := voted_publishOnce_c hcoll hne h ws
  have hcur : (s.publishOnce.voted s.cur ws).cur = s.cur := cur_of_outside (publishOnce_effect s id).1.1
  have hp : (s.publishOnce.voted s.cur ws).streamPub = s.cur := by
    rw [State.streamPub, hc, if_neg h.not_item, hcur]
  unfold gathered
  rw [bind_get, if_neg (by rw [h.inStream]; exact Bool.false_ne_true), bind_ok (contribute_own h.src ws), bind_get, hp,
    voted_publishOnce_waits hcoll hne h hf hnodup ws]
  rfl

end

/-! ### A publisher that waits -/

theorem run_hold {m : M Unit} {s u : State} {w : Wait} (h : m s = (.error (.hold w), u)) : run m s = .next (u.holdAt w) := by
  simp only [run, finishWith, h]
theorem runTo_hold {m : M (Option (BitVec 12))} {s u : State} {w : Wait} (h : m s = (.error (.hold w), u)) :
    runTo m s = .next (u.holdAt w) := by
  simp only [runTo, h]
theorem runTo_ok {m : M (Option (BitVec 12))} {s u : State} {t : Option (BitVec 12)} (h : m s = (.ok t, u)) :
    runTo m s = .next (u.finish t) := by
  simp only [runTo, h]

/-- A core that waits for the members of its weave. -/
def Core.forMembers (c : Core) (now : Nat) : Core :=
  { c with
    latch := {}, wait := some .members, since := if c.wait = some .members then c.since else now
    woken := if c.wait = some .members then c.woken else none
    readyAt := max c.readyAt (now + 1) }

theorem holdAt_members {s : State} (hpend : s.c.tr.pend = false) : s.holdAt .members = s.upd (·.forMembers s.cycle) := by
  rw [State.holdAt, hpend]
  rfl

/-- What a publisher's BRW does with the contributions (R147). -/
theorem exec_brw_own {s : State} (h : Publishing s.c) (hf : s.c.w.followers ≠ []) (hlen : s.c.w.brw.length < 8) (a : GReg)
    (j : BitVec 9) (off : BitVec 17) : exec (.brw a j off) s = runTo (do
      let vs ← gathered [if s.rdI a ≠ 0 then 1 else 0]
      let r := startBrw s.c.pc (relTo s.c.wordPc off) (relTo s.c.wordPc off + j.setWidth 12) (some (decide (s.rdI a ≠ 0)))
        (vs.map (fun v => v.2.getD 2 0 != 0))
      modify (·.upd (fun c => { c with w := { c.w with brw := r.1 :: c.w.brw } }))
      return some r.2) s := by
  have hpriv : ¬(s.c.latch.src != .item && s.c.inPrivate) = true := by
    rw [h.inPrivate, Bool.and_false]
    exact Bool.false_ne_true
  have hout : ¬(!s.inStream || s.c.latch.src != .item && s.c.w.followers == []) = true := by simp [h.inStream, hf]
  have hown : (if s.rdI a ≠ 0 then 1 else 0 : Nat) = if decide (s.rdI a ≠ 0) then 1 else 0 := by simp only [decide_eq_true_eq]
  rw [hown]
  exact (if_neg hpriv).trans ((if_neg hout).trans ((if_neg h.not_item).trans (if_neg (not_le.2 hlen))))

section
variable {s : State} (h : Publishing s.c) (hpend : s.c.tr.pend = false) (hf : s.c.w.followers ≠ [])
  (hnodup : (s.c.w.followers.map Prod.snd).Nodup) (hne : ∀ f ∈ s.c.w.followers, f.2 ≠ s.cur) (hcoll : s.c.w.coll ≠ some s.c.pc)
include h hpend hf hnodup hne hcoll

/-- A collective that a publisher has published, and to which it has contributed, and at which it waits (R308). -/
theorem held_of_gathered {i : Instr} {ws : List Nat}
    (he : gathered ws s = (.error (.hold .members), s.publishOnce.voted s.cur ws) →
      exec i s = .next ((s.publishOnce.voted s.cur ws).holdAt .members)) :
    ∃ u it, exec i s = .next u ∧ u.c.wait = some .members ∧ u.c.pc = s.c.pc ∧
      (u.mem = s.mem ∧ u.c.g = s.c.g ∧ u.c.v = s.c.v ∧ u.c.k = s.c.k) ∧ u.c.w.votes = [(s.cur, s.c.w.size :: 0 :: ws)] ∧
      it.pc = s.c.pc ∧ it.word = s.c.latch.word ∧ it.depth = s.c.w.brw.length ∧
      ∀ f ∈ s.c.w.followers, (u.getC f.2).w.stream = (s.getC f.2).w.stream ++ [it] := by
  have hc := voted_publishOnce_c hcoll hne h ws
  have hout : outside (s.publishOnce.voted s.cur ws) = outside s := (publishOnce_effect s id).1.1
  have hmem : (outside (s.publishOnce.voted s.cur ws)).mem = (outside s).mem := congrArg State.mem hout
  refine ⟨(s.publishOnce.voted s.cur ws).holdAt .members, s.heldItem, he (gathered_waits hcoll hne h hf hnodup ws), ?_⟩
  rw [holdAt_members (by rwa [hc]), c_upd, hc]
  refine ⟨rfl, rfl, ⟨hmem, rfl, rfl, rfl⟩, rfl, rfl, rfl, rfl, fun f hmemf => ?_⟩
  rw [getC_upd, cur_of_outside hout, if_neg (hne f hmemf)]
  exact voted_publishOnce_stream hcoll hne hnodup ws hmemf

end

/-! ### Once all have contributed -/

section
variable {s : State} (h : Publishing s.c) (hcoll : s.c.w.coll = some s.c.pc) (hvote : ∃ v ∈ s.c.w.votes, v.1 = s.cur)
  (hall : s.allIn s.cur = true)
include h hcoll hvote hall

theorem gathered_publisher (ws : List Nat) : gathered ws s = (.ok s.c.w.votes, s.voted s.cur ws) ∧ Alike s (s.voted s.cur ws) := by
  have hcon := contribute_own h.src ws
  have honce : s.publishOnce = s := if_pos hcoll
  rw [honce] at hcon
  exact gathered_all h.inStream h.streamPub hcon hvote hall

/-- A BRW takes its publisher one level deeper (R147). -/
theorem brw_publisher (hf : s.c.w.followers ≠ []) (hlen : s.c.w.brw.length < 8) (a : GReg) (j : BitVec 9) (off : BitVec 17) :
    let t := Claim.rel s.c.pc off
    let r := startBrw s.c.pc t (t + j.setWidth 12) (some (decide (s.rdI a ≠ 0))) (s.c.w.votes.map (fun v => v.2.getD 2 0 != 0))
    r.2 ≠ t + j.setWidth 12 → ∃ u, exec (.brw a j off) s = .next u ∧ Became s u s.c ∧ u.c.pc = r.2 ∧ u.c.w.brw = r.1 :: s.c.w.brw := by
  intro t r hjoin
  obtain ⟨hgather, halike⟩ := gathered_publisher h hcoll hvote hall [if s.rdI a ≠ 0 then 1 else 0]
  let u := (s.voted s.cur [if s.rdI a ≠ 0 then 1 else 0]).upd (fun c => { c with w := { c.w with brw := r.1 :: c.w.brw } })
  have huc : u.c = { s.c with w := { s.c.w with brw := r.1 :: s.c.w.brw } } := by rw [c_upd, halike.c]
  have hu : Publishing u.c := by rw [huc]; exact ⟨h.src, h.sys, h.priv, h.st⟩
  have hrun : exec (.brw a j off) s = .next (u.finish (some r.2)) := by
    refine (exec_brw_own h hf hlen a j off).trans (runTo_ok ?_)
    rw [bind_ok hgather, wordPc_of_fetching h.not_item, ← rel_eq_relTo]
    rfl
  obtain ⟨hpc, hbrw⟩ := hu.finish (by rw [huc]; exact hcoll) (some r.2)
  rw [huc] at hpc hbrw
  refine ⟨_, hrun, ?_, ?_, ?_⟩
  · exact became_chain halike.became (became_trans (became_of_bare (became_upd _ _) rfl) (became_finish ..)) (by rw [halike.c]; rfl)
  · exact hpc.trans (congrArg Prod.fst (brwNext_inside (f := r.1) hjoin s.c.w.brw _))
  · exact hbrw.trans (congrArg Prod.snd (brwNext_inside (f := r.1) hjoin s.c.w.brw _))

/-- WVOTE gives a publisher the votes of all, once its members have passed it (R159). -/
theorem wvote_publisher (hstream : ∀ f ∈ s.c.w.followers, (s.getC f.2).w.stream = []) (all : Bool) (d a : GReg) :
    Completes (.wvote all d a) s (putI s.c d (tally all s.c.w.votes)) := by
  obtain ⟨hgather, halike⟩ := gathered_publisher h hcoll hvote hall [if s.rdI a ≠ 0 then 1 else 0]
  have hi : SameIssue s.c ((s.voted s.cur [if s.rdI a ≠ 0 then 1 else 0]).wrI d (tally all s.c.w.votes) 1).c := halike.c ▸ issue_wrI ..
  refine completes_run (exec_wvote_public (by rw [h.inPrivate, Bool.and_false])) ?_ (became_chain halike.became (became_wrI ..) (by rw [halike.c])) hi
  have hend : gatherEnd (s.voted s.cur [if s.rdI a ≠ 0 then 1 else 0]) = (.ok (), s.voted s.cur [if s.rdI a ≠ 0 then 1 else 0]) := by
    have hpassed : s.c.w.followers.any (fun f => (s.getC f.2).w.stream != []) = false := by simpa using hstream
    unfold gatherEnd
    rw [bind_get, halike.inStream, halike.c, h.inStream, h.src]
    simp only [halike.2, hpassed]
    rfl
  rw [bind_get, bind_ok hgather, bind_ok hend, setI_run]

end

/-! ### RDVH of a publisher (R157) -/

/-- A registration that joins: its core is a member, which its publisher counts; every core keeps all but its place in the weaves. -/
theorem join_effect (s : State) {p : Nat} {r : Reg} (hr : r.core ≠ p) : outside (s.join p r) = outside s ∧
    ((s.join p r).getC p).w.followers = (s.getC p).w.followers ++ [(r.rank, r.core)] ∧ ((s.join p r).getC r.core).w.st = .member ∧
    ∀ m, ∃ w, (s.join p r).getC m = { s.getC m with w := w } ∧ (m ≠ p → (s.getC m).w.st = .member → w.st = .member) := by
  rw [State.join]
  refine ⟨rfl, ?_, ?_, fun m => ?_⟩
  · rw [getC_updC, if_neg hr.symm, getC_updC, if_pos rfl]
  · rw [getC_updC, if_pos rfl]
  · rw [getC_updC, getC_updC, getC_updC]
    by_cases hm : m = r.core
    · rw [if_pos hm, if_neg hr, hm]
      exact ⟨_, rfl, fun _ _ => rfl⟩
    · rw [if_neg hm]
      by_cases hp : m = p
      · rw [if_pos hp, hp]
        exact ⟨_, rfl, fun h => absurd rfl h⟩
      · rw [if_neg hp]
        exact ⟨_, rfl, fun _ h => h⟩

/-- The registrations of a list join. -/
def State.joins (s : State) (p : Nat) (rs : List Reg) : State := rs.foldl (fun s r => s.join p r) s

theorem joins_effect {rs : List Reg} {p : Nat} (hne : ∀ r ∈ rs, r.core ≠ p) (s : State) : outside (s.joins p rs) = outside s ∧
    (∀ f ∈ (s.getC p).w.followers, f ∈ ((s.joins p rs).getC p).w.followers) ∧
    (∀ r ∈ rs, ((s.joins p rs).getC r.core).w.st = .member ∧ (r.rank, r.core) ∈ ((s.joins p rs).getC p).w.followers) ∧
    ∀ m, ∃ w, (s.joins p rs).getC m = { s.getC m with w := w } ∧ (m ≠ p → (s.getC m).w.st = .member → w.st = .member) := by
  induction rs generalizing s with
  | nil => exact ⟨rfl, fun _ h => h, nofun, fun m => ⟨_, rfl, fun _ h => h⟩⟩
  | cons r rs ih =>
    obtain ⟨hr, hrs⟩ := List.forall_mem_cons.1 hne
    obtain ⟨hout, hfol, hst, hw⟩ := join_effect s hr
    obtain ⟨hout', hfol', hall', hw'⟩ := ih hrs (s.join p r)
    refine ⟨hout'.trans hout, fun f hf => hfol' f (hfol ▸ List.mem_append_left _ hf), List.forall_mem_cons.2 ⟨⟨?_, ?_⟩, hall'⟩, fun m => ?_⟩
    · obtain ⟨w, hw, hkeep⟩ := hw' r.core
      exact (congrArg (fun c : Core => c.w.st) hw).trans (hkeep hr hst)
    · exact hfol' _ (hfol ▸ List.mem_append_right _ (List.mem_singleton_self _))
    · obtain ⟨w, hm, hkeep⟩ := hw m
      obtain ⟨w', hm', hkeep'⟩ := hw' m
      rw [hm] at hm' hkeep'
      exact ⟨w', hm', fun hp h => hkeep' hp (hkeep hp h)⟩

/-- What that leaves of the publisher, where it has not registered with itself. -/
theorem joins_self {s : State} {rs : List Reg} (hne : ∀ r ∈ rs, r.core ≠ s.cur) : (s.joins s.cur rs).mem = s.mem ∧
    (∃ w, (s.joins s.cur rs).c = { s.c with w := w }) ∧
    ∀ r ∈ rs, ((s.joins s.cur rs).getC r.core).w.st = .member ∧ (r.rank, r.core) ∈ (s.joins s.cur rs).c.w.followers := by
  obtain ⟨hout, -, hin, hw⟩ := joins_effect hne s
  have hself : (s.joins s.cur rs).c = (s.joins s.cur rs).getC s.cur := by rw [State.c, cur_of_outside hout]
  obtain ⟨w, hw, -⟩ := hw s.cur
  rw [hself]
  exact ⟨(congrArg State.mem hout : (outside _).mem = _), ⟨w, hw⟩, hin⟩

/-- The registrations with a tag that have arrived. -/
def Weave.here (w : Weave) (tag : BitVec 4) : List Reg := w.regs.filter (fun r => r.arrived && r.tag == tag)

theorem joinAll_eq (s : State) (p : Nat) (tag : BitVec 4) : s.joinAll p tag = s.joins p ((s.getC p).w.here tag) := rfl

theorem here_of_regs {w x : Weave} (h : w.regs = x.regs) (tag : BitVec 4) : w.here tag = x.here tag := by rw [Weave.here, h, Weave.here]

section
variable {s : State} {tag : BitVec 4} {n : BitVec 13} (h : Publishing s.c) (hbrw : s.c.w.brw = [])
include h hbrw

/-- What a publisher's RDVH leaves once enough registrations have arrived. -/
theorem exec_rdvh_joins (hn : n.toNat ≤ (s.c.w.here tag).length) :
    exec (.rdvh tag n) s = .next (((s.met tag).finish none).joins ((s.met tag).finish none).cur (s.c.w.here tag)) := by
  have hregs := regs_of_still (still_of_became (became_finish (s.met tag) none (none : Option (BitVec 12)).isSome id))
  rw [State.c, finish_cur, met_regs] at hregs
  rw [exec_rdvh_met (rdvBad_false hbrw h.inPrivate) h.unpublished_iff hn, joinAll_eq, here_of_regs hregs, finish_cur]

theorem rdvh_joins (hn : n.toNat ≤ (s.c.w.here tag).length) (hne : ∀ r ∈ s.c.w.regs, r.core ≠ s.cur) :
    ∃ u, exec (.rdvh tag n) s = .next u ∧ u.c.pc = s.c.pc + 1 ∧ (u.mem = s.mem ∧ u.c.g = s.c.g ∧ u.c.v = s.c.v ∧ u.c.k = s.c.k) ∧
      ∀ r ∈ s.c.w.here tag, (u.getC r.core).w.st = .member ∧ (r.rank, r.core) ∈ u.c.w.followers := by
  obtain ⟨w, hc, hwbrw⟩ := met_c s tag
  obtain ⟨hpc, -⟩ := ends_finish (s.met tag) none (none : Option (BitVec 12)).isSome id (by rw [hc]; exact h.src) (by rw [hc, hwbrw]; exact hbrw)
  obtain ⟨hmem, hg, hv, hk⟩ := regs_of_became (became_trans (became_met s tag) (became_finish (s.met tag) none (none : Option (BitVec 12)).isSome id))
  obtain ⟨hmem', ⟨w', hc'⟩, hin⟩ := joins_self (s := (s.met tag).finish none) (rs := s.c.w.here tag) fun r hr => by
    rw [finish_cur, met_cur]
    exact hne r (List.mem_of_mem_filter hr)
  refine ⟨_, exec_rdvh_joins h hbrw hn, ?_, ⟨hmem'.trans hmem, ?_, ?_, ?_⟩, hin⟩
  · rw [hc']
    exact hpc.trans (by rw [hc]; rfl)
  all_goals rw [hc']
  · exact hg
  · exact hv
  · exact hk

/-- Before that it waits. -/
theorem rdvh_waits (hpend : s.c.tr.pend = false) (hn : (s.c.w.here tag).length < n.toNat) :
    ∃ u, exec (.rdvh tag n) s = .next u ∧ u.c.wait = some .members ∧ u.c.pc = s.c.pc ∧ u.c.w.rdvh = some (tag, n.toNat) ∧
      (u.mem = s.mem ∧ u.c.g = s.c.g ∧ u.c.v = s.c.v ∧ u.c.k = s.c.k) := by
  obtain ⟨hb, w, hc, -⟩ := publishOnce_effect s (rdvItem tag true)
  have hregs : (s.publishOnce (rdvItem tag true)).c.w.regs = s.c.w.regs := regs_of_still (still_of_became hb)
  have harr : (s.publishOnce (rdvItem tag true)).c.w.arrivedWith tag = (s.c.w.here tag).length := by
    rw [Weave.arrivedWith, hregs]
    rfl
  have hbad := rdvBad_false hbrw h.inPrivate
  have hexec : exec (.rdvh tag n) s = _ :=
    (if_neg (by rw [hbad]; exact Bool.false_ne_true)).trans ((if_neg h.unpublished_iff).trans (if_pos (by rw [harr]; exact hn)))
  obtain ⟨hmem, -⟩ := regs_of_became hb
  rw [holdAt_members (by rw [hc]; exact hpend)] at hexec
  refine ⟨_, hexec, ?_⟩
  rw [c_upd, c_upd, hc]
  exact ⟨rfl, rfl, rfl, hmem, rfl, rfl, rfl⟩

end

theorem streamWeave : Claim.StreamWeave := by
  intro s d a tag n j off all w own p same bits vote
  refine ⟨fun hsrc hp => ?_, fun hsrc hquiet hsys hpriv hst hpend => ?_⟩
  · intro t
    refine ⟨fun hv => brw_member hsrc hp a j off hv, fun hv hall => wvote_member hsrc all d a hv hall⟩
  · have h : Publishing s.c := ⟨hsrc, hsys, hpriv, hst⟩
    intro t held
    refine ⟨fun hf hnodup hne hcoll hlen => ⟨?_, ?_⟩, fun hf hcoll hvote hall => ⟨fun hlen => ?_, fun hstream _ => ?_⟩, fun hbrw => ?_⟩
    · exact held_of_gathered h hpend hf hnodup hne hcoll fun hg => (exec_brw_own h hf hlen a j off).trans (runTo_hold (bind_error hg))
    · exact held_of_gathered h hpend hf hnodup hne hcoll fun hg =>
        (exec_wvote_public (by rw [h.inPrivate, Bool.and_false])).trans (run_hold ((bind_get ..).trans (bind_error hg)))
    · intro zero go hgo
      obtain ⟨u, hu, hb, hpc, hbrw⟩ := brw_publisher h hcoll hvote hall hf hlen a j off hgo
      exact ⟨u, _, hu, hb, hpc, hbrw, rfl, rfl, rfl, rfl, rfl⟩
    · exact wvote_publisher h hcoll hvote hall hstream all d a
    · exact ⟨rdvh_waits h hbrw hpend, fun hn _ hne => rdvh_joins h hbrw hn hne⟩

/-- Settles O8: registration by `subStatus` (R155), a core alone and a member by where their words end, and the collectives of a weave by
what is gathered (`gathered_waits`, `gathered_all`). -/
theorem streamWords : Obligations.StreamWords := ⟨subscribing, streamAlone, streamMembers, streamWeave⟩

end Sys2Proof.Machine
end

section
/-!
The canonical form of memory and the word in issue, under effects and the steps of an engine's job: one lemma for each operation, for
every predicate that such a step cannot break (`Calm`).
-/
namespace Sys2Proof.Machine

open Safety

-- Sequential: of proofs that run side by side, each that waits for another holds a thread.
set_option Elab.async false

/-- What a key finds in a map whose values a function has changed, each under its own key. -/
theorem mfind_mapVals {α β : Type} (m : SMap α) (g : Nat × α → Nat × β) (hg : ∀ e, (g e).1 = e.1) (k : Nat) :
    mfind (m.map g) k = (mfind m k).map (fun v => (g (k, v)).2) := by
  induction m with
  | nil => rfl
  | cons e m ih =>
    obtain ⟨j, v⟩ := e
    rw [List.map_cons, show g (j, v) = (j, (g (j, v)).2) from Prod.ext (hg _) rfl, mfind, mfind]
    by_cases hjk : j = k
    · subst hjk
      simp
    · rw [if_neg hjk, if_neg hjk, ih]

/-! ## What keeps memory in its canonical form -/

@[simp] theorem memOk_mk (cur cycle tick : Nat) (turns : List Turn) (cores : SMap Core) (tags poison : NSet) (tlb : List TlbEntry)
    (ctxs : SMap Ctx) (mes : SMap Me) (gangs : List Gang) (jobs : SMap Job) (combs : List Combine) (nextJob nextMe : Nat)
    (sends : List Send) (ham : Hamper) (sec : Security) (host : HostLink) (s : State) :
    MemOk ⟨cur, cycle, tick, turns, cores, s.mem, tags, poison, tlb, ctxs, mes, gangs, jobs, combs, nextJob, nextMe, sends, ham, sec, host⟩ ↔
      MemOk s := Iff.rfl

theorem holds_foldl {σ α : Type} {P : σ → Prop} {f : σ → α → σ} (hf : ∀ s a, P s → P (f s a)) (xs : List α) {s : σ} (h : P s) :
    P (xs.foldl f s) := by
  induction xs generalizing s with
  | nil => exact h
  | cons x xs ih => exact ih (hf s x h)

theorem memOk_foldl {α : Type} {f : State → α → State} (hf : ∀ s a, MemOk s → MemOk (f s a)) (xs : List α) {s : State} (h : MemOk s) :
    MemOk (xs.foldl f s) := holds_foldl hf xs h

/-- An effect after which `P` still holds, whether it completes or stops. -/
structure Keeps (P : State → Prop) {ε α : Type} (m : ExceptT ε (StateM State) α) : Prop where
  run : ∀ {s}, P s → P (m s).2

section
variable {P : State → Prop} {ε α β : Type}

theorem Keeps.left {m : ExceptT ε (StateM State) α} (hm : Keeps P m) {s t : State} {r : Except ε α} (e : m s = (r, t)) (h : P s) : P t := by
  have hrun := hm.run h
  rwa [e] at hrun

theorem keeps_pure (a : α) : Keeps P (pure a : ExceptT ε (StateM State) α) := ⟨id⟩
theorem keeps_throw (e : ε) : Keeps P (throw e : ExceptT ε (StateM State) α) := ⟨id⟩
theorem keeps_set {t : State} (h : P t) : Keeps P (set t : ExceptT ε (StateM State) PUnit) := ⟨fun _ => h⟩
theorem keeps_modify {f : State → State} (h : ∀ s, P s → P (f s)) : Keeps P (modify f : ExceptT ε (StateM State) PUnit) := ⟨h _⟩
theorem keeps_get : Keeps P (get : ExceptT ε (StateM State) State) := ⟨id⟩
/-- What follows a `get` may suppose `P` of the state it got. -/
theorem keeps_get_bind {f : State → ExceptT ε (StateM State) β} (h : ∀ s, P s → Keeps P (f s)) : Keeps P (get >>= f) :=
  ⟨fun hs => (h _ hs).run hs⟩
theorem keeps_bind {m : ExceptT ε (StateM State) α} {f : α → ExceptT ε (StateM State) β} (hm : Keeps P m) (hf : ∀ a, Keeps P (f a)) :
    Keeps P (m >>= f) := by
  constructor
  intro s hs
  have hrun := hm.run hs
  change P (match m s with | (x, t) => ExceptT.bindCont f x t : _ × _).2
  rcases hms : m s with ⟨_ | a, t⟩ <;> rw [hms] at hrun
  · exact hrun
  · exact (hf a).run hrun
theorem keeps_ite {c : Prop} [Decidable c] {m n : ExceptT ε (StateM State) α} (hm : Keeps P m) (hn : Keeps P n) : Keeps P (if c then m else n) := by
  split <;> assumption
theorem keeps_forM {f : α → ExceptT ε (StateM State) PUnit} (hf : ∀ a, Keeps P (f a)) (xs : List α) : Keeps P (xs.forM f) := by
  induction xs with
  | nil => exact keeps_pure _
  | cons x xs ih => exact keeps_bind (hf x) (fun _ => ih)
theorem keeps_mapM {f : α → ExceptT ε (StateM State) β} (hf : ∀ a, Keeps P (f a)) (xs : List α) : Keeps P (xs.mapM f) := by
  induction xs with
  | nil => exact keeps_pure _
  | cons x xs ih =>
    rw [List.mapM_cons]
    exact keeps_bind (hf x) fun _ => keeps_bind ih fun _ => keeps_pure _
theorem keeps_foldlM {f : β → α → ExceptT ε (StateM State) β} (hf : ∀ b a, Keeps P (f b a)) (xs : List α) (b : β) :
    Keeps P (xs.foldlM f b) := by
  induction xs generalizing b with
  | nil => exact keeps_pure _
  | cons x xs ih =>
    rw [List.foldlM_cons]
    exact keeps_bind (hf b x) ih

end

/-- What an engine's step cannot break: `P` survives any change that keeps memory canonical and every core's word in issue. -/
def Calm (P : State → Prop) : Prop := ∀ ⦃s t : State⦄, P s → (MemOk s → MemOk t) → KeepsIssue s t → P t

theorem calm_memOk : Calm MemOk := fun _ _ h hm _ => hm h
theorem calm_keepsIssue (s : State) : Calm (KeepsIssue s) := fun _ _ h _ hi => h.trans hi

/-- `holds_foldl` of a predicate that `Calm P` names: so `grind` finds it. -/
theorem calm_foldl {P : State → Prop} {s : State} (_ : Calm P) {α : Type} {f : State → α → State} (hf : ∀ s a, P s → P (f s a))
    (xs : List α) (h : P s) : P (xs.foldl f s) := holds_foldl hf xs h
theorem keeps_jfail {P : State → Prop} (_ : Calm P) {α : Type} (c : Cause) (addr detail : Nat) : Keeps P (jfail c addr detail : JM α) :=
  keeps_throw _
section
variable {P : State → Prop} {s : State} (hP : Calm P)
include hP

theorem calm_mk (cycle tick : Nat) (turns : List Turn) (tags poison : NSet) (tlb : List TlbEntry)
    (ctxs : SMap Ctx) (mes : SMap Me) (gangs : List Gang) (jobs : SMap Job) (combs : List Combine) (nextJob nextMe : Nat)
    (sends : List Send) (ham : Hamper) (sec : Security) (host : HostLink) (h : P s) :
    P ⟨s.cur, cycle, tick, turns, s.cores, s.mem, tags, poison, tlb, ctxs, mes, gangs, jobs, combs, nextJob, nextMe, sends, ham, sec, host⟩ :=
  hP h id ⟨rfl, fun _ => .rfl _⟩

theorem calm_setC (n : Nat) {c : Core} (hc : SameIssue (s.getC n) c) (h : P s) : P (s.setC n c) := hP h id (keepsIssue_setC hc)

theorem calm_updC (n : Nat) {f : Core → Core} (hf : SameIssue (s.getC n) (f (s.getC n))) (h : P s) : P (s.updC n f) := calm_setC hP n hf h

theorem calm_updX (n : Nat) (f : Ctx → Ctx) (h : P s) : P (s.updX n f) := by
  unfold State.updX
  grind [calm_mk hP]

theorem calm_updJ (j : Nat) (f : Job → Job) (h : P s) : P (s.updJ j f) := by
  unfold State.updJ
  grind [calm_mk hP]

theorem calm_send (o : HostOut) (h : P s) : P (s.send o) := by
  unfold State.send
  grind [calm_mk hP]

theorem calm_keep (place : TlbPlace) (cap ctx level va : Nat) (pte : Word) (h : P s) : P (s.keep place cap ctx level va pte) := by
  unfold State.keep
  grind [calm_mk hP]

theorem calm_keepAll (places : List TlbPlace) (ctx va : Nat) (es : List (Nat × Word)) (h : P s) : P (s.keepAll places ctx va es) := by
  unfold State.keepAll
  grind [calm_foldl hP, calm_keep hP]

theorem calm_xlate (places : List TlbPlace) (ctx va : Nat) (need : PageNeed) (h : P s) : P (s.xlate places ctx va need).2 := by
  unfold State.xlate
  split
  · exact h
  split
  · exact h
  dsimp only
  split
  · exact calm_keepAll hP _ _ _ _ h
  split <;> exact calm_keepAll hP _ _ _ _ h

theorem calm_tell (ty ctx : Nat) (body : List Byte) (h : P s) : P (s.tell ty ctx body) := by
  unfold State.tell
  grind [calm_send hP]

theorem calm_notice (ctx : Nat) (body : List Byte) (h : P s) : P (s.notice ctx body) := by
  unfold State.notice
  grind [calm_tell hP]

theorem calm_noticeDrops (ctx : Nat) (h : P s) : P (s.noticeDrops ctx) := by
  unfold State.noticeDrops
  grind [calm_updX hP, calm_notice hP]

theorem calm_dropRecord (ctx : Nat) (cause : BitVec 8) (h : P s) : P (s.dropRecord ctx cause) := by
  unfold State.dropRecord
  grind [calm_noticeDrops hP, calm_updX hP]

theorem calm_faultRecord (ctx : Nat) (rec : List Byte) (h : P s) : P (s.faultRecord ctx rec) := by
  have written (t : State) (a b : Nat) (x y : List Byte) (tags poison : NSet) (ht : P t) :
      P { t with mem := writeBytes (writeBytes t.mem a x) b y, tags := tags, poison := poison } :=
    hP ht (fun hm => wf_writeBytes b y (wf_writeBytes a x hm)) ⟨rfl, fun _ => .rfl _⟩
  have counted (t : State) (a : Nat) (x : List Byte) (ht : P t) : P { t with mem := writeBytes t.mem a x } :=
    hP ht (wf_writeBytes a x) ⟨rfl, fun _ => .rfl _⟩
  unfold State.faultRecord State.replaced
  grind [calm_xlate hP, calm_dropRecord hP]

theorem calm_park (act : Activity) (ctx fn : Nat) (cause : BitVec 8) (addr detail : Nat) (h : P s) : P (s.park act ctx fn cause addr detail).2 := by
  unfold State.park
  grind [calm_mk hP, calm_tell hP]

theorem calm_locate (p : Party) (a : Acc) (ea size : Nat) (h : P s) : P (s.locate p a ea size).2 := by
  unfold State.locate
  grind [calm_xlate hP]

theorem calm_mcheckRecord (ctx addr detail : Nat) (h : P s) : P (s.mcheckRecord ctx addr detail) := by
  unfold State.mcheckRecord
  grind [calm_faultRecord hP]

theorem calm_healed (ctx : Nat) (keys : List Nat) (h : P s) : P (s.healed ctx keys) := by
  unfold State.healed
  grind [calm_mk hP, calm_foldl hP, calm_mcheckRecord hP]

theorem calm_markStale (key : Nat) (h : P s) : P (s.markStale key) := by
  unfold State.markStale
  split
  · refine calm_updC hP _ ?_ h
    split
    · exact .rfl _
    · exact ⟨rfl, rfl, rfl, rfl, rfl, rfl⟩
  · exact h

theorem calm_noteWrite (cells : List Host.Cell) (h : P s) : P (s.noteWrite cells) := by
  unfold State.noteWrite
  grind [calm_mk hP]

theorem calm_perform (ctx : Nat) (cells : List Host.Cell) (tags : List (Nat × Bool)) (h : P s) : P (s.perform ctx cells tags) := by
  unfold State.perform
  split
  · exact hP h id ⟨rfl, fun _ => .rfl _⟩
  · rename_i key b rest
    have hhealed : P (if s.poison = [] then s else s.healed ctx (((key, b) :: rest).map Prod.fst)) := by
      split
      · exact h
      · exact calm_healed hP ctx _ h
    exact hP (calm_noteWrite hP _ (calm_markStale hP _ hhealed)) (wf_writeCells _) ⟨rfl, fun _ => .rfl _⟩

theorem calm_writeAt (ctx key : Nat) (bs : List Byte) (h : P s) : P (s.writeAt ctx key bs) := by
  unfold State.writeAt
  grind [calm_perform hP]

theorem calm_amoAt (ctx : Nat) (op : AmoOp) (size : AtSize) (key : Nat) (arg : Word) (h : P s) : P (s.amoAt ctx op size key arg).2 := by
  unfold State.amoAt
  grind [calm_writeAt hP]

theorem calm_remoteRecord (ctx addr : Nat) (h : P s) : P (s.remoteRecord ctx addr) := by
  unfold State.remoteRecord
  grind [calm_faultRecord hP]

theorem calm_chargeEth (ctx n : Nat) (h : P s) : P (s.chargeEth ctx n) := by
  unfold State.chargeEth
  grind [calm_updX hP]

theorem calm_hostStore (ctx pa : Nat) (bs : List Byte) (h : P s) : P (s.hostStore ctx pa bs) := by
  unfold State.hostStore
  grind [calm_chargeEth hP, calm_remoteRecord hP, calm_send hP]

theorem calm_sendRead (pa n : Nat) (h : P s) : P (s.sendRead pa n) := by
  unfold State.sendRead
  grind [calm_send hP]

theorem calm_physRead {pa n : Nat} {bs : List Byte} {t : State} (hr : s.physRead pa n = some (bs, t)) (h : P s) : P t := by
  unfold State.physRead at hr
  grind [calm_sendRead hP]

theorem calm_setBar (ctx unit bar : Nat) (b : Bar) (h : P s) : P (s.setBar ctx unit bar b) := by
  unfold State.setBar
  grind [calm_updX hP]

theorem calm_wakeWhere (p : Nat → Wait → Bool) (x : Word) (h : P s) : P (s.wakeWhere p x) := by
  refine hP h id ⟨rfl, fun m => ?_⟩
  unfold State.wakeWhere State.getC mget
  rw [mfind_mapVals _ _ (by grind)]
  cases mfind s.cores m with
  | none => exact .rfl _
  | some c =>
    simp only [Option.map_some, Option.getD_some]
    split
    · split
      · exact ⟨rfl, rfl, rfl, rfl, rfl, rfl⟩
      · exact .rfl _
    · exact .rfl _

theorem calm_admitHeld (ctx unit bar : Nat) (h : P s) : P (s.admitHeld ctx unit bar) := by
  unfold State.admitHeld
  dsimp only
  split
  · exact h
  · refine calm_foldl hP (fun t n ht => ?_) _ (calm_setBar hP ctx unit bar _ h)
    split
    · exact ht
    · exact calm_updC hP n ⟨rfl, rfl, rfl, rfl, rfl, rfl⟩ ht

theorem calm_settleBar (ctx unit bar fuel : Nat) (h : P s) : P (s.settleBar ctx unit bar fuel) := by
  induction fuel generalizing s with
  | zero => exact h
  | succ n ih =>
    unfold State.settleBar
    grind [calm_wakeWhere hP, calm_setBar hP, calm_admitHeld hP]

theorem calm_testBar (ctx unit bar : Nat) (h : P s) : P (s.testBar ctx unit bar) := by
  unfold State.testBar
  grind [calm_settleBar hP]

theorem calm_breakBar (ctx unit bar : Nat) (h : P s) : P (s.breakBar ctx unit bar) := by
  unfold State.breakBar
  grind [calm_setBar hP]

theorem calm_setScope (ctx n : Nat) (f : FScope) (h : P s) : P (s.setScope ctx n f) := by
  unfold State.setScope
  grind [calm_updX hP]

theorem calm_pushRing (ctx fuel : Nat) (h : P s) : P (s.pushRing ctx fuel) := by
  induction fuel generalizing s with
  | zero => exact h
  | succ n ih =>
    unfold State.pushRing
    grind [calm_hostStore hP, calm_updX hP]

theorem calm_reportRoot (ctx n : Nat) (st : ScopeSt) (h : P s) : P (s.reportRoot ctx n st) := by
  unfold State.reportRoot
  grind [calm_pushRing hP, calm_updX hP, calm_notice hP]

theorem calm_settleScope (ctx n fuel : Nat) (h : P s) : P (s.settleScope ctx n fuel) := by
  induction fuel generalizing s n with
  | zero => exact h
  | succ fuel ih =>
    unfold State.settleScope
    grind [calm_setScope hP, calm_wakeWhere hP, calm_reportRoot hP]

theorem calm_scopeAdd (ctx n : Nat) (h : P s) : P (s.scopeAdd ctx n) := by
  unfold State.scopeAdd
  grind [calm_setScope hP]

theorem calm_scopeSub (ctx n : Nat) (h : P s) : P (s.scopeSub ctx n) := by
  unfold State.scopeSub
  grind [calm_settleScope hP, calm_setScope hP]

theorem calm_scopeFail (ctx n : Nat) (h : P s) : P (s.scopeFail ctx n) := by
  unfold State.scopeFail
  grind [calm_setScope hP]

theorem calm_endJob (id : Nat) (st : JobSt) (h : P s) : P (s.endJob id st) := by
  unfold State.endJob
  dsimp only
  split
  · exact h
  · rename_i j _
    split
    · exact h
    · have hq : P (j.posters.foldl (fun s p =>
          s.updC p.1 (fun c => match mfind c.jobs p.2.1 with
            | some sl =>
              if sl.job = some id then { c with jobs := mset c.jobs p.2.1 { sl with job := none, final := Job.word { j with st := st } } } else c
            | none => c)) { s with jobs := merase s.jobs id }) := by
        refine calm_foldl hP (fun t p ht => calm_updC hP _ ?_ ht) _ (hP h (fun hm => hm) ⟨rfl, fun _ => .rfl _⟩)
        split
        · exact .ite ⟨rfl, rfl, rfl, rfl, rfl, rfl⟩ (.rfl _)
        · exact .rfl _
      split
      · split
        · exact calm_scopeSub hP _ _ (calm_scopeFail hP _ _ hq)
        · exact calm_scopeSub hP _ _ hq
      · exact hq

theorem calm_formatRecord (ctx kind off : Nat) (h : P s) : P (s.formatRecord ctx kind off) := by
  unfold State.formatRecord
  grind [calm_faultRecord hP]

theorem calm_ctxRead (ctx va n : Nat) (h : P s) : P (s.ctxRead ctx va n).2 := by
  refine holds_foldl (P := fun acc : Except ReadFail (List Byte) × State => P acc.2) (fun acc i hacc => ?_) _ h
  dsimp only
  repeat' split
  all_goals grind [calm_xlate hP, calm_physRead hP]

theorem calm_ctxBytes (ctx va n : Nat) (h : P s) : P (s.ctxBytes ctx va n).2 := by
  unfold State.ctxBytes
  grind [calm_ctxRead hP]

theorem calm_ctxWrite (ctx va : Nat) (bs : List Byte) (h : P s) : P (s.ctxWrite ctx va bs) := by
  unfold State.ctxWrite
  grind [calm_foldl hP, calm_xlate hP, calm_hostStore hP, calm_writeAt hP]

theorem calm_newLaunch (lpb : List Byte) (queue : Option Nat) (hostq : Bool) (ptrs : List Word) (children : Nat)
    (block : Option (Nat × Word × Word)) (die : (Option Nat)) (h : P s) : P (s.newLaunch lpb queue hostq ptrs children block die) := by
  unfold State.newLaunch
  grind [calm_mk hP]

theorem calm_addLaunch (lpb : List Byte) (queue : Option Nat) (hostq : Bool) (block : Option (Nat × Word × Word)) (h : P s) :
    P (s.addLaunch lpb queue hostq block) := by
  unfold State.addLaunch
  grind [calm_scopeAdd hP, calm_newLaunch hP]

theorem calm_badLpb (ctx : Nat) (lpb : List Byte) (off : Nat) (h : P s) : P (s.badLpb ctx lpb off) := by
  unfold State.badLpb
  grind [calm_scopeFail hP, calm_formatRecord hP]

theorem calm_setQueue (k : Nat) (q : RQueue) (h : P s) : P (s.setQueue k q) := by
  unfold State.setQueue
  grind [calm_mk hP]

theorem calm_syncQueue (k : Nat) (h : P s) : P (s.syncQueue k) := by
  unfold State.syncQueue
  grind [calm_ctxWrite hP]

theorem calm_queueHome (ctx ea : Nat) (h : P s) : P (s.queueHome ctx ea).2 := by
  unfold State.queueHome
  grind [calm_xlate hP]

theorem calm_activate (ctx ea home : Nat) (b : List Byte) (h : P s) : P (s.activate ctx ea home b).2 := by
  unfold State.activate
  grind [calm_setQueue hP, calm_syncQueue hP]

theorem calm_closeBlock (k no : Nat) (h : P s) : P (s.closeBlock k no) := by
  unfold State.closeBlock
  dsimp only
  split
  · exact h
  rename_i q _
  split
  · exact h
  split
  · exact h
  generalize hfold : List.foldl _ s (List.range (s.queueDesc q).t) = t
  have ht : P t := by
    rw [← hfold]
    refine calm_foldl hP (fun t o ht => ?_) _ h
    split
    · exact ht
    · exact calm_ctxWrite hP _ _ _ ht
  grind [calm_ctxBytes hP, calm_badLpb hP, calm_addLaunch hP, calm_syncQueue hP, calm_setQueue hP]

theorem calm_closeIfFull (k no : Nat) (h : P s) : P (s.closeIfFull k no) := by
  unfold State.closeIfFull
  grind [calm_closeBlock hP]

theorem calm_commitSlot (k no off : Nat) (rec : List Byte) (h : P s) : P (s.commitSlot k no off rec) := by
  unfold State.commitSlot
  grind [calm_setQueue hP, calm_closeIfFull hP, calm_ctxWrite hP]

theorem calm_moveOvf (k fuel : Nat) (h : P s) : P (s.moveOvf k fuel) := by
  induction fuel generalizing s with
  | zero => exact h
  | succ n ih =>
    unfold State.moveOvf
    dsimp only
    repeat' split
    all_goals grind [calm_ctxBytes hP, calm_setQueue hP, calm_commitSlot hP]

theorem calm_settleQueue (k : Nat) (h : P s) : P (s.settleQueue k) := by
  unfold State.settleQueue
  grind [calm_setQueue hP, calm_moveOvf hP, calm_syncQueue hP]

theorem calm_claimOn (k who : Nat) (h : P s) : P (s.claimOn k who).2 := by
  unfold State.claimOn
  grind [calm_setQueue hP, calm_syncQueue hP]

theorem calm_commitOn (k : Nat) (c : Claim) (rec : List Byte) (h : P s) : P (s.commitOn k c rec) := by
  unfold State.commitOn
  grind [calm_setQueue hP, calm_commitSlot hP, calm_settleQueue hP, calm_ctxWrite hP]

theorem calm_noteLate (k : Nat) (c : Claim) (h : P s) : P (s.noteLate k c) := by
  unfold State.noteLate
  grind [calm_setQueue hP]

theorem calm_commitRaced (k no off who : Nat) (rec : List Byte) (h : P s) : P (s.commitRaced k no off who rec) := by
  unfold State.commitRaced
  grind [calm_setQueue hP, calm_commitSlot hP, calm_settleQueue hP, calm_claimOn hP, calm_commitOn hP, calm_closeBlock hP, calm_noteLate hP]

theorem calm_parkJob (id : Nat) (cause : Cause) (addr detail : Nat) (h : P s) : P (s.parkJob id cause addr detail) := by
  unfold State.parkJob
  grind [calm_updJ hP, calm_faultRecord hP, calm_park hP, calm_endJob hP]

theorem calm_barTake (j : Job) (n : Nat) (h : P s) : P (s.barTake j n) := by
  unfold State.barTake
  grind [calm_setBar hP, calm_testBar hP]

theorem keeps_engLoc (j : Job) (a : Acc) (ea size : Nat) : Keeps P (engLoc j a ea size) := by
  unfold engLoc
  refine keeps_get_bind fun s hs => keeps_ite (keeps_bind (keeps_jfail hP ..) fun _ => ?_) ?_
  all_goals
    dsimp only
    repeat' split
    all_goals grind [keeps_throw, keeps_pure, keeps_set, keeps_bind, keeps_jfail hP, calm_xlate hP]

theorem keeps_engRead (j : Job) (ea size : Nat) : Keeps P (engRead j ea size) := by
  unfold engRead
  refine keeps_bind (keeps_engLoc hP ..) fun l => keeps_get_bind fun s hs => ?_
  split
  · exact keeps_jfail hP ..
  · split
    · rename_i heq
      exact keeps_bind (keeps_set (calm_physRead hP heq hs)) fun _ => keeps_pure _
    · exact keeps_jfail hP ..

theorem keeps_engBytes (j : Job) (ea n : Nat) : Keeps P (engBytes j ea n) := by
  unfold engBytes
  grind [keeps_pure, keeps_foldlM, keeps_bind, keeps_engRead hP]

theorem keeps_engWrite (j : Job) (ea : Nat) (bs : List Byte) (tag : Bool) : Keeps P (engWrite j ea bs tag) := by
  unfold engWrite
  grind [keeps_pure, keeps_bind, keeps_jfail hP, keeps_engLoc hP]

theorem keeps_engCommit (j : Job) (ws : List EngWrite) : Keeps P (engCommit j ws) := by
  unfold engCommit
  grind [keeps_get_bind, keeps_get, calm_foldl hP, keeps_bind, keeps_set, keeps_jfail hP, calm_hostStore hP, calm_perform hP, calm_barTake hP]

theorem keeps_engElem (j : Job) (w : Nat) (at' : Nat × Bool) : Keeps P (engElem j w at') := by
  unfold engElem
  grind [keeps_pure, keeps_bind, keeps_engRead hP]

theorem keeps_engPut (j : Job) (w : Nat) (at' : Nat × Bool) (x : Nat) : Keeps P (engPut j w at' x) := by
  unfold engPut
  grind [keeps_pure, keeps_get_bind, keeps_get, keeps_bind, keeps_set, keeps_jfail hP, keeps_engWrite hP, keeps_engLoc hP, calm_physRead hP]

theorem keeps_engList (j : Job) (src dst : Nat) : Keeps P (engList j src dst) := by
  unfold engList
  grind [keeps_mapM, keeps_bind, keeps_jfail hP, keeps_engWrite hP, keeps_engBytes hP]

theorem keeps_elemPair (j : Job) (src dst : Shape) (t : Nat) : Keeps P (elemPair j src dst t) := by
  unfold elemPair
  grind [keeps_pure, keeps_bind, keeps_engBytes hP]

theorem keeps_chargeCopy (j : Job) (n : Nat) : Keeps P (chargeCopy j n) := by
  unfold chargeCopy
  grind [keeps_modify, calm_updX hP]

theorem keeps_moveAll (j : Job) (ws : List EngWrite) : Keeps P (moveAll j ws) := by
  unfold moveAll
  grind [keeps_bind, keeps_chargeCopy hP, keeps_engCommit hP]

theorem keeps_copyStep (j : Job) (src dst : Shape) (t : Nat) : Keeps P (copyStep j src dst t) := by
  unfold copyStep
  grind [keeps_pure, keeps_modify, keeps_mapM, keeps_bind, keeps_moveAll hP, keeps_engElem hP, calm_updJ hP, keeps_engWrite hP, keeps_elemPair hP,
    keeps_engRead hP, keeps_engList hP, keeps_engPut hP]

theorem keeps_routeChoose (j : Job) (sc : Shape) (t : Nat) : Keeps P (routeChoose j sc t) := by
  unfold routeChoose
  grind [keeps_pure, keeps_modify, keeps_get, keeps_mapM, keeps_bind, keeps_engElem hP, keeps_jfail hP, calm_updJ hP, keeps_engBytes hP]

theorem keeps_routeSend (j : Job) (t slot : Nat) (x : Cand) : Keeps P (routeSend j t slot x) := by
  unfold routeSend
  refine keeps_get_bind fun s hs => ?_
  dsimp only
  split
  case' isTrue => refine keeps_bind (keeps_jfail hP ..) fun _ => ?_
  all_goals
    repeat' split
    all_goals grind [keeps_throw, keeps_set, keeps_bind, keeps_modify, keeps_engLoc hP, keeps_jfail hP, calm_ctxRead hP, calm_queueHome hP,
      calm_activate hP, calm_claimOn hP, calm_commitRaced hP, calm_commitOn hP, calm_amoAt hP]

theorem keeps_routeStep (j : Job) (sc ix wt : Shape) (t : Nat) : Keeps P (routeStep j sc ix wt t) := by
  unfold routeStep
  dsimp only
  refine keeps_bind (keeps_routeChoose hP ..) fun c => keeps_bind (keeps_mapM (fun k => ?_) _) fun ws =>
    keeps_bind (keeps_engCommit hP ..) fun _ => ?_
  · grind [keeps_bind, keeps_modify, keeps_engPut hP, calm_updJ hP, keeps_pure]
  · grind [keeps_bind, keeps_modify, keeps_forM, keeps_routeSend hP, calm_updX hP, keeps_pure]

theorem keeps_jobUnitStep (j : Job) : Keeps P (Job.unitStep j) := by
  unfold Job.unitStep
  grind [keeps_throw, keeps_copyStep hP, keeps_routeStep hP]

theorem calm_jobRun (id fuel : Nat) (h : P s) : P (s.jobRun id fuel) := by
  induction fuel generalizing s with
  | zero => exact h
  | succ n ih =>
    unfold State.jobRun
    split
    · exact h
    · rename_i j _
      split
      · exact h
      · split
        all_goals
          rename_i heq
          have hstep := (keeps_jobUnitStep hP j).left heq h
          grind [calm_updJ hP, calm_parkJob hP, calm_breakBar hP]

theorem calm_retranslate (p : Job → Bool) (h : P s) : P (s.retranslate p) := by
  unfold State.retranslate
  grind [calm_foldl hP, calm_jobRun hP]

end

end Sys2Proof.Machine
end

section
/-!
NOP, ISYNC, TLBINV, IDLE, ECHK and IDENT (O12).
-/
namespace Sys2Proof.Machine

open Safety

/-! ## NOP, ISYNC, TLBINV, IDLE, ECHK and IDENT (O12) -/

theorem mem_of_mfind {α : Type} {m : SMap α} {k : Nat} {x : α} (h : mfind m k = some x) : (k, x) ∈ m := by
  induction m with
  | nil => cases h
  | cons e m ih =>
    obtain ⟨j, v⟩ := e
    rw [mfind] at h
    split at h
    · cases h
      subst j
      exact List.mem_cons_self
    · exact List.mem_cons_of_mem _ (ih h)

/-- A core that is nowhere listed is as reset leaves it, so it has no access under way either. -/
theorem quiet_getC {s : State} (h : ∀ e ∈ s.cores, Claim.quiet e.2) (n : Nat) : Claim.quiet (s.getC n) := by
  unfold State.getC mget
  cases hn : mfind s.cores n with
  | none => exact ⟨rfl, rfl⟩
  | some c => exact h (n, c) (mem_of_mfind hn)

theorem drainUpTo_of_empty {s : State} {n : Nat} (h : (s.getC n).sq = []) (p : SqEntry → Bool) : s.drainUpTo n p = s := by
  simp [State.drainUpTo, h]
theorem arriveWhere_of_empty {s : State} {n : Nat} (h : (s.getC n).loads = []) (p : Load → Bool) : s.arriveWhere n p = s := by
  simp [State.arriveWhere, h]

theorem completes_nop (s : State) : Completes .nop s s.c :=
  completes_run rfl rfl (became_refl s) (.rfl _)

theorem completes_isync {s : State} (h : s.c.sq = []) : Completes .isync s { s.c with istale := [] } := by
  refine completes_run (u := s.upd (fun c => { c with istale := [] })) rfl ?_ (became_upd s _) ?_
  · rw [bind_modify, drainUpTo_of_empty h, bind_get, bind_holdIf (by rw [h]; rfl)]
    rfl
  · rw [c_upd]
    exact ⟨rfl, rfl, rfl, rfl, rfl, rfl⟩

theorem completes_idle {s : State} (hsys : s.c.sys = true) (h : s.c.cancelf = true ∨ (s.c.wait = some .idle ∧ s.c.woken.isSome = true)) :
    Completes .idle s s.c := by
  refine completes_run (u := s) rfl ?_ (became_refl s) (.rfl _)
  rw [bind_ok (privileged_run hsys), bind_get]
  change (match (if s.c.wait = some Wait.idle then s.c.woken else none) with
    | some _ => (pure () : M Unit)
    | none => holdIf (!s.c.cancelf) Wait.idle) s = _
  rcases h with h | ⟨hw, hwoken⟩
  · rw [h]
    cases (if s.c.wait = some Wait.idle then s.c.woken else none) <;> rfl
  · obtain ⟨x, hx⟩ := Option.isSome_iff_exists.1 hwoken
    rw [if_pos hw, hx]
    rfl

/-- Where no access is under way, a TLBINV only drops its entries (R197). -/
theorem dropTlb_quiet {s : State} (hq : ∀ e ∈ s.cores, Claim.quiet e.2) (sc : Scope) (ctx : Option Nat)
    (p : TlbEntry → Bool) :
    (dropTlb sc ctx p).on s = (.ok (), ({ s with tlb := s.tlb.filter (fun e => !(tlbScope s.cur sc e.place && p e)) } : State).retranslate
      (fun j => engInScope s.cur sc j.eng && (ctx.isNone || ctx == some j.ctx))) := by
  have hsq (n : Nat) : (s.getC n).sq = [] := (quiet_getC hq n).1
  have hstep (q : Nat → SqEntry → Bool) (r : Nat → Load → Bool) (ns : List Nat) :
      ns.foldl (fun s n => (s.drainUpTo n (q n)).arriveWhere n (r n)) s = s :=
    List.foldlRecOn ns _ (motive := (· = s)) rfl fun t ht n _ => by
      rw [ht, drainUpTo_of_empty (hsq n), arriveWhere_of_empty (quiet_getC hq n).2]
  rw [on_eq]
  unfold dropTlb
  rw [bind_get, bind_modify, drainAll_of_empty (hsq s.cur), bind_get, bind_holdIf (by rw [State.c, hsq]; rfl), bind_get, bind_modify,
    hstep, bind_get, bind_holdIf]
  · rfl
  · simp [hsq]

theorem leaves_tlbinv {s : State} (hsys : s.c.sys = true) (hq : ∀ e ∈ s.cores, Claim.quiet e.2)
    {kind : TlbKind} {sc : Scope} {a b : GReg} {ctx : Option Nat} {p : TlbEntry → Bool} {held : Job → Bool}
    (hkind : execTlbinv kind sc a b s = run (do privileged; dropTlb sc ctx p) s)
    (hheld : ∀ j, held j = (engInScope s.cur sc j.eng && (ctx.isNone || ctx == some j.ctx))) :
    Leaves (.tlbinv kind sc a b) s
      (({ s with tlb := s.tlb.filter (fun e => !(tlbScope s.cur sc e.place && p e)) } : State).retranslate held) := by
  rw [funext hheld]
  have hrun := dropTlb_quiet hq sc ctx p
  have hissue (t : List TlbEntry) (held : Job → Bool) : KeepsIssue s (({ s with tlb := t } : State).retranslate held) :=
    calm_retranslate (calm_keepsIssue s) held ⟨rfl, fun _ => .rfl _⟩
  refine leaves_run hkind ?_ (hissue _ _).c
  rw [bind_ok (privileged_run hsys)]
  exact (on_eq (dropTlb sc ctx p) s).symm.trans hrun

/-! ### ECHK -/

/-- With no vector load and no post under way, every ring entry has its final status (R475). -/
theorem ringSettled_run {s : State} (hl : s.c.loads = []) (hout : s.c.out = 0) : ringSettled s = (.ok (), s) := by
  unfold ringSettled
  rw [bind_modify, arriveWhere_of_empty hl, bind_get, hout]
  rfl

theorem recentEntry_of_recent {c : Core} {q : BitVec 32} {r : RingEntry} (h : 1 ≤ (c.ringHead - q).toNat ∧ (c.ringHead - q).toNat ≤ 64)
    (hr : mfind c.ring (q.toNat % 64) = some r) (hseq : r.seq = q) : c.recentEntry q = some r := by
  unfold Core.recentEntry Core.ringAt
  rw [if_neg (by omega), hr]
  simp [hseq]

theorem recentEntry_of_not_recent {c : Core} {q : BitVec 32} (h : ¬(1 ≤ (c.ringHead - q).toNat ∧ (c.ringHead - q).toNat ≤ 64)) :
    c.recentEntry q = none := by
  unfold Core.recentEntry
  rw [if_pos (by omega)]

section
variable {s : State} {d a b : GReg} {hi : Bool} (hl : s.c.loads = []) (hout : s.c.out = 0)
include hl hout

theorem completes_echk_read {x : TReg} (hx : (match s.c.recentEntry ((s.rdI a).setWidth 32) with
      | some r => ⟨BitVec.ofNat 128 (field r.bytes (if hi then 16 else 0) 16), false⟩
      | none => ⟨BitVec.allOnes 128, false⟩) = x) : Completes (.echk (.read d a hi)) s (putG s.c d x) := by
  refine completes_run (u := s.wrG d x 1) rfl ?_ (became_wrG s d x 1) (issue_wrG s d x 1)
  rw [bind_ok (ringSettled_run hl hout), bind_get, ← hx]
  cases s.c.recentEntry ((s.rdI a).setWidth 32) <;> rfl

theorem completes_echk_mark_none (hsys : s.c.sys = true) (hr : s.c.recentEntry ((s.rdI a).setWidth 32) = none) :
    Completes (.echk (.mark a b)) s s.c := by
  refine completes_run (u := s) rfl ?_ (became_refl s) (.rfl _)
  rw [bind_ok (privileged_run hsys), bind_ok (ringSettled_run hl hout), bind_get, hr]
  rfl

theorem completes_echk_mark {r : RingEntry} (hsys : s.c.sys = true) (hr : s.c.recentEntry ((s.rdI a).setWidth 32) = some r)
    (hx : (s.rdI b).toNat % 4 < 3) :
    Completes (.echk (.mark a b)) s { s.c with ring := mset s.c.ring (((s.rdI a).setWidth 32).toNat % 64) { r with
      status := BitVec.ofNat 8 ((s.rdI b).toNat % 4), cause := if (s.rdI b).toNat % 4 = 0 then 0 else r.cause
      count := (s.rdI b >>> 32).setWidth 32 } } := by
  have hcount : (s.rdI b >>> 32).setWidth 32 = BitVec.ofNat 32 ((s.rdI b).toNat / 2 ^ 32) := by
    apply BitVec.eq_of_toNat_eq
    simp [Nat.shiftRight_eq_div_pow]
  rw [hcount]
  refine completes_run rfl ?_ (became_upd s (fun c => { c with ring := mset c.ring (((s.rdI a).setWidth 32).toNat % 64) { r with
      status := BitVec.ofNat 8 ((s.rdI b).toNat % 4), cause := if (s.rdI b).toNat % 4 = 0 then 0 else r.cause
      count := BitVec.ofNat 32 ((s.rdI b).toNat / 2 ^ 32) } })) ?_
  · rw [bind_ok (privileged_run hsys), bind_ok (ringSettled_run hl hout), bind_get, hr]
    dsimp only
    rw [if_pos hx]
    rfl
  · rw [c_upd]
    exact ⟨rfl, rfl, rfl, rfl, rfl, rfl⟩

end

theorem serial_ne_zero : Config.serial ≠ 0 := by
  intro h
  have hn := congrArg BitVec.toNat h
  have hlt : Config.serialSeed % (2 ^ 128 - 1) < 2 ^ 128 - 1 := Nat.mod_lt _ (by decide)
  rw [Config.serial, BitVec.toNat_ofNat, Nat.mod_eq_of_lt (by omega)] at hn
  simp at hn

/-- Settles O12: each word's effect is run on the state; a TLBINV's running jobs leave the word in issue as it is (`calm_retranslate`). -/
theorem systemWords : Obligations.SystemWords := by
  intro s d a b sc r hi
  refine ⟨completes_nop s, completes_isync, completes_idle, fun hsys _ hq => ?_, fun hl hout => ?_, completes_int rfl rfl, completes_int rfl rfl,
    completes_int rfl (by decide), completes_int rfl ?_, completes_int rfl ?_, serial_ne_zero⟩
  · refine ⟨leaves_tlbinv (ctx := none) hsys hq rfl fun j => by simp, leaves_tlbinv hsys hq rfl fun j => by simp,
      ?_⟩
    have hpage : bitsOf (s.rdI a).toNat 54 16 * 0x10000 = (s.rdI a).toNat % 2 ^ 55 / 0x10000 * 0x10000 := by
      unfold bitsOf
      omega
    dsimp only
    rw [← hpage]
    exact leaves_tlbinv hsys hq rfl fun j => by simp
  · refine ⟨fun hrec hr hseq => ?_, fun hold => ?_⟩
    · have hent := recentEntry_of_recent hrec hr hseq
      exact ⟨completes_echk_read hl hout (by rw [hent]), fun hsys hx => completes_echk_mark hl hout hsys hent hx⟩
    · have hent := recentEntry_of_not_recent hold
      exact ⟨completes_echk_read hl hout (by rw [hent]), fun hsys => completes_echk_mark_none hl hout hsys hent⟩
  · dsimp only
    apply BitVec.eq_of_toNat_eq
    simp
  · dsimp only
    apply BitVec.eq_of_toNat_eq
    simp

end Sys2Proof.Machine
end

section
/-!
The outside world (O48): power-up, deadlines, SMBus, JTAG, throttling, bit errors; and memory at reset (O54).
-/
namespace Sys2Proof.Machine

open Safety

/-! ## Power-up (R493, R513) -/

/-- What power-up leaves, from the first state the boot ROM sees to READY: memory below the instruction stores as cleared, no tags,
every core as reset leaves it but for its husk set, no job, the Hamper empty, the owner's key and counter kept. -/
structure Booted (s t : State) : Prop where
  low : ∀ a, a < istoreBase → readByte t.mem a = readByte [] a
  tags : t.tags = []
  cores : ∀ n, ∃ h, t.getC n = { State.reset.getC n with husk := h }
  jobs : t.jobs = State.reset.jobs
  ham : t.ham = State.reset.ham
  ownerKey : t.sec.ownerKey = s.sec.ownerKey
  ownerCtr : t.sec.ownerCtr = s.sec.ownerCtr
  up : t.host.down = false

section
variable {s t : State} (h : Booted s t)
include h

theorem booted_putCode (n first : Nat) (ws : List Word) : Booted s (t.putCode n first ws) where
  low a ha := by
    have hout : a < istoreKey n (8 * first) := by
      unfold istoreKey
      omega
    rw [← h.low a ha]
    exact readByte_writeBytes_of_out _ _ _ _ (.inl hout)
  tags := h.tags
  cores := h.cores
  jobs := h.jobs
  ham := h.ham
  ownerKey := h.ownerKey
  ownerCtr := h.ownerCtr
  up := h.up

theorem booted_switched (n : Nat) (set : HuskSet) : Booted s (t.updC n (fun c => { c with husk := set, retries := 0 })) where
  low := h.low
  tags := h.tags
  cores m := by
    rw [getC_updC]
    split
    · obtain ⟨x, hx⟩ := h.cores n
      subst m
      exact ⟨set, by rw [hx]; rfl⟩
    · exact h.cores m
  jobs := h.jobs
  ham := h.ham
  ownerKey := h.ownerKey
  ownerCtr := h.ownerCtr
  up := h.up

theorem booted_huskSwitch (n : Nat) : Booted s (t.huskSwitch n) := by
  have hput {u : State} (hu : Booted s u) (im : Option Image) :
      Booted s (match im with | some i => u.putCode n i.blobAt i.blob | none => u) := by
    split
    · exact booted_putCode hu ..
    · exact hu
  unfold State.huskSwitch
  dsimp only
  split
  · exact h
  · exact booted_switched (hput (hput h _) _) n _

theorem booted_boundary (n : Nat) : Booted s (t.boundary n) := by
  unfold State.boundary
  rw [if_pos (by rw [h.ham]; rfl)]
  exact booted_huskSwitch h n

theorem booted_idleBoundary : Booted s t.idleBoundary := by
  refine List.foldlRecOn _ _ h fun u hu n _ => ?_
  split
  · exact booted_boundary hu n
  · exact hu

theorem booted_activateSet (vendor owner : Option Image) : Booted s (t.activateSet vendor owner) :=
  booted_idleBoundary ⟨h.low, h.tags, h.cores, h.jobs, h.ham, h.ownerKey, h.ownerCtr, h.up⟩

end

/-- The state the boot ROM starts from (R493, R513). -/
def State.powered (s : State) : State := { State.reset with
  tick := s.tick, turns := s.turns
  sec := { vendorCtr := s.sec.vendorCtr, ownerCtr := s.sec.ownerCtr, ownerKey := s.sec.ownerKey }
  host := { out := s.host.out } }

theorem booted_powered (s : State) : Booted s s.powered :=
  ⟨fun _ _ => rfl, rfl, fun n => ⟨(State.reset.getC n).husk, rfl⟩, rfl, rfl, rfl, rfl, rfl⟩

/-- That state after the firmware has activated the vendor image of the flash, where it may. -/
def State.flashed (s : State) : State :=
  let b := Config.flashImage 1 Config.flashVendorGen
  if Config.flashVendorGen ≠ 0 ∧ b ≠ [] ∧ byteAt b 6 = 1 ∧ s.powered.imageStatus b = 0 then
    ({ s.powered with sec := { s.powered.sec with vendorCtr := field b 12 2 } }).activateSet (some (imageOf b)) none
  else s.powered

theorem booted_flashed (s : State) : Booted s s.flashed := by
  have h := booted_powered s
  have hctr (x : Nat) : Booted s { s.powered with sec := { s.powered.sec with vendorCtr := x } } :=
    ⟨h.low, h.tags, h.cores, h.jobs, h.ham, h.ownerKey, h.ownerCtr, h.up⟩
  unfold State.flashed
  dsimp only
  split
  · exact booted_activateSet (hctr _) _ _
  · exact h

theorem execPowerGood_eq (s : State) : execPowerGood s = .next
    (match if Config.firmwareOk 0 then some 0 else if Config.firmwareOk 1 then some 1 else none with
    | none => { s.powered with host := { s.powered.host with down := true, recovery := Config.recoveryCode, bootSlot := s.powered.pick 0x680 8 } }
    | some k => { s.flashed with host := { s.flashed.host with ready := true, bootSlot := k } }) := rfl

theorem powerGood_gives (s : State) :
    ∃ t, Claim.gives .powerGood s t ∧ (∀ a, a < istoreBase → readByte t.mem a = readByte [] a) ∧ t.tags = [] ∧
    (∀ n, ∃ h, t.getC n = { State.reset.getC n with husk := h }) ∧ t.jobs = State.reset.jobs ∧ t.ham = State.reset.ham ∧
    t.sec.ownerKey = s.sec.ownerKey ∧ t.sec.ownerCtr = s.sec.ownerCtr ∧ t.host.ready = !t.host.down := by
  refine ⟨_, execPowerGood_eq s, ?_⟩
  split
  · have h := booted_powered s
    exact ⟨h.low, h.tags, h.cores, h.jobs, h.ham, h.ownerKey, h.ownerCtr, rfl⟩
  · have h := booted_flashed s
    exact ⟨h.low, h.tags, h.cores, h.jobs, h.ham, h.ownerKey, h.ownerCtr, (congrArg (!·) h.up).symm⟩

/-! ## The other steps of the outside world -/

section
variable {s : State}

theorem parkedActivityTimeout_gives {act : Nat} {p : Parked} (hp : mfind s.host.parked act = some p)
    (hdl : p.at' + (s.getX p.ctx).ccb.secondDl < s.cycle) : Claim.gives (.parkedActivityTimeout act) s (s.settleAct act p 3) := by
  change Host.Outcome.next (match mfind s.host.parked act with | some p => _ | none => s) = _
  rw [hp]
  exact congrArg Host.Outcome.next (if_pos hdl)

theorem dutyRecordRepeat_gives {act : Nat} {p : Parked} (hp : mfind s.host.parked act = some p) (hdue : p.sentAt + 4000000 ≤ s.cycle)
    (hst : s.standing act p = true) : Claim.gives (.dutyRecordRepeat act) s
      (({ s with host := { s.host with parked := mset s.host.parked act { p with sentAt := s.cycle } } }).tell 0x41 p.ctx (p.body act)) := by
  change Host.Outcome.next (match mfind s.host.parked act with | some p => _ | none => s) = _
  rw [hp]
  exact congrArg Host.Outcome.next (if_pos ⟨hdue, hst⟩)

theorem smbusAccess_gives {reg : BitVec 16} (hlo : 0x100 ≤ reg.toNat) (hhi : reg.toNat < 0x180) (x : Word) :
    Claim.gives (.smbusAccess true reg x none) s (s.mgmtWrite reg.toNat x) ∧
      Claim.gives (.smbusAccess false reg x none) s (s.send (.smbus (s.mgmtRead reg.toNat))) := by
  have hk : mgmtKnown reg = true := by simp [mgmtKnown, hlo, hhi]
  refine ⟨congrArg Host.Outcome.next (if_pos hk), ?_⟩
  change Host.Outcome.next (s.send (.smbus (if mgmtKnown reg = true then s.mgmtRead reg.toNat else 0))) = _
  rw [if_pos hk]

theorem jtagUnlock_gives (token key sig : List Byte) : let good := sha512 key = sha512 Config.vendorKey ∧ ecdsaOk key token sig = true
    (good → Claim.gives (.jtagUnlock token key sig) s { s with host := { s.host with jtag := true } }) ∧
    (¬ good → Claim.gives (.jtagUnlock token key sig) s s) :=
  ⟨fun h => congrArg Host.Outcome.next (if_pos h), fun h => congrArg Host.Outcome.next (if_neg h)⟩

theorem atTemp_iff {n : Nat} : s.atTemp n = true ↔ ∃ i < 5, n ≤ (s.mgmtRead 0x101).toNat / 256 ^ i % 256 := by
  simp [State.atTemp]

theorem thermalTrip_gives :
    (s.atTemp 115 = true → Claim.gives .thermalTrip s (({ s with host := { s.host with tripped := true } }).notice 0xFF [2])) ∧
    (¬ s.atTemp 115 = true → Claim.gives .thermalTrip s s) :=
  ⟨fun h => congrArg Host.Outcome.next (if_pos h), fun h => congrArg Host.Outcome.next (if_neg h)⟩

theorem eccError_stack {addr n g : Nat} {y : SLine} (h : s.stackPlace addr = some (n, g, y)) : Claim.gives (.eccError addr true) s
    (({ s with host := { s.host with eccu := satInc s.host.eccu } }).updC n
      (fun c => { c with stack := mset c.stack g { y with bad := true } })) := by
  change execEccError addr true s = _
  unfold execEccError
  rw [h]
  simp

theorem eccError_array {addr : Nat} (hk : arrayKey addr = true) (h : s.stackPlace addr = none) :
    Claim.gives (.eccError addr true) s { s with poison := nins (addr / 16) s.poison, host := { s.host with eccu := satInc s.host.eccu } } ∧
      Claim.gives (.eccError addr false) s { s with host := { s.host with eccc := satInc s.host.eccc } } := by
  change execEccError addr true s = _ ∧ execEccError addr false s = _
  unfold execEccError
  rw [h, hk]
  simp

end

/-- Settles O48: what each step of the outside world gives; power-up by what every switch to the flash's husk set keeps (`Booted`). -/
theorem outsideWorld : Obligations.OutsideWorld := by
  intro s act addr p reg x ids token key sig wr
  refine ⟨fun hp => ⟨parkedActivityTimeout_gives hp, fun hdue hst => ⟨_, dutyRecordRepeat_gives hp hdue hst⟩⟩,
    fun hlo hhi => smbusAccess_gives hlo hhi x,
    rfl, jtagUnlock_gives token key sig, powerGood_gives s, ⟨_, rfl, rfl, rfl, rfl, rfl⟩, ⟨fun h => ?_, fun h => ?_⟩,
    fun n g y => eccError_stack, eccError_array⟩
  · exact ⟨_, thermalTrip_gives.1 (atTemp_iff.2 h)⟩
  · exact thermalTrip_gives.2 fun ht => h (atTemp_iff.1 ht)

/-- Settles O54: nothing is listed. -/
theorem resetMemory : Obligations.ResetMemory := rfl

end Sys2Proof.Machine
end

section
/-!
(O55) The canonical form of memory under the accesses of a core: state updates, capability checks, loads, stores, the store queue and the
stack cache. From here on, one lemma for each function of the model: `memOk_f` for a state it gives, `keeps_f` for an effect.
-/
namespace Sys2Proof.Machine

open Safety

-- Sequential: of proofs that run side by side, each that waits for another holds a thread.
set_option Elab.async false

/-- An outcome whose next state, if it has one, holds memory in its canonical form. -/
structure NextOk (o : Host.Outcome State Fault Refusal) : Prop where
  next : ∀ {t}, o = .next t → MemOk t

theorem nextOk_next {t : State} (h : MemOk t) : NextOk (.next t) := ⟨fun e => by cases e; exact h⟩

/-- A step that is taken only where a test passes, before what follows in both cases. -/
theorem keeps_guard {P : State → Prop} {ε β : Type} {c : Prop} [Decidable c] {m : ExceptT ε (StateM State) PUnit}
    {k : ExceptT ε (StateM State) β} (hm : Keeps P m) (hk : Keeps P k) : Keeps P (if c then do m; k else k) :=
  keeps_ite (keeps_bind hm fun _ => hk) hk

/-- One of two steps, before what follows in both cases. -/
theorem keeps_choice {P : State → Prop} {ε α β : Type} {c : Prop} [Decidable c] {m n : ExceptT ε (StateM State) α}
    {k : α → ExceptT ε (StateM State) β} (hm : Keeps P m) (hn : Keeps P n) (hk : ∀ a, Keeps P (k a)) :
    Keeps P (if c then m >>= k else n >>= k) := keeps_ite (keeps_bind hm hk) (keeps_bind hn hk)

theorem keeps_forIn {P : State → Prop} {ε α β : Type} {f : α → β → ExceptT ε (StateM State) (ForInStep β)}
    (hf : ∀ a b, Keeps P (f a b)) (xs : List α) (b : β) : Keeps P (forIn xs b f) := by
  induction xs generalizing b with
  | nil => exact keeps_pure _
  | cons x xs ih =>
    rw [List.forIn_cons]
    refine keeps_bind (hf x b) fun r => ?_
    cases r with
    | done b => exact keeps_pure _
    | yield b => exact ih b

theorem memOk_setC {s : State} (n : Nat) (c : Core) (h : MemOk s) : MemOk (s.setC n c) := h

theorem memOk_upd {s : State} (f : Core → Core) (h : MemOk s) : MemOk (s.upd f) := by
  unfold State.upd
  grind [memOk_setC]

theorem memOk_updC {s : State} (n : Nat) (f : Core → Core) (h : MemOk s) : MemOk (s.updC n f) := h

theorem memOk_updM {s : State} (n : Nat) (f : Me → Me) (h : MemOk s) : MemOk (s.updM n f) := by
  unfold State.updM
  grind [memOk_mk]

theorem memOk_updT {s : State} (t : Nat) (f : Task → Task) (h : MemOk s) : MemOk (s.updT t f) := by
  unfold State.updT
  grind [memOk_mk]

theorem memOk_updL {s : State} (l : Nat) (f : Launch → Launch) (h : MemOk s) : MemOk (s.updL l f) := by
  unfold State.updL
  grind [memOk_mk]

theorem memOk_wrG {s : State} (r : GReg) (x : TReg) (lat : Nat) (h : MemOk s) : MemOk (s.wrG r x lat) := by
  unfold State.wrG
  grind [memOk_upd]

theorem memOk_wrI {s : State} (r : GReg) (x : Word) (lat : Nat) (h : MemOk s) : MemOk (s.wrI r x lat) := by
  unfold State.wrI
  grind [memOk_wrG]

theorem memOk_wrV {s : State} (r : VReg) (x : Vec) (lat : Nat) (h : MemOk s) : MemOk (s.wrV r x lat) := by
  unfold State.wrV
  grind [memOk_upd]

theorem memOk_wrK {s : State} (r : KReg) (x : Mask) (lat : Nat) (h : MemOk s) : MemOk (s.wrK r x lat) := by
  unfold State.wrK
  grind [memOk_upd]

theorem keeps_raise {α : Type} (c : Cause) (einfo : Nat) : Keeps MemOk (raise c einfo : M α) := keeps_throw _
theorem keeps_raiseIf (b : Bool) (c : Cause) (einfo : Nat) : Keeps MemOk (raiseIf b c einfo) := keeps_ite (keeps_raise c einfo) (keeps_pure _)
theorem keeps_holdOn {α : Type} (w : Wait) : Keeps MemOk (holdOn w : M α) := keeps_throw _
theorem keeps_holdIf (b : Bool) (w : Wait) : Keeps MemOk (holdIf b w) := keeps_ite (keeps_holdOn w) (keeps_pure _)

theorem memOk_reportDrops {s : State} (h : MemOk s) : MemOk (s.reportDrops) := by
  unfold State.reportDrops
  grind [memOk_foldl, calm_noticeDrops calm_memOk]

theorem memOk_block {s : State} (salt : Nat) (h : MemOk s) : MemOk (s.block salt) := by
  unfold State.block
  grind [memOk_upd]

theorem memOk_idleCycle {s : State} (h : MemOk s) : MemOk (s.idleCycle) := by
  unfold State.idleCycle
  grind [memOk_mk]

theorem memOk_applyDeposit {s : State} (core port : Nat) (x : Word) (h : MemOk s) : MemOk (s.applyDeposit core port x) := by
  unfold State.applyDeposit
  grind [memOk_idleCycle, memOk_updC]

theorem memOk_sendAmo {s : State} (ctx : Nat) (w : Window) (ra op : Nat) (arg cmp old : Word) (h : MemOk s) :
    MemOk (s.sendAmo ctx w ra op arg cmp old) := by
  unfold State.sendAmo
  grind [calm_chargeEth calm_memOk, calm_send calm_memOk]

theorem memOk_hostAmo {s t : State} {ctx pa op : Nat} {arg cmp old : Word} (hr : s.hostAmo ctx pa op arg cmp = some (old, t)) (h : MemOk s) :
    MemOk t := by
  unfold State.hostAmo at hr
  grind [memOk_sendAmo]

theorem memOk_writeBack {s : State} (ctx : Nat) (l : SLine) (h : MemOk s) : MemOk (s.writeBack ctx l) := by
  unfold State.writeBack
  grind [calm_hostStore calm_memOk, calm_perform calm_memOk]

theorem memOk_flushStack {s : State} (n : Nat) (h : MemOk s) : MemOk (s.flushStack n) := by
  unfold State.flushStack
  grind [memOk_foldl, memOk_writeBack, memOk_updC]

theorem memOk_spillOne {s : State} (n : Nat) (h : MemOk s) : MemOk (s.spillOne n) := by
  unfold State.spillOne
  grind [memOk_foldl, memOk_writeBack, memOk_updC]

theorem memOk_putLine {s : State} (n g : Nat) (l : SLine) (h : MemOk s) : MemOk (s.putLine n g l) := by
  unfold State.putLine
  grind [memOk_spillOne, memOk_updC]

theorem memOk_arrive {s : State} (n j i : Nat) (h : MemOk s) : MemOk (s.arrive n j i) := by
  unfold State.arrive
  grind [memOk_setC]

theorem memOk_arriveLoad {s : State} (n j : Nat) (h : MemOk s) : MemOk (s.arriveLoad n j) := by
  unfold State.arriveLoad
  grind [memOk_foldl, memOk_arrive]

theorem memOk_arriveWhere {s : State} (n : Nat) (p : Load → Bool) (h : MemOk s) : MemOk (s.arriveWhere n p) := by
  unfold State.arriveWhere
  grind [memOk_foldl, memOk_arriveLoad]

theorem memOk_arriveBytes {s : State} (n seq : Nat) (p : Nat → Bool) (h : MemOk s) : MemOk (s.arriveBytes n seq p) := by
  unfold State.arriveBytes
  grind [memOk_arriveWhere]

theorem memOk_performEntry {s : State} (n : Nat) (e : SqEntry) (h : MemOk s) : MemOk (s.performEntry n e) := by
  unfold State.performEntry
  grind [memOk_foldl, memOk_applyDeposit, memOk_arriveBytes, calm_hostStore calm_memOk, calm_amoAt calm_memOk, calm_perform calm_memOk,
    calm_remoteRecord calm_memOk, memOk_sendAmo, memOk_updC]

theorem memOk_drain {s : State} (n i : Nat) (h : MemOk s) : MemOk (s.drain n i) := by
  unfold State.drain
  grind [memOk_performEntry, memOk_updC]

theorem memOk_drainHead {s : State} (n : Nat) (h : MemOk s) : MemOk (s.drainHead n) := by
  unfold State.drainHead
  grind [memOk_arriveBytes, memOk_drain]

theorem memOk_drainAll {s : State} (n : Nat) (h : MemOk s) : MemOk (s.drainAll n) := by
  unfold State.drainAll
  grind [memOk_foldl, memOk_drainHead]

theorem memOk_drainUpTo {s : State} (n : Nat) (p : SqEntry → Bool) (h : MemOk s) : MemOk (s.drainUpTo n p) := by
  unfold State.drainUpTo
  grind [memOk_foldl, memOk_drainHead]

theorem memOk_enqueue {s : State} (op : SqOp) (home : Home) (h : MemOk s) : MemOk (s.enqueue op home) := by
  unfold State.enqueue
  grind [memOk_upd, memOk_drainHead]

theorem keeps_act {f : State → State} (hf : ∀ s, MemOk s → MemOk (f s)) : Keeps MemOk (act f) := keeps_modify hf
theorem keeps_ask {α : Type} (f : State → α) : Keeps MemOk (ask f) := keeps_bind keeps_get fun _ => keeps_pure _

theorem memOk_releaseAt {s : State} (n : Nat) (sc : Scope) (h : MemOk s) : MemOk (s.releaseAt n sc) := by
  unfold State.releaseAt
  grind [memOk_arriveBytes, memOk_drainUpTo]

theorem memOk_acquireAt {s : State} (n : Nat) (sc : Scope) (h : MemOk s) : MemOk (s.acquireAt n sc) := by
  unfold State.acquireAt
  grind [memOk_arriveBytes]

theorem keeps_inOrder (home : Home) : Keeps MemOk (inOrder home) := by
  unfold inOrder
  grind [keeps_modify, keeps_get, keeps_bind, keeps_holdIf, memOk_drainUpTo]

theorem memOk_grantInMem {s : State} (places : List TlbPlace) (ctx gid : Nat) (h : MemOk s) : MemOk (s.grantInMem places ctx gid).2 := by
  have hx := calm_xlate calm_memOk places ctx ((s.getX ctx).grantVa gid) { r := true } h
  rw [State.grantInMem]
  split <;> rename_i heq <;> rw [heq] at hx
  · exact hx
  split
  · exact hx
  split
  · exact calm_physRead calm_memOk ‹_› hx
  · exact hx

theorem keeps_grantEntry (gid : Nat) : Keeps MemOk (grantEntry gid) := by
  unfold grantEntry
  grind [keeps_pure, keeps_get_bind, keeps_get, keeps_bind, keeps_set, memOk_upd, memOk_grantInMem, keeps_raise, memOk_block]

theorem keeps_capLive (c : TReg) (ea : Nat) : Keeps MemOk (capLive c ea) := by
  unfold capLive
  grind [keeps_pure, keeps_get_bind, keeps_get, keeps_bind, keeps_raiseIf, keeps_grantEntry]

theorem keeps_capcheck (c : TReg) (ea size : Nat) (need : BitVec 12) : Keeps MemOk (capcheck c ea size need) := by
  unfold capcheck
  grind [keeps_pure, keeps_bind, keeps_raiseIf, keeps_capLive]

theorem keeps_stepLocal (ea : Nat) : Keeps MemOk (stepLocal ea) := by
  unfold stepLocal
  grind [keeps_get, keeps_bind, keeps_raiseIf]

theorem keeps_stepLocalPost : Keeps MemOk stepLocalPost := by
  unfold stepLocalPost
  grind [keeps_get, keeps_bind, keeps_raiseIf]

theorem keeps_locateM (a : Acc) (ea size : Nat) : Keeps MemOk (locateM a ea size) := by
  unfold locateM
  grind [keeps_pure, keeps_get_bind, keeps_get, keeps_bind, keeps_set, calm_locate calm_memOk, keeps_raise]

theorem keeps_accessOr (odd : Bool) (c : TReg) (ea size : Nat) (need : BitVec 12) (a : Acc) : Keeps MemOk (accessOr odd c ea size need a) := by
  unfold accessOr
  grind [keeps_pure, keeps_bind, keeps_locateM, keeps_raiseIf, keeps_stepLocal, keeps_capcheck]

theorem keeps_access (c : TReg) (ea size : Nat) (need : BitVec 12) (a : Acc) : Keeps MemOk (access c ea size need a) := by
  unfold access
  grind [keeps_accessOr]

theorem memOk_fillGranule {s : State} (key g : Nat) (h : MemOk s) : MemOk (s.fillGranule key g) := by
  unfold State.fillGranule
  grind [memOk_putLine, calm_sendRead calm_memOk]

theorem memOk_fillLine {s : State} (l : Loc) (ea : Nat) (h : MemOk s) : MemOk (s.fillLine l ea) := by
  unfold State.fillLine
  grind [memOk_foldl, memOk_block, memOk_drainUpTo, memOk_fillGranule]

theorem keeps_stackLook (l : Loc) (ea : Nat) : Keeps MemOk (stackLook l ea) := by
  unfold stackLook
  grind [keeps_pure, keeps_modify, keeps_get_bind, keeps_get, keeps_bind, memOk_fillLine, keeps_raise]

theorem keeps_stackGranule (l : Loc) (ea : Nat) : Keeps MemOk (stackGranule l ea) := by
  unfold stackGranule
  grind [keeps_pure, keeps_bind, keeps_stackLook, keeps_raise]

theorem memOk_stackStore {s : State} (l : Loc) (ea : Nat) (bs : List Byte) (tag : Bool) (h : MemOk s) : MemOk (s.stackStore l ea bs tag) := by
  unfold State.stackStore
  grind [memOk_fillLine, calm_mcheckRecord calm_memOk, memOk_putLine, calm_remoteRecord calm_memOk]

theorem memOk_flushAmo {s : State} (key size : Nat) (h : MemOk s) : MemOk (s.flushAmo key size) := by
  unfold State.flushAmo
  grind [memOk_drainUpTo]

theorem keeps_amoFirst (key size : Nat) : Keeps MemOk (amoFirst key size) := by
  unfold amoFirst
  grind [keeps_modify, keeps_get, keeps_bind, keeps_holdIf, memOk_flushAmo]

theorem keeps_loadBytes (l : Loc) (ea size : Nat) : Keeps MemOk (loadBytes l ea size) := by
  unfold loadBytes
  grind [keeps_pure, keeps_get_bind, keeps_get, keeps_bind, keeps_set, keeps_raiseIf, keeps_holdIf, keeps_stackGranule, keeps_amoFirst,
    calm_sendRead calm_memOk, memOk_block]

theorem keeps_roomFor (n : Nat) : Keeps MemOk (roomFor n) := by
  unfold roomFor
  grind [keeps_modify, keeps_get, memOk_foldl, keeps_bind, keeps_holdIf, memOk_drainHead]

theorem keeps_storeBytes (l : Loc) (ea : Nat) (bs : List Byte) (tag : Bool) : Keeps MemOk (storeBytes l ea bs tag) := by
  unfold storeBytes
  grind [keeps_modify, keeps_get_bind, keeps_get, keeps_bind, keeps_roomFor, memOk_enqueue, memOk_stackStore, keeps_holdIf]

theorem keeps_storeParts (ea : Nat) (bs : List Byte) : Keeps MemOk (storeParts ea bs) := by
  unfold storeParts
  grind [keeps_bind, keeps_forM, keeps_locateM, keeps_storeBytes]

theorem keeps_storeRecord (ea : Nat) (bs : List Byte) : Keeps MemOk (storeRecord ea bs) := by
  unfold storeRecord
  grind [keeps_bind, keeps_forM, keeps_locateM, keeps_storeBytes]

end Sys2Proof.Machine
end

section
/-!
(O55) The canonical form of memory under barriers, matrix engines, weaves, launches and record queues.
-/
namespace Sys2Proof.Machine

open Safety

-- Sequential: of proofs that run side by side, each that waits for another holds a thread.
set_option Elab.async false

theorem memOk_deliverRelease {s : State} (tid dom : Nat) (h : MemOk s) : MemOk (s.deliverRelease tid dom) := by
  unfold State.deliverRelease
  grind [memOk_foldl, memOk_updT, memOk_updC]

theorem memOk_testStep {s : State} (tid dom : Nat) (h : MemOk s) : MemOk (s.testStep tid dom) := by
  unfold State.testStep
  grind [memOk_updT]

theorem memOk_stepLanded {s : State} (core n : Nat) (h : MemOk s) : MemOk (s.stepLanded core n) := by
  unfold State.stepLanded
  grind [memOk_updT, memOk_testStep, calm_faultRecord calm_memOk]

theorem memOk_markReady {s : State} (me : Nat) (h : MemOk s) : MemOk (s.markReady me) := by
  unfold State.markReady
  grind [memOk_updM]

theorem memOk_updEntry {s : State} (me id : Nat) (f : MeEntry → MeEntry) (h : MemOk s) : MemOk (s.updEntry me id f) := by
  unfold State.updEntry
  grind [memOk_updM]

theorem memOk_leaveGang {s : State} (id : Nat) (h : MemOk s) : MemOk (s.leaveGang id) := by
  unfold State.leaveGang
  grind [memOk_mk]

theorem memOk_freeEntry {s : State} (me id : Nat) (h : MemOk s) : MemOk (s.freeEntry me id) := by
  unfold State.freeEntry
  grind [memOk_updM, memOk_leaveGang, memOk_updC]

theorem memOk_meFail {s : State} (me : Nat) (e : MeEntry) (f : MeFail) (count : Nat) (h : MemOk s) : MemOk (s.meFail me e f count) := by
  unfold State.meFail
  grind [memOk_foldl, memOk_freeEntry, memOk_markReady, memOk_updC]

theorem memOk_mePlace {s : State} (me : Nat) (e : MeEntry) (addr n : Nat) (a : Acc) (h : MemOk s) : MemOk (s.mePlace me e addr n a).2 := by
  unfold State.mePlace
  grind [calm_locate calm_memOk, calm_xlate calm_memOk]

theorem memOk_mePart {s : State} (me : Nat) (e : MeEntry) (addr n : Nat) (h : MemOk s) : MemOk (s.mePart me e addr n).2 := by
  unfold State.mePart
  grind [memOk_mePlace, calm_physRead calm_memOk]

theorem memOk_meRead {s : State} (me : Nat) (e : MeEntry) (addr n : Nat) (h : MemOk s) : MemOk (s.meRead me e addr n).2 := by
  unfold State.meRead
  grind [memOk_mePart]

theorem memOk_meWritePart {s : State} (me : Nat) (e : MeEntry) (addr : Nat) (bs : List Byte) (h : MemOk s) :
    MemOk (s.meWritePart me e addr bs).2 := by
  unfold State.meWritePart
  grind [calm_hostStore calm_memOk, calm_writeAt calm_memOk, memOk_mePlace]

theorem memOk_meWrite {s : State} (me : Nat) (e : MeEntry) (addr : Nat) (bs : List Byte) (h : MemOk s) : MemOk (s.meWrite me e addr bs).2 := by
  unfold State.meWrite
  grind [memOk_meWritePart]

theorem memOk_meReads {s : State} (me : Nat) (e : MeEntry) (ps : List (Nat × Nat)) (h : MemOk s) : MemOk (s.meReads me e ps).2 := by
  induction ps generalizing s with
  | nil => exact h
  | cons p r ih =>
    unfold State.meReads
    grind [memOk_meRead]

theorem memOk_putTile {s : State} (me : Nat) (e : MeEntry) (off : Nat) (bs : List Byte) (h : MemOk s) : MemOk (s.putTile me e off bs) := by
  unfold State.putTile
  grind [calm_perform calm_memOk]

theorem memOk_readGroup {s : State} (me : Nat) (lead e : MeEntry) (g : Nat) (h : MemOk s) : MemOk (s.readGroup me lead e g).2 := by
  unfold State.readGroup
  grind [memOk_meReads]

theorem memOk_readGroups {s : State} (me : Nat) (lead e : MeEntry) (gs : List Nat) (h : MemOk s) : MemOk (s.readGroups me lead e gs).2.2 := by
  induction gs generalizing s with
  | nil => exact h
  | cons g r ih =>
    unfold State.readGroups
    grind [memOk_readGroup]

theorem memOk_readOps {s : State} (me : Nat) (lead e : MeEntry) (h : MemOk s) : MemOk (s.readOps me lead e) := by
  unfold State.readOps
  grind [memOk_updEntry, memOk_readGroups]

theorem memOk_passTile {s : State} (me : Nat) (lead e : MeEntry) (h : MemOk s) : MemOk (s.passTile me lead e).2 := by
  unfold State.passTile
  grind [memOk_putTile]

theorem memOk_rankTile {s : State} (me : Nat) (lead e : MeEntry) (h : MemOk s) : MemOk (s.rankTile me lead e).2 := by
  unfold State.rankTile
  grind [memOk_foldl, memOk_putTile]

theorem memOk_capNow {s : State} (places : List TlbPlace) (ctx : Nat) (c : TReg) (ea size : Nat) (need : BitVec 12) (h : MemOk s) :
    MemOk (s.capNow places ctx c ea size need).2 := by
  have hg := memOk_grantInMem places ctx (capGid c) h
  unfold State.capNow
  split
  · exact h
  split <;> rename_i heq <;> rw [heq] at hg <;> exact hg

theorem memOk_readListEntry {s : State} (me : Nat) (e : MeEntry) (n : Nat) (h : MemOk s) : MemOk (s.readListEntry me e n).2.2 := by
  unfold State.readListEntry
  grind [memOk_capNow, memOk_meRead]

theorem memOk_listCheck {s : State} (me : Nat) (e : MeEntry) (h : MemOk s) : MemOk (s.listCheck me e).2 := by
  unfold State.listCheck
  grind [memOk_capNow]

theorem memOk_listArrive {s : State} (me : Nat) (e : MeEntry) (h : MemOk s) : MemOk (s.listArrive me e).2 := by
  unfold State.listArrive
  grind [calm_setBar calm_memOk, calm_faultRecord calm_memOk, calm_breakBar calm_memOk, calm_testBar calm_memOk]

theorem memOk_startEntry {s : State} (me : Nat) (lead e : MeEntry) (now : Bool) (h : MemOk s) : MemOk (s.startEntry me lead e now) := by
  unfold State.startEntry
  grind [memOk_readListEntry, memOk_readOps, memOk_updM, memOk_updEntry]

theorem memOk_skipEntry {s : State} (me : Nat) (e : MeEntry) (h : MemOk s) : MemOk (s.skipEntry me e) := by
  unfold State.skipEntry
  grind [memOk_updM, memOk_freeEntry, memOk_markReady]

theorem memOk_grantEntryMe {s : State} (me : Nat) (e : MeEntry) (h : MemOk s) : MemOk (s.grantEntryMe me e) := by
  unfold State.grantEntryMe
  grind [memOk_meFail, memOk_startEntry, memOk_skipEntry, memOk_listCheck]

theorem memOk_meFlags {s : State} (e : MeEntry) (fl : FFlags) (h : MemOk s) : MemOk (s.meFlags e fl) := by
  unfold State.meFlags
  grind [memOk_updC]

theorem memOk_ldcRows {s : State} (me : Nat) (e : MeEntry) (addr : Nat) (rows : List Nat) (h : MemOk s) : MemOk (s.ldcRows me e addr rows).2.2 := by
  induction rows generalizing s with
  | nil => exact h
  | cons i r ih =>
    unfold State.ldcRows
    dsimp only
    split
    all_goals grind [memOk_meRead, memOk_putTile]

theorem memOk_stcRows {s : State} (me : Nat) (e : MeEntry) (addr : Nat) (seq : BitVec 32) (rows : List Nat) (h : MemOk s) :
    MemOk (s.stcRows me e addr seq rows).2.2 := by
  induction rows generalizing s with
  | nil => exact h
  | cons i r ih =>
    unfold State.stcRows
    dsimp only
    split
    all_goals grind [memOk_meWrite]

theorem memOk_countDone {s : State} (me ctx : Nat) (h : MemOk s) : MemOk (s.countDone me ctx) := by
  unfold State.countDone
  grind [memOk_updM]

theorem memOk_finishPass {s : State} (me : Nat) (lead e : MeEntry) (rank : Bool) (h : MemOk s) : MemOk (s.finishPass me lead e rank).2 := by
  unfold State.finishPass
  grind [memOk_rankTile, memOk_passTile]

theorem memOk_completeEntry {s : State} (me : Nat) (e : MeEntry) (h : MemOk s) : MemOk (s.completeEntry me e) := by
  unfold State.completeEntry
  grind [memOk_foldl, memOk_ldcRows, memOk_finishPass, memOk_countDone, memOk_readOps, memOk_meFail, memOk_updEntry, memOk_putTile,
    memOk_freeEntry, memOk_stcRows, memOk_listArrive, memOk_markReady, memOk_meFlags]

theorem memOk_gangPost {s : State} (me id : Nat) (h : MemOk s) : MemOk (s.gangPost me id) := by
  unfold State.gangPost
  grind [memOk_mk, memOk_foldl, memOk_meFail, memOk_updEntry]

theorem memOk_startGang {s : State} (g : Gang) (h : MemOk s) : MemOk (s.startGang g) := by
  unfold State.startGang
  grind [memOk_mk, memOk_foldl, memOk_meFail, memOk_updM, memOk_updEntry, memOk_startEntry, memOk_skipEntry]

theorem memOk_gangStep {s : State} (cluster : Nat) (h : MemOk s) : MemOk (s.gangStep cluster) := by
  unfold State.gangStep
  grind [memOk_foldl, memOk_startGang, memOk_updM]

theorem memOk_unfollow {s : State} (q : Nat) (h : MemOk s) : MemOk (s.unfollow q) := by
  unfold State.unfollow
  grind [memOk_updC]

theorem memOk_detach {s : State} (q : Nat) (h : MemOk s) : MemOk (s.detach q) := by
  unfold State.detach
  grind [memOk_unfollow, memOk_updC]

theorem memOk_dissolve {s : State} (q : Nat) (h : MemOk s) : MemOk (s.dissolve q) := by
  unfold State.dissolve
  grind [memOk_unfollow, memOk_updC]

theorem memOk_publish {s : State} (p : Nat) (it : Item) (h : MemOk s) : MemOk (s.publish p it) := by
  unfold State.publish
  grind [memOk_foldl, memOk_updC]

theorem memOk_join {s : State} (p : Nat) (r : Reg) (h : MemOk s) : MemOk (s.join p r) := by
  unfold State.join
  grind [memOk_updC]

theorem memOk_joinAll {s : State} (p : Nat) (tag : BitVec 4) (h : MemOk s) : MemOk (s.joinAll p tag) := by
  unfold State.joinAll
  grind [memOk_foldl, memOk_join]

theorem memOk_arriveReg {s : State} (q : Nat) (h : MemOk s) : MemOk (s.arriveReg q) := by
  unfold State.arriveReg
  grind [memOk_updC]

theorem memOk_settleLaunch {s : State} (lid : Nat) (h : MemOk s) : MemOk (s.settleLaunch lid) := by
  unfold State.settleLaunch
  grind [memOk_foldl, calm_scopeFail calm_memOk, calm_scopeSub calm_memOk, memOk_updL]

theorem memOk_node {s : State} (ctx n : Nat) (h : MemOk s) : MemOk (s.node ctx n).2 := by
  unfold State.node
  grind [calm_ctxBytes calm_memOk]

theorem memOk_setNode {s : State} (ctx n : Nat) (v : Node) (h : MemOk s) : MemOk (s.setNode ctx n v) := by
  unfold State.setNode
  grind [calm_updX calm_memOk, calm_ctxWrite calm_memOk]

theorem memOk_nodeDispatch {s : State} (ctx n : Nat) (h : MemOk s) : MemOk (s.nodeDispatch ctx n) := by
  unfold State.nodeDispatch
  grind [calm_ctxBytes calm_memOk, calm_addLaunch calm_memOk, calm_badLpb calm_memOk, memOk_node, memOk_setNode]

theorem memOk_signalNode {s : State} (ctx n : Nat) (h : MemOk s) : MemOk (s.signalNode ctx n) := by
  unfold State.signalNode
  grind [memOk_nodeDispatch, memOk_node, memOk_setNode]

theorem memOk_edgeNode {s : State} (l : Launch) (e : Nat) (h : MemOk s) : MemOk (s.edgeNode l e).2 := by
  unfold State.edgeNode
  grind [calm_ctxBytes calm_memOk]

theorem memOk_cancelNode {s : State} (ctx fuel n : Nat) (h : MemOk s) : MemOk (s.cancelNode ctx fuel n) := by
  induction fuel generalizing s n with
  | zero => exact h
  | succ fuel ih =>
    have hall (bs : List Byte) {t : State} (ht : MemOk t) :
        MemOk (bs.foldl (fun s b => if b.toNat = 0xFF then s else s.cancelNode ctx fuel b.toNat) t) :=
      memOk_foldl (fun u b hu => by split; exacts [hu, ih _ hu]) bs ht
    unfold State.cancelNode
    dsimp only
    repeat' split
    all_goals grind [memOk_node, memOk_setNode, calm_ctxBytes calm_memOk]

theorem memOk_withhold {s : State} (l : Launch) (signals : SMap Word) (h : MemOk s) : MemOk (s.withhold l signals) := by
  have hstep (bs : List Byte) (t : State) (e : Nat) (ht : MemOk t) : MemOk (
      if byteAt bs e = 0xFF ∨ (mvals signals).any (·.getLsbD e) then t else t.cancelNode l.ctx 256 (byteAt bs e)) := by
    split
    · exact ht
    · exact memOk_cancelNode _ _ _ ht
  unfold State.withhold
  split
  · exact h
  split
  · grind [calm_ctxBytes calm_memOk]
  · exact memOk_foldl (hstep _) _ (by grind [calm_ctxBytes calm_memOk])

theorem memOk_releaseBlock {s : State} (k : Nat) (batch : BitVec 32) (h : MemOk s) : MemOk (s.releaseBlock k batch) := by
  unfold State.releaseBlock
  grind [calm_setQueue calm_memOk, calm_settleQueue calm_memOk, calm_updX calm_memOk]

theorem memOk_finishLaunch {s : State} (lid : Nat) (h : MemOk s) : MemOk (s.finishLaunch lid) := by
  unfold State.finishLaunch
  grind [memOk_mk, memOk_releaseBlock, memOk_settleLaunch]

theorem memOk_readPlan {s : State} (ctx : Nat) (lpb : List Byte) (h : MemOk s) : MemOk (s.readPlan ctx lpb).2 := by
  unfold State.readPlan
  grind [calm_ctxBytes calm_memOk]

theorem memOk_dispatch {s : State} (lid : Nat) (h : MemOk s) : MemOk (s.dispatch lid) := by
  unfold State.dispatch
  grind [memOk_finishLaunch, calm_scopeFail calm_memOk, calm_ctxBytes calm_memOk, memOk_updL, calm_badLpb calm_memOk, memOk_readPlan,
    calm_formatRecord calm_memOk]

end Sys2Proof.Machine
end

section
/-!
(O55) The canonical form of memory under task boundaries, traps, control flow and the shared parts of the core words.
-/
namespace Sys2Proof.Machine

open Safety

-- Sequential: of proofs that run side by side, each that waits for another holds a thread.
set_option Elab.async false

theorem memOk_putCode {s : State} (n first : Nat) (ws : List Word) (h : MemOk s) : MemOk (s.putCode n first ws) := wf_writeBytes _ _ h

theorem memOk_receiveCode {s : State} (n : Nat) (h : MemOk s) : MemOk (s.receiveCode n) := by
  unfold State.receiveCode
  grind [memOk_mk, memOk_foldl, memOk_putCode]

theorem memOk_huskSwitch {s : State} (n : Nat) (h : MemOk s) : MemOk (s.huskSwitch n) := by
  unfold State.huskSwitch
  grind [memOk_putCode, memOk_updC]

theorem memOk_boundary {s : State} (n : Nat) (h : MemOk s) : MemOk (s.boundary n) := by
  unfold State.boundary
  grind [memOk_receiveCode, memOk_huskSwitch]

theorem memOk_endPasses {s : State} (n : Nat) (h : MemOk s) : MemOk (s.endPasses n) := by
  unfold State.endPasses
  grind [memOk_foldl, memOk_completeEntry]

theorem memOk_dropEntries {s : State} (n : Nat) (h : MemOk s) : MemOk (s.dropEntries n) := by
  unfold State.dropEntries
  grind [memOk_foldl, memOk_freeEntry]

theorem memOk_cancelJobsOf {s : State} (p : Job → Bool) (h : MemOk s) : MemOk (s.cancelJobsOf p) := by
  unfold State.cancelJobsOf
  grind [memOk_foldl, calm_endJob calm_memOk]

theorem memOk_chargeCores {s : State} (ctx : Nat) (h : MemOk s) : MemOk (s.chargeCores ctx) := by
  unfold State.chargeCores
  grind [calm_updX calm_memOk]

theorem memOk_freeCore {s : State} (n : Nat) (h : MemOk s) : MemOk (s.freeCore n) := by
  have gone (t : State) (p : Host.Cell → Bool) (cores : SMap Core) (ht : MemOk t) : MemOk { t with cores := cores, mem := t.mem.filter p } :=
    wf_filter p ht
  unfold State.freeCore
  grind [memOk_foldl, memOk_chargeCores, memOk_dissolve, calm_remoteRecord calm_memOk, memOk_updC, memOk_boundary]

theorem memOk_settleTask {s : State} (tid : Nat) (h : MemOk s) : MemOk (s.settleTask tid) := by
  unfold State.settleTask
  grind [memOk_mk, memOk_finishLaunch, memOk_updL]

theorem memOk_endMember {s : State} (n : Nat) (h : MemOk s) : MemOk (s.endMember n) := by
  unfold State.endMember
  grind [memOk_updT, memOk_freeCore, memOk_settleTask]

theorem memOk_killTask {s : State} (tid : Nat) (killer : Option Nat) (cause : BitVec 8) (noRetry : Bool) (h : MemOk s) :
    MemOk (s.killTask tid killer cause noRetry) := by
  unfold State.killTask
  grind [memOk_mk, memOk_foldl, memOk_finishLaunch, memOk_endPasses, calm_scopeFail calm_memOk, memOk_drainAll, memOk_updL, memOk_withhold,
    memOk_freeCore, memOk_flushStack, memOk_cancelJobsOf, calm_faultRecord calm_memOk, memOk_dropEntries]

theorem memOk_haltCore {s : State} (n : Nat) (cause : BitVec 8) (h : MemOk s) : MemOk (s.haltCore n cause) := by
  unfold State.haltCore
  grind [memOk_drainAll, memOk_updC, calm_notice calm_memOk]

theorem memOk_killOrHalt {s : State} (n : Nat) (cause : BitVec 8) (h : MemOk s) : MemOk (s.killOrHalt n cause) := by
  unfold State.killOrHalt
  grind [memOk_haltCore, memOk_killTask]

theorem memOk_dropLaunch {s : State} (lid : Nat) (h : MemOk s) : MemOk (s.dropLaunch lid) := by
  unfold State.dropLaunch
  grind [memOk_finishLaunch, memOk_updL]

theorem memOk_cancelTask {s : State} (tid : Nat) (h : MemOk s) : MemOk (s.cancelTask tid) := by
  unfold State.cancelTask
  grind [memOk_foldl, memOk_updT, memOk_updC]

theorem memOk_dropOffers {s : State} (p : Offer → Bool) (h : MemOk s) : MemOk (s.dropOffers p) := by
  unfold State.dropOffers
  grind [memOk_mk, memOk_foldl, calm_scopeSub calm_memOk]

theorem memOk_cancelScope {s : State} (ctx n : Nat) (h : MemOk s) : MemOk (s.cancelScope ctx n) := by
  unfold State.cancelScope
  grind [memOk_foldl, memOk_cancelTask, memOk_dropLaunch, memOk_dropOffers, memOk_cancelJobsOf, calm_setScope calm_memOk]

theorem memOk_forceReset {s : State} (ctx : Nat) (h : MemOk s) : MemOk (s.forceReset ctx) := by
  unfold State.forceReset
  grind [memOk_mk, memOk_foldl, calm_reportRoot calm_memOk, memOk_cancelJobsOf, calm_updX calm_memOk, calm_setScope calm_memOk, memOk_killTask,
    calm_wakeWhere calm_memOk, calm_notice calm_memOk]

theorem memOk_awaitProducers {s : State} (h : MemOk s) : MemOk (s.awaitProducers) := by
  unfold State.awaitProducers
  grind [memOk_mk, memOk_upd]

theorem memOk_takeTrap {s : State} (e : Entry) (h : MemOk s) : MemOk (s.takeTrap e) := by
  unfold State.takeTrap
  grind [memOk_upd, memOk_killOrHalt, memOk_awaitProducers]

theorem memOk_trapNow {s : State} (t : Trap) (h : MemOk s) : MemOk (s.trapNow t) := by
  unfold State.trapNow
  grind [memOk_publish, memOk_takeTrap]

theorem memOk_trapPrecise {s : State} (t : Trap) (h : MemOk s) : MemOk (s.trapPrecise t) := by
  unfold State.trapPrecise
  grind [memOk_upd, memOk_trapNow, calm_park calm_memOk]

theorem memOk_deliver {s : State} (h : MemOk s) : MemOk (s.deliver) := by
  unfold State.deliver
  grind [memOk_upd, memOk_takeTrap]

theorem memOk_advance {s : State} (t : Nat) (h : MemOk s) : MemOk (s.advance t) := by
  unfold State.advance
  grind [memOk_mk, memOk_upd]

theorem memOk_awaitVector {s : State} (h : MemOk s) : MemOk (s.awaitVector) := by
  unfold State.awaitVector
  grind [memOk_arriveWhere, memOk_advance]

theorem memOk_publishOnce {s : State} (item : (Item → Item)) (h : MemOk s) : MemOk (s.publishOnce item) := by
  unfold State.publishOnce
  grind [memOk_upd, memOk_publish]

theorem memOk_finish {s : State} (next : Option (BitVec 12)) (taken : Bool) (item : (Item → Item)) (h : MemOk s) :
    MemOk (s.finish next taken item) := by
  unfold State.finish
  grind [memOk_upd, memOk_publish]

theorem memOk_holdAt {s : State} (w : Wait) (h : MemOk s) : MemOk (s.holdAt w) := by
  unfold State.holdAt
  grind [memOk_upd, memOk_publishOnce, memOk_deliver]

theorem memOk_finishWith {r : Except Stop Unit × State} (h : MemOk r.2) : MemOk (finishWith r) := by
  unfold finishWith
  grind [memOk_finish, memOk_trapPrecise, memOk_holdAt, memOk_deliver]

theorem keeps_raiseDecode {α : Type} (c : Cause) (einfo : Word) : Keeps MemOk (raiseDecode c einfo : M α) := keeps_throw _

theorem keeps_privileged : Keeps MemOk privileged := by
  unfold privileged
  grind [keeps_pure, keeps_get_bind, keeps_get, keeps_bind, keeps_raiseDecode]

theorem keeps_setG (d : GReg) (x : TReg) (lat : Nat) : Keeps MemOk (setG d x lat) := by
  unfold setG
  grind [keeps_modify, memOk_wrG]

theorem keeps_setI (d : GReg) (x : Word) (lat : Nat) : Keeps MemOk (setI d x lat) := by
  unfold setI
  grind [keeps_modify, memOk_wrI]

theorem memOk_branchOwn {s : State} (t : Option (BitVec 12)) (h : MemOk s) : MemOk (s.branchOwn t) := by
  unfold State.branchOwn
  grind [memOk_finish]

theorem memOk_goOwn {s : State} (t : BitVec 12) (h : MemOk s) : MemOk (s.goOwn t) := by
  unfold State.goOwn
  grind [memOk_upd, memOk_detach]

theorem memOk_leaveTo {s : State} (t : BitVec 12) (h : MemOk s) : MemOk (s.leaveTo t) := by
  unfold State.leaveTo
  grind [memOk_finish, memOk_goOwn]

theorem memOk_diverge {s : State} (it : Item) (own : BitVec 12) (h : MemOk s) : MemOk (s.diverge it own) := by
  unfold State.diverge
  grind [memOk_upd, memOk_goOwn, memOk_takeTrap]

theorem memOk_branchItem {s : State} (t : Option (BitVec 12)) (h : MemOk s) : MemOk (s.branchItem t) := by
  unfold State.branchItem
  grind [memOk_diverge, memOk_finish]

theorem memOk_jumpItem {s : State} (own : BitVec 12) (h : MemOk s) : MemOk (s.jumpItem own) := by
  unfold State.jumpItem
  grind [memOk_upd, memOk_finish]

theorem memOk_branchEnd {s : State} (t : Option (BitVec 12)) (h : MemOk s) : MemOk (s.branchEnd t) := by
  unfold State.branchEnd
  grind [memOk_branchItem, memOk_branchOwn]

theorem keeps_contribute (ws : List Nat) : Keeps MemOk (contribute ws) := by
  unfold contribute
  grind [keeps_get_bind, keeps_get, keeps_bind, keeps_set, memOk_publishOnce, memOk_updC]

theorem keeps_gathered (ws : List Nat) : Keeps MemOk (gathered ws) := by
  unfold gathered
  grind [keeps_pure, keeps_get_bind, keeps_get, keeps_bind, keeps_holdIf, keeps_contribute]

theorem keeps_gatherEnd : Keeps MemOk gatherEnd := by
  unfold gatherEnd
  grind [keeps_pure, keeps_get_bind, keeps_get, keeps_bind, keeps_holdIf]

theorem keeps_ranked (vs : List (Nat × List Nat)) : Keeps MemOk (ranked vs) := by
  unfold ranked
  grind [keeps_pure, keeps_get, keeps_bind, keeps_raiseIf]

theorem keeps_chained (ws : List Nat) : Keeps MemOk (chained ws) := by
  unfold chained
  grind [keeps_pure, keeps_get_bind, keeps_get, keeps_bind, keeps_ranked, keeps_holdIf, keeps_contribute]

theorem keeps_intTo (d : GReg) (lat : Nat) (f : State → Word) : Keeps MemOk (intTo d lat f) := by
  unfold intTo
  grind [keeps_modify, memOk_wrI]

theorem keeps_maskTo (d : KReg) (f : State → Mask) : Keeps MemOk (maskTo d f) := by
  unfold maskTo
  grind [keeps_modify, memOk_wrK]

theorem keeps_performM (sc : Scope) : Keeps MemOk (performM sc) := by
  unfold performM
  grind [keeps_modify, keeps_get, keeps_bind, keeps_holdIf, memOk_releaseAt]

theorem keeps_releaseM (sc : Scope) : Keeps MemOk (releaseM sc) := by
  unfold releaseM
  grind [keeps_get, keeps_bind, keeps_holdIf, keeps_performM]

theorem keeps_releaseOpt (n0 : Option Scope) : Keeps MemOk (releaseOpt n0) := by
  unfold releaseOpt
  grind [keeps_pure, keeps_releaseM]

theorem keeps_acquireOpt (n0 : Option Scope) : Keeps MemOk (acquireOpt n0) := by
  unfold acquireOpt
  grind [keeps_pure, keeps_modify, memOk_acquireAt]

theorem keeps_locateAt (a : Acc) (ea size : Nat) : Keeps MemOk (locateAt a ea size) := by
  unfold locateAt
  grind [keeps_locateM, keeps_raise]

theorem keeps_atomCheck (c : TReg) (ea size : Nat) (need : BitVec 12) (a : Acc) (hostOk : Bool) :
    Keeps MemOk (atomCheck c ea size need a hostOk) := by
  unfold atomCheck
  grind [keeps_pure, keeps_bind, keeps_raiseIf, keeps_stepLocal, keeps_locateAt, keeps_capcheck]

theorem memOk_atomWait {s : State} (quick : Bool) (h : MemOk s) : MemOk (s.atomWait quick) := by
  unfold State.atomWait
  grind [memOk_upd, memOk_block]

theorem keeps_atomAt (l : Loc) (ea size : Nat) (upd : Word → Option Word) (host : Nat × Word × Word) : Keeps MemOk (atomAt l ea size upd host) := by
  unfold atomAt
  refine keeps_get_bind fun s hs => keeps_ite ?_ ?_
  · grind [keeps_bind, keeps_modify, keeps_stackGranule, keeps_pure, memOk_putLine, memOk_atomWait]
  · refine keeps_bind (keeps_inOrder _) fun _ => keeps_get_bind fun s hs => keeps_ite ?_ ?_
    · grind [keeps_bind, keeps_set, memOk_hostAmo, memOk_atomWait, keeps_raise, keeps_pure]
    · grind [keeps_bind, keeps_set, keeps_raiseIf, memOk_arriveBytes, calm_writeAt calm_memOk, memOk_atomWait, keeps_pure]

theorem keeps_atomTo (d b : GReg) (size : AtSize) (order : Order) (hostOk : Bool) (upd : Word → Option Word) (host : Nat × Word × Word) :
    Keeps MemOk (atomTo d b size order hostOk upd host) := by
  unfold atomTo
  grind [keeps_get_bind, keeps_get, keeps_bind, keeps_releaseOpt, keeps_setI, keeps_acquireOpt, keeps_atomAt, keeps_atomCheck]

theorem keeps_markerOpt (n0 : Option Scope) : Keeps MemOk (markerOpt n0) := by
  unfold markerOpt
  grind [keeps_pure, keeps_modify, memOk_enqueue]

theorem memOk_link {s : State} (h : MemOk s) : MemOk (s.link) := by
  unfold State.link
  grind [memOk_wrI]

theorem keeps_enterFrame (n : Nat) : Keeps MemOk (enterFrame n) := by
  unfold enterFrame
  grind [keeps_get_bind, keeps_get, keeps_bind, keeps_raiseIf, keeps_access, keeps_storeBytes, keeps_setG]

theorem keeps_leaveFrame : Keeps MemOk leaveFrame := by
  unfold leaveFrame
  grind [keeps_get_bind, keeps_get, keeps_bind, keeps_raiseIf, keeps_access, keeps_loadBytes, keeps_setG]

theorem keeps_grantId (a : GReg) : Keeps MemOk (grantId a) := by
  unfold grantId
  grind [keeps_pure, keeps_get, keeps_bind, keeps_raiseIf]

theorem keeps_ringWordM {body : Nat → M (Option VFault)} (hb : ∀ n, Keeps MemOk (body n)) : Keeps MemOk (ringWordM body) := by
  unfold ringWordM
  refine keeps_get_bind fun s hs => ?_
  split
  · grind [keeps_bind, keeps_set, keeps_throw, keeps_modify, memOk_upd, keeps_holdOn]
  · grind [keeps_bind, keeps_set, keeps_throw, keeps_modify, memOk_upd, keeps_holdIf]

theorem keeps_raiseFlags (m : Mask) (fl : Nat → FFlags) : Keeps MemOk (raiseFlags m fl) := by
  unfold raiseFlags
  grind [keeps_pure, keeps_get_bind, keeps_get, keeps_bind, keeps_set, memOk_upd]

theorem keeps_fpVec (k : KReg) (d : VReg) (lat : Nat) (f : State → Nat → FRes) : Keeps MemOk (fpVec k d lat f) := by
  unfold fpVec
  grind [keeps_get_bind, keeps_get, keeps_bind, keeps_set, keeps_raiseFlags, memOk_wrV]

theorem keeps_wokenFrom (w : Wait) : Keeps MemOk (wokenFrom w) := by
  unfold wokenFrom
  grind [keeps_ask]

theorem keeps_waitmCheck (c : TReg) (ea size : Nat) : Keeps MemOk (waitmCheck c ea size) := by
  unfold waitmCheck
  grind [keeps_atomCheck]

theorem keeps_waitmRead (l : Loc) (ea size : Nat) : Keeps MemOk (waitmRead l ea size) := by
  unfold waitmRead
  grind [keeps_pure, keeps_modify, keeps_get_bind, keeps_get, keeps_bind, keeps_raiseIf, keeps_holdIf, keeps_loadBytes, memOk_drainUpTo]

theorem memOk_applyAsync {s : State} (core port : Nat) (h : MemOk s) : MemOk (s.applyAsync core port) := by
  unfold State.applyAsync
  grind [memOk_applyDeposit, memOk_updC]

theorem keeps_readBlock (ea n : Nat) : Keeps MemOk (readBlock ea n) := by
  unfold readBlock
  grind [keeps_pure, keeps_foldlM, keeps_bind, keeps_locateM, keeps_raiseIf, keeps_loadBytes]

theorem keeps_readOdd (ea n : Nat) : Keeps MemOk (readOdd ea n) := by
  unfold readOdd
  grind [keeps_pure, keeps_foldlM, keeps_bind, keeps_locateM, keeps_raiseIf, keeps_loadBytes]

theorem keeps_readFmt : Keeps MemOk readFmt := by
  unfold readFmt
  grind [keeps_get, keeps_bind, keeps_readBlock, keeps_stepLocal, keeps_capcheck]

theorem keeps_formatIf (x : Option Nat) (kind : Nat) : Keeps MemOk (formatIf x kind) := by
  unfold formatIf
  grind [keeps_pure, keeps_raise]

theorem keeps_operandCheck (c : TReg) (ea n : Nat) (need : BitVec 12) : Keeps MemOk (operandCheck c ea n need) := by
  unfold operandCheck
  grind [keeps_bind, keeps_stepLocal, keeps_capcheck]

theorem keeps_operandLive (c : TReg) (need : BitVec 12) : Keeps MemOk (operandLive c need) := by
  unfold operandLive
  grind [keeps_bind, keeps_raiseIf, keeps_capLive]

theorem keeps_operandBase (a : Acc) (ea n : Nat) : Keeps MemOk (operandBase a ea n) := by
  unfold operandBase
  grind [keeps_pure, keeps_get, keeps_bind, keeps_locateM, keeps_raiseIf]

theorem keeps_postEntry (me : Nat) (e : MeEntry) (codeA nibA codeB nibB : Nat) : Keeps MemOk (postEntry me e codeA nibA codeB nibB) := by
  unfold postEntry
  grind [keeps_pure, memOk_mk, keeps_get_bind, keeps_get, keeps_bind, keeps_set, memOk_upd, memOk_updM, keeps_holdIf, memOk_markReady, memOk_block]

theorem keeps_gangCores : Keeps MemOk gangCores := by
  unfold gangCores
  grind [keeps_pure, keeps_get, keeps_bind, keeps_formatIf, keeps_raiseIf]

theorem keeps_passOperands (f : List Byte) (k : Nat) (ca cb : TReg) (gang : Bool) : Keeps MemOk (passOperands f k ca cb gang) := by
  unfold passOperands
  exact keeps_choice keeps_gangCores (keeps_pure _) fun _ => keeps_bind (keeps_operandCheck ..) fun _ => keeps_guard (keeps_operandCheck ..) <|
    keeps_bind (keeps_operandCheck ..) fun _ => keeps_guard (keeps_operandCheck ..) <| keeps_bind (keeps_raiseIf ..) fun _ =>
    keeps_bind (keeps_raiseIf ..) fun _ => keeps_bind (keeps_operandBase ..) fun _ => keeps_choice (keeps_operandBase ..) (keeps_pure _) fun _ =>
    keeps_bind (keeps_operandBase ..) fun _ => keeps_choice (keeps_operandBase ..) (keeps_pure _) fun _ => keeps_pure _

theorem keeps_passPost (d a b : GReg) (gang : Bool) : Keeps MemOk (passPost d a b gang) := by
  unfold passPost
  refine keeps_bind keeps_readFmt fun f => keeps_get_bind fun s _ => keeps_bind (keeps_formatIf ..) fun _ => keeps_bind (keeps_formatIf ..) fun _ =>
    keeps_bind (keeps_passOperands ..) fun x => keeps_bind (keeps_releaseM _) fun _ => keeps_bind (keeps_postEntry ..) fun _ => ?_
  grind [keeps_bind, keeps_pure, keeps_modify, memOk_upd]

theorem memOk_joinGang {s : State} (seq : BitVec 32) (h : MemOk s) : MemOk (s.joinGang seq) := by
  unfold State.joinGang
  grind [memOk_gangPost]

theorem keeps_listLocal (f : List Byte) (ed count : Nat) : Keeps MemOk (listLocal f ed count) := by
  unfold listLocal
  grind [keeps_pure, keeps_get_bind, keeps_get, keeps_bind, keeps_forM, keeps_readBlock, keeps_stepLocal]

theorem keeps_listOperands (f : List Byte) (cd ca cb : TReg) : Keeps MemOk (listOperands f cd ca cb) := by
  unfold listOperands
  exact keeps_bind (keeps_operandCheck ..) fun _ => keeps_choice (keeps_readBlock ..) (keeps_readOdd ..) fun _ =>
    keeps_bind (keeps_formatIf ..) fun _ =>
    keeps_bind (keeps_operandCheck ..) fun _ => keeps_bind (keeps_operandLive ..) fun _ => keeps_bind (keeps_operandLive ..) fun _ =>
    keeps_bind (keeps_raiseIf ..) fun _ => keeps_bind (keeps_listLocal ..) fun _ => keeps_bind (keeps_operandBase ..) fun _ => keeps_pure _

theorem memOk_firstListEntry {s : State} (me id : Nat) (h : MemOk s) : MemOk (s.firstListEntry me id) := by
  unfold State.firstListEntry
  grind [memOk_readListEntry, memOk_updEntry, memOk_markReady]

theorem keeps_tileCheck (d b : GReg) (store : Bool) : Keeps MemOk (tileCheck d b store) := by
  unfold tileCheck
  grind [keeps_pure, keeps_get_bind, keeps_get, keeps_bind, keeps_operandCheck, keeps_formatIf, keeps_raiseIf, keeps_readFmt, keeps_operandBase]

end Sys2Proof.Machine
end

section
/-!
(O55) The canonical form of memory under cards, jobs, posts, grant writes and what a core does before a word executes.
-/
namespace Sys2Proof.Machine

open Safety

-- Sequential: of proofs that run side by side, each that waits for another holds a thread.
set_option Elab.async false

theorem memOk_grantTest {s : State} (places : List TlbPlace) (ctx : Nat) (u : GrantUse) (gen : Option (BitVec 8)) (h : MemOk s) :
    MemOk (s.grantTest places ctx u gen).2 := by
  have hg := memOk_grantInMem places ctx u.gid h
  unfold State.grantTest
  dsimp only
  split
  · exact h
  split <;> rename_i heq <;> rw [heq] at hg
  · exact hg
  repeat' split
  all_goals exact hg

theorem memOk_grantTests {s : State} (places : List TlbPlace) (ctx : Nat) (gens : List (Nat × Nat × BitVec 8)) (us : List GrantUse) (h : MemOk s) :
    MemOk (s.grantTests places ctx gens us).2 := by
  induction us generalizing s with
  | nil => exact h
  | cons u r ih =>
    unfold State.grantTests
    grind [memOk_grantTest]

theorem keeps_sfuTake : Keeps MemOk sfuTake := by
  unfold sfuTake
  grind [keeps_modify, keeps_bind, memOk_upd, memOk_advance]

theorem memOk_recordGens {s : State} (j : Job) (h : MemOk s) : MemOk (s.recordGens j).2 := by
  have hpair (r : List (Nat × Nat × BitVec 8) × State) (hr : MemOk r.2) : MemOk (({ j with grants := r.1 }, r.2) : Job × State).2 := hr
  refine hpair _ (holds_foldl (P := fun a : List (Nat × Nat × BitVec 8) × State => MemOk a.2) (fun a u ha => ?_) _ h)
  have hg := memOk_grantInMem (engPlaces j.eng) j.ctx u.2.1 ha
  split <;> rename_i heq <;> rw [heq] at hg <;> exact hg

theorem memOk_registerJob {s : State} (j : Job) (h : MemOk s) : MemOk (s.registerJob j) := by
  unfold State.registerJob
  grind [memOk_mk, memOk_foldl, calm_parkJob calm_memOk, calm_updJ calm_memOk, memOk_recordGens, calm_scopeAdd calm_memOk, calm_setBar calm_memOk,
    calm_breakBar calm_memOk, calm_testBar calm_memOk, memOk_updC]

theorem keeps_routeStart (j : Job) : Keeps MemOk (routeStart j) := by
  unfold routeStart
  grind [keeps_pure, keeps_modify, keeps_get_bind, keeps_get, keeps_bind, keeps_jfail calm_memOk, calm_updJ calm_memOk, keeps_engBytes calm_memOk]

theorem memOk_jobGrants {s : State} (j : Job) (h : MemOk s) : MemOk (s.jobGrants j).2 := by
  unfold State.jobGrants
  grind [memOk_grantTests]

theorem memOk_recheckGrant {s : State} (ctx : Nat) (gid : Option Nat) (h : MemOk s) : MemOk (s.recheckGrant ctx gid) := by
  unfold State.recheckGrant
  grind [memOk_foldl, calm_parkJob calm_memOk, memOk_jobGrants]

theorem memOk_startJob {s : State} (j : Job) (h : MemOk s) : MemOk (s.startJob j) := by
  have hstart {t u : State} {r : Except JStop Unit} := (keeps_routeStart j).left (s := t) (t := u) (r := r)
  unfold State.startJob
  grind [memOk_jobGrants, calm_parkJob calm_memOk, calm_updJ calm_memOk]

theorem memOk_startOn {s : State} (eng : Nat) (h : MemOk s) : MemOk (s.startOn eng) := by
  unfold State.startOn
  grind [memOk_startJob, calm_jobRun calm_memOk]

theorem keeps_raiseFail {α : Type} (f : GrantFail) : Keeps MemOk (raiseFail f : M α) := keeps_throw _

theorem keeps_readShape (eng idx kind : Nat) : Keeps MemOk (readShape eng idx kind) := by
  unfold readShape
  refine keeps_get_bind fun s _ => keeps_bind (keeps_raiseIf ..) fun _ => keeps_bind (keeps_foldlM (fun bs p => keeps_get_bind fun s hs =>
    ?_) ..) fun b => ?_
  · grind [keeps_bind, keeps_set, keeps_raise, keeps_pure, calm_xlate calm_memOk, calm_physRead calm_memOk]
  · grind [keeps_raise, keeps_pure]

theorem keeps_alignShape (h : Shape) (base : Nat) : Keeps MemOk (alignShape h base) := by
  unfold alignShape
  grind [keeps_raiseIf]

theorem keeps_postGrants (eng : Nat) (us : List GrantUse) : Keeps MemOk (postGrants eng us) := by
  unfold postGrants
  grind [keeps_pure, keeps_get_bind, keeps_get, keeps_bind, keeps_set, keeps_raiseFail, memOk_grantTests]

theorem keeps_copyPost (eng : Nat) (card : List Byte) : Keeps MemOk (copyPost eng card) := by
  unfold copyPost
  refine keeps_bind (keeps_formatIf ..) fun _ => keeps_ite (keeps_bind (keeps_readShape ..) fun d => ?_)
    (keeps_bind (keeps_readShape ..) fun a => keeps_bind (keeps_readShape ..) fun d => ?_)
  all_goals
    exact keeps_bind (keeps_pure _) fun x => keeps_guard (keeps_alignShape ..) <| keeps_bind (keeps_alignShape ..) fun _ =>
      keeps_bind (keeps_formatIf ..) fun _ => keeps_bind (keeps_postGrants ..) fun _ => keeps_get_bind fun s _ =>
      keeps_guard (keeps_raise ..) (keeps_pure _)

theorem keeps_routeHead (eng : Nat) (card : List Byte) : Keeps MemOk (routeHead eng card) := by
  unfold routeHead
  refine keeps_ite (keeps_pure _) (keeps_bind (keeps_postGrants ..) fun _ => keeps_bind (keeps_foldlM (fun bs p => keeps_get_bind fun s hs =>
    ?_) ..) fun b =>
    keeps_bind (keeps_raiseIf ..) fun _ => keeps_pure _)
  split
  all_goals
    rename_i heq
    split at heq
    all_goals grind [keeps_bind, keeps_set, keeps_raise, keeps_raiseIf, keeps_pure, calm_locate calm_memOk, calm_physRead calm_memOk]

theorem keeps_routePost (eng : Nat) (card : List Byte) : Keeps MemOk (routePost eng card) := by
  unfold routePost
  exact keeps_bind (keeps_formatIf ..) fun _ => keeps_bind (keeps_readShape ..) fun sc => keeps_bind (keeps_readShape ..) fun ix =>
    keeps_bind (keeps_readShape ..) fun wt =>
    keeps_bind (keeps_alignShape ..) fun _ => keeps_bind (keeps_alignShape ..) fun _ => keeps_bind (keeps_alignShape ..) fun _ =>
      keeps_bind (keeps_formatIf ..) fun _ =>
    keeps_bind (keeps_routeHead ..) fun h => keeps_bind (keeps_postGrants ..) fun gs => keeps_get_bind fun s _ => keeps_pure _

theorem keeps_ctxsetPostPrivileged' : Keeps MemOk ctxsetPost.privileged' := by
  unfold ctxsetPost.privileged'
  grind [keeps_pure, keeps_get_bind, keeps_get, keeps_bind, keeps_raise]

theorem keeps_ctxsetPost (card : List Byte) : Keeps MemOk (ctxsetPost card) := by
  unfold ctxsetPost
  refine keeps_bind keeps_ctxsetPostPrivileged' fun _ => keeps_bind (keeps_formatIf ..) fun _ => keeps_bind (keeps_postGrants ..) fun gs =>
    keeps_get_bind fun s hs => ?_
  grind [keeps_bind, keeps_set, calm_ctxRead calm_memOk, keeps_raise, keeps_formatIf, keeps_pure]

theorem keeps_shellPost (eng : Nat) (card : List Byte) : Keeps MemOk (shellPost eng card) := by
  unfold shellPost
  grind [keeps_pure, keeps_get_bind, keeps_get, keeps_bind, keeps_formatIf, keeps_postGrants]

theorem keeps_resumePost (eng : Nat) (card : List Byte) : Keeps MemOk (resumePost eng card) := by
  unfold resumePost
  grind [keeps_pure, keeps_get_bind, keeps_get, keeps_bind, keeps_formatIf, keeps_raiseIf, keeps_raise]

theorem keeps_takeSlot (eng : Nat) (sc : Scope) : Keeps MemOk (takeSlot eng sc) := by
  unfold takeSlot
  refine keeps_get_bind fun s hs => ?_
  dsimp only
  split
  · grind [keeps_holdOn]
  · grind [keeps_bind, keeps_set, memOk_upd, keeps_pure]

theorem memOk_combine {s : State} (j : Job) (h : MemOk s) : MemOk (s.combine j) := by
  unfold State.combine
  grind [memOk_mk]

theorem keeps_epostCard (a b : GReg) : Keeps MemOk (epostCard a b) := by
  unfold epostCard
  refine keeps_get_bind fun s _ => keeps_bind (keeps_capcheck ..) fun _ => keeps_bind keeps_stepLocalPost fun _ => ?_
  dsimp only
  repeat' split
  all_goals grind [keeps_bind, keeps_raiseIf, keeps_raise, keeps_pure, keeps_capcheck, keeps_readBlock]

theorem keeps_cardJob (eng : Nat) (card : List Byte) : Keeps MemOk (cardJob eng card) := by
  unfold cardJob
  grind [keeps_copyPost, keeps_ctxsetPost, keeps_routePost, keeps_shellPost]

theorem memOk_forward {s : State} (op idx : Nat) (h : MemOk s) : MemOk (s.forward op idx) := by
  unfold State.forward
  grind [memOk_mk, memOk_registerJob]

theorem memOk_performAll {s : State} (ctx : Nat) (h : MemOk s) : MemOk (s.performAll ctx) := by
  unfold State.performAll
  grind [memOk_foldl, memOk_drainAll, memOk_arriveWhere]

theorem keeps_grantWait (gid : Option Nat) (result : TReg) : Keeps MemOk (grantWait gid result) := by
  unfold grantWait
  grind [keeps_modify, keeps_get_bind, keeps_get, keeps_bind, memOk_performAll, keeps_holdIf]

theorem keeps_grantDone : Keeps MemOk grantDone := by
  unfold grantDone
  grind [keeps_ask]

theorem memOk_dropGrant {s : State} (ctx : Nat) (gid : Option Nat) (h : MemOk s) : MemOk (s.dropGrant ctx gid) := by
  unfold State.dropGrant
  grind [memOk_mk]

theorem keeps_entryPlace (gid : Nat) : Keeps MemOk (entryPlace gid) := by
  unfold entryPlace
  refine keeps_get_bind fun s hs => ?_
  dsimp only
  split
  · grind [keeps_bind, keeps_set, calm_xlate calm_memOk, keeps_raise]
  · rename_i heq
    have ht := calm_xlate calm_memOk (corePlaces s.cur) s.c.ctx ((s.getX s.c.ctx).grantVa gid) { r := true, w := true } hs
    rw [heq] at ht
    refine keeps_bind (keeps_set ht) fun _ => keeps_bind (keeps_raiseIf ..) fun _ => keeps_bind (keeps_raiseIf ..) fun _ =>
      keeps_bind (keeps_inOrder ..) fun _ => keeps_bind (keeps_modify ?_) fun _ => keeps_pure _
    grind [calm_sendRead calm_memOk]

theorem memOk_putEntry {s : State} (pa : Nat) (bs : List Byte) (h : MemOk s) : MemOk (s.putEntry pa bs) := by
  unfold State.putEntry
  grind [calm_hostStore calm_memOk, calm_writeAt calm_memOk]

theorem memOk_entryWritten {s : State} (id : Nat) (h : MemOk s) : MemOk (s.entryWritten id) := by
  unfold State.entryWritten
  grind [memOk_recheckGrant, memOk_dropGrant]

theorem memOk_waitTokens {s : State} (sb : BitVec 7) (h : MemOk s) : MemOk (s.waitTokens sb) := by
  unfold State.waitTokens
  grind [memOk_arriveWhere, memOk_advance]

theorem memOk_waitRoom {s : State} (t : Nat) (h : MemOk s) : MemOk (s.waitRoom t) := by
  unfold State.waitRoom
  grind [memOk_arriveLoad, memOk_advance]

theorem memOk_interlock {s : State} (us : List RUse) (h : MemOk s) : MemOk (s.interlock us) := by
  unfold State.interlock
  grind [memOk_arriveWhere, memOk_advance]

theorem memOk_latched {s : State} (src : Source) (w : Word) (it : Item) (sched : Sched) (h : MemOk s) : MemOk (s.latched src w it sched) := by
  unfold State.latched
  grind [memOk_upd]

theorem memOk_decodeStop {s t : State} {d : Decoded} {us : List RUse} (hr : s.decodeStop d us = some t) (h : MemOk s) : MemOk t := by
  unfold State.decodeStop at hr
  grind [memOk_trapPrecise, memOk_deliver]

theorem memOk_publishOnly {s : State} (d : Decoded) (h : MemOk s) : MemOk (s.publishOnly d) := by
  unfold State.publishOnly
  grind [memOk_upd, memOk_publishOnce, memOk_finish, memOk_trapPrecise, memOk_holdAt]

theorem memOk_dropItem {s : State} (h : MemOk s) : MemOk (s.dropItem) := by
  unfold State.dropItem
  grind [memOk_upd]

theorem memOk_dormantFault {s : State} (it : Item) (wake : BitVec 12) (h : MemOk s) : MemOk (s.dormantFault it wake) := by
  unfold State.dormantFault
  grind [memOk_upd, memOk_latched, memOk_trapPrecise]

theorem memOk_atIssue {s : State} (h : MemOk s) : MemOk (s.atIssue) := by
  unfold State.atIssue
  grind [memOk_advance]

end Sys2Proof.Machine
end

section
/-!
(O55) The canonical form of memory under placement, saves and restores, budgets, step barriers and the system words.
-/
namespace Sys2Proof.Machine

open Safety

-- Sequential: of proofs that run side by side, each that waits for another holds a thread.
set_option Elab.async false

theorem memOk_grantCap {s : State} (ctx gid : Nat) (addr : Option Nat) (h : MemOk s) : MemOk (s.grantCap ctx gid addr).2 := by
  have hg := memOk_grantInMem [.hub] ctx gid h
  unfold State.grantCap
  split
  · exact h
  split <;> rename_i heq <;> rw [heq] at hg <;> exact hg

theorem memOk_startInfo {s : State} (l : Launch) (index : Nat) (h : MemOk s) : MemOk (s.startInfo l index).2 := by
  unfold State.startInfo
  grind [calm_ctxBytes calm_memOk, memOk_grantCap]

theorem memOk_weaveTask {s : State} (l : Launch) (cores : List Nat) (h : MemOk s) : MemOk (s.weaveTask l cores) := by
  unfold State.weaveTask
  grind [memOk_foldl, memOk_updC]

theorem memOk_startOnCores {s : State} (l : Launch) (x : Nat × Nat × SMap Word) (cores : List Nat) (h : MemOk s) :
    MemOk (s.startOnCores l x cores) := by
  unfold State.startOnCores
  grind [memOk_mk, memOk_foldl, memOk_chargeCores, memOk_setC, memOk_weaveTask, memOk_boundary, memOk_startInfo]

theorem memOk_loadRecord {s : State} (n : Nat) (b : List Byte) (spad : Bool) (h : MemOk s) : MemOk (s.loadRecord n b spad) := by
  unfold State.loadRecord
  dsimp only
  split
  · exact wf_writeBytes _ _ h
  · exact h

theorem memOk_copySpad {s : State} (a b : Nat) (h : MemOk s) : MemOk (s.copySpad a b) := wf_writeCells _ (wf_filter _ h)

theorem memOk_renumber {s : State} (tid : Nat) (f : Nat → Nat) (h : MemOk s) : MemOk (s.renumber tid f) := by
  unfold State.renumber
  grind [memOk_mk, memOk_updT]

theorem memOk_moveCores {s : State} (tid : Nat) (ps : List (Nat × Nat)) (f : Core → Core → Core) (h : MemOk s) : MemOk (s.moveCores tid ps f) := by
  unfold State.moveCores
  grind [memOk_foldl, memOk_setC, memOk_copySpad, memOk_renumber]

theorem memOk_settleForSave {s : State} (n : Nat) (h : MemOk s) : MemOk (s.settleForSave n) := by
  unfold State.settleForSave
  grind [memOk_drainAll, memOk_flushStack, memOk_arriveWhere]

theorem memOk_takeEntries {s : State} (me tid : Nat) (h : MemOk s) : MemOk (s.takeEntries me tid) := by
  unfold State.takeEntries
  grind [memOk_foldl, memOk_updM, memOk_leaveGang]

theorem memOk_capture {s : State} (ctx tid : Nat) (cores : List Nat) (h : MemOk s) : MemOk (s.capture ctx tid cores) := by
  unfold State.capture
  grind [memOk_mk, memOk_foldl, memOk_takeEntries]

theorem memOk_stash {s : State} (tid : Nat) (whole ready : Bool) (watch : Option Nat) (h : MemOk s) : MemOk (s.stash tid whole ready watch) := by
  unfold State.stash
  grind [memOk_mk, memOk_foldl, memOk_chargeCores, memOk_moveCores, memOk_boundary, memOk_settleForSave, memOk_updC, memOk_capture]

theorem memOk_returnMes {s : State} (v : Saved) (cl cl' : Nat) (h : MemOk s) : MemOk (s.returnMes v cl cl') := by
  unfold State.returnMes
  refine memOk_foldl (fun t x ht => ?_) _ h
  dsimp only
  split
  · exact ht
  · exact wf_writeCells _ (wf_filter _ ht)

theorem memOk_rejoinGangs {s : State} (tid : Nat) (h : MemOk s) : MemOk (s.rejoinGangs tid) := by
  unfold State.rejoinGangs
  grind [memOk_foldl, memOk_gangPost]

theorem memOk_wakeJobs {s : State} (p : Job → Bool) (h : MemOk s) : MemOk (s.wakeJobs p) := by
  unfold State.wakeJobs
  grind [memOk_mk]

theorem memOk_restartReleases {s : State} (tid : Nat) (h : MemOk s) : MemOk (s.restartReleases tid) := by
  unfold State.restartReleases
  grind [memOk_updT]

theorem memOk_unstash {s : State} (v : Saved) (cores : List Nat) (h : MemOk s) : MemOk (s.unstash v cores) := by
  unfold State.unstash
  split
  · exact h
  extract_lets live ps s0 charged cls dies ham told returned barred bounded moved merged s9
  have htold : MemOk told := show MemOk charged from memOk_chargeCores _ h
  have hreturned : MemOk returned := by
    unfold returned
    split
    · exact memOk_foldl (fun t c ht => memOk_returnMes _ _ _ ht) _ htold
    · exact htold
  have hbarred : MemOk barred := by
    refine memOk_foldl (fun t b ht => ?_) _ hreturned
    split
    · exact calm_setBar calm_memOk _ _ _ _ ht
    · exact ht
  have hbounded : MemOk bounded := memOk_foldl (fun t n ht => memOk_boundary n ht) _ hbarred
  have hmoved : MemOk moved := memOk_moveCores _ _ _ hbounded
  have hmerged : MemOk merged := wf_filter _ hmoved
  split
  · exact memOk_wakeJobs _ (memOk_rejoinGangs _ (memOk_restartReleases _ hmerged))
  · exact h

theorem memOk_restoreSaved {s : State} (idx : Nat) (cores : List Nat) (h : MemOk s) : MemOk (s.restoreSaved idx cores) := by
  unfold State.restoreSaved
  grind [memOk_unstash]

theorem memOk_startLadder {s : State} (ctx : Nat) (asked : Bool) (h : MemOk s) : MemOk (s.startLadder ctx asked) := by
  unfold State.startLadder
  grind [calm_updX calm_memOk]

theorem memOk_endLadder {s : State} (ctx : Nat) (h : MemOk s) : MemOk (s.endLadder ctx) := by
  unfold State.endLadder
  grind [memOk_foldl, memOk_wakeJobs, memOk_restartReleases, calm_updX calm_memOk]

theorem memOk_stashAll {s : State} (ts : List Task) (h : MemOk s) : MemOk (s.stashAll ts) := by
  unfold State.stashAll
  grind [memOk_foldl, memOk_stash]

theorem memOk_shellReady {s : State} (j : Job) (h : MemOk s) : MemOk (s.shellReady j).2 := by
  unfold State.shellReady
  grind [calm_parkJob calm_memOk, memOk_jobGrants]

theorem memOk_giveOut {s : State} (ctx die token : Nat) (vs : List Saved) (cores : List (Nat × Nat)) (h : MemOk s) :
    MemOk (s.giveOut ctx die token vs cores) := by
  unfold State.giveOut
  grind [memOk_mk]

theorem memOk_writeArea {s : State} (die : Nat) (j : Job) (h : MemOk s) : MemOk (s.writeArea die j) := by
  unfold State.writeArea
  grind [calm_updX calm_memOk, memOk_giveOut, calm_ctxWrite calm_memOk]

theorem memOk_loadSaved {s : State} (n : Nat) (b : List Byte) (h : MemOk s) : MemOk (s.loadSaved n b) := by
  unfold State.loadSaved
  grind [memOk_loadRecord, memOk_updC]

theorem memOk_openBars {s : State} (ctx die n : Nat) (vs : List Saved) (b : List Byte) (h : MemOk s) : MemOk (s.openBars ctx die n vs b).1 := by
  unfold State.openBars
  dsimp only
  split
  · exact memOk_foldl (fun t i ht => calm_setBar calm_memOk _ _ _ _ ht) _ h
  · exact h

theorem memOk_openSteps {s : State} (tid : Nat) (b : List Byte) (h : MemOk s) : MemOk (s.openSteps tid b) := by
  unfold State.openSteps
  grind [memOk_updT]

theorem memOk_openArea {s : State} (ctx die token : Nat) (vs : List Saved) (b : List Byte) (h : MemOk s) :
    MemOk (s.openArea ctx die token vs b) := by
  unfold State.openArea
  grind [memOk_mk, memOk_foldl, memOk_openBars, memOk_loadSaved, memOk_openSteps]

theorem keeps_needStep : Keeps MemOk needStep := by
  unfold needStep
  grind [keeps_get, keeps_bind, keeps_raiseIf]

theorem keeps_sendSource (c : TReg) (n : Nat) : Keeps MemOk (sendSource c n) := by
  unfold sendSource
  grind [keeps_pure, keeps_get, keeps_bind, keeps_raiseIf, keeps_capcheck]

theorem keeps_sendDest (c : TReg) (n : Nat) : Keeps MemOk (sendDest c n) := by
  unfold sendDest
  grind [keeps_pure, keeps_bind, keeps_locateM, keeps_raiseIf, keeps_capcheck]

theorem memOk_sendBlock {s : State} (src key ea n : Nat) (h : MemOk s) : MemOk (s.sendBlock src key ea n) := by
  unfold State.sendBlock
  grind [memOk_mk]

theorem keeps_sendM (d a b : GReg) (slotted : Bool) : Keeps MemOk (sendM d a b slotted) := by
  unfold sendM
  refine keeps_bind keeps_needStep fun _ => keeps_get_bind fun s _ => keeps_bind (keeps_sendSource ..) fun src =>
    keeps_bind (keeps_sendDest ..) fun k =>
    keeps_bind (keeps_raiseIf ..) fun _ => keeps_bind (keeps_raiseIf ..) fun _ => keeps_bind (keeps_raiseIf ..) fun _ =>
    keeps_bind (keeps_modify fun s hs => memOk_drainAll _ hs) fun _ => keeps_get_bind fun s hs => keeps_bind (keeps_holdIf ..) fun _ => ?_
  dsimp only
  repeat' split
  all_goals grind [keeps_bind, keeps_raiseIf, keeps_set, memOk_upd, memOk_sendBlock]

theorem memOk_setBarOf {s : State} (tid dom : Nat) (b : Bar) (h : MemOk s) : MemOk (s.setBarOf tid dom b) := by
  unfold State.setBarOf
  grind [memOk_updT]

theorem memOk_failSend {s : State} (x : Send) (h : MemOk s) : MemOk (s.failSend x) := by
  unfold State.failSend
  grind [memOk_mk, calm_remoteRecord calm_memOk]

theorem memOk_mgmtWrite {s : State} (r : Nat) (x : Word) (h : MemOk s) : MemOk (s.mgmtWrite r x) := by
  unfold State.mgmtWrite
  grind [memOk_mk]

theorem keeps_dropTlb (sc : Scope) (ctx : Option Nat) (p : TlbEntry → Bool) {first : State → State} (hf : ∀ s, MemOk s → MemOk (first s)) :
    Keeps MemOk (dropTlb sc ctx p first) := by
  unfold dropTlb
  refine keeps_get_bind fun s _ => keeps_bind (keeps_modify fun s hs => memOk_drainAll _ hs) fun _ => keeps_get_bind fun s _ =>
    keeps_bind (keeps_holdIf ..) fun _ => keeps_get_bind fun s _ => keeps_bind (keeps_modify fun s hs => memOk_foldl ?_ _ hs) fun _ =>
    keeps_get_bind fun s _ => keeps_bind (keeps_holdIf ..) fun _ => keeps_modify fun s hs => ?_
  · exact fun t n ht => memOk_arriveWhere _ _ (memOk_drainUpTo _ _ ht)
  · exact calm_retranslate calm_memOk _ (s := { first s with tlb := _ }) (hf s hs)

theorem keeps_mtsrTo (sr : BitVec 12) (x : Word) : Keeps MemOk (mtsrTo sr x) := by
  unfold mtsrTo
  refine keeps_get_bind fun s _ => ?_
  dsimp only
  split
  case h_13 =>
    refine keeps_bind keeps_grantDone fun g => ?_
    grind [keeps_bind, keeps_modify, keeps_grantWait, memOk_recheckGrant, memOk_dropGrant, calm_updX calm_memOk]
  all_goals
    grind [keeps_bind, keeps_modify, memOk_awaitProducers, memOk_awaitVector, memOk_upd, memOk_foldl, memOk_applyAsync, calm_updX calm_memOk,
      keeps_dropTlb, memOk_mgmtWrite]

theorem keeps_mtsrM (sr : BitVec 12) (x : Word) : Keeps MemOk (mtsrM sr x) := by
  unfold mtsrM
  grind [keeps_get_bind, keeps_get, keeps_bind, keeps_raiseDecode, keeps_mtsrTo]

theorem keeps_ringSettled : Keeps MemOk ringSettled := by
  unfold ringSettled
  grind [keeps_modify, keeps_get, keeps_bind, keeps_holdIf, memOk_arriveWhere]

theorem keeps_recordPlace (b : GReg) (n : Nat) (need : BitVec 12) (a : Acc) : Keeps MemOk (recordPlace b n need a) := by
  unfold recordPlace
  exact keeps_get_bind fun s _ => keeps_bind (keeps_capcheck ..) fun _ => keeps_bind (keeps_stepLocal _) fun _ =>
    keeps_bind (keeps_locateM ..) fun l => keeps_bind (keeps_raiseIf ..) fun _ => keeps_bind (keeps_raiseIf ..) fun _ =>
      keeps_bind (keeps_forIn (fun i _ =>
      keeps_bind (keeps_locateM ..) fun l => keeps_bind (keeps_raiseIf ..) fun _ => keeps_pure _) ..) fun _ =>
    keeps_bind (keeps_holdIf ..) fun _ =>
    keeps_bind (keeps_modify fun s hs => memOk_arriveWhere _ _ (memOk_drainAll _ hs)) fun _ => keeps_get_bind fun s _ =>
      keeps_bind (keeps_holdIf ..) fun _ =>
    keeps_bind (keeps_holdIf ..) fun _ => keeps_pure _

end Sys2Proof.Machine
end

section
/-!
(O55) The canonical form of memory under the steps of hardware and Hamper, Husk images, the host link and the shared parts of the
load, rank, stream and vector words.
-/
namespace Sys2Proof.Machine

open Safety

-- Sequential: of proofs that run side by side, each that waits for another holds a thread.
set_option Elab.async false

theorem memOk_asCore {s : State} {f : State → State} (hf : ∀ s, MemOk s → MemOk (f s)) (n : Nat) (h : MemOk s) : MemOk (s.asCore n f) := hf _ h

theorem memOk_offer {s : State} (die : Nat) (lpb : List Byte) (ptr : Word) (h : MemOk s) : MemOk (s.offer die lpb ptr) := by
  unfold State.offer
  grind [memOk_mk, calm_scopeAdd calm_memOk]

theorem keeps_rangeIn (e : Grant) (lo n : Nat) : Keeps MemOk (rangeIn e lo n) := by
  unfold rangeIn
  grind [keeps_raiseIf]

theorem keeps_queueOpen (b : GReg) : Keeps MemOk (queueOpen b) := by
  unfold queueOpen
  refine keeps_get_bind fun s _ => keeps_bind (keeps_capcheck ..) fun e => keeps_bind keeps_stepLocalPost fun _ =>
    keeps_bind (keeps_raiseIf ..) fun _ =>
    keeps_bind (keeps_locateM ..) fun l => keeps_bind (keeps_raiseIf ..) fun _ => keeps_bind (keeps_raiseIf ..) fun _ =>
    keeps_bind (keeps_locateM ..) fun _ => keeps_get_bind fun s hs => ?_
  split
  · exact keeps_raise ..
  · grind [keeps_bind, keeps_formatIf, keeps_rangeIn, keeps_set, keeps_pure, calm_ctxRead calm_memOk, calm_activate calm_memOk]

theorem keeps_queueRecord (a : GReg) (d : QDesc) : Keeps MemOk (queueRecord a d) := by
  unfold queueRecord
  grind [keeps_get, keeps_bind, keeps_readBlock, keeps_access]

theorem keeps_deadlockM : Keeps MemOk deadlockM := by
  unfold deadlockM
  grind [keeps_pure, keeps_get, keeps_bind, keeps_wokenFrom, keeps_raise]

theorem memOk_takeRecord {s : State} (k : Nat) (q : RQueue) (ds : QDesc) (x : Block) (h : MemOk s) : MemOk (s.takeRecord k q ds x) := by
  unfold State.takeRecord
  grind [calm_setQueue calm_memOk, calm_updX calm_memOk, memOk_releaseBlock, calm_syncQueue calm_memOk]

theorem keeps_copyPlace (c : TReg) (n : Nat) : Keeps MemOk (copyPlace c n) := by
  unfold copyPlace
  grind [keeps_bind, keeps_forM, keeps_locateM, keeps_raiseIf, keeps_stepLocal, keeps_capcheck]

theorem memOk_flushBlocks {s : State} (k : Nat) (h : MemOk s) : MemOk (s.flushBlocks k) := by
  unfold State.flushBlocks
  grind [memOk_foldl, calm_closeBlock calm_memOk]

theorem memOk_flushTurn {s : State} (k : Nat) (first : Bool) (h : MemOk s) : MemOk (s.flushTurn k first) := by
  unfold State.flushTurn
  grind [calm_setQueue calm_memOk, calm_settleQueue calm_memOk, memOk_flushBlocks]

theorem memOk_idleBoundary {s : State} (h : MemOk s) : MemOk (s.idleBoundary) := by
  unfold State.idleBoundary
  grind [memOk_foldl, memOk_boundary]

theorem memOk_codeWords {s : State} (ctx va n : Nat) (h : MemOk s) : MemOk (s.codeWords ctx va n).2 := by
  refine holds_foldl (P := fun acc : (List Byte × Option (Cause × Nat × Nat)) × State => MemOk acc.2) (fun acc i hacc => ?_) _ h
  dsimp only
  repeat' split
  all_goals grind [calm_xlate calm_memOk, calm_physRead calm_memOk]

theorem memOk_grantFault {s : State} (ctx gid lo n : Nat) (need : BitVec 12) (h : MemOk s) : MemOk (s.grantFault ctx gid lo n need).2 := by
  have hg := memOk_grantInMem [.hub] ctx gid h
  unfold State.grantFault
  split
  · exact h
  split <;> rename_i heq <;> rw [heq] at hg <;> exact hg

theorem memOk_takeCode {s : State} (k ctx : Nat) (b : List Byte) (h : MemOk s) : MemOk (s.takeCode k ctx b) := by
  unfold State.takeCode
  grind [memOk_mk, memOk_codeWords, memOk_idleBoundary, calm_formatRecord calm_memOk, calm_faultRecord calm_memOk, memOk_grantFault]

theorem memOk_parkPlace {s : State} (l : Launch) (h : MemOk s) : MemOk (s.parkPlace l) := by
  unfold State.parkPlace
  grind [memOk_updL, calm_park calm_memOk]

theorem memOk_closeWhen {s : State} (k no : Nat) (p : RQueue → Block → Bool) (h : MemOk s) : MemOk (s.closeWhen k no p) := by
  unfold State.closeWhen
  grind [calm_settleQueue calm_memOk, calm_closeBlock calm_memOk]

theorem memOk_stageImage {s : State} (b : List Byte) (h : MemOk s) : MemOk (s.stageImage b).2 := by
  unfold State.stageImage
  grind [memOk_mk]

theorem memOk_stageFetched {s : State} (kind gen : Nat) (b : List Byte) (h : MemOk s) : MemOk (s.stageFetched kind gen b).2 := by
  unfold State.stageFetched
  grind [memOk_stageImage]

theorem memOk_activateSet {s : State} (vendor owner : Option Image) (h : MemOk s) : MemOk (s.activateSet vendor owner) := by
  unfold State.activateSet
  grind [memOk_mk, memOk_idleBoundary]

theorem memOk_activateImage {s : State} (n kind gen : Nat) (h : MemOk s) : MemOk (s.activateImage n kind gen).2 := by
  unfold State.activateImage
  grind [memOk_mk, memOk_activateSet]

theorem keeps_readSpan (ea n : Nat) : Keeps MemOk (readSpan ea n) := by
  unfold readSpan
  grind [keeps_pure, keeps_bind, keeps_readBlock, keeps_locateM, keeps_raiseIf, keeps_loadBytes]

theorem keeps_imageAt (b : GReg) : Keeps MemOk (imageAt b) := by
  unfold imageAt
  refine keeps_get_bind fun s _ => keeps_bind (keeps_capcheck ..) fun _ => keeps_bind (keeps_stepLocal _) fun _ =>
    keeps_bind (keeps_locateM ..) fun l => keeps_bind (keeps_raiseIf ..) fun _ => keeps_bind (keeps_raiseIf ..) fun _ =>
      keeps_bind (keeps_readBlock ..) fun h => ?_
  exact keeps_ite (keeps_pure h) (keeps_bind (keeps_capcheck ..) fun _ => keeps_readSpan ..)

theorem keeps_hostImage : Keeps MemOk hostImage := by
  unfold hostImage
  refine keeps_get_bind fun s hs => ?_
  dsimp only
  split
  · grind [keeps_bind, keeps_get_bind, keeps_set, keeps_pure, keeps_holdOn, calm_park calm_memOk, memOk_mk]
  · exact keeps_holdOn _
  · grind [keeps_bind, keeps_get_bind, keeps_set, keeps_holdOn, calm_park calm_memOk]

theorem memOk_rdmaParts {s : State} (ctx va n : Nat) (need : PageNeed) (h : MemOk s) : MemOk (s.rdmaParts ctx va n need).2 := by
  refine holds_foldl (P := fun acc : Except (Cause × Nat × Nat) (List (Nat × Nat)) × State => MemOk acc.2) (fun acc p hacc => ?_) _ h
  grind [calm_xlate calm_memOk]

theorem memOk_rdmaCheck {s : State} (rkey : BitVec 32) (va n : Nat) (need : BitVec 12) (pn : PageNeed) (h : MemOk s) :
    MemOk (s.rdmaCheck rkey va n need pn).2 := by
  unfold State.rdmaCheck
  grind [memOk_rdmaParts, memOk_grantFault]

theorem memOk_rdmaNak {s : State} (qp : Nat) (rkey : BitVec 32) (f : Cause × Nat × Nat) (h : MemOk s) : MemOk (s.rdmaNak qp rkey f) := by
  unfold State.rdmaNak
  grind [calm_faultRecord calm_memOk, calm_send calm_memOk]

theorem memOk_pumpRings {s : State} (h : MemOk s) : MemOk (s.pumpRings) := by
  unfold State.pumpRings
  grind [memOk_foldl, calm_pushRing calm_memOk]

theorem memOk_putParts {s : State} (ctx : Nat) (ps : List (Nat × Nat)) (bs : List Byte) (h : MemOk s) : MemOk (s.putParts ctx ps bs) := by
  induction ps generalizing s bs with
  | nil => exact h
  | cons p r ih =>
    unfold State.putParts
    grind [calm_hostStore calm_memOk, calm_writeAt calm_memOk]

theorem memOk_readParts {s : State} (ps : List (Nat × Nat)) (h : MemOk s) : MemOk (s.readParts ps).2 := by
  unfold State.readParts
  grind [memOk_foldl, calm_sendRead calm_memOk]

theorem memOk_rdmaAtomic {s : State} (qp : Nat) (rkey : BitVec 32) (va op : Nat) (arg cmp : Word) (f : Word → Word) (h : MemOk s) :
    MemOk (s.rdmaAtomic qp rkey va op arg cmp f) := by
  unfold State.rdmaAtomic
  grind [memOk_rdmaNak, memOk_pumpRings, calm_writeAt calm_memOk, memOk_hostAmo, memOk_rdmaCheck, calm_send calm_memOk]

theorem memOk_txc {s : State} {f : State → Answer} (hf : ∀ s, MemOk s → MemOk (f s).next) (src ctx seqn ty : Nat) (h : MemOk s) :
    MemOk (s.txc src ctx seqn ty f) := by
  unfold State.txc
  grind [calm_send calm_memOk, calm_updX calm_memOk]

theorem memOk_releaseAll (s : State) : MemOk s.releaseAll := rfl

theorem memOk_answerCore {s : State} (n : Nat) (p : Parked) (answer : Nat) (h : MemOk s) : MemOk (s.answerCore n p answer) := by
  unfold State.answerCore
  grind [memOk_asCore, memOk_finish, memOk_trapNow, memOk_updC]

theorem memOk_answerJob {s : State} (j : Nat) (p : Parked) (answer : Nat) (h : MemOk s) : MemOk (s.answerJob j p answer) := by
  unfold State.answerJob
  grind [calm_updJ calm_memOk, calm_faultRecord calm_memOk, calm_endJob calm_memOk]

theorem memOk_settleAct {s : State} (id : Nat) (p : Parked) (answer : Nat) (h : MemOk s) : MemOk (s.settleAct id p answer) := by
  have hturn (t : State) (n : Nat) (ht : MemOk t) : MemOk (t.turnOf n) := ht
  unfold State.settleAct
  grind [memOk_answerCore, memOk_answerJob, memOk_updL, memOk_mk]

theorem memOk_badRequest {s : State} (src ctx seqn ty : Nat) (h : MemOk s) : MemOk (s.badRequest src ctx seqn ty) := by
  unfold State.badRequest
  grind [memOk_txc]

theorem keeps_loadTo (d a : GReg) (ty : LdType) (off : BitVec 14) : Keeps MemOk (loadTo d a ty off) := by
  unfold loadTo
  grind [keeps_get_bind, keeps_get, keeps_bind, keeps_access, keeps_loadBytes, keeps_setG]

theorem keeps_storeFrom (d a : GReg) (ty : LdType) (off : BitVec 14) : Keeps MemOk (storeFrom d a ty off) := by
  unfold storeFrom
  grind [keeps_get_bind, keeps_get, keeps_bind, keeps_access, keeps_storeBytes]

theorem keeps_loadRoom : Keeps MemOk loadRoom := by
  unfold loadRoom
  grind [keeps_modify, memOk_arriveLoad]

theorem keeps_addLoad (l : Nat → Load) : Keeps MemOk (addLoad l) := by
  unfold addLoad
  grind [keeps_modify, memOk_upd]

theorem keeps_asyncRead (l : Loc) (ea n : Nat) : Keeps MemOk (asyncRead l ea n) := by
  unfold asyncRead
  grind [keeps_pure, keeps_get_bind, keeps_get, keeps_bind, keeps_set, keeps_raiseIf, calm_sendRead calm_memOk]

theorem memOk_loadsTo {s : State} (n : Nat) (h : MemOk s) : MemOk (s.loadsTo n) := by
  unfold State.loadsTo
  grind [memOk_foldl, memOk_arriveLoad]

theorem keeps_halfAccess (c : TReg) (ea : Nat) (need : BitVec 12) (a : Acc) : Keeps MemOk (halfAccess c ea need a) := by
  unfold halfAccess
  grind [keeps_bind, keeps_locateM, keeps_raiseIf, keeps_stepLocal, keeps_capcheck]

theorem keeps_atHalf (h1 : Bool) : Keeps MemOk (atHalf h1) := by
  unfold atHalf
  grind [keeps_modify, memOk_upd]

theorem keeps_listTargetIn (own : Bool) (c : TReg) (need : BitVec 12) (a : Acc) (upd : Bool) : Keeps MemOk (listTargetIn own c need a upd) := by
  unfold listTargetIn
  exact keeps_bind (keeps_capcheck ..) fun _ => keeps_bind (keeps_stepLocal _) fun _ => keeps_get_bind fun s _ =>
    keeps_bind (keeps_raiseIf ..) fun _ =>
    keeps_bind (keeps_locateM ..) fun l => keeps_bind (keeps_raiseIf ..) fun _ => keeps_bind (keeps_raiseIf ..) fun _ =>
      keeps_bind (keeps_raiseIf ..) fun _ =>
    keeps_pure l

theorem keeps_listTarget (c : TReg) (need : BitVec 12) (a : Acc) (upd : Bool) : Keeps MemOk (listTarget c need a upd) := by
  unfold listTarget
  grind [keeps_listTargetIn]

theorem keeps_listWhole (c : TReg) (need : BitVec 12) (raw : List Byte) : Keeps MemOk (listWhole c need raw) := by
  unfold listWhole
  grind [keeps_pure, keeps_bind, keeps_capcheck, keeps_raise]

theorem keeps_listRead (c : TReg) (need : BitVec 12) : Keeps MemOk (listRead c need) := by
  unfold listRead
  grind [keeps_pure, keeps_bind, keeps_readBlock, keeps_listWhole]

theorem keeps_listHome (l : Loc) : Keeps MemOk (listHome l) := by
  unfold listHome
  grind [keeps_modify, keeps_get_bind, keeps_get, keeps_bind, keeps_set, memOk_upd, keeps_holdIf, memOk_flushStack, memOk_drainUpTo]

theorem keeps_listAtHome (c : TReg) (l : Loc) (need : BitVec 12) : Keeps MemOk (listAtHome c l need) := by
  unfold listAtHome
  grind [keeps_pure, keeps_get, keeps_bind, keeps_raiseIf, keeps_listWhole]

theorem keeps_listPut (l : Loc) (quick : Bool) (k : Nat) (bs : List Byte) : Keeps MemOk (listPut l quick k bs) := by
  unfold listPut
  grind [keeps_modify, memOk_upd, calm_writeAt calm_memOk, memOk_block]

theorem keeps_listUpdate (c : TReg) (l : Loc) (offer : List Byte → List RankPair × Bool) : Keeps MemOk (listUpdate c l offer) := by
  unfold listUpdate
  grind [keeps_get_bind, keeps_get, keeps_bind, keeps_listPut, keeps_listAtHome, keeps_listHome]

theorem keeps_chainBody (bc : Bool) (c : TReg) : Keeps MemOk (chainBody bc c) := by
  unfold chainBody
  grind [keeps_get, keeps_bind, keeps_listPut, keeps_ranked, keeps_gathered, keeps_chained, keeps_listAtHome, keeps_listHome, keeps_listTargetIn]

theorem keeps_weaveFault (kind : Nat) : Keeps MemOk (weaveFault kind) := by
  unfold weaveFault
  grind [keeps_get, keeps_bind, keeps_raise]

theorem memOk_register {s : State} (p : Nat) (a b : Word) (sz : Nat) (pol : Policy) (h : MemOk s) : MemOk (s.register p a b sz pol) := by
  unfold State.register
  grind [memOk_upd, memOk_updC]

theorem keeps_subscribe (resub : Bool) (pol : Option Policy) (d a b : GReg) : Keeps MemOk (subscribe resub pol d a b) := by
  unfold subscribe
  grind [keeps_modify, keeps_get_bind, keeps_get, keeps_bind, memOk_upd, keeps_setI, memOk_register]

theorem keeps_elemAccess (c : TReg) (size : Nat) (need : BitVec 12) (a : Acc) (odd : Bool) (n : Nat) (ps : List (Nat × Nat)) :
    Keeps MemOk (elemAccess c size need a odd n ps) := by
  induction ps generalizing n with
  | nil =>
    unfold elemAccess
    exact keeps_pure _
  | cons p r ih =>
    obtain ⟨lane, ea⟩ := p
    unfold elemAccess
    refine keeps_get_bind fun s hs => ?_
    have hone : Keeps MemOk (do
        let l ← accessOr odd c ea size need a
        let s ← get
        raiseIf (a == .load && l.host && !s.hostAnswers l.key size) .remote ea
        return l) :=
      keeps_bind (keeps_accessOr ..) fun l => keeps_get_bind fun s _ => keeps_bind (keeps_raiseIf ..) fun _ => keeps_pure _
    dsimp only
    split <;> rename_i heq
    · exact keeps_bind (keeps_set (hone.left heq hs)) fun _ => keeps_bind (ih _) fun _ => keeps_pure _
    · exact keeps_bind (keeps_set (hone.left heq hs)) fun _ => keeps_pure _
    · exact keeps_throw _

theorem keeps_tilesFree (es : List (Nat × Nat × Loc)) : Keeps MemOk (tilesFree es) := by
  unfold tilesFree
  grind [keeps_get, keeps_bind, keeps_holdIf]

theorem keeps_badGranules (size : Nat) (es : List (Nat × Nat × Nat × Loc)) : Keeps MemOk (badGranules size es) := by
  unfold badGranules
  grind [keeps_pure, keeps_get_bind, keeps_get, keeps_bind, keeps_forM, keeps_amoFirst]

theorem keeps_elemBytes (size : Nat) (bad : List Nat) (es : List (Nat × Nat × Nat × Loc)) : Keeps MemOk (elemBytes size bad es) := by
  induction es with
  | nil => exact keeps_pure _
  | cons e r ih =>
    obtain ⟨n, lane, ea, l⟩ := e
    unfold elemBytes
    refine keeps_get_bind fun s hs => ?_
    have hone (b : Bool) (info : Nat) : Keeps MemOk (do raiseIf b .mcheck info; loadBytes l ea size) :=
      keeps_bind (keeps_raiseIf ..) fun _ => keeps_loadBytes ..
    dsimp only
    split
    · rename_i heq
      exact keeps_bind (keeps_set ((hone _ _).left heq hs)) fun _ => keeps_bind ih fun _ => keeps_pure _
    · rename_i heq
      exact keeps_bind (keeps_set ((hone _ _).left heq hs)) fun _ => keeps_ite (keeps_pure _) (keeps_bind ih fun _ => keeps_pure _)
    · exact keeps_throw _

theorem keeps_vloadElems (d : VReg) (b : GReg) (size : Nat) (ext : Nat → Lane) (localBase : Bool) (es : List (Nat × Nat)) (start : Nat) :
    Keeps MemOk (vloadElems d b size ext localBase es start) := by
  unfold vloadElems
  refine keeps_get_bind fun s _ => keeps_bind (keeps_elemAccess ..) fun x => keeps_bind (keeps_tilesFree ..) fun _ =>
    keeps_bind (keeps_badGranules ..) fun bad =>
    keeps_bind (keeps_elemBytes ..) fun y => keeps_bind (keeps_modify fun s hs => ?_) fun _ => keeps_pure _
  grind [memOk_wrV, memOk_block]

theorem memOk_queueCells {s : State} (l : Loc) (cells : List Host.Cell) (h : MemOk s) : MemOk (s.queueCells l cells) := by
  unfold State.queueCells
  grind [memOk_enqueue]

theorem keeps_vstoreElems (d : VReg) (b : GReg) (size : Nat) (lines odd : Bool) (es : List (Nat × Nat)) (start : Nat) :
    Keeps MemOk (vstoreElems d b size lines odd es start) := by
  unfold vstoreElems
  refine keeps_get_bind fun s _ => keeps_bind (keeps_elemAccess ..) fun x => keeps_bind (keeps_tilesFree ..) fun _ => keeps_get_bind fun s _ =>
    keeps_bind (keeps_roomFor _) fun _ => keeps_bind (keeps_forM (fun e => keeps_storeBytes ..) _) fun _ => keeps_bind (keeps_modify fun s hs =>
      memOk_foldl (fun t g ht => ?_) _ hs) fun _ => keeps_pure _
  grind [memOk_queueCells]

end Sys2Proof.Machine
end

section
/-!
(O55) How a word ends: the outcome of an effect (`run` and its like), and the two halves of a pair, of which each is read before either
commits.
-/
namespace Sys2Proof.Machine

open Safety

-- Sequential: of proofs that run side by side, each that waits for another holds a thread.
set_option Elab.async false

/-- A half whose reading keeps memory in its canonical form, and whose commit, where the reading gives one, does too. -/
structure ReadsWell (m : M Commit) : Prop where
  run : ∀ {s}, MemOk s → MemOk (m s).2 ∧ ∀ c, (m s).1 = .ok c → Keeps MemOk c

theorem readsWell_pure {c : Commit} (hc : Keeps MemOk c) : ReadsWell (pure c : M Commit) :=
  ⟨fun hs => ⟨hs, fun _ e => by cases e; exact hc⟩⟩

theorem readsWell_bind {α : Type} {m : M α} {k : α → M Commit} (hm : Keeps MemOk m) (hk : ∀ a, ReadsWell (k a)) :
    ReadsWell (m >>= k) := by
  constructor
  intro s hs
  have ht := hm.run hs
  change MemOk (match m s with | (x, t) => ExceptT.bindCont k x t : _ × _).2 ∧
    ∀ c, (match m s with | (x, t) => ExceptT.bindCont k x t : _ × _).1 = .ok c → Keeps MemOk c
  rcases hms : m s with ⟨e | a, t⟩ <;> rw [hms] at ht
  · exact ⟨ht, fun c hc => nomatch hc⟩
  · exact (hk a).run ht

theorem keeps_bind_reads {β : Type} {m : M Commit} {k : Commit → M β} (hm : ReadsWell m)
    (hk : ∀ c, Keeps MemOk c → Keeps MemOk (k c)) : Keeps MemOk (m >>= k) := by
  constructor
  intro s hs
  obtain ⟨ht, hc⟩ := hm.run hs
  change MemOk (match m s with | (x, t) => ExceptT.bindCont k x t : _ × _).2
  rcases hms : m s with ⟨e | c, t⟩ <;> rw [hms] at ht hc
  · exact ht
  · exact (hk c (hc c rfl)).run ht

theorem readsWell_commit {f : State → State} (hf : ∀ s, MemOk s → MemOk (f s)) : ReadsWell (commit f) :=
  readsWell_pure (keeps_bind (keeps_modify hf) fun _ => keeps_pure _)
theorem readsWell_halfInt (d : GReg) (f : State → Word) : ReadsWell (halfInt d f) :=
  readsWell_bind keeps_get fun _ => readsWell_commit fun _ h => memOk_wrI _ _ _ h

theorem readsWell_halfFp (d a : Fin 64) (f : Bool → Lane → Lane → FRes) : ReadsWell (halfFp d a f) :=
  readsWell_bind keeps_get fun _ => readsWell_pure <|
    keeps_bind (keeps_modify fun _ h => memOk_wrV _ _ _ h) fun _ => keeps_raiseFlags ..

theorem readsWell_readHld (d a : GReg) (imm : BitVec 13) : ReadsWell (readHld d a imm) :=
  readsWell_bind keeps_get fun _ => readsWell_bind (keeps_halfAccess ..) fun _ =>
    readsWell_bind (keeps_loadBytes ..) fun _ => readsWell_commit fun _ h => memOk_wrI _ _ _ h

theorem readsWell_readHst (d a : GReg) (imm : BitVec 13) : ReadsWell (readHst d a imm) :=
  readsWell_bind keeps_get fun _ => readsWell_bind (keeps_halfAccess ..) fun _ => readsWell_bind (keeps_roomFor ..) fun _ =>
    readsWell_pure (keeps_bind (keeps_storeBytes ..) fun _ => keeps_pure _)

theorem readsWell_halfRead (i : Instr) : ReadsWell (halfRead i) := by
  unfold halfRead
  split
  case h_2 | h_3 | h_4 | h_5 | h_6 | h_7 | h_8 | h_10 | h_11 | h_12 | h_13 | h_14 => exact readsWell_halfInt ..
  case h_9 => exact readsWell_bind keeps_get fun _ => readsWell_commit fun _ h => memOk_wrG _ _ _ h
  case h_15 | h_16 => exact readsWell_halfFp ..
  case h_17 => exact readsWell_bind keeps_get fun _ => readsWell_commit fun _ h => memOk_wrV _ _ _ h
  case h_18 | h_19 => exact readsWell_bind keeps_get fun _ => readsWell_commit fun _ h => memOk_wrK _ _ _ h
  case h_20 => exact readsWell_readHld ..
  case h_21 => exact readsWell_readHst ..
  case h_1 | h_22 => exact readsWell_commit fun _ h => h

theorem keeps_pairBody (h1 h0 : Instr) : Keeps MemOk (pairBody h1 h0) := by
  unfold pairBody
  exact keeps_bind (keeps_atHalf _) fun _ => keeps_bind_reads (readsWell_halfRead h1) fun c1 hc1 =>
    keeps_bind (keeps_atHalf _) fun _ => keeps_bind_reads (readsWell_halfRead h0) fun c0 hc0 =>
    keeps_bind (keeps_atHalf _) fun _ => keeps_bind hc1 fun _ => keeps_bind (keeps_atHalf _) fun _ => keeps_bind hc0 fun _ =>
    keeps_bind (keeps_atHalf _) fun _ => keeps_pure _

theorem nextOk_run {s : State} {m : M Unit} (hm : Keeps MemOk m) (h : MemOk s) : NextOk (run m s) :=
  nextOk_next (memOk_finishWith (hm.run h))

theorem nextOk_runTo {s : State} {m : M (Option (BitVec 12))} (hm : Keeps MemOk m) (h : MemOk s) : NextOk (runTo m s) := by
  have ht := hm.run h
  unfold runTo
  split <;> rename_i hms <;> rw [hms] at ht
  · exact nextOk_next (memOk_finish _ _ _ ht)
  · exact nextOk_next (memOk_trapPrecise _ ht)
  · exact nextOk_next (memOk_holdAt _ ht)
  · exact nextOk_next (memOk_deliver ht)

theorem nextOk_runRaw {s : State} {m : M Unit} (hm : Keeps MemOk m) (h : MemOk s) : NextOk (runRaw m s) := by
  have ht := hm.run h
  unfold runRaw
  split <;> rename_i hms <;> rw [hms] at ht
  · exact nextOk_next ht
  · exact nextOk_next (memOk_trapPrecise _ ht)
  · exact nextOk_next (memOk_holdAt _ ht)
  · exact nextOk_next (memOk_deliver ht)

theorem nextOk_runRing {s : State} {body : Nat → M (Option VFault)} (hb : ∀ n, Keeps MemOk (body n)) (h : MemOk s) : NextOk (runRing body s) :=
  nextOk_run (keeps_ringWordM hb) h
theorem nextOk_runVec {s : State} {f : State → State} (hf : ∀ t, MemOk t → MemOk (f t)) (h : MemOk s) : NextOk (runVec f s) :=
  nextOk_runRing (fun _ => keeps_bind (keeps_modify hf) fun _ => keeps_pure _) h
theorem nextOk_runMtx {s : State} {m : M Unit} (hm : Keeps MemOk m) (h : MemOk s) : NextOk (runMtx m s) :=
  nextOk_runRing (fun _ => keeps_bind hm fun _ => keeps_pure _) h
theorem nextOk_runHalf {s : State} {m : M Commit} (hm : ReadsWell m) (h : MemOk s) : NextOk (runHalf m s) :=
  nextOk_run (keeps_bind_reads hm fun _ hc => keeps_bind hc fun _ => keeps_pure _) h
theorem nextOk_runVecHalf {s : State} {m : M Commit} (hm : ReadsWell m) (h : MemOk s) : NextOk (runVecHalf m s) :=
  nextOk_runRing (fun _ => keeps_bind_reads hm fun _ hc => hc) h

theorem nextOk_execPair {s : State} (h1 h0 : Instr) (h : MemOk s) : NextOk (execPair h1 h0 s) := by
  unfold execPair
  split
  · exact nextOk_runRing (fun _ => keeps_pairBody h1 h0) ((keeps_atHalf _).run h)
  · exact nextOk_run (keeps_bind (keeps_pairBody h1 h0) fun _ => keeps_pure _) h

theorem memOk_ite {c : Prop} [Decidable c] {s t : State} (hs : MemOk s) (ht : MemOk t) : MemOk (if c then s else t) := by
  split <;> assumption
theorem memOk_turnOf {s : State} (n : Nat) (h : MemOk s) : MemOk (s.turnOf n) := h

theorem memOk_answerIf {s u : State} (ok : Bool) (bs : List Byte) (h : MemOk s) (hu : MemOk u) : MemOk (s.answerIf ok u bs).next := by
  unfold State.answerIf
  split
  · exact hu
  · exact h

theorem memOk_reset : MemOk State.reset := rfl

theorem memOk_shellReady_some {s t u : State} {j : Job} (h : MemOk s) (hr : s.shellReady j = (some t, u)) : MemOk t := by
  unfold State.shellReady at hr
  split at hr
  · cases hr
    exact h
  · have hg := memOk_jobGrants j h
    split at hr <;> rename_i heq <;> rw [heq] at hg <;> cases hr
    exact calm_updJ calm_memOk _ _ hg

end Sys2Proof.Machine
end

section
/-!
(O55) The words and steps whose meanings stand first: matrix-engine steps, atomics, branches, capabilities, barriers and ports. An
outcome `nextOk_f` of each.
-/
namespace Sys2Proof.Machine

open Safety

-- Sequential: of proofs that run side by side, each that waits for another holds a thread.
set_option Elab.async false

theorem nextOk_execPostAccept {s : State} (h : MemOk s) (core : Nat) : NextOk (execPostAccept core s) := by
  unfold execPostAccept
  grind [nextOk_next, memOk_mk]

theorem nextOk_execPassGrant {s : State} (h : MemOk s) (me : Nat) : NextOk (execPassGrant me s) := by
  unfold execPassGrant
  grind [nextOk_next, memOk_markReady, memOk_grantEntryMe]

theorem nextOk_execGangStart {s : State} (h : MemOk s) (cluster : Nat) : NextOk (execGangStart cluster s) := by
  unfold execGangStart
  grind [nextOk_next, memOk_gangStep]

theorem nextOk_execGangLatchTimeout {s : State} (h : MemOk s) (me id : Nat) : NextOk (execGangLatchTimeout me id s) := by
  unfold execGangLatchTimeout
  grind [nextOk_next, memOk_meFail]

theorem nextOk_execPassComplete {s : State} (h : MemOk s) (me : Nat) : NextOk (execPassComplete me s) := by
  unfold execPassComplete
  grind [nextOk_next, memOk_completeEntry]

theorem nextOk_execMtblArrive {s : State} (h : MemOk s) (me : Nat) : NextOk (execMtblArrive me s) := by
  unfold execMtblArrive
  grind [nextOk_next, memOk_updM]

theorem nextOk_execAmo {s : State} (h : MemOk s) (op : AmoOp) (size : AtSize) (order : Order) (d a b : GReg) :
    NextOk (execAmo op size order d a b s) := by
  unfold execAmo
  grind [keeps_atomTo, nextOk_run]

theorem nextOk_execAmof {s : State} (h : MemOk s) (op : AmofOp) (order : Order) (d a b : GReg) : NextOk (execAmof op order d a b s) := by
  unfold execAmof
  grind [keeps_atomTo, nextOk_run]

theorem nextOk_execCas {s : State} (h : MemOk s) (size : AtSize) (order : Order) (d a b : GReg) : NextOk (execCas size order d a b s) := by
  unfold execCas
  grind [keeps_atomTo, nextOk_run]

theorem nextOk_execLdaq {s : State} (h : MemOk s) (size : AtSize) (scope : Scope) (d b : GReg) : NextOk (execLdaq size scope d b s) := by
  unfold execLdaq
  grind [keeps_get_bind, keeps_get, keeps_bind, keeps_inOrder, keeps_loadBytes, keeps_setI, keeps_acquireOpt, nextOk_run, keeps_atomAt,
    keeps_atomCheck]

theorem nextOk_execStrl {s : State} (h : MemOk s) (size : AtSize) (scope : Scope) (a b : GReg) : NextOk (execStrl size scope a b s) := by
  unfold execStrl
  grind [keeps_get_bind, keeps_get, keeps_bind, keeps_roomFor, keeps_markerOpt, keeps_releaseM, keeps_storeBytes, nextOk_run, keeps_atomCheck]

theorem nextOk_execAmonr {s : State} (h : MemOk s) (op : AmoOp) (size : AtSize) (order : Order) (a b : GReg) :
    NextOk (execAmonr op size order a b s) := by
  unfold execAmonr
  grind [keeps_pure, keeps_modify, keeps_get_bind, keeps_get, keeps_bind, keeps_roomFor, memOk_enqueue, keeps_raiseIf, keeps_markerOpt,
    keeps_releaseOpt, nextOk_run, keeps_atomAt, keeps_atomCheck]

theorem nextOk_execBr {s : State} (h : MemOk s) (off : BitVec 17) : NextOk (execBr off s) := by
  unfold execBr
  grind [nextOk_next, memOk_finish]

theorem nextOk_execBcc {s : State} (h : MemOk s) (a b : GReg) (off : BitVec 17) : NextOk (execBcc a b off s) := by
  unfold execBcc
  grind [nextOk_next, memOk_branchEnd]

theorem nextOk_execBk {s : State} (h : MemOk s) (a b : KReg) (off : BitVec 17) : NextOk (execBk a b off s) := by
  unfold execBk
  grind [nextOk_next, memOk_branchEnd]

theorem nextOk_execCall {s : State} (h : MemOk s) (off : BitVec 17) : NextOk (execCall off s) := by
  unfold execCall
  grind [nextOk_next, memOk_link, memOk_finish]

theorem nextOk_execCallr {s : State} (h : MemOk s) (a : GReg) : NextOk (execCallr a s) := by
  unfold execCallr
  grind [nextOk_next, memOk_link, memOk_finish]

theorem nextOk_execRet {s : State} (h : MemOk s) : NextOk (execRet s) := by
  unfold execRet
  grind [nextOk_next, memOk_finish]

theorem nextOk_execJmpr {s : State} (h : MemOk s) (a : GReg) : NextOk (execJmpr a s) := by
  unfold execJmpr
  grind [nextOk_next, memOk_jumpItem, memOk_branchOwn]

theorem nextOk_execLoop {s : State} (h : MemOk s) (a : GReg) (off : BitVec 17) : NextOk (execLoop a off s) := by
  unfold execLoop
  grind [nextOk_next, memOk_branchEnd, memOk_wrI]

theorem nextOk_execCget {s : State} (h : MemOk s) (d a : GReg) (field : CapField) : NextOk (execCget d a field s) := by
  unfold execCget
  grind [keeps_get_bind, keeps_get, keeps_bind, keeps_capLive, keeps_setI, nextOk_run]

theorem nextOk_execCseta {s : State} (h : MemOk s) (d a b : GReg) : NextOk (execCseta d a b s) := by
  unfold execCseta
  grind [keeps_modify, memOk_wrG, nextOk_run]

theorem nextOk_execCadd {s : State} (h : MemOk s) (d a : GReg) (imm : BitVec 17) : NextOk (execCadd d a imm s) := by
  unfold execCadd
  grind [keeps_modify, memOk_wrG, nextOk_run]

theorem nextOk_execCandp {s : State} (h : MemOk s) (d a : GReg) (perms : BitVec 12) : NextOk (execCandp d a perms s) := by
  unfold execCandp
  grind [keeps_modify, memOk_wrG, nextOk_run]

theorem nextOk_execCfrom {s : State} (h : MemOk s) (d a b : GReg) : NextOk (execCfrom d a b s) := by
  unfold execCfrom
  grind [keeps_pure, keeps_get_bind, keeps_get, keeps_bind, keeps_grantId, keeps_raiseIf, keeps_capcheck, nextOk_run, keeps_setG, keeps_grantEntry]

theorem nextOk_execCclr {s : State} (h : MemOk s) (d a : GReg) : NextOk (execCclr d a s) := by
  unfold execCclr
  grind [keeps_modify, memOk_wrG, nextOk_run]

theorem nextOk_execCchk {s : State} (h : MemOk s) (d a b : GReg) : NextOk (execCchk d a b s) := by
  unfold execCchk
  refine nextOk_run (keeps_get_bind fun s hs => ?_) h
  dsimp only
  split <;> rename_i heq <;> refine keeps_bind (keeps_set ((keeps_capcheck ..).left heq hs)) fun _ => ?_
  · exact keeps_setI ..
  · exact keeps_ite (keeps_setI ..) (keeps_throw _)
  · exact keeps_throw _

theorem nextOk_execFence {s : State} (h : MemOk s) (kind : FenceKind) (scope : Scope) : NextOk (execFence kind scope s) := by
  unfold execFence
  grind [keeps_modify, keeps_bind, keeps_roomFor, keeps_markerOpt, memOk_flushStack, keeps_acquireOpt, nextOk_run, keeps_performM]

theorem nextOk_execBinit {s : State} (h : MemOk s) (a : GReg) (bar : BitVec 8) : NextOk (execBinit a bar s) := by
  unfold execBinit
  grind [keeps_get_bind, keeps_get, keeps_bind, keeps_set, keeps_raiseIf, calm_admitHeld calm_memOk, calm_setBar calm_memOk, nextOk_run,
    memOk_block, calm_testBar calm_memOk]

theorem nextOk_execBexp {s : State} (h : MemOk s) (a : GReg) (bar : BitVec 8) : NextOk (execBexp a bar s) := by
  unfold execBexp
  refine nextOk_run (keeps_get_bind fun s _ => keeps_bind (keeps_modify fun t ht => memOk_drainAll _ ht) fun _ => keeps_get_bind fun s hs =>
    keeps_bind (keeps_holdIf ..) fun _ => ?_) h
  exact keeps_ite (keeps_set (memOk_block _ (calm_testBar calm_memOk _ _ _ (calm_setBar calm_memOk _ _ _ _ hs))))
    (keeps_bind (keeps_set (calm_breakBar calm_memOk _ _ _ hs)) fun _ => keeps_raise ..)

theorem nextOk_execBarr {s : State} (h : MemOk s) (d : GReg) (bar : BitVec 8) : NextOk (execBarr d bar s) := by
  unfold execBarr
  refine nextOk_run (keeps_get_bind fun s _ => keeps_get_bind fun s _ => keeps_bind (keeps_wokenFrom _) fun w => ?_) h
  dsimp only
  split
  · exact keeps_setI ..
  refine keeps_get_bind fun s _ => keeps_bind (keeps_holdIf ..) fun _ => keeps_bind (keeps_releaseM _) fun _ => keeps_get_bind fun s hs =>
    keeps_bind (keeps_raiseIf ..) fun _ => keeps_bind (keeps_raiseIf ..) fun _ => keeps_ite ?_ ?_
  · exact keeps_bind (keeps_set (calm_testBar calm_memOk _ _ _ (calm_setBar calm_memOk _ _ _ _ hs))) fun _ =>
      keeps_bind (keeps_setI ..) fun _ => keeps_modify fun t ht => memOk_block _ ht
  · exact keeps_bind (keeps_set (calm_setBar calm_memOk _ _ _ _ hs)) fun _ => keeps_holdOn _

theorem nextOk_execBwait {s : State} (h : MemOk s) (a : GReg) (bar : BitVec 8) : NextOk (execBwait a bar s) := by
  unfold execBwait
  grind [keeps_get_bind, keeps_get, keeps_bind, keeps_wokenFrom, keeps_raiseIf, keeps_holdOn, keeps_acquireOpt, nextOk_run]

theorem nextOk_execWaitm {s : State} (h : MemOk s) (size : AtSize) (scope : Scope) (d a b : GReg) : NextOk (execWaitm size scope d a b s) := by
  unfold execWaitm
  refine nextOk_run (keeps_get_bind fun s _ => ?_) h
  have htail (l : Loc) (ea n : Nat) (want : Word) : Keeps MemOk (do
      let v ← waitmRead l ea n
      if v = want then holdOn (.memory l.key (capGid (s.rdG b)))
      else do
        modify (·.block 0x173)
        setI d v
        acquireOpt (some scope)) :=
    keeps_bind (keeps_waitmRead ..) fun _ => keeps_ite (keeps_holdOn _) <| keeps_bind (keeps_modify fun t ht => memOk_block _ ht) fun _ =>
      keeps_bind (keeps_setI ..) fun _ => keeps_acquireOpt _
  dsimp only
  split
  · exact keeps_bind (keeps_locateM ..) fun l => keeps_bind (keeps_raiseIf ..) fun _ => htail ..
  · exact keeps_bind (keeps_waitmCheck ..) fun l => htail ..

theorem nextOk_execMsend {s : State} (h : MemOk s) (async core : Bool) (port : BitVec 3) (a b : GReg) :
    NextOk (execMsend async core port a b s) := by
  unfold execMsend
  exact nextOk_run (keeps_guard keeps_privileged <| keeps_bind keeps_stepLocalPost fun _ => keeps_get_bind fun s _ =>
    keeps_bind (keeps_locateM ..) fun l =>
    keeps_bind (keeps_raiseIf ..) fun _ => keeps_bind (keeps_roomFor _) fun _ => keeps_modify fun t ht => memOk_enqueue _ _ ht) h

theorem nextOk_execPget {s : State} (h : MemOk s) (d : GReg) (port : BitVec 3) : NextOk (execPget d port s) := by
  unfold execPget
  grind [keeps_modify, keeps_get_bind, keeps_get, keeps_bind, memOk_applyAsync, memOk_upd, keeps_holdIf, keeps_setI, nextOk_run]

end Sys2Proof.Machine
end

section
/-!
(O55) The outcomes of the MTX, VCVT, VDOT, VSFU and ENG groups, of GNEW and GREV, and of the steps of the engines.
-/
namespace Sys2Proof.Machine

open Safety

-- Sequential: of proofs that run side by side, each that waits for another holds a thread.
set_option Elab.async false

theorem nextOk_execMfmt {s : State} (h : MemOk s) (b : GReg) : NextOk (execMfmt b s) := by
  unfold execMfmt
  grind [keeps_modify, keeps_get_bind, keeps_get, keeps_bind, memOk_upd, keeps_raiseIf, nextOk_runMtx, keeps_capcheck]

theorem nextOk_execMgang {s : State} (h : MemOk s) (d a b : GReg) (n : BitVec 3) : NextOk (execMgang d a b n s) := by
  unfold execMgang
  grind [keeps_modify, keeps_get_bind, keeps_get, keeps_bind, memOk_upd, nextOk_runMtx, keeps_setI]

theorem nextOk_execMpass {s : State} (h : MemOk s) (d a b : GReg) (gang : Bool) : NextOk (execMpass d a b gang s) := by
  unfold execMpass
  exact nextOk_run (keeps_bind (keeps_ringWordM fun _ => keeps_bind (keeps_passPost ..) fun _ => keeps_pure _) fun _ =>
    keeps_ite (keeps_modify fun t ht => memOk_joinGang _ ht) (keeps_pure _)) h

theorem nextOk_execMlist {s : State} (h : MemOk s) (d a b : GReg) : NextOk (execMlist d a b s) := by
  unfold execMlist
  exact nextOk_runMtx (keeps_bind keeps_readFmt fun f => keeps_get_bind fun s _ => keeps_bind (keeps_formatIf ..) fun _ =>
    keeps_bind (keeps_listOperands ..) fun x =>
    keeps_bind (keeps_releaseM _) fun _ => keeps_bind (keeps_postEntry ..) fun _ => keeps_modify fun t ht => memOk_firstListEntry _ _ ht) h

theorem nextOk_execMzero {s : State} (h : MemOk s) (tile cm1 : BitVec 6) (me : BitVec 3) : NextOk (execMzero tile cm1 me s) := by
  unfold execMzero
  grind [keeps_pure, keeps_bind, nextOk_runMtx, keeps_postEntry]

theorem nextOk_execMldc {s : State} (h : MemOk s) (d b : GReg) : NextOk (execMldc d b s) := by
  unfold execMldc
  grind [keeps_pure, keeps_bind, nextOk_runMtx, keeps_postEntry, keeps_tileCheck]

theorem nextOk_execMstc {s : State} (h : MemOk s) (d a b : GReg) : NextOk (execMstc d a b s) := by
  unfold execMstc
  grind [keeps_pure, keeps_bind, nextOk_runMtx, keeps_postEntry, keeps_tileCheck]

theorem nextOk_execMwait {s : State} (h : MemOk s) (n : BitVec 6) : NextOk (execMwait n s) := by
  unfold execMwait
  grind [keeps_get, keeps_bind, nextOk_runMtx, keeps_holdIf, keeps_acquireOpt]

theorem nextOk_execMtbl {s : State} (h : MemOk s) (me tbl : BitVec 3) (b : GReg) : NextOk (execMtbl me tbl b s) := by
  unfold execMtbl
  exact nextOk_runMtx (keeps_get_bind fun s _ => keeps_bind (keeps_capcheck ..) fun _ => keeps_bind (keeps_stepLocal _) fun _ =>
    keeps_bind (keeps_raiseIf ..) fun _ =>
    keeps_bind (keeps_locateM ..) fun _ => keeps_bind (keeps_raiseIf ..) fun _ => keeps_bind (keeps_readBlock ..) fun _ => keeps_modify fun t ht =>
      memOk_updM _ _ ht) h

theorem nextOk_execMqry {s : State} (h : MemOk s) (d a : GReg) (what : MqWhat) (clr : Bool) : NextOk (execMqry d a what clr s) := by
  unfold execMqry
  grind [keeps_modify, keeps_get_bind, keeps_get, keeps_bind, keeps_set, memOk_updM, nextOk_runMtx, keeps_setI, memOk_block]

theorem nextOk_execVcvt {s : State} (h : MemOk s) (k : KReg) (d a : VReg) (src dst : Fmt) (rm : Rm) (sat : Bool) (slot : BitVec 3) (tbl : BitVec 2) :
    NextOk (execVcvt k d a src dst rm sat slot tbl s) := by
  unfold execVcvt
  grind [keeps_fpVec, nextOk_runRing]

theorem nextOk_execVcvtsr {s : State} (h : MemOk s) (k : KReg) (d a b : VReg) (dst : Fmt) (sat : Bool) (slot : BitVec 3) :
    NextOk (execVcvtsr k d a b dst sat slot s) := by
  unfold execVcvtsr
  grind [keeps_fpVec, nextOk_runRing]

theorem nextOk_execVpack {s : State} (h : MemOk s) (k : KReg) (d a : VReg) (ty : PackType) (sat : Bool) : NextOk (execVpack k d a ty sat s) := by
  unfold execVpack
  grind [nextOk_runVec, memOk_wrV]

theorem nextOk_execVunpk {s : State} (h : MemOk s) (k : KReg) (d a : VReg) (ty : PackType) : NextOk (execVunpk k d a ty s) := by
  unfold execVunpk
  grind [memOk_foldl, memOk_upd, nextOk_runVec]

theorem nextOk_execVscale {s : State} (h : MemOk s) (k : KReg) (d a : VReg) (b : VSrc) (inv : Bool) (e8 : Option (BitVec 2)) :
    NextOk (execVscale k d a b inv e8 s) := by
  unfold execVscale
  grind [keeps_fpVec, nextOk_runRing]

theorem nextOk_execVrint {s : State} (h : MemOk s) (k : KReg) (d a : VReg) (rm : Rm) (x : Bool) : NextOk (execVrint k d a rm x s) := by
  unfold execVrint
  grind [keeps_fpVec, nextOk_runRing]

theorem nextOk_execVbscale {s : State} (h : MemOk s) (k : KReg) (d : GReg) (a : VReg) (target : BsTarget) (b32 : Bool) :
    NextOk (execVbscale k d a target b32 s) := by
  unfold execVbscale
  grind [memOk_wrI, nextOk_runVec]

theorem nextOk_dotInt {s : State} (h : MemOk s) (k : KReg) (d a : VReg) (b : VSrc) (w : Nat) (as bs : Bool) :
    NextOk (dotInt k d a b w as bs s) := by
  unfold dotInt
  grind [nextOk_runVec, memOk_wrV]

theorem nextOk_execVdot4 {s : State} (h : MemOk s) (k : KReg) (d a : VReg) (b : VSrc) (as bs : Bool) : NextOk (execVdot4 k d a b as bs s) :=
  nextOk_dotInt h ..
theorem nextOk_execVdot8 {s : State} (h : MemOk s) (k : KReg) (d a : VReg) (b : VSrc) (as bs : Bool) : NextOk (execVdot8 k d a b as bs s) :=
  nextOk_dotInt h ..

theorem nextOk_execVdoth {s : State} (h : MemOk s) (k : KReg) (d a : VReg) (b : VSrc) (f16 : Bool) : NextOk (execVdoth k d a b f16 s) := by
  unfold execVdoth
  grind [keeps_fpVec, nextOk_runRing]

theorem nextOk_execVdott {s : State} (h : MemOk s) (k : KReg) (d a : VReg) (b : VSrc) (tbl : BitVec 2) (half : Bool) :
    NextOk (execVdott k d a b tbl half s) := by
  unfold execVdott
  grind [keeps_fpVec, nextOk_runRing]

theorem nextOk_execVtblw {s : State} (h : MemOk s) (tbl : BitVec 2) (a : VReg) : NextOk (execVtblw tbl a s) := by
  unfold execVtblw
  grind [memOk_upd, nextOk_runVec]

theorem nextOk_sfuWord {s : State} (h : MemOk s) (k : KReg) (d a : VReg) (f : Bool → Lane → FRes) : NextOk (sfuWord k d a f s) := by
  unfold sfuWord
  grind [keeps_bind, keeps_sfuTake, keeps_fpVec, nextOk_runRing]

theorem nextOk_execVrcp {s : State} (h : MemOk s) (k : KReg) (d a : VReg) : NextOk (execVrcp k d a s) :=
  nextOk_sfuWord h ..
theorem nextOk_execVrsq {s : State} (h : MemOk s) (k : KReg) (d a : VReg) : NextOk (execVrsq k d a s) :=
  nextOk_sfuWord h ..
theorem nextOk_execVexp2 {s : State} (h : MemOk s) (k : KReg) (d a : VReg) : NextOk (execVexp2 k d a s) :=
  nextOk_sfuWord h ..
theorem nextOk_execVlog2 {s : State} (h : MemOk s) (k : KReg) (d a : VReg) : NextOk (execVlog2 k d a s) :=
  nextOk_sfuWord h ..
theorem nextOk_execVsinpi {s : State} (h : MemOk s) (k : KReg) (d a : VReg) : NextOk (execVsinpi k d a s) :=
  nextOk_sfuWord h ..
theorem nextOk_execVcospi {s : State} (h : MemOk s) (k : KReg) (d a : VReg) : NextOk (execVcospi k d a s) :=
  nextOk_sfuWord h ..
theorem nextOk_execVtanh {s : State} (h : MemOk s) (k : KReg) (d a : VReg) : NextOk (execVtanh k d a s) :=
  nextOk_sfuWord h ..
theorem nextOk_execVsigm {s : State} (h : MemOk s) (k : KReg) (d a : VReg) : NextOk (execVsigm k d a s) :=
  nextOk_sfuWord h ..
theorem nextOk_execVerf {s : State} (h : MemOk s) (k : KReg) (d a : VReg) : NextOk (execVerf k d a s) :=
  nextOk_sfuWord h ..
theorem nextOk_execVgumb {s : State} (h : MemOk s) (k : KReg) (d a : VReg) : NextOk (execVgumb k d a s) :=
  nextOk_sfuWord h ..

theorem nextOk_execVrng {s : State} (h : MemOk s) (k : KReg) (d a : VReg) (b : GReg) : NextOk (execVrng k d a b s) := by
  unfold execVrng
  grind [keeps_pure, keeps_modify, keeps_get_bind, keeps_get, keeps_bind, memOk_upd, keeps_sfuTake, nextOk_runRing]

theorem nextOk_execVfdiv {s : State} (h : MemOk s) (k : KReg) (d a : VReg) (b : VSrc) : NextOk (execVfdiv k d a b s) := by
  unfold execVfdiv
  grind [keeps_bind, keeps_sfuTake, keeps_fpVec, nextOk_runRing]

theorem nextOk_execVfsqrt {s : State} (h : MemOk s) (k : KReg) (d a : VReg) : NextOk (execVfsqrt k d a s) := by
  unfold execVfsqrt
  grind [keeps_bind, keeps_sfuTake, keeps_fpVec, nextOk_runRing]

theorem nextOk_execEpost {s : State} (h : MemOk s) (d a b : GReg) : NextOk (execEpost d a b s) := by
  unfold execEpost
  refine nextOk_run (keeps_get_bind fun s _ => ?_) h
  dsimp only
  split
  · exact keeps_setI ..
  · exact keeps_holdOn _
  refine keeps_bind (keeps_epostCard ..) fun x => keeps_ite ?_ ?_
  · exact keeps_bind (keeps_resumePost ..) fun _ => keeps_bind (keeps_releaseM _) fun _ =>
      keeps_bind (keeps_modify fun t ht => memOk_block _ (calm_updJ calm_memOk _ _ ht)) fun _ => keeps_setI ..
  · refine keeps_bind (keeps_cardJob ..) fun j => keeps_bind (keeps_releaseM _) fun _ => keeps_bind (keeps_takeSlot ..) fun y =>
      keeps_get_bind fun s _ => ?_
    exact keeps_ite (keeps_bind (keeps_modify fun t ht => memOk_combine _ ht) fun _ => keeps_holdOn _) <|
      keeps_ite (keeps_bind (keeps_modify fun t ht => ht) fun _ => keeps_holdOn _) <|
        keeps_bind (keeps_modify fun t ht => memOk_block _ (memOk_registerJob _ ht)) fun _ => keeps_setI ..

theorem nextOk_execEwait {s : State} (h : MemOk s) (d a : GReg) : NextOk (execEwait d a s) := by
  unfold execEwait
  grind [keeps_get_bind, keeps_get, keeps_bind, keeps_holdIf, keeps_setI, keeps_acquireOpt, nextOk_run]

theorem nextOk_execEcan {s : State} (h : MemOk s) (d a : GReg) : NextOk (execEcan d a s) := by
  unfold execEcan
  refine nextOk_run (keeps_get_bind fun s _ => ?_) h
  dsimp only
  split
  · exact keeps_bind (keeps_modify fun t ht => memOk_block _ (calm_endJob calm_memOk _ _ ht)) fun _ => keeps_setI ..
  · exact keeps_setI ..

theorem nextOk_execEstat {s : State} (h : MemOk s) (d a : GReg) : NextOk (execEstat d a s) := by
  unfold execEstat
  grind [keeps_modify, keeps_get_bind, keeps_get, keeps_bind, keeps_setI, nextOk_run, memOk_block]

theorem nextOk_execCombineWindowExpiry {s : State} (h : MemOk s) (idx : Nat) : NextOk (execCombineWindowExpiry idx s) := by
  unfold execCombineWindowExpiry
  grind [nextOk_next, memOk_mk]

theorem nextOk_execPostAcceptance {s : State} (h : MemOk s) (core : Nat) : NextOk (execPostAcceptance core s) := by
  unfold execPostAcceptance
  grind [nextOk_next, memOk_mk, memOk_forward]

theorem nextOk_execCopy {s : State} (h : MemOk s) (idx : Nat) : NextOk (execCopy idx s) := by
  unfold execCopy
  grind [nextOk_next, memOk_forward]

theorem nextOk_execGather {s : State} (h : MemOk s) (idx : Nat) : NextOk (execGather idx s) := by
  unfold execGather
  grind [nextOk_next, memOk_forward]

theorem nextOk_execScatter {s : State} (h : MemOk s) (idx : Nat) : NextOk (execScatter idx s) := by
  unfold execScatter
  grind [nextOk_next, memOk_forward]

theorem nextOk_execFill {s : State} (h : MemOk s) (idx : Nat) : NextOk (execFill idx s) := by
  unfold execFill
  grind [nextOk_next, memOk_forward]

theorem nextOk_execIload {s : State} (h : MemOk s) (idx : Nat) : NextOk (execIload idx s) := by
  unfold execIload
  grind [nextOk_next, memOk_forward]

theorem nextOk_execConvert {s : State} (h : MemOk s) (idx : Nat) : NextOk (execConvert idx s) := by
  unfold execConvert
  grind [nextOk_next, memOk_forward]

theorem nextOk_execRoute {s : State} (h : MemOk s) (idx : Nat) : NextOk (execRoute idx s) := by
  unfold execRoute
  grind [nextOk_next, memOk_forward]

theorem nextOk_execResume {s : State} (h : MemOk s) (id : Nat) : NextOk (execResume id s) := by
  unfold execResume
  grind [nextOk_next, memOk_startOn]

theorem nextOk_execJobStart {s : State} (h : MemOk s) (eng : Nat) : NextOk (execJobStart eng s) := by
  unfold execJobStart
  grind [nextOk_next, memOk_startOn]

theorem nextOk_execJobComplete {s : State} (h : MemOk s) (eng : Nat) : NextOk (execJobComplete eng s) := by
  unfold execJobComplete
  grind [nextOk_next, calm_endJob calm_memOk, calm_jobRun calm_memOk]

theorem nextOk_execRouteToken {s : State} (h : MemOk s) (die : Nat) : NextOk (execRouteToken die s) := by
  unfold execRouteToken
  grind [nextOk_next, calm_jobRun calm_memOk]

theorem nextOk_execSieveDeadlock {s : State} (h : MemOk s) (die : Nat) : NextOk (execSieveDeadlock die s) := by
  unfold execSieveDeadlock
  grind [nextOk_next, calm_parkJob calm_memOk]

theorem nextOk_execGnew {s : State} (h : MemOk s) (d a b : GReg) : NextOk (execGnew d a b s) := by
  unfold execGnew
  refine nextOk_run (keeps_bind keeps_privileged fun _ => keeps_bind keeps_grantDone fun r => ?_) h
  split
  · exact keeps_bind (keeps_grantWait ..) fun _ => keeps_setG ..
  · exact keeps_get_bind fun s _ => keeps_bind (keeps_capcheck ..) fun _ => keeps_bind (keeps_stepLocal _) fun _ =>
      keeps_bind (keeps_raiseIf ..) fun _ =>
      keeps_bind (keeps_grantId _) fun _ => keeps_bind (keeps_readBlock ..) fun _ => keeps_bind (keeps_entryPlace _) fun _ =>
        keeps_get_bind fun s _ =>
      keeps_bind (keeps_modify fun t ht => memOk_block _ (memOk_entryWritten _ (memOk_putEntry _ _ (memOk_putEntry _ _ ht)))) fun _ =>
      keeps_bind (keeps_grantWait ..) fun _ => keeps_setG ..

theorem nextOk_execGrev {s : State} (h : MemOk s) (d a : GReg) : NextOk (execGrev d a s) := by
  unfold execGrev
  refine nextOk_run (keeps_bind keeps_privileged fun _ => keeps_bind keeps_grantDone fun r => ?_) h
  split
  · exact keeps_bind (keeps_grantWait ..) fun _ => keeps_setG ..
  · exact keeps_bind (keeps_grantId _) fun _ => keeps_bind (keeps_entryPlace _) fun _ => keeps_get_bind fun s _ =>
      keeps_bind (keeps_modify fun t ht => memOk_block _ (memOk_entryWritten _ (memOk_putEntry _ _ ht))) fun _ =>
      keeps_bind (keeps_grantWait ..) fun _ => keeps_setG ..

end Sys2Proof.Machine
end

section
/-!
(O55) The outcomes of saves and restores, budgets, the STEP, SYS and TASK groups, the steps of hardware and Hamper, and the host link.
-/
namespace Sys2Proof.Machine

open Safety

-- Sequential: of proofs that run side by side, each that waits for another holds a thread.
set_option Elab.async false

theorem nextOk_execSaveDeadline {s : State} (h : MemOk s) (ctx : Nat) : NextOk (execSaveDeadline ctx s) := by
  unfold execSaveDeadline
  grind [nextOk_next, memOk_mk, memOk_stashAll, calm_updX calm_memOk]

theorem nextOk_execSecondDeadline {s : State} (h : MemOk s) (ctx : Nat) : NextOk (execSecondDeadline ctx s) := by
  unfold execSecondDeadline
  grind [nextOk_next, memOk_forceReset]

theorem nextOk_execBudgetExhausted {s : State} (h : MemOk s) (ctx which : Nat) : NextOk (execBudgetExhausted ctx which s) := by
  unfold execBudgetExhausted
  grind [nextOk_next, memOk_chargeCores, memOk_startLadder, calm_updX calm_memOk]

theorem nextOk_execBudgetPeriod {s : State} (h : MemOk s) (ctx : Nat) : NextOk (execBudgetPeriod ctx s) := by
  unfold execBudgetPeriod
  grind [nextOk_next, memOk_endLadder, calm_updX calm_memOk, memOk_reportDrops]

theorem nextOk_execCtxset {s : State} (h : MemOk s) : NextOk (execCtxset s) := by
  unfold execCtxset
  grind [nextOk_next, calm_updX calm_memOk, calm_endJob calm_memOk]

theorem nextOk_execSave {s : State} (h : MemOk s) (die : Nat) : NextOk (execSave die s) := by
  unfold execSave
  refine nextOk_next ?_
  split
  · exact h
  rename_i j _
  have hu := memOk_shellReady j h
  split
  next heq =>
    rw [heq] at hu
    exact hu
  next t u heq =>
  have ht := memOk_shellReady_some h heq
  have hl : MemOk (if (t.getX (byteAt j.card 3)).asked then t else t.startLadder (byteAt j.card 3) true) :=
    memOk_ite ht (memOk_startLadder _ _ ht)
  refine memOk_ite hl (memOk_ite (calm_parkJob calm_memOk _ _ _ _ hl) ?_)
  split
  · exact calm_parkJob calm_memOk _ _ _ _ hl
  · exact calm_endJob calm_memOk _ _ (memOk_ite (memOk_endLadder _ (memOk_writeArea _ _ hl)) (memOk_writeArea _ _ hl))

theorem nextOk_execRestore {s : State} (h : MemOk s) (die : Nat) : NextOk (execRestore die s) := by
  refine nextOk_next ?_
  split
  · exact h
  rename_i j _
  have hu := memOk_shellReady j h
  split <;> rename_i heq
  · exact show MemOk _ by rw [heq] at hu; exact hu
  have ht := memOk_shellReady_some h heq
  extract_lets va len
  split
  · exact calm_parkJob calm_memOk _ _ _ _ ht
  have h1 := calm_ctxRead calm_memOk j.ctx va 0x10000 ht
  split <;> rename_i heq1 <;> rw [heq1] at h1
  · exact calm_parkJob calm_memOk _ _ _ _ h1
  extract_lets n
  split
  · exact calm_parkJob calm_memOk _ _ _ _ h1
  split
  · exact calm_parkJob calm_memOk _ _ _ _ h1
  have h2 := calm_ctxRead calm_memOk j.ctx va n h1
  split <;> rename_i heq2 <;> rw [heq2] at h2
  · exact calm_parkJob calm_memOk _ _ _ _ h2
  split
  · exact calm_endJob calm_memOk _ _ h2
  · exact calm_endJob calm_memOk _ _ (memOk_openArea _ _ _ _ _ h2)

theorem nextOk_execSbar {s : State} (h : MemOk s) (d a : GReg) (dom : BitVec 5) : NextOk (execSbar d a dom s) := by
  unfold execSbar
  refine nextOk_run (keeps_bind keeps_needStep fun _ => keeps_get_bind fun s _ => keeps_bind (keeps_raiseIf ..) fun _ =>
    keeps_bind (keeps_wokenFrom _) fun w =>
    keeps_ite ?_ (keeps_bind (keeps_raiseIf ..) fun _ => keeps_bind (keeps_raiseIf ..) fun _ => ?_)) h
  · exact keeps_bind (keeps_acquireOpt _) fun _ => keeps_bind (keeps_modify fun t ht => memOk_upd _ ht) fun _ => keeps_setI ..
  · refine keeps_ite (keeps_bind (keeps_releaseM _) fun _ => keeps_get_bind fun s hs => keeps_ite ?_ ?_) (keeps_holdOn _)
    · exact keeps_bind (keeps_set (memOk_setBarOf _ _ _ hs)) fun _ => keeps_bind (keeps_raise ..) fun _ => keeps_holdOn _
    · exact keeps_bind (keeps_set (memOk_testStep _ _ (memOk_setBarOf _ _ _ (memOk_upd _ hs)))) fun _ => keeps_holdOn _

theorem nextOk_execSdom {s : State} (h : MemOk s) (d a : GReg) (what : SdWhat) : NextOk (execSdom d a what s) := by
  unfold execSdom
  refine nextOk_run (keeps_get_bind fun s _ => keeps_ite (keeps_setI ..) ?_) h
  cases what with
  | pend | arr => exact keeps_bind (keeps_setI ..) fun _ => keeps_modify fun t ht => memOk_block _ ht
  | size | first | stride | rank | w | recd => exact keeps_setI ..

theorem nextOk_execSclk {s : State} (h : MemOk s) (d : GReg) (form : SclkForm) : NextOk (execSclk d form s) := by
  unfold execSclk
  grind [keeps_get_bind, keeps_get, keeps_bind, keeps_holdIf, keeps_setI, nextOk_run]

theorem nextOk_execStepRelease {s : State} (h : MemOk s) (tid dom : Nat) : NextOk (execStepRelease tid dom s) := by
  unfold execStepRelease
  grind [nextOk_next, memOk_deliverRelease]

theorem nextOk_execStepTimeout {s : State} (h : MemOk s) (core : Nat) : NextOk (execStepTimeout core s) := by
  unfold execStepTimeout
  grind [nextOk_next, memOk_mk, memOk_updC]

theorem nextOk_execSendLanding {s : State} (h : MemOk s) (idx : Nat) : NextOk (execSendLanding idx s) := by
  unfold execSendLanding
  grind [nextOk_next, memOk_mk, calm_writeAt calm_memOk, memOk_failSend, memOk_stepLanded]

theorem nextOk_execSclkWaitExpiry {s : State} (h : MemOk s) (core : Nat) : NextOk (execSclkWaitExpiry core s) := by
  unfold execSclkWaitExpiry
  grind [nextOk_next, memOk_mk]

theorem nextOk_execEret {s : State} (h : MemOk s) (rpl kill : Bool) : NextOk (execEret rpl kill s) := by
  unfold execEret
  grind [keeps_modify, keeps_bind, memOk_upd, memOk_killOrHalt, memOk_awaitProducers, keeps_privileged, nextOk_runRaw]

theorem nextOk_execMfsr {s : State} (h : MemOk s) (d : GReg) (sr : BitVec 12) : NextOk (execMfsr d sr s) := by
  unfold execMfsr
  grind [keeps_modify, keeps_get_bind, keeps_get, keeps_bind, memOk_awaitVector, memOk_wrI, keeps_raiseDecode, nextOk_run]

theorem nextOk_execIsync {s : State} (h : MemOk s) : NextOk (execIsync s) := by
  unfold execIsync
  grind [keeps_modify, keeps_get_bind, keeps_get, keeps_bind, memOk_upd, keeps_holdIf, nextOk_run, memOk_drainUpTo]

theorem nextOk_execTlbinv {s : State} (h : MemOk s) (kind : TlbKind) (scope : Scope) (a b : GReg) : NextOk (execTlbinv kind scope a b s) := by
  unfold execTlbinv
  grind [keeps_bind, keeps_privileged, nextOk_run, keeps_dropTlb]

theorem nextOk_execIdle {s : State} (h : MemOk s) : NextOk (execIdle s) := by
  unfold execIdle
  grind [keeps_pure, keeps_get_bind, keeps_get, keeps_bind, keeps_wokenFrom, keeps_privileged, keeps_holdIf, nextOk_run]

theorem nextOk_execEchk {s : State} (h : MemOk s) (form : EchkForm) : NextOk (execEchk form s) := by
  unfold execEchk
  split
  · refine nextOk_run (keeps_bind keeps_ringSettled fun _ => keeps_get_bind fun s _ => ?_) h
    split <;> exact keeps_setG ..
  · refine nextOk_run (keeps_bind keeps_privileged fun _ => keeps_bind keeps_ringSettled fun _ => keeps_get_bind fun s _ => ?_) h
    dsimp only
    split
    · exact keeps_ite (keeps_modify fun t ht => memOk_upd _ ht) (keeps_pure _)
    · exact keeps_pure _

theorem nextOk_execCsave {s : State} (h : MemOk s) (d b : GReg) (spad : Bool) : NextOk (execCsave d b spad s) := by
  unfold execCsave
  exact nextOk_run (keeps_bind keeps_privileged fun _ => keeps_bind (keeps_recordPlace ..) fun _ => keeps_bind (keeps_modify fun t ht =>
    memOk_awaitProducers ht) fun _ =>
    keeps_get_bind fun s hs => keeps_bind (keeps_set hs) fun _ => keeps_bind (keeps_storeRecord ..) fun _ => keeps_bind (keeps_modify fun t ht =>
      memOk_block _ ht) fun _ => keeps_setI ..) h

theorem nextOk_execCrest {s : State} (h : MemOk s) (d b : GReg) (spad : Bool) : NextOk (execCrest d b spad s) := by
  unfold execCrest
  exact nextOk_run (keeps_bind keeps_privileged fun _ => keeps_bind (keeps_recordPlace ..) fun _ => keeps_bind (keeps_readBlock ..) fun _ =>
    keeps_bind (keeps_formatIf ..) fun _ =>
    keeps_bind (keeps_modify fun t ht => memOk_block _ (memOk_loadRecord _ _ _ (memOk_awaitProducers ht))) fun _ => keeps_setI ..) h

theorem nextOk_execResultWrite {s : State} (h : MemOk s) (core idx : Nat) : NextOk (execResultWrite core idx s) := by
  unfold execResultWrite
  grind [nextOk_next, memOk_updC]

theorem nextOk_execLoadSectorArrival {s : State} (h : MemOk s) (core idx sector : Nat) : NextOk (execLoadSectorArrival core idx sector s) := by
  unfold execLoadSectorArrival
  grind [nextOk_next, memOk_arrive]

theorem nextOk_execStoreQueueDrain {s : State} (h : MemOk s) (core idx : Nat) : NextOk (execStoreQueueDrain core idx s) := by
  unfold execStoreQueueDrain
  grind [nextOk_next, memOk_drain]

theorem nextOk_execStackSpill {s : State} (h : MemOk s) (core : Nat) : NextOk (execStackSpill core s) := by
  unfold execStackSpill
  grind [nextOk_next, memOk_spillOne]

theorem nextOk_execWalkComplete {s : State} (h : MemOk s) (core va : Nat) : NextOk (execWalkComplete core va s) := by
  unfold execWalkComplete
  grind [nextOk_next, calm_xlate calm_memOk]

theorem nextOk_execImpreciseTrapDelivery {s : State} (h : MemOk s) (core : Nat) : NextOk (execImpreciseTrapDelivery core s) := by
  unfold execImpreciseTrapDelivery
  grind [nextOk_next, memOk_asCore, memOk_deliver]

theorem nextOk_execItem {s : State} (h : MemOk s) (core : Nat) : NextOk (execItem core s) := by
  unfold execItem
  grind [nextOk_next, memOk_turnOf]

theorem nextOk_execWeaveHold {s : State} (h : MemOk s) (core : Nat) : NextOk (execWeaveHold core s) := by
  unfold execWeaveHold
  grind [nextOk_next, memOk_updC]

theorem nextOk_execWeaveRelease {s : State} (h : MemOk s) (core : Nat) : NextOk (execWeaveRelease core s) := by
  unfold execWeaveRelease
  grind [nextOk_next, memOk_updC]

theorem nextOk_execRegistrationArrival {s : State} (h : MemOk s) (core : Nat) : NextOk (execRegistrationArrival core s) := by
  unfold execRegistrationArrival
  grind [nextOk_next, memOk_arriveReg]

theorem nextOk_execRdvTimeout {s : State} (h : MemOk s) (core : Nat) : NextOk (execRdvTimeout core s) := by
  unfold execRdvTimeout
  grind [nextOk_next, memOk_asCore, memOk_detach, memOk_takeTrap]

theorem nextOk_execCollectiveArrival {s : State} (h : MemOk s) (core : Nat) : NextOk (execCollectiveArrival core s) := by
  unfold execCollectiveArrival
  grind [nextOk_next, memOk_turnOf]

theorem nextOk_execDepositArrival {s : State} (h : MemOk s) (core : Nat) : NextOk (execDepositArrival core s) := by
  unfold execDepositArrival
  grind [nextOk_next, memOk_drain]

theorem nextOk_execAsyncDepositApply {s : State} (h : MemOk s) (core port : Nat) : NextOk (execAsyncDepositApply core port s) := by
  unfold execAsyncDepositApply
  grind [nextOk_next, memOk_applyAsync]

theorem nextOk_execWaitmWake {s : State} (h : MemOk s) (core : Nat) : NextOk (execWaitmWake core s) := by
  unfold execWaitmWake
  grind [nextOk_next, memOk_turnOf]

theorem nextOk_execWaitmPoll {s : State} (h : MemOk s) (core : Nat) : NextOk (execWaitmPoll core s) := by
  unfold execWaitmPoll
  grind [nextOk_next, memOk_turnOf]

theorem nextOk_execHuskSwitch {s : State} (h : MemOk s) (core : Nat) : NextOk (execHuskSwitch core s) := by
  unfold execHuskSwitch
  grind [nextOk_next, memOk_huskSwitch]

theorem nextOk_execDelayExpiry {s : State} (h : MemOk s) (core : Nat) : NextOk (execDelayExpiry core s) := by
  unfold execDelayExpiry
  grind [nextOk_next, memOk_turnOf]

theorem nextOk_execTend {s : State} (h : MemOk s) : NextOk (execTend s) := by
  unfold execTend
  grind [keeps_modify, keeps_throw, keeps_get_bind, keeps_get, keeps_bind, keeps_set, memOk_drainAll, keeps_holdIf, memOk_flushStack, memOk_finish,
    memOk_arriveWhere, nextOk_runRaw, memOk_endMember]

theorem nextOk_execTtick {s : State} (h : MemOk s) (d : GReg) : NextOk (execTtick d s) := by
  unfold execTtick
  refine nextOk_run (keeps_get_bind fun s hs => ?_) h
  have hblock : Keeps MemOk (modify (·.block 0x700) : M Unit) := keeps_modify fun t ht => memOk_block _ ht
  dsimp only
  repeat' split
  all_goals grind [keeps_bind, keeps_set, keeps_setI, memOk_updL, memOk_updT]

theorem nextOk_execTspawn {s : State} (h : MemOk s) (d a b : GReg) : NextOk (execTspawn d a b s) := by
  unfold execTspawn
  have hblock : Keeps MemOk (modify (·.block 0x701) : M Unit) := keeps_modify fun t ht => memOk_block _ ht
  exact nextOk_run (keeps_get_bind fun s _ => keeps_bind (keeps_capcheck ..) fun _ => keeps_bind (keeps_stepLocal _) fun _ =>
    keeps_bind (keeps_locateM ..) fun _ =>
    keeps_bind (keeps_raiseIf ..) fun _ => keeps_bind (keeps_readBlock ..) fun _ => keeps_bind (keeps_formatIf ..) fun _ =>
      keeps_bind (keeps_formatIf ..) fun _ =>
    keeps_get_bind fun s hs => keeps_ite (keeps_bind (keeps_setI ..) fun _ => hblock) <|
      keeps_bind (keeps_set (memOk_offer _ _ _ hs)) fun _ => keeps_bind (keeps_setI ..) fun _ => hblock) h

theorem nextOk_execTsig {s : State} (h : MemOk s) (d : GReg) (e : BitVec 6) : NextOk (execTsig d e s) := by
  unfold execTsig
  refine nextOk_run (keeps_get_bind fun s hs => ?_) h
  have hblock : Keeps MemOk (modify (·.block 0x702) : M Unit) := keeps_modify fun t ht => memOk_block _ ht
  have hset (x : Word) : Keeps MemOk (do setI d x; modify (·.block 0x702)) := keeps_bind (keeps_setI ..) fun _ => hblock
  dsimp only
  split
  · rename_i t l _ _
    have ht := memOk_edgeNode l e.toNat hs
    split <;> rename_i heq <;> rw [heq] at ht
    · exact keeps_bind (keeps_set ht) fun _ => hset _
    · exact keeps_bind (keeps_set ht) fun _ => keeps_ite (hset _) <| keeps_bind (keeps_releaseM _) fun _ =>
        keeps_bind (keeps_modify fun u hu => memOk_signalNode _ _ (memOk_updT _ _ hu)) fun _ => hset _
  · exact hset _

theorem nextOk_execFopen {s : State} (h : MemOk s) (d a b : GReg) : NextOk (execFopen d a b s) := by
  unfold execFopen
  grind [keeps_modify, keeps_get_bind, keeps_get, keeps_bind, keeps_set, calm_scopeAdd calm_memOk, keeps_setI, calm_setScope calm_memOk,
    nextOk_run, keeps_raise, memOk_block]

theorem nextOk_execFclose {s : State} (h : MemOk s) (d a : GReg) : NextOk (execFclose d a s) := by
  unfold execFclose
  grind [keeps_modify, keeps_get_bind, keeps_get, keeps_bind, keeps_set, calm_settleScope calm_memOk, keeps_setI, calm_setScope calm_memOk,
    nextOk_run, memOk_block]

theorem nextOk_execFwait {s : State} (h : MemOk s) (d a : GReg) : NextOk (execFwait d a s) := by
  unfold execFwait
  grind [keeps_modify, keeps_get_bind, keeps_get, keeps_bind, keeps_wokenFrom, keeps_holdOn, keeps_setI, keeps_acquireOpt, nextOk_run, memOk_block]

theorem nextOk_execFcan {s : State} (h : MemOk s) (d a : GReg) : NextOk (execFcan d a s) := by
  unfold execFcan
  grind [keeps_modify, keeps_get_bind, keeps_get, keeps_bind, keeps_set, memOk_cancelScope, keeps_setI, nextOk_run, memOk_block]

theorem nextOk_execQres {s : State} (h : MemOk s) (d b : GReg) (snd : BitVec 4) (claim : Bool) : NextOk (execQres d b snd claim s) := by
  unfold execQres
  refine nextOk_run (keeps_bind (keeps_queueOpen _) fun x => keeps_get_bind fun s hs => ?_) h
  have hset (x : Word) : Keeps MemOk (do setI d x; modify (·.block 0x707)) :=
    keeps_bind (keeps_setI ..) fun _ => keeps_modify fun t ht => memOk_block _ ht
  dsimp only
  refine keeps_ite (hset _) (keeps_ite ?_ ?_)
  · have ht := calm_claimOn calm_memOk x.1 (claimant s.c.ctx snd.toNat) hs
    split <;> rename_i heq <;> rw [heq] at ht <;> exact keeps_bind (keeps_set ht) fun _ => hset _
  · refine keeps_bind (keeps_set (calm_settleQueue calm_memOk _ ?_)) fun _ => hset _
    split
    · exact calm_setQueue calm_memOk _ _ hs
    · exact hs

theorem nextOk_execQcmt {s : State} (h : MemOk s) (d a b : GReg) : NextOk (execQcmt d a b s) := by
  unfold execQcmt
  refine nextOk_run (keeps_bind (keeps_queueOpen _) fun x => keeps_bind (keeps_queueRecord ..) fun rec => keeps_get_bind fun s hs => ?_) h
  have hset (x : Word) : Keeps MemOk (do setI d x; modify (·.block 0x708)) :=
    keeps_bind (keeps_setI ..) fun _ => keeps_modify fun t ht => memOk_block _ ht
  dsimp only
  split
  · exact hset _
  split
  · exact keeps_bind (keeps_set (calm_commitOn calm_memOk _ _ _ hs)) fun _ => hset _
  split
  · exact hset _
  rename_i late _
  have ht := calm_claimOn calm_memOk x.1 late.2.2 hs
  split <;> rename_i heq <;> rw [heq] at ht
  · exact keeps_bind (keeps_holdOn _) fun _ => keeps_modify fun t ht => memOk_block _ ht
  · refine keeps_bind (keeps_set (calm_commitOn calm_memOk _ _ _ ?_)) fun _ => hset _
    split
    · exact calm_setQueue calm_memOk _ _ (calm_noteLate calm_memOk _ _ ht)
    · exact calm_noteLate calm_memOk _ _ ht

theorem nextOk_execQenq {s : State} (h : MemOk s) (d a b : GReg) (snd : BitVec 4) (w : Bool) : NextOk (execQenq d a b snd w s) := by
  unfold execQenq
  refine nextOk_run (keeps_bind keeps_deadlockM fun _ => keeps_bind (keeps_queueOpen _) fun x => keeps_bind (keeps_queueRecord ..) fun rec =>
    keeps_get_bind fun s hs => ?_) h
  have hblock : Keeps MemOk (modify (·.block 0x709) : M Unit) := keeps_modify fun t ht => memOk_block _ ht
  have hset (x : Word) : Keeps MemOk (do setI d x; modify (·.block 0x709)) := keeps_bind (keeps_setI ..) fun _ => hblock
  have hfull : Keeps MemOk (do (if w then holdOn .enq else setI d 2); modify (·.block 0x709)) :=
    keeps_bind (keeps_ite (keeps_holdOn _) (keeps_setI ..)) fun _ => hblock
  dsimp only
  split
  · exact hset _
  refine keeps_ite (keeps_ite (hset _) (keeps_ite hfull ?_)) (keeps_ite (hset _) ?_)
  · exact keeps_bind (keeps_set (calm_syncQueue calm_memOk _ (calm_setQueue calm_memOk _ _ (calm_ctxWrite calm_memOk _ _ _ hs)))) fun _ => hset _
  · have ht := calm_claimOn calm_memOk x.1 (claimant s.c.ctx snd.toNat) hs
    split <;> rename_i heq <;> rw [heq] at ht
    · exact keeps_bind (keeps_set ht) fun _ => keeps_ite (keeps_bind (keeps_holdOn _) fun _ => hblock) (hset _)
    · exact keeps_bind (keeps_set (calm_commitOn calm_memOk _ _ _ ht)) fun _ => hset _

theorem nextOk_execQdeq {s : State} (h : MemOk s) (d b : GReg) (form : DeqForm) : NextOk (execQdeq d b form s) := by
  unfold execQdeq
  refine nextOk_run (keeps_bind (keeps_queueOpen _) fun x => ?_) h
  have hset (x : Word) : Keeps MemOk (do setI d x; modify (·.block 0x70A)) :=
    keeps_bind (keeps_setI ..) fun _ => keeps_modify fun t ht => memOk_block _ ht
  obtain ⟨k, ds⟩ := x
  cases form with
  | block =>
    refine keeps_bind (keeps_pure _) fun _ => keeps_get_bind fun s hs => ?_
    dsimp only
    split
    · exact hset _
    refine keeps_ite (hset _) ?_
    split
    · exact hset _
    · exact keeps_bind (keeps_set (memOk_releaseBlock _ _ hs)) fun _ => hset _
  | plain a =>
    refine keeps_get_bind fun s hs => keeps_bind (keeps_copyPlace ..) fun _ => keeps_bind (keeps_pure _) fun _ =>
      keeps_get_bind fun s hs => ?_
    dsimp only
    split
    · exact hset _
    refine keeps_ite (hset _) ?_
    split
    · exact hset _
    rename_i q _ _ _ _
    have ht := calm_ctxBytes calm_memOk q.ctx (ds.ring + q.live.head % ds.cap * ds.recSize) ds.recSize hs
    split <;> rename_i heq <;> rw [heq] at ht
    · exact hset _
    · exact keeps_bind (keeps_set ht) fun _ => keeps_bind (keeps_roomFor _) fun _ => keeps_bind (keeps_storeParts ..) fun _ =>
        keeps_bind (keeps_modify fun t ht => memOk_takeRecord _ _ _ _ ht) fun _ => hset _

theorem nextOk_execQflush {s : State} (h : MemOk s) (d b : GReg) : NextOk (execQflush d b s) := by
  unfold execQflush
  refine nextOk_run (keeps_bind keeps_deadlockM fun _ => keeps_bind (keeps_queueOpen _) fun x => keeps_get_bind fun s _ =>
    keeps_guard (keeps_releaseM _) <| keeps_guard (keeps_modify fun t ht => memOk_flushTurn _ _ ht) <| keeps_get_bind fun s _ => ?_) h
  split
  · exact keeps_setI ..
  · exact keeps_bind (keeps_holdIf ..) fun _ => keeps_guard (keeps_modify fun t ht => memOk_signalNode _ _ ht) (keeps_setI ..)

theorem nextOk_execTyield {s : State} (h : MemOk s) (d : GReg) : NextOk (execTyield d s) := by
  unfold execTyield
  grind [nextOk_next, memOk_foldl, memOk_finish, memOk_wrI, keeps_setI, nextOk_run, memOk_settleForSave, memOk_holdAt, memOk_stash]

theorem nextOk_execLaunchTake {s : State} (h : MemOk s) (ctx queue : Nat) : NextOk (execLaunchTake ctx queue s) := by
  refine nextOk_next ?_
  extract_lets x ea
  split
  · exact h
  have h1 := calm_ctxBytes calm_memOk ctx ea 128 h
  split <;> rename_i heq1 <;> rw [heq1] at h1
  · exact h1
  rename_i b t
  have h2 := calm_queueHome calm_memOk ctx ea h1
  split
  rename_i home u hhome
  rw [hhome] at h2
  extract_lets b' d
  split
  · exact h2
  have h3 := calm_activate calm_memOk ctx ea home b' h2
  split
  rename_i k v hact
  rw [hact] at h3
  change MemOk v at h3
  split
  · exact h3
  extract_lets old live
  split
  · exact h3
  have h4 := calm_ctxBytes calm_memOk ctx (d.ring + live.head % d.cap * 128) 128 h3
  split <;> rename_i heq4 <;> rw [heq4] at h4
  · exact h4
  extract_lets taken
  have h5 : MemOk taken := calm_syncQueue calm_memOk k (calm_setQueue calm_memOk k _ h4)
  split
  · exact memOk_takeCode _ _ _ h5
  split
  · exact calm_badLpb calm_memOk _ _ _ h5
  · exact calm_addLaunch calm_memOk _ _ _ _ h5

theorem nextOk_execLaunchDispatch {s : State} (h : MemOk s) (lid : Nat) : NextOk (execLaunchDispatch lid s) := by
  unfold execLaunchDispatch
  grind [nextOk_next, memOk_dispatch]

theorem nextOk_execAgePromotion {s : State} (h : MemOk s) (lid : Nat) : NextOk (execAgePromotion lid s) := by
  unfold execAgePromotion
  grind [nextOk_next, memOk_updL]

theorem nextOk_execTaskStart {s : State} (h : MemOk s) (lid : Nat) (cores : List Nat) : NextOk (execTaskStart lid cores s) := by
  unfold execTaskStart
  grind [nextOk_next, memOk_parkPlace, memOk_startOnCores]

theorem nextOk_execRangeSteal {s : State} (h : MemOk s) (lid die : Nat) : NextOk (execRangeSteal lid die s) := by
  unfold execRangeSteal
  grind [nextOk_next, memOk_updL]

theorem nextOk_execPlacementClaim {s : State} (h : MemOk s) (lid : Nat) (cores : List Nat) : NextOk (execPlacementClaim lid cores s) := by
  unfold execPlacementClaim
  grind [nextOk_next, memOk_updL]

theorem nextOk_execSavedTaskRestore {s : State} (h : MemOk s) (idx : Nat) (cores : List Nat) : NextOk (execSavedTaskRestore idx cores s) := by
  unfold execSavedTaskRestore
  grind [nextOk_next, memOk_restoreSaved]

theorem nextOk_execWaitmYield {s : State} (h : MemOk s) (core : Nat) : NextOk (execWaitmYield core s) := by
  unfold execWaitmYield
  grind [nextOk_next, memOk_stash]

theorem nextOk_execCancelDeadline {s : State} (h : MemOk s) (tid : Nat) : NextOk (execCancelDeadline tid s) := by
  unfold execCancelDeadline
  grind [nextOk_next, memOk_killTask]

theorem nextOk_execSpawnWindowExpiry {s : State} (h : MemOk s) (die idx : Nat) : NextOk (execSpawnWindowExpiry die idx s) := by
  unfold execSpawnWindowExpiry
  grind [nextOk_next, memOk_mk, calm_newLaunch calm_memOk]

theorem nextOk_execFlushTimerExpiry {s : State} (h : MemOk s) (queue block : Nat) : NextOk (execFlushTimerExpiry queue block s) := by
  unfold execFlushTimerExpiry
  grind [nextOk_next, memOk_closeWhen]

theorem nextOk_execCommitTimeout {s : State} (h : MemOk s) (queue block : Nat) : NextOk (execCommitTimeout queue block s) := by
  unfold execCommitTimeout
  grind [nextOk_next, memOk_closeWhen]

theorem nextOk_execQueueDeadlock {s : State} (h : MemOk s) (ctx : Nat) : NextOk (execQueueDeadlock ctx s) := by
  unfold execQueueDeadlock
  grind [nextOk_next, memOk_mk, memOk_foldl, memOk_updC]

theorem nextOk_execHpload {s : State} (h : MemOk s) (d : GReg) (src : HpSrc) : NextOk (execHpload d src s) := by
  unfold execHpload
  refine nextOk_run (keeps_bind keeps_privileged fun _ => ?_) h
  cases src with
  | mem b => exact keeps_bind (keeps_imageAt _) fun _ => keeps_get_bind fun s hs =>
    keeps_bind (keeps_set (memOk_block _ (memOk_stageImage _ hs))) fun _ => keeps_setI ..
  | fetch a => exact keeps_get_bind fun s _ => keeps_choice keeps_hostImage (keeps_pure _) fun _ => keeps_get_bind fun s hs =>
      keeps_bind (keeps_set (memOk_block _ (memOk_stageFetched _ _ _ hs))) fun _ => keeps_setI ..

theorem nextOk_execHpact {s : State} (h : MemOk s) (d a : GReg) : NextOk (execHpact d a s) := by
  unfold execHpact
  grind [keeps_get_bind, keeps_get, keeps_bind, keeps_set, memOk_activateImage, keeps_privileged, keeps_setI, nextOk_run, memOk_block]

theorem nextOk_execHpqry {s : State} (h : MemOk s) (d : GReg) (what : HpQuery) : NextOk (execHpqry d what s) := by
  unfold execHpqry
  grind [keeps_get_bind, keeps_get, keeps_bind, keeps_set, keeps_setI, nextOk_run, memOk_block]

theorem nextOk_execRdmaWrite {s : State} (h : MemOk s) (qp : Nat) (rkey : BitVec 32) (va : Nat) (data : List Byte) :
    NextOk (execRdmaWrite qp rkey va data s) := by
  unfold execRdmaWrite
  grind [nextOk_next, memOk_rdmaNak, memOk_pumpRings, memOk_putParts, memOk_rdmaCheck, calm_send calm_memOk]

theorem nextOk_execRdmaRead {s : State} (h : MemOk s) (qp : Nat) (rkey : BitVec 32) (va len : Nat) : NextOk (execRdmaRead qp rkey va len s) := by
  unfold execRdmaRead
  grind [nextOk_next, memOk_rdmaNak, memOk_readParts, memOk_rdmaCheck, calm_send calm_memOk]

theorem nextOk_execCompareAndSwap {s : State} (h : MemOk s) (qp : Nat) (rkey : BitVec 32) (va : Nat) (cmp new : Word) :
    NextOk (execCompareAndSwap qp rkey va cmp new s) := by
  unfold execCompareAndSwap
  grind [nextOk_next, memOk_rdmaAtomic]

theorem nextOk_execFetchAndAdd {s : State} (h : MemOk s) (qp : Nat) (rkey : BitVec 32) (va : Nat) (x : Word) :
    NextOk (execFetchAndAdd qp rkey va x s) := by
  unfold execFetchAndAdd
  grind [nextOk_next, memOk_rdmaAtomic]

theorem nextOk_execHostWindowNak {s : State} (h : MemOk s) (ctx addr : Nat) : NextOk (execHostWindowNak ctx addr s) := by
  unfold execHostWindowNak
  grind [nextOk_next, calm_remoteRecord calm_memOk]

theorem nextOk_execMread {s : State} (h : MemOk s) (src ctx seqn : Nat) (reg : BitVec 16) : NextOk (execMread src ctx seqn reg s) := by
  refine nextOk_next (memOk_txc (fun t ht => memOk_answerIf _ _ ht ?_) _ _ _ _ h)
  exact ht

theorem nextOk_execMwrite {s : State} (h : MemOk s) (src ctx seqn : Nat) (reg : BitVec 16) (x : Word) :
    NextOk (execMwrite src ctx seqn reg x s) := by
  refine nextOk_next (memOk_txc (fun t ht => memOk_answerIf _ _ ht ?_) _ _ _ _ h)
  exact memOk_mgmtWrite _ _ ht

theorem nextOk_execWindow {s : State} (h : MemOk s) (src ctx seqn idx qp : Nat) (raddr : Word) (rkey : BitVec 32) (len : Nat) :
    NextOk (execWindow src ctx seqn idx qp raddr rkey len s) := by
  refine nextOk_next (memOk_txc (fun t ht => memOk_answerIf _ _ ht ?_) _ _ _ _ h)
  exact ht

theorem nextOk_execRingset {s : State} (h : MemOk s) (src ctx seqn : Nat) (addr : Word) (cap : Nat) (head : Word) :
    NextOk (execRingset src ctx seqn addr cap head s) := by
  refine nextOk_next (memOk_txc (fun t ht => memOk_answerIf _ _ ht ?_) _ _ _ _ h)
  exact calm_updX calm_memOk _ _ ht

theorem nextOk_execEnrol {s : State} (h : MemOk s) (src ctx seqn : Nat) (key : List Byte) : NextOk (execEnrol src ctx seqn key s) := by
  refine nextOk_next (memOk_txc (fun t ht => memOk_answerIf _ _ ht ?_) _ _ _ _ h)
  exact ht

theorem nextOk_execPreempt {s : State} (h : MemOk s) (src ctx seqn : Nat) : NextOk (execPreempt src ctx seqn s) := by
  refine nextOk_next (memOk_txc (fun t ht => memOk_answerIf _ _ ht ?_) _ _ _ _ h)
  exact memOk_startLadder _ _ ht

theorem nextOk_execRelease {s : State} (h : MemOk s) (src ctx seqn : Nat) : NextOk (execRelease src ctx seqn s) := by
  refine nextOk_next (memOk_txc (fun t ht => memOk_answerIf _ _ ht ?_) _ _ _ _ h)
  exact memOk_releaseAll _

theorem nextOk_execAttest {s : State} (h : MemOk s) (src ctx seqn : Nat) (nonce : List Byte) : NextOk (execAttest src ctx seqn nonce s) := by
  refine nextOk_next (memOk_txc (fun t ht => memOk_answerIf _ _ ht ?_) _ _ _ _ h)
  exact ht

theorem nextOk_execDreply {s : State} (h : MemOk s) (src ctx seqn act answer : Nat) : NextOk (execDreply src ctx seqn act answer s) := by
  unfold execDreply
  grind [nextOk_next, memOk_txc, memOk_settleAct]

theorem nextOk_execParkedActivityTimeout {s : State} (h : MemOk s) (act : Nat) : NextOk (execParkedActivityTimeout act s) := by
  unfold execParkedActivityTimeout
  grind [nextOk_next, memOk_settleAct]

theorem nextOk_execDutyRecordRepeat {s : State} (h : MemOk s) (act : Nat) : NextOk (execDutyRecordRepeat act s) := by
  refine nextOk_next ?_
  split
  · split
    · exact calm_tell calm_memOk _ _ _ h
    · exact h
  · exact h

theorem nextOk_execHuskdata {s : State} (h : MemOk s) (src ctx seqn off total : Nat) (data : List Byte) :
    NextOk (execHuskdata src ctx seqn off total data s) := by
  refine nextOk_next (memOk_txc (fun t ht => memOk_answerIf _ _ ht ?_) _ _ _ _ h)
  exact ht

theorem nextOk_execPowerGood (s : State) : NextOk (execPowerGood s) := by
  refine nextOk_next ?_
  extract_lets boot s0 slot link b sec s1 link1
  have h0 : MemOk s0 := memOk_reset
  have h1 : MemOk s1 := by
    unfold s1
    split
    · exact memOk_activateSet _ _ h0
    · exact h0
  clear_value slot
  cases slot with
  | none => exact h0
  | some k => exact h1

theorem nextOk_execSmbusAccess {s : State} (h : MemOk s) (wr : Bool) (reg : BitVec 16) (x : Word) (owners : Option (List Nat)) :
    NextOk (execSmbusAccess wr reg x owners s) := by
  unfold execSmbusAccess
  grind [nextOk_next, memOk_mk, memOk_mgmtWrite, calm_send calm_memOk]

theorem nextOk_execJtagUnlock {s : State} (h : MemOk s) (token key sig : List Byte) : NextOk (execJtagUnlock token key sig s) := by
  unfold execJtagUnlock
  grind [nextOk_next, memOk_mk]

theorem nextOk_execThrottleStep {s : State} (h : MemOk s) : NextOk (execThrottleStep s) := by
  unfold execThrottleStep
  grind [nextOk_next, memOk_mk]

theorem nextOk_execThermalTrip {s : State} (h : MemOk s) : NextOk (execThermalTrip s) := by
  unfold execThermalTrip
  grind [nextOk_next, memOk_mk, calm_notice calm_memOk]

theorem nextOk_execEccError {s : State} (h : MemOk s) (addr : Nat) (uncorrectable : Bool) : NextOk (execEccError addr uncorrectable s) := by
  unfold execEccError
  grind [nextOk_next, memOk_mk, memOk_updC]

end Sys2Proof.Machine
end

section
/-!
(O55) The outcomes of the INT, LDS, MSK, RANK, STRM and vector groups.
-/
namespace Sys2Proof.Machine

open Safety

-- Sequential: of proofs that run side by side, each that waits for another holds a thread.
set_option Elab.async false

theorem nextOk_execMov {s : State} (h : MemOk s) (d a : GReg) : NextOk (execMov d a s) := by
  unfold execMov
  grind [keeps_modify, memOk_wrG, nextOk_run]

theorem nextOk_execLdc {s : State} (h : MemOk s) (d a : GReg) (off : BitVec 17) : NextOk (execLdc d a off s) := by
  unfold execLdc
  grind [keeps_get_bind, keeps_get, keeps_bind, keeps_access, keeps_loadBytes, nextOk_run, keeps_setG]

theorem nextOk_execStc {s : State} (h : MemOk s) (d a : GReg) (off : BitVec 17) : NextOk (execStc d a off s) := by
  unfold execStc
  grind [keeps_get_bind, keeps_get, keeps_bind, keeps_raiseIf, keeps_access, keeps_storeBytes, nextOk_run]

theorem nextOk_execLda {s : State} (h : MemOk s) (d a : GReg) (ty : LdType) (off : BitVec 14) : NextOk (execLda d a ty off s) := by
  unfold execLda
  refine nextOk_run (keeps_bind keeps_loadRoom fun _ => keeps_get_bind fun s _ => keeps_bind (keeps_access ..) fun l => keeps_get_bind fun s _ =>
    keeps_ite (keeps_bind (keeps_stackLook ..) fun r => ?_) ?_) h
  · split
    · exact keeps_setG ..
    · exact keeps_modify fun t ht => memOk_upd _ ht
  · exact keeps_get_bind fun s _ => keeps_bind (keeps_holdIf ..) fun _ => keeps_bind (keeps_amoFirst ..) fun _ =>
      keeps_bind (keeps_asyncRead ..) fun _ => keeps_addLoad _

theorem nextOk_execPref {s : State} (h : MemOk s) (a : GReg) (off : BitVec 17) : NextOk (execPref a off s) := by
  unfold execPref
  grind [keeps_pure, memOk_mk, keeps_throw, keeps_get_bind, keeps_get, keeps_bind, keeps_set, memOk_upd, nextOk_run]

theorem nextOk_execKmov {s : State} (h : MemOk s) (form : KMov) : NextOk (execKmov form s) := by
  unfold execKmov
  grind [keeps_intTo, keeps_maskTo, nextOk_run]

theorem nextOk_execRkinit {s : State} (h : MemOk s) (acc : Bool) (a b : GReg) : NextOk (execRkinit acc a b s) := by
  unfold execRkinit
  grind [keeps_pure, keeps_bind, keeps_formatIf, keeps_raiseIf, nextOk_runMtx, keeps_postEntry, keeps_capcheck, keeps_storeBytes, keeps_listTarget,
    nextOk_run]

theorem nextOk_execRkins {s : State} (h : MemOk s) (k : KReg) (d : VReg) (b : GReg) : NextOk (execRkins k d b s) := by
  unfold execRkins
  grind [keeps_get_bind, keeps_get, keeps_bind, keeps_listUpdate, keeps_listTarget, nextOk_run]

theorem nextOk_execRkmrg {s : State} (h : MemOk s) (a b : GReg) : NextOk (execRkmrg a b s) := by
  unfold execRkmrg
  grind [keeps_get_bind, keeps_get, keeps_bind, keeps_listRead, keeps_listUpdate, keeps_listTarget, nextOk_run]

theorem nextOk_execRkchain {s : State} (h : MemOk s) (bc : Bool) (b : GReg) : NextOk (execRkchain bc b s) := by
  unfold execRkchain
  grind [keeps_modify, keeps_bind, keeps_chainBody, memOk_upd, keeps_gatherEnd, nextOk_run]

theorem nextOk_execRkflr {s : State} (h : MemOk s) (d b : GReg) (what : RkWhat) : NextOk (execRkflr d b what s) := by
  unfold execRkflr
  grind [keeps_modify, keeps_get_bind, keeps_get, keeps_bind, keeps_readBlock, keeps_setI, keeps_listTarget, nextOk_run, memOk_block]

theorem nextOk_execRkget {s : State} (h : MemOk s) (k : KReg) (d : VReg) (a b : GReg) : NextOk (execRkget k d a b s) := by
  unfold execRkget
  grind [keeps_modify, keeps_get_bind, keeps_get, keeps_bind, keeps_listRead, keeps_listTarget, nextOk_run, memOk_wrV, memOk_block]

theorem nextOk_execRkbnd {s : State} (h : MemOk s) (form : BndForm) : NextOk (execRkbnd form s) := by
  unfold execRkbnd
  grind [keeps_modify, memOk_upd, nextOk_run]

theorem nextOk_execUnsub {s : State} (h : MemOk s) (a b : GReg) (off : BitVec 17) : NextOk (execUnsub a b off s) := by
  unfold execUnsub
  grind [nextOk_next, memOk_leaveTo, memOk_finish, memOk_detach]

theorem nextOk_execRdv {s : State} (h : MemOk s) (tag : BitVec 4) : NextOk (execRdv tag s) := by
  unfold execRdv
  grind [nextOk_next, memOk_finish, memOk_joinAll, nextOk_run, keeps_weaveFault]

theorem nextOk_execRdvh {s : State} (h : MemOk s) (tag : BitVec 4) (n : BitVec 13) : NextOk (execRdvh tag n s) := by
  unfold execRdvh
  grind [nextOk_next, memOk_upd, memOk_publishOnce, memOk_finish, memOk_joinAll, nextOk_run, keeps_weaveFault, memOk_holdAt]

theorem nextOk_execBrw {s : State} (h : MemOk s) (a : GReg) (j : BitVec 9) (off : BitVec 17) : NextOk (execBrw a j off s) := by
  unfold execBrw
  grind [nextOk_next, keeps_pure, keeps_modify, keeps_bind, memOk_upd, keeps_gathered, memOk_finish, nextOk_run, keeps_contribute,
    keeps_weaveFault, nextOk_runTo]

theorem nextOk_execWvote {s : State} (h : MemOk s) (all : Bool) (d a : GReg) : NextOk (execWvote all d a s) := by
  unfold execWvote
  grind [keeps_get_bind, keeps_get, keeps_bind, keeps_gatherEnd, keeps_gathered, keeps_setI, nextOk_run, keeps_weaveFault]

theorem nextOk_execPuboff {s : State} (h : MemOk s) : NextOk (execPuboff s) := by
  unfold execPuboff
  grind [nextOk_next, memOk_upd, memOk_finish]

theorem nextOk_execPubon {s : State} (h : MemOk s) : NextOk (execPubon s) := by
  unfold execPubon
  grind [nextOk_next, memOk_upd, memOk_finish]

theorem nextOk_fpBin {s : State} (h : MemOk s) (k : KReg) (d a : VReg) (b : VSrc) (lat : Nat) (f : Bool → Lane → Lane → FRes) :
    NextOk (fpBin k d a b lat f s) := by
  unfold fpBin
  grind [keeps_fpVec, nextOk_runRing]

theorem nextOk_fpTern {s : State} (h : MemOk s) (k : KReg) (d a : VReg) (b : VSrc) (lat : Nat) (f : Bool → Lane → Lane → Lane → FRes) :
    NextOk (fpTern k d a b lat f s) := by
  unfold fpTern
  grind [keeps_fpVec, nextOk_runRing]

theorem nextOk_execVfadd {s : State} (h : MemOk s) (k : KReg) (d a : VReg) (b : VSrc) (rm : Rm) : NextOk (execVfadd k d a b rm s) :=
  nextOk_fpBin h ..
theorem nextOk_execVfsub {s : State} (h : MemOk s) (k : KReg) (d a : VReg) (b : VSrc) (rm : Rm) : NextOk (execVfsub k d a b rm s) :=
  nextOk_fpBin h ..
theorem nextOk_execVfmul {s : State} (h : MemOk s) (k : KReg) (d a : VReg) (b : VSrc) (rm : Rm) : NextOk (execVfmul k d a b rm s) :=
  nextOk_fpBin h ..
theorem nextOk_execVfma {s : State} (h : MemOk s) (k : KReg) (d a : VReg) (b : VSrc) (rm : Rm) : NextOk (execVfma k d a b rm s) :=
  nextOk_fpTern h ..
theorem nextOk_execVfms {s : State} (h : MemOk s) (k : KReg) (d a : VReg) (b : VSrc) (rm : Rm) : NextOk (execVfms k d a b rm s) :=
  nextOk_fpTern h ..
theorem nextOk_execVfmin {s : State} (h : MemOk s) (k : KReg) (d a : VReg) (b : VSrc) (num : Bool) : NextOk (execVfmin k d a b num s) :=
  nextOk_fpBin h ..
theorem nextOk_execVfmax {s : State} (h : MemOk s) (k : KReg) (d a : VReg) (b : VSrc) (num : Bool) : NextOk (execVfmax k d a b num s) :=
  nextOk_fpBin h ..
theorem nextOk_execVfabs {s : State} (h : MemOk s) (k : KReg) (d a : VReg) : NextOk (execVfabs k d a s) :=
  nextOk_fpBin h ..
theorem nextOk_execVfneg {s : State} (h : MemOk s) (k : KReg) (d a : VReg) : NextOk (execVfneg k d a s) :=
  nextOk_fpBin h ..

theorem nextOk_execVfcmp {s : State} (h : MemOk s) (k d : KReg) (a : VReg) (b : VSrc) (cond : FCond) : NextOk (execVfcmp k d a b cond s) := by
  unfold execVfcmp
  grind [keeps_get_bind, keeps_get, keeps_bind, keeps_set, keeps_raiseFlags, nextOk_runRing, memOk_wrK]

theorem nextOk_execVfclass {s : State} (h : MemOk s) (k d : KReg) (a : VReg) (classes : BitVec 9) : NextOk (execVfclass k d a classes s) := by
  unfold execVfclass
  grind [memOk_wrK, nextOk_runVec]

theorem nextOk_vintWord {s : State} (h : MemOk s) (k : KReg) (d a : VReg) (b : VSrc) (w : Nat) (f : Nat → Nat → Nat → Nat) :
    NextOk (vintWord k d a b w f s) := by
  unfold vintWord
  grind [nextOk_runVec, memOk_wrV]

theorem nextOk_vintUnary {s : State} (h : MemOk s) (k : KReg) (d a : VReg) (w : Nat) (f : Nat → Nat) : NextOk (vintUnary k d a w f s) :=
  nextOk_vintWord h ..

theorem nextOk_vlaneUnary {s : State} (h : MemOk s) (k : KReg) (d a : VReg) (f : Lane → Lane) : NextOk (vlaneUnary k d a f s) := by
  unfold vlaneUnary
  grind [nextOk_runVec, memOk_wrV]

theorem nextOk_execVadd {s : State} (h : MemOk s) (k : KReg) (d a : VReg) (b : VSrc) (ty : VType) : NextOk (execVadd k d a b ty s) :=
  nextOk_vintWord h ..
theorem nextOk_execVsub {s : State} (h : MemOk s) (k : KReg) (d a : VReg) (b : VSrc) (ty : VType) : NextOk (execVsub k d a b ty s) :=
  nextOk_vintWord h ..
theorem nextOk_execVmul {s : State} (h : MemOk s) (k : KReg) (d a : VReg) (b : VSrc) (ty : VType) : NextOk (execVmul k d a b ty s) :=
  nextOk_vintWord h ..
theorem nextOk_execVmulh {s : State} (h : MemOk s) (k : KReg) (d a : VReg) (b : VSrc) (ty : VType) : NextOk (execVmulh k d a b ty s) :=
  nextOk_vintWord h ..
theorem nextOk_execVmad {s : State} (h : MemOk s) (k : KReg) (d a : VReg) (b : VSrc) (ty : VType) : NextOk (execVmad k d a b ty s) :=
  nextOk_vintWord h ..
theorem nextOk_execVand {s : State} (h : MemOk s) (k : KReg) (d a : VReg) (b : VSrc) (ty : VType) : NextOk (execVand k d a b ty s) :=
  nextOk_vintWord h ..
theorem nextOk_execVor {s : State} (h : MemOk s) (k : KReg) (d a : VReg) (b : VSrc) (ty : VType) : NextOk (execVor k d a b ty s) :=
  nextOk_vintWord h ..
theorem nextOk_execVxor {s : State} (h : MemOk s) (k : KReg) (d a : VReg) (b : VSrc) (ty : VType) : NextOk (execVxor k d a b ty s) :=
  nextOk_vintWord h ..
theorem nextOk_execVshl {s : State} (h : MemOk s) (k : KReg) (d a : VReg) (b : VSrc) (ty : VType) : NextOk (execVshl k d a b ty s) :=
  nextOk_vintWord h ..
theorem nextOk_execVshr {s : State} (h : MemOk s) (k : KReg) (d a : VReg) (b : VSrc) (ty : VType) : NextOk (execVshr k d a b ty s) :=
  nextOk_vintWord h ..
theorem nextOk_execVsar {s : State} (h : MemOk s) (k : KReg) (d a : VReg) (b : VSrc) (ty : VType) : NextOk (execVsar k d a b ty s) :=
  nextOk_vintWord h ..
theorem nextOk_execVmin {s : State} (h : MemOk s) (k : KReg) (d a : VReg) (b : VSrc) (ty : VType) : NextOk (execVmin k d a b ty s) :=
  nextOk_vintWord h ..
theorem nextOk_execVmax {s : State} (h : MemOk s) (k : KReg) (d a : VReg) (b : VSrc) (ty : VType) : NextOk (execVmax k d a b ty s) :=
  nextOk_vintWord h ..
theorem nextOk_execVabs {s : State} (h : MemOk s) (k : KReg) (d a : VReg) (ty : VType) : NextOk (execVabs k d a ty s) :=
  nextOk_vintUnary h ..

theorem nextOk_execVcmp {s : State} (h : MemOk s) (k d : KReg) (a : VReg) (b : VSrc) (cond : VCond) (signed : Bool) :
    NextOk (execVcmp k d a b cond signed s) := by
  unfold execVcmp
  grind [memOk_wrK, nextOk_runVec]

theorem nextOk_execVsel {s : State} (h : MemOk s) (k : KReg) (d a : VReg) (b : VSrc) (ty : VType) : NextOk (execVsel k d a b ty s) := by
  unfold execVsel
  grind [nextOk_runVec, memOk_wrV]

theorem nextOk_execVpopc {s : State} (h : MemOk s) (k : KReg) (d a : VReg) (ty : VType) : NextOk (execVpopc k d a ty s) :=
  nextOk_vintUnary h ..
theorem nextOk_execVclz {s : State} (h : MemOk s) (k : KReg) (d a : VReg) (ty : VType) : NextOk (execVclz k d a ty s) :=
  nextOk_vintUnary h ..
theorem nextOk_execVadds {s : State} (h : MemOk s) (k : KReg) (d a : VReg) (b : VSrc) (ty : VType) : NextOk (execVadds k d a b ty s) :=
  nextOk_vintWord h ..
theorem nextOk_execVsubs {s : State} (h : MemOk s) (k : KReg) (d a : VReg) (b : VSrc) (ty : VType) : NextOk (execVsubs k d a b ty s) :=
  nextOk_vintWord h ..
theorem nextOk_execVmovs {s : State} (h : MemOk s) (k : KReg) (d a : VReg) (ty : VType) : NextOk (execVmovs k d a ty s) :=
  nextOk_vlaneUnary h ..
theorem nextOk_execVext {s : State} (h : MemOk s) (k : KReg) (d a : VReg) (n : BitVec 2) (ty : VType) : NextOk (execVext k d a n ty s) :=
  nextOk_vlaneUnary h ..

theorem nextOk_execVld {s : State} (h : MemOk s) (k : KReg) (d : VReg) (a b : GReg) : NextOk (execVld k d a b s) := by
  unfold execVld
  grind [keeps_get, keeps_bind, nextOk_runRing, keeps_vloadElems]

theorem nextOk_execVst {s : State} (h : MemOk s) (k : KReg) (d : VReg) (a b : GReg) : NextOk (execVst k d a b s) := by
  unfold execVst
  grind [keeps_get, keeps_bind, nextOk_runRing, keeps_vstoreElems]

theorem nextOk_execVlds {s : State} (h : MemOk s) (k : KReg) (d : VReg) (a b : GReg) (ty : MType) : NextOk (execVlds k d a b ty s) := by
  unfold execVlds
  grind [keeps_get, keeps_bind, nextOk_runRing, keeps_vloadElems]

theorem nextOk_execVsts {s : State} (h : MemOk s) (k : KReg) (d : VReg) (a b : GReg) (ty : MType) : NextOk (execVsts k d a b ty s) := by
  unfold execVsts
  grind [keeps_get, keeps_bind, nextOk_runRing, keeps_vstoreElems]

theorem nextOk_execVgath {s : State} (h : MemOk s) (k : KReg) (d a : VReg) (b : GReg) (ty : MType) (si : Bool) (scale : BitVec 2) :
    NextOk (execVgath k d a b ty si scale s) := by
  unfold execVgath
  grind [keeps_get, keeps_bind, nextOk_runRing, keeps_vloadElems]

theorem nextOk_execVscat {s : State} (h : MemOk s) (k : KReg) (d a : VReg) (b : GReg) (ty : MType) (si : Bool) (scale : BitVec 2) :
    NextOk (execVscat k d a b ty si scale s) := by
  unfold execVscat
  grind [keeps_get, keeps_bind, nextOk_runRing, keeps_vstoreElems]

theorem nextOk_execVcmpst {s : State} (h : MemOk s) (k : KReg) (d : VReg) (a b : GReg) : NextOk (execVcmpst k d a b s) := by
  unfold execVcmpst
  grind [keeps_pure, keeps_get_bind, keeps_get, keeps_bind, nextOk_runRing, keeps_vstoreElems]

theorem nextOk_execVexpld {s : State} (h : MemOk s) (k : KReg) (d : VReg) (a b : GReg) : NextOk (execVexpld k d a b s) := by
  unfold execVexpld
  grind [keeps_get, keeps_bind, nextOk_runRing, keeps_vloadElems]

theorem nextOk_execVlda {s : State} (h : MemOk s) (k : KReg) (d : VReg) (a b : GReg) : NextOk (execVlda k d a b s) := by
  unfold execVlda
  refine nextOk_runRing (fun start => keeps_bind keeps_loadRoom fun _ => keeps_get_bind fun s _ => keeps_bind (keeps_elemAccess ..) fun x =>
    keeps_bind (keeps_tilesFree _) fun _ => keeps_get_bind fun s _ => keeps_bind (keeps_elemBytes ..) fun y =>
    keeps_bind (keeps_forM (fun e => keeps_bind (keeps_amoFirst ..) fun _ => keeps_asyncRead ..) _) fun _ =>
    keeps_bind (keeps_modify fun t ht => ?_) fun _ => keeps_guard (keeps_addLoad _) (keeps_pure _)) h
  split
  · exact ht
  · exact memOk_wrV _ _ _ ht

theorem nextOk_laneMove {s : State} (h : MemOk s) (k : KReg) (d : VReg) (f : State → Nat → Lane) : NextOk (laneMove k d f s) := by
  unfold laneMove
  grind [nextOk_runVec, memOk_wrV]

theorem nextOk_execVperm {s : State} (h : MemOk s) (k : KReg) (d a b : VReg) (two : Bool) : NextOk (execVperm k d a b two s) :=
  nextOk_laneMove h ..
theorem nextOk_execVshuf {s : State} (h : MemOk s) (k : KReg) (d a : VReg) (form : Shuf) : NextOk (execVshuf k d a form s) :=
  nextOk_laneMove h ..
theorem nextOk_execVrot {s : State} (h : MemOk s) (k : KReg) (d a : VReg) (n : LaneSrc) : NextOk (execVrot k d a n s) :=
  nextOk_laneMove h ..
theorem nextOk_execVbcst {s : State} (h : MemOk s) (k : KReg) (d : VReg) (src : BcSrc) : NextOk (execVbcst k d src s) :=
  nextOk_laneMove h ..

theorem nextOk_execVcprs {s : State} (h : MemOk s) (k : KReg) (d a : VReg) (z : Bool) : NextOk (execVcprs k d a z s) := by
  unfold execVcprs
  grind [nextOk_runVec, memOk_wrV]

theorem nextOk_execVexpd {s : State} (h : MemOk s) (k : KReg) (d a : VReg) (z : Bool) : NextOk (execVexpd k d a z s) := by
  unfold execVexpd
  grind [nextOk_runVec, memOk_wrV]

theorem nextOk_execVballot {s : State} (h : MemOk s) (k : KReg) (d : GReg) (a : VReg) : NextOk (execVballot k d a s) := by
  unfold execVballot
  grind [memOk_wrI, nextOk_runVec]

theorem nextOk_execVgetx {s : State} (h : MemOk s) (d : VReg) (a : GReg) : NextOk (execVgetx d a s) := by
  unfold execVgetx
  grind [keeps_pure, keeps_get_bind, keeps_get, keeps_bind, keeps_set, nextOk_runRing, memOk_wrV]

theorem nextOk_execVputx {s : State} (h : MemOk s) (d : GReg) (a : VReg) : NextOk (execVputx d a s) := by
  unfold execVputx
  grind [keeps_pure, keeps_get_bind, keeps_get, keeps_bind, keeps_set, nextOk_runRing, memOk_wrV]

theorem nextOk_scanWord {s : State} (h : MemOk s) (k : KReg) (d a : VReg) (op : ScanOp) (ty : ScanType) (ex brk : Bool) (seg : State → Mask)
    (e2 : State → Bool) : NextOk (scanWord k d a op ty ex brk seg e2 s) := by
  unfold scanWord
  grind [keeps_get_bind, keeps_get, keeps_bind, keeps_set, keeps_raiseFlags, nextOk_runRing, memOk_wrV]

theorem nextOk_execVscan {s : State} (h : MemOk s) (k : KReg) (d a : VReg) (op : ScanOp) (ty : ScanType) (ex brk : Bool) :
    NextOk (execVscan k d a op ty ex brk s) :=
  nextOk_scanWord h ..
theorem nextOk_execVsscan {s : State} (h : MemOk s) (k : KReg) (d a : VReg) (b : KReg) (op : ScanOp) (ty : ScanType) (ex brk : Bool) :
    NextOk (execVsscan k d a b op ty ex brk s) :=
  nextOk_scanWord h ..

theorem nextOk_execVred {s : State} (h : MemOk s) (k : KReg) (d : GReg) (a : VReg) (op : ScanOp) (ty : ScanType) :
    NextOk (execVred k d a op ty s) := by
  unfold execVred
  grind [keeps_get_bind, keeps_get, keeps_bind, keeps_set, keeps_raiseFlags, nextOk_runRing, memOk_wrI]

theorem nextOk_execVxchg {s : State} (h : MemOk s) (d a : VReg) (n : BitVec 2) : NextOk (execVxchg d a n s) := by
  unfold execVxchg
  exact nextOk_runRing (fun _ => keeps_get_bind fun s _ => keeps_bind (keeps_gathered _) fun _ => keeps_bind (keeps_ranked _) fun _ =>
    keeps_bind (keeps_raiseIf ..) fun _ =>
    keeps_bind keeps_gatherEnd fun _ => keeps_bind (keeps_modify fun t ht => memOk_wrV _ _ _ ht) fun _ => keeps_pure _) h

theorem nextOk_execVchain {s : State} (h : MemOk s) (k : KReg) (d a : VReg) (op : ScanOp) (ty : ScanType) (form : ChainForm) :
    NextOk (execVchain k d a op ty form s) := by
  unfold execVchain
  grind [keeps_get_bind, keeps_get, keeps_bind, keeps_set, keeps_gatherEnd, keeps_ranked, keeps_gathered, keeps_raiseFlags, nextOk_runRing,
    memOk_wrV]

end Sys2Proof.Machine
end

section
/-!
(O55) The dispatch: the outcome of every instruction, arm by arm.
-/
namespace Sys2Proof.Machine

open Safety

-- Sequential: of proofs that run side by side, each that waits for another holds a thread.
set_option Elab.async false

theorem nextOk_exec {s : State} (h : MemOk s) (i : Instr) : NextOk (exec i s) := by
  cases i with
  | nop => exact nextOk_run (keeps_pure _) h
  | trap | bkpt | unassignedEncoding => exact nextOk_run (keeps_raiseDecode ..) h
  | eret => exact nextOk_execEret h ..
  | mfsr => exact nextOk_execMfsr h ..
  | mtsr | modeWrite | grantbaseWrite | xbaseWrite | dutyWrite | fpflagsWrite | portfullWrite | ecccClear | registerWrite =>
    exact nextOk_run (keeps_mtsrM ..) h
  | isync => exact nextOk_execIsync h
  | idle => exact nextOk_execIdle h
  | tlbinv => exact nextOk_execTlbinv h ..
  | echk => exact nextOk_execEchk h ..
  | csave => exact nextOk_execCsave h ..
  | crest => exact nextOk_execCrest h ..
  | hpload => exact nextOk_execHpload h ..
  | hpact => exact nextOk_execHpact h ..
  | hpqry => exact nextOk_execHpqry h ..
  | ident => exact nextOk_run (keeps_setI ..) h
  | br => exact nextOk_execBr h ..
  | bcc => exact nextOk_execBcc h ..
  | bk => exact nextOk_execBk h ..
  | call => exact nextOk_execCall h ..
  | callr => exact nextOk_execCallr h ..
  | ret => exact nextOk_execRet h
  | jmpr => exact nextOk_execJmpr h ..
  | loop => exact nextOk_execLoop h ..
  | enter => exact nextOk_run (keeps_enterFrame ..) h
  | leave => exact nextOk_run keeps_leaveFrame h
  | subStream | resub => exact nextOk_run (keeps_subscribe ..) h
  | unsub => exact nextOk_execUnsub h ..
  | rdv => exact nextOk_execRdv h ..
  | rdvh => exact nextOk_execRdvh h ..
  | brw => exact nextOk_execBrw h ..
  | wvote => exact nextOk_execWvote h ..
  | puboff => exact nextOk_execPuboff h
  | pubon => exact nextOk_execPubon h
  | add | addi | sub | subi | mul | muli | mulhS | mulhiS | mulhZ | mulhiZ | divS | diviS | divZ | diviZ | remS | remiS | remZ | remiZ | and
  | andi | or | ori | xor | xori | andn | andni | shl | shli | shr | shri | sar | sari | rol | roli | minS | miniS | minZ | miniZ | maxS
  | maxiS | maxZ | maxiZ | sltS | sltiS | sltZ | sltiZ | seq | seqi | clz | clzi | ctz | ctzi | popc | popci | brev | brevi | bfx | bfxi
  | bfi | bfii | mad | madi | li | kpopc | kff => exact nextOk_run (keeps_intTo ..) h
  | mov => exact nextOk_execMov h ..
  | cget => exact nextOk_execCget h ..
  | cseta => exact nextOk_execCseta h ..
  | cadd => exact nextOk_execCadd h ..
  | candp => exact nextOk_execCandp h ..
  | cfrom => exact nextOk_execCfrom h ..
  | cclr => exact nextOk_execCclr h ..
  | cchk => exact nextOk_execCchk h ..
  | gnew => exact nextOk_execGnew h ..
  | grev => exact nextOk_execGrev h ..
  | ld => exact nextOk_run (keeps_loadTo ..) h
  | st => exact nextOk_run (keeps_storeFrom ..) h
  | ldc => exact nextOk_execLdc h ..
  | stc => exact nextOk_execStc h ..
  | lda => exact nextOk_execLda h ..
  | waitld => exact nextOk_run (keeps_act fun _ ht => memOk_loadsTo _ ht) h
  | pref => exact nextOk_execPref h ..
  | amo => exact nextOk_execAmo h ..
  | amof => exact nextOk_execAmof h ..
  | cas => exact nextOk_execCas h ..
  | ldaq => exact nextOk_execLdaq h ..
  | strl => exact nextOk_execStrl h ..
  | amonr => exact nextOk_execAmonr h ..
  | fence => exact nextOk_execFence h ..
  | binit => exact nextOk_execBinit h ..
  | bexp => exact nextOk_execBexp h ..
  | barr => exact nextOk_execBarr h ..
  | bwait => exact nextOk_execBwait h ..
  | waitm => exact nextOk_execWaitm h ..
  | msend => exact nextOk_execMsend h ..
  | pget => exact nextOk_execPget h ..
  | kand | kor | kxor | kandn | knot | kset => exact nextOk_run (keeps_maskTo ..) h
  | kmov => exact nextOk_execKmov h ..
  | vadd => exact nextOk_execVadd h ..
  | vsub => exact nextOk_execVsub h ..
  | vmul => exact nextOk_execVmul h ..
  | vmulh => exact nextOk_execVmulh h ..
  | vmad => exact nextOk_execVmad h ..
  | vand => exact nextOk_execVand h ..
  | vor => exact nextOk_execVor h ..
  | vxor => exact nextOk_execVxor h ..
  | vshl => exact nextOk_execVshl h ..
  | vshr => exact nextOk_execVshr h ..
  | vsar => exact nextOk_execVsar h ..
  | vmin => exact nextOk_execVmin h ..
  | vmax => exact nextOk_execVmax h ..
  | vabs => exact nextOk_execVabs h ..
  | vcmp => exact nextOk_execVcmp h ..
  | vsel => exact nextOk_execVsel h ..
  | vpopc => exact nextOk_execVpopc h ..
  | vclz => exact nextOk_execVclz h ..
  | vadds => exact nextOk_execVadds h ..
  | vsubs => exact nextOk_execVsubs h ..
  | vmovs => exact nextOk_execVmovs h ..
  | vext => exact nextOk_execVext h ..
  | vfadd => exact nextOk_execVfadd h ..
  | vfsub => exact nextOk_execVfsub h ..
  | vfmul => exact nextOk_execVfmul h ..
  | vfma => exact nextOk_execVfma h ..
  | vfms => exact nextOk_execVfms h ..
  | vfmin => exact nextOk_execVfmin h ..
  | vfmax => exact nextOk_execVfmax h ..
  | vfabs => exact nextOk_execVfabs h ..
  | vfneg => exact nextOk_execVfneg h ..
  | vfcmp => exact nextOk_execVfcmp h ..
  | vfclass => exact nextOk_execVfclass h ..
  | vfdiv => exact nextOk_execVfdiv h ..
  | vfsqrt => exact nextOk_execVfsqrt h ..
  | vrcp => exact nextOk_execVrcp h ..
  | vrsq => exact nextOk_execVrsq h ..
  | vexp2 => exact nextOk_execVexp2 h ..
  | vlog2 => exact nextOk_execVlog2 h ..
  | vsinpi => exact nextOk_execVsinpi h ..
  | vcospi => exact nextOk_execVcospi h ..
  | vtanh => exact nextOk_execVtanh h ..
  | vsigm => exact nextOk_execVsigm h ..
  | verf => exact nextOk_execVerf h ..
  | vrng => exact nextOk_execVrng h ..
  | vgumb => exact nextOk_execVgumb h ..
  | vcvt => exact nextOk_execVcvt h ..
  | vcvtsr => exact nextOk_execVcvtsr h ..
  | vpack => exact nextOk_execVpack h ..
  | vunpk => exact nextOk_execVunpk h ..
  | vscale => exact nextOk_execVscale h ..
  | vrint => exact nextOk_execVrint h ..
  | vbscale => exact nextOk_execVbscale h ..
  | vld => exact nextOk_execVld h ..
  | vst => exact nextOk_execVst h ..
  | vlds => exact nextOk_execVlds h ..
  | vsts => exact nextOk_execVsts h ..
  | vgath => exact nextOk_execVgath h ..
  | vscat => exact nextOk_execVscat h ..
  | vcmpst => exact nextOk_execVcmpst h ..
  | vexpld => exact nextOk_execVexpld h ..
  | vlda => exact nextOk_execVlda h ..
  | vperm => exact nextOk_execVperm h ..
  | vshuf => exact nextOk_execVshuf h ..
  | vrot => exact nextOk_execVrot h ..
  | vbcst => exact nextOk_execVbcst h ..
  | vscan => exact nextOk_execVscan h ..
  | vsscan => exact nextOk_execVsscan h ..
  | vred => exact nextOk_execVred h ..
  | vxchg => exact nextOk_execVxchg h ..
  | vchain => exact nextOk_execVchain h ..
  | vcprs => exact nextOk_execVcprs h ..
  | vexpd => exact nextOk_execVexpd h ..
  | vballot => exact nextOk_execVballot h ..
  | vgetx => exact nextOk_execVgetx h ..
  | vputx => exact nextOk_execVputx h ..
  | vdot4 => exact nextOk_execVdot4 h ..
  | vdot8 => exact nextOk_execVdot8 h ..
  | vdoth => exact nextOk_execVdoth h ..
  | vdott => exact nextOk_execVdott h ..
  | vtblw => exact nextOk_execVtblw h ..
  | mfmt => exact nextOk_execMfmt h ..
  | mgang => exact nextOk_execMgang h ..
  | mpass => exact nextOk_execMpass h ..
  | mlist => exact nextOk_execMlist h ..
  | mzero => exact nextOk_execMzero h ..
  | mldc => exact nextOk_execMldc h ..
  | mstc => exact nextOk_execMstc h ..
  | mwait => exact nextOk_execMwait h ..
  | mtbl => exact nextOk_execMtbl h ..
  | mqry => exact nextOk_execMqry h ..
  | rkinit => exact nextOk_execRkinit h ..
  | rkins => exact nextOk_execRkins h ..
  | rkmrg => exact nextOk_execRkmrg h ..
  | rkchain => exact nextOk_execRkchain h ..
  | rkflr => exact nextOk_execRkflr h ..
  | rkget => exact nextOk_execRkget h ..
  | rkbnd => exact nextOk_execRkbnd h ..
  | epost => exact nextOk_execEpost h ..
  | ewait => exact nextOk_execEwait h ..
  | ecan => exact nextOk_execEcan h ..
  | estat => exact nextOk_execEstat h ..
  | tend => exact nextOk_execTend h
  | ttick => exact nextOk_execTtick h ..
  | tspawn => exact nextOk_execTspawn h ..
  | tsig => exact nextOk_execTsig h ..
  | fopen => exact nextOk_execFopen h ..
  | fclose => exact nextOk_execFclose h ..
  | fwait => exact nextOk_execFwait h ..
  | fcan => exact nextOk_execFcan h ..
  | qenq => exact nextOk_execQenq h ..
  | qdeq => exact nextOk_execQdeq h ..
  | qres => exact nextOk_execQres h ..
  | qcmt => exact nextOk_execQcmt h ..
  | qflush => exact nextOk_execQflush h ..
  | tyield => exact nextOk_execTyield h ..
  | ssend | ssenda => exact nextOk_run (keeps_sendM ..) h
  | sbar => exact nextOk_execSbar h ..
  | sdom => exact nextOk_execSdom h ..
  | sclk => exact nextOk_execSclk h ..
  | hnop => exact nextOk_runHalf (readsWell_commit fun _ ht => ht) h
  | hadd | hsub | hand | hor | hxor | hshl | hshr | haddi | handi | hshli | hshri | hli => exact nextOk_runHalf (readsWell_halfInt ..) h
  | hmov => exact nextOk_runHalf (readsWell_halfRead (.hmov _ _)) h
  | hvfadd | hvfmul => exact nextOk_runVecHalf (readsWell_halfFp ..) h
  | hvmov => exact nextOk_runVecHalf (readsWell_halfRead (.hvmov _ _)) h
  | hkand => exact nextOk_runHalf (readsWell_halfRead (.hkand _ _)) h
  | hkor => exact nextOk_runHalf (readsWell_halfRead (.hkor _ _)) h
  | hld => exact nextOk_runHalf (readsWell_readHld ..) h
  | hst => exact nextOk_runHalf (readsWell_readHst ..) h
  | resultWrite => exact nextOk_execResultWrite h ..
  | loadSectorArrival => exact nextOk_execLoadSectorArrival h ..
  | storeQueueDrain => exact nextOk_execStoreQueueDrain h ..
  | stackSpill => exact nextOk_execStackSpill h ..
  | walkComplete => exact nextOk_execWalkComplete h ..
  | scrub => exact nextOk_next h
  | impreciseTrapDelivery => exact nextOk_execImpreciseTrapDelivery h ..
  | item => exact nextOk_execItem h ..
  | weaveHold => exact nextOk_execWeaveHold h ..
  | weaveRelease => exact nextOk_execWeaveRelease h ..
  | registrationArrival => exact nextOk_execRegistrationArrival h ..
  | rdvTimeout => exact nextOk_execRdvTimeout h ..
  | collectiveArrival => exact nextOk_execCollectiveArrival h ..
  | depositArrival => exact nextOk_execDepositArrival h ..
  | asyncDepositApply => exact nextOk_execAsyncDepositApply h ..
  | waitmWake => exact nextOk_execWaitmWake h ..
  | waitmPoll => exact nextOk_execWaitmPoll h ..
  | waitmYield => exact nextOk_execWaitmYield h ..
  | savedTaskRestore => exact nextOk_execSavedTaskRestore h ..
  | postAccept => exact nextOk_execPostAccept h ..
  | passGrant => exact nextOk_execPassGrant h ..
  | gangStart => exact nextOk_execGangStart h ..
  | gangLatchTimeout => exact nextOk_execGangLatchTimeout h ..
  | passComplete => exact nextOk_execPassComplete h ..
  | mtblArrive => exact nextOk_execMtblArrive h ..
  | combineWindowExpiry => exact nextOk_execCombineWindowExpiry h ..
  | postAcceptance => exact nextOk_execPostAcceptance h ..
  | copy => exact nextOk_execCopy h ..
  | gather => exact nextOk_execGather h ..
  | scatter => exact nextOk_execScatter h ..
  | fill => exact nextOk_execFill h ..
  | iload => exact nextOk_execIload h ..
  | convert => exact nextOk_execConvert h ..
  | resume => exact nextOk_execResume h ..
  | route => exact nextOk_execRoute h ..
  | jobStart => exact nextOk_execJobStart h ..
  | jobComplete => exact nextOk_execJobComplete h ..
  | routeToken => exact nextOk_execRouteToken h ..
  | sieveDeadlock => exact nextOk_execSieveDeadlock h ..
  | ctxset => exact nextOk_execCtxset h
  | save => exact nextOk_execSave h ..
  | restore => exact nextOk_execRestore h ..
  | launchTake => exact nextOk_execLaunchTake h ..
  | launchDispatch => exact nextOk_execLaunchDispatch h ..
  | agePromotion => exact nextOk_execAgePromotion h ..
  | taskStart => exact nextOk_execTaskStart h ..
  | rangeSteal => exact nextOk_execRangeSteal h ..
  | cancelDeadline => exact nextOk_execCancelDeadline h ..
  | spawnWindowExpiry => exact nextOk_execSpawnWindowExpiry h ..
  | flushTimerExpiry => exact nextOk_execFlushTimerExpiry h ..
  | commitTimeout => exact nextOk_execCommitTimeout h ..
  | queueDeadlock => exact nextOk_execQueueDeadlock h ..
  | budgetPeriod => exact nextOk_execBudgetPeriod h ..
  | saveDeadline => exact nextOk_execSaveDeadline h ..
  | secondDeadline => exact nextOk_execSecondDeadline h ..
  | stepRelease => exact nextOk_execStepRelease h ..
  | stepTimeout => exact nextOk_execStepTimeout h ..
  | sendLanding => exact nextOk_execSendLanding h ..
  | sclkWaitExpiry => exact nextOk_execSclkWaitExpiry h ..
  | huskSwitch => exact nextOk_execHuskSwitch h ..
  | delayExpiry => exact nextOk_execDelayExpiry h ..
  | rdmaWrite => exact nextOk_execRdmaWrite h ..
  | rdmaRead => exact nextOk_execRdmaRead h ..
  | compareAndSwap => exact nextOk_execCompareAndSwap h ..
  | fetchAndAdd => exact nextOk_execFetchAndAdd h ..
  | mread => exact nextOk_execMread h ..
  | mwrite => exact nextOk_execMwrite h ..
  | window => exact nextOk_execWindow h ..
  | ringset => exact nextOk_execRingset h ..
  | enrol => exact nextOk_execEnrol h ..
  | preempt => exact nextOk_execPreempt h ..
  | release => exact nextOk_execRelease h ..
  | attest => exact nextOk_execAttest h ..
  | dreply => exact nextOk_execDreply h ..
  | huskdata => exact nextOk_execHuskdata h ..
  | dutyRecordRepeat => exact nextOk_execDutyRecordRepeat h ..
  | smbusAccess => exact nextOk_execSmbusAccess h ..
  | jtagUnlock => exact nextOk_execJtagUnlock h ..
  | powerGood => exact nextOk_execPowerGood s
  | throttleStep => exact nextOk_execThrottleStep h
  | thermalTrip => exact nextOk_execThermalTrip h
  | budgetExhausted => exact nextOk_execBudgetExhausted h ..
  | parkedActivityTimeout => exact nextOk_execParkedActivityTimeout h ..
  | placementClaim => exact nextOk_execPlacementClaim h ..
  | hostWindowNak => exact nextOk_execHostWindowNak h ..
  | eccError => exact nextOk_execEccError h ..

end Sys2Proof.Machine
end

section
/-!
(O55) A step of the package: what a core does before a word executes, then the word; or the next turn listed.
-/
namespace Sys2Proof.Machine

open Safety

-- Sequential: of proofs that run side by side, each that waits for another holds a thread.
set_option Elab.async false

/-- The state that a core's issue leaves: that of a turn already done, or that in which the word executes. -/
def Ready.left : Ready → State
  | .done t => t
  | .run _ t => t

/-- A core's issue leaves memory in its canonical form. -/
structure LeavesOk (r : Ready) : Prop where
  left : MemOk r.left

theorem leavesOk_done {t : State} (h : MemOk t) : LeavesOk (.done t) := ⟨h⟩
theorem leavesOk_run {t : State} (d : Decoded) (h : MemOk t) : LeavesOk (.run d t) := ⟨h⟩

theorem leavesOk_hazards {s : State} (d : Decoded) (h : MemOk s) : LeavesOk (s.hazards d) := by
  unfold State.hazards
  extract_lets c vs il held vs' waited
  have hheld : MemOk held := by
    unfold held
    split
    · exact memOk_interlock _ h
    · exact memOk_waitTokens _ h
  have hwaited : MemOk waited := by
    unfold waited
    split
    · exact memOk_interlock _ hheld
    · exact memOk_waitRoom _ hheld
  split
  · exact leavesOk_run _ h
  split
  · exact leavesOk_done (memOk_decodeStop ‹_› h)
  split
  · exact leavesOk_done (memOk_holdAt _ h)
  split
  · exact leavesOk_done (memOk_decodeStop ‹_› hheld)
  split
  · exact leavesOk_done (memOk_trapPrecise _ (memOk_upd _ hwaited))
  · exact leavesOk_run _ hwaited

theorem leavesOk_decodeWord {s : State} (src : Source) (w : Word) (it : Item) (h : MemOk s) : LeavesOk (s.decodeWord src w it) := by
  unfold State.decodeWord
  split
  · exact leavesOk_run _ (memOk_latched _ _ _ _ h)
  dsimp only
  split
  · exact leavesOk_done (memOk_publishOnly _ (memOk_latched _ _ _ _ h))
  · exact leavesOk_hazards _ (memOk_latched _ _ _ _ h)

theorem leavesOk_delayWord {s : State} (src : Source) (w : Word) (n : Nat) (h : MemOk s) : LeavesOk (s.delayWord src w n) := by
  have hafter (t : State) (ht : MemOk t) :
      LeavesOk (((t.upd (fun c => { c with delayed := true })).advance (t.cycle + n)).decodeWord src w {}) :=
    leavesOk_decodeWord _ _ _ (memOk_advance _ (memOk_upd _ ht))
  unfold State.delayWord
  split
  · exact hafter _ h
  have hl := fun d => memOk_latched src w {} (schedOf d) h
  dsimp only
  split
  · exact hafter _ (hl _)
  split
  · exact leavesOk_done (memOk_holdAt _ (hl _))
  split
  · exact hafter _ (memOk_interlock _ (hl _))
  · exact hafter _ (memOk_waitRoom _ (memOk_waitTokens _ (hl _)))

theorem leavesOk_slotWord {s : State} (src : Source) (w : Word) (h : MemOk s) : LeavesOk (s.slotWord src w) := by
  unfold State.slotWord
  split
  · exact leavesOk_decodeWord _ _ _ h
  dsimp only
  split
  · exact leavesOk_done (memOk_trapPrecise _ (memOk_latched _ _ _ _ h))
  · exact leavesOk_done (memOk_trapPrecise _ (memOk_latched _ _ _ _ h))
  · split
    · split
      · exact leavesOk_decodeWord _ _ _ (memOk_upd _ h)
      · exact leavesOk_decodeWord _ _ _ (memOk_upd _ h)
    · exact leavesOk_decodeWord _ _ _ h
  · split
    · exact leavesOk_decodeWord _ _ _ h
    · exact leavesOk_delayWord _ _ _ h
  · exact leavesOk_run _ (memOk_upd _ (memOk_latched _ _ _ _ h))
  · exact leavesOk_decodeWord _ _ _ h

theorem leavesOk_takeItem {s : State} (it : Item) (h : MemOk s) : LeavesOk (s.takeItem it) := by
  unfold State.takeItem
  have h0 := memOk_upd (fun c => { c with w := c.w.atDepth it.depth it.path }) h
  extract_lets a w back taken
  have hback : MemOk back := by
    unfold back
    split
    · exact memOk_upd _ h0
    · exact h0
  have htaken : MemOk taken := memOk_takeTrap _ (memOk_latched _ _ _ _ hback)
  have hleft (p : BitVec 12) : MemOk (if it.wakesDormant then a.dormantFault it p else a.dropItem) := by
    split
    · exact memOk_dormantFault _ _ h0
    · exact memOk_dropItem h0
  split
  · exact leavesOk_done (hleft _)
  split
  · exact leavesOk_done (hleft _)
  split
  · refine leavesOk_done ?_
    split
    · exact memOk_upd _ htaken
    · exact htaken
  · exact leavesOk_decodeWord _ _ _ hback

theorem leavesOk_issueItem {s : State} (it : Item) (h : MemOk s) : LeavesOk (s.issueItem it) := by
  unfold State.issueItem
  split
  · exact leavesOk_takeItem _ h
  extract_lets t u
  have ht : MemOk t := memOk_upd _ h
  have hu : MemOk u := memOk_diverge _ _ ht
  split
  · exact leavesOk_takeItem _ ht
  split
  · exact leavesOk_takeItem _ hu
  · exact leavesOk_done hu

theorem leavesOk_issue {s : State} (h : MemOk s) : LeavesOk s.issue := by
  have ha : MemOk s.atIssue := memOk_atIssue h
  unfold State.issue
  dsimp only
  split
  · exact leavesOk_done (memOk_idleCycle h)
  split
  · split
    · split
      · exact leavesOk_done (memOk_upd _ h)
      · exact leavesOk_decodeWord _ _ _ ha
    · exact leavesOk_done (memOk_upd _ h)
  split
  · exact leavesOk_done (memOk_idleCycle h)
  split
  · split
    · exact leavesOk_done (memOk_idleCycle h)
    · exact leavesOk_issueItem _ (memOk_advance _ h)
  split
  · exact leavesOk_done (memOk_holdAt _ ha)
  split
  · exact leavesOk_decodeWord _ _ _ ha
  split
  · exact leavesOk_done (memOk_trapPrecise _ (memOk_latched _ _ _ _ ha))
  · exact leavesOk_slotWord _ _ ha

theorem nextOk_stepPair {s : State} (h : MemOk s) (h1 h0 : Instr) : NextOk (stepPair h1 h0 s) := by
  unfold stepPair
  split
  · exact nextOk_exec h _
  split
  · exact nextOk_exec (memOk_upd _ h) _
  · exact nextOk_execPair _ _ h

theorem nextOk_coreStep {s : State} (h : MemOk s) : NextOk s.coreStep := by
  have ht := (leavesOk_issue h).left
  unfold State.coreStep
  split <;> rename_i heq <;> rw [heq] at ht
  · exact nextOk_next ht
  · exact nextOk_exec ht _
  · exact nextOk_stepPair ht ..

theorem nextOk_runDatagram {s : State} (h : MemOk s) (src : Nat) (d : List Byte) : NextOk (runDatagram s src d) := by
  unfold runDatagram
  split
  · exact nextOk_next h
  · exact nextOk_next (memOk_badRequest _ _ _ _ h)
  · exact nextOk_exec h _

theorem nextOk_step {s : State} (h : MemOk s) : NextOk (step s) := by
  unfold step
  dsimp only
  split
  · exact ⟨fun e => nomatch e⟩
  split
  · exact nextOk_coreStep h
  · exact nextOk_coreStep h
  · split
    · refine nextOk_exec ?_ _
      exact h
    · exact nextOk_next h
  · refine nextOk_runDatagram ?_ _ _
    exact h
  · exact nextOk_next (memOk_reportDrops h)

/-- Settles O55: every function of the model that a turn calls keeps memory in its canonical form, and so does the turn (`nextOk_step`). -/
theorem stepKeepsMemory : Obligations.StepKeepsMemory :=
  fun _ _ h hstep => (nextOk_step h).next hstep

end Sys2Proof.Machine
end

section
/-!
Sparse maps written twice under one key, and the executing core changed twice.
-/
namespace Sys2Proof

variable {α : Type}

@[simp] theorem merase_merase (m : SMap α) (k : Nat) : merase (merase m k) k = merase m k := by
  induction m with
  | nil => rfl
  | cons e r ih =>
    obtain ⟨j, v⟩ := e
    by_cases h : j = k <;> simp [merase, h, ih]

theorem merase_minsert (m : SMap α) (k : Nat) (x : α) : merase (minsert k x m) k = merase m k := by
  induction m with
  | nil => simp [minsert, merase]
  | cons e r ih =>
    obtain ⟨j, v⟩ := e
    by_cases h : k < j
    · simp [minsert, h, merase]
    · simp only [minsert, h, if_false, merase, ih]

theorem merase_mset (m : SMap α) (k : Nat) (x : α) : merase (mset m k x) k = merase m k := by
  rw [mset, merase_minsert, merase_merase]

theorem mset_mset (m : SMap α) (k : Nat) (x y : α) : mset (mset m k x) k y = mset m k y := by
  rw [mset, merase_mset, mset]

theorem mput_mput [DecidableEq α] (d : α) (m : SMap α) (k : Nat) (x y : α) : mput d (mput d m k x) k y = mput d m k y := by
  have herase : merase (mput d m k x) k = merase m k := by
    unfold mput
    split
    · exact merase_merase m k
    · exact merase_mset m k x
  change (if y = d then merase (mput d m k x) k else minsert k y (merase (mput d m k x) k)) = _
  rw [herase]
  rfl

namespace Machine

theorem upd_upd (s : State) (f g : Core → Core) : (s.upd f).upd g = s.upd (fun c => g (f c)) := by
  have hc := c_upd s f
  unfold State.upd State.setC at hc ⊢
  rw [hc]
  simp only [mset_mset]

end Machine
end Sys2Proof
end

section
/-!
A core with nothing under way, and the ATM group at a plain home (R205, R211 to R218): O15 and O16.
-/
namespace Sys2Proof.Machine

open Safety (bare outside Became Ends putG putI Checked Completes CompletesTo Reaches)

/-! ## Nothing under way (R205) -/

/-- The executing core has no write queued, no load outstanding, and no deposit that waits at a port: a release has nothing to wait for. -/
structure AllPerformed (s : State) : Prop where
  sq : s.c.sq = []
  loads : s.c.loads = []
  sent : Claim.sent s

theorem asyncIn_of_sent {s : State} (h : Claim.sent s) (p : Nat → Bool) : s.asyncIn s.cur p = false := by
  simp only [Claim.sent, State.asyncIn, List.any_eq_false, Bool.true_and] at h ⊢
  intro e he
  simp [h e he]

/-- No deposit of the core waits at any core, listed or not. -/
theorem asyncs_of_sent {s : State} (h : Claim.sent s) (n : Nat) : (s.getC n).asyncs.any (fun a => a.1 == s.cur) = false := by
  unfold State.getC mget
  cases hn : mfind s.cores n with
  | none => rfl
  | some c =>
    simp only [Claim.sent, State.asyncIn, List.any_eq_false, Bool.true_and] at h
    exact Bool.eq_false_iff.2 (h (n, c) (mem_of_mfind hn))

theorem asyncAt_of_sent {s : State} (h : Claim.sent s) (home : Home) : s.asyncAt s.cur home = false := by
  cases home with
  | core n => exact asyncs_of_sent h n
  | _ => rfl

/-- What a check may cache is no deposit. -/
theorem sent_upd {s : State} {f : Core → Core} (hf : (f s.c).asyncs = s.c.asyncs) (h : Claim.sent s) : Claim.sent (s.upd f) := by
  have hc := asyncs_of_sent h s.cur
  simp only [Claim.sent, State.asyncIn, List.any_eq_false, Bool.true_and] at h ⊢
  intro e he
  rcases mem_mset he with rfl | he
  · rw [hf]
    exact Bool.eq_false_iff.1 hc
  · exact h e he

theorem sent_grantEntry {s u : State} {gid : Nat} {e : Grant} (hg : grantEntry gid s = (.ok e, u)) (h : Claim.sent s) : Claim.sent u := by
  unfold grantEntry at hg
  rw [bind_get] at hg
  cases hf : s.c.gcache.find? (fun l => l.ctx == s.c.ctx && l.gid == gid) with
  | some l =>
    simp only [hf] at hg
    cases hg
    exact h
  | none =>
    simp only [hf] at hg
    obtain ⟨t, out, -, ht⟩ := grantInMem_reads s (corePlaces s.cur) s.c.ctx gid
    rcases hu : s.grantInMem (corePlaces s.cur) s.c.ctx gid with ⟨x | e', v⟩ <;> rw [hu] at hg ht
    · exact nomatch congrArg Prod.fst hg
    · have hv : Claim.sent v := by
        rw [show v = _ from ht]
        exact h
      cases hg
      exact sent_upd rfl (sent_upd rfl hv)

section
variable {s s' : State} {c : TReg} {ea n : Nat} {need : BitVec 12} {a : Acc} {l : Loc}

theorem sent_reaches (h : Reaches s c ea n need a l s') (hs : Claim.sent s) : Claim.sent s' := by
  obtain ⟨s1, ⟨e, hlive, -⟩, -, hloc⟩ := h.checked
  obtain ⟨t, ht⟩ := locate_tlb s1 s1.party a ea n
  rw [hloc] at ht
  have h1 : Claim.sent s1 := sent_grantEntry hlive.read hs
  rw [show s' = _ from ht]
  exact h1

theorem loads_caches (h : Safety.OnlyCaches s s') : s'.c.loads = s.c.loads := by
  obtain ⟨gc, r, hc⟩ := core_caches h
  rw [hc]

theorem allPerformed_reaches (h : Reaches s c ea n need a l s') (hs : AllPerformed s) : AllPerformed s' where
  sq := by rw [sq_caches (reaches_caches h), hs.sq]
  loads := by rw [loads_caches (reaches_caches h), hs.loads]
  sent := sent_reaches h hs.sent
end

/-! ## Releases and acquires with nothing to wait for -/

theorem arriveBytes_of_empty {s : State} (h : s.c.loads = []) (seq : Nat) (p : Nat → Bool) : s.arriveBytes s.cur seq p = s :=
  arriveWhere_of_empty h _

theorem acquireOpt_ok {s : State} (h : s.c.loads = []) (sc : Option Scope) : acquireOpt sc s = (.ok (), s) := by
  cases sc with
  | none => rfl
  | some sc =>
    rw [acquireOpt, modify_run, State.acquireAt, arriveBytes_of_empty h]

section
variable {s : State} (h : AllPerformed s)
include h

theorem unsent_of_performed : s.unsent s.cur = false := by
  have hsq : (s.getC s.cur).sq = [] := h.sq
  rw [State.unsent, hsq, asyncIn_of_sent h.sent]
  rfl

theorem performM_ok (sc : Scope) : performM sc s = (.ok (), s) := by
  have hrel : s.releaseAt s.cur sc = s := by
    unfold State.releaseAt
    simp only [drainUpTo_of_empty h.sq, arriveBytes_of_empty h.loads]
  unfold performM
  rw [bind_modify, hrel, bind_get, h.sq, asyncIn_of_sent h.sent]
  rfl

theorem releaseM_ok (sc : Scope) : releaseM sc s = (.ok (), s) := by
  unfold releaseM
  rw [bind_ok (performM_ok h sc), bind_get, h.sq]
  rfl

theorem releaseOpt_ok (sc : Option Scope) : releaseOpt sc s = (.ok (), s) := by
  cases sc with
  | none => rfl
  | some sc => exact releaseM_ok h sc

theorem inOrder_ok (home : Home) : inOrder home s = (.ok (), s) := by
  unfold inOrder
  rw [bind_modify, drainUpTo_of_empty h.sq, bind_get, h.sq, asyncAt_of_sent h.sent]
  rfl
end

/-! ## The checks of an ATM word (R163, R188, R211) -/

theorem locateAt_eq {ea : Nat} (h : Claim.atomic ea = true) (a : Acc) (n : Nat) : locateAt a ea n = locateM a ea n := by
  unfold Claim.atomic at h
  unfold locateAt
  split <;> simp_all

theorem atomCheck_ok {s s' : State} {c : TReg} {ea n : Nat} {need : BitVec 12} {a : Acc} {l : Loc} (hat : Claim.atomic ea = true)
    (h : Reaches s c ea n need a l s') (hhost : l.host = false) (hostOk : Bool) : atomCheck c ea n need a hostOk s = (.ok l, s') := by
  obtain ⟨s1, hc, hs, hl⟩ := h.checked
  obtain ⟨e, -, hc⟩ := capcheck_ok hc
  unfold atomCheck
  rw [bind_ok hc, bind_ok (stepLocal_ok hs), locateAt_eq hat, bind_ok (locateM_ok hl), bind_raiseIf (by rw [hhost, Bool.false_and]),
    bind_raiseIf (by simpa using h.aligned), bind_raiseIf h.here]
  rfl

/-! ## A write at a home without errors (R183, R186) -/

theorem mem_cellsAt {k : Nat} {bs : List Byte} {e : Host.Cell} (h : e ∈ cellsAt k bs) : k ≤ e.1 ∧ e.1 < k + bs.length := by
  induction bs generalizing k with
  | nil => exact nomatch h
  | cons b r ih =>
    rcases List.mem_cons.1 h with rfl | h
    · simp
    · have := ih h
      simp only [List.length_cons]
      omega

/-- Where no granule has an error a write heals none. -/
theorem healed_of_good {s : State} {ctx k : Nat} {bs : List Byte} (h : s.poisoned k bs.length = false) :
    s.healed ctx ((cellsAt k bs).map Prod.fst) = s := by
  have hnone : s.poison.filter (fun g => ((cellsAt k bs).map Prod.fst).any (fun x => x / 16 == g)) = [] := by
    simp only [State.poisoned, List.any_eq_false, Bool.and_eq_true, decide_eq_true_eq] at h
    refine List.filter_eq_nil_iff.2 fun g hg hany => h g hg ?_
    simp only [List.any_map, List.any_eq_true, Function.comp_apply, beq_iff_eq] at hany
    obtain ⟨e, he, hdiv⟩ := hany
    have := mem_cellsAt he
    omega
  rw [State.healed, hnone]
  rfl

/-- The executing core after a write at a home: at most what its instruction store shows of it is put off. -/
theorem c_writeAt {s : State} {ctx k : Nat} {bs : List Byte} (h : s.poisoned k bs.length = false) :
    ∃ x, (s.writeAt ctx k bs).c = { s.c with istale := x } := by
  have hstale (key : Nat) : ∃ x, (s.markStale key).c = { s.c with istale := x } := by
    unfold State.markStale
    split
    · unfold State.c
      rw [cur_updC, getC_updC]
      split
      · next hcur =>
        rw [hcur]
        dsimp only
        split <;> exact ⟨_, rfl⟩
      · exact ⟨_, rfl⟩
    · exact ⟨_, rfl⟩
  have hnote (t : State) (cells : List Host.Cell) : (t.noteWrite cells).c = t.c := by
    unfold State.noteWrite
    split <;> rfl
  cases bs with
  | nil => exact ⟨_, rfl⟩
  | cons b r =>
    obtain ⟨x, hx⟩ := hstale k
    refine ⟨x, ?_⟩
    have hheal := healed_of_good (ctx := ctx) h
    rw [← hx]
    unfold State.writeAt State.perform
    simp only [reduceCtorEq, if_false, cellsAt] at hheal ⊢
    rw [hheal, ite_self]
    exact hnote _ _

/-! ## The update at the home (R212, R214, R216) -/

/-- What an atomic finds at a home. -/
def State.oldAt (s : State) (l : Loc) (n : Nat) : Word := BitVec.ofNat 64 (leNat (readBytes s.mem l.key n))
/-- The machine after an atomic's update there, if it makes one. -/
def State.updated (s : State) (ctx : Nat) (l : Loc) (n : Nat) : Option Word → State
  | some y => s.writeAt ctx l.key (leBytes y.toNat n)
  | none => s

theorem updated_ite {s : State} {ctx : Nat} {l : Loc} {n : Nat} {y : Word} {p : Prop} [Decidable p] :
    s.updated ctx l n (if p then some y else none) = if p then s.writeAt ctx l.key (leBytes y.toNat n) else s := by
  split <;> rfl

theorem c_updated {s : State} {l : Loc} {ea n : Nat} (h : Claim.Plain s l ea n) (ctx : Nat) (y : Option Word) :
    ∃ x, (s.updated ctx l n y).c = { s.c with istale := x } := by
  cases y with
  | none => exact ⟨_, rfl⟩
  | some y => exact c_writeAt (by rw [leBytes_length, h.good])

/-- Beside its update an atomic leaves only the cycle from which the next word may issue. -/
theorem atomWait_eq (s : State) (quick : Bool) : ∃ r, s.atomWait quick = s.upd (fun c => { c with readyAt := r }) := by
  cases quick <;> exact ⟨_, rfl⟩

theorem atomAt_plain {s : State} {l : Loc} {ea n : Nat} (hp : Claim.Plain s l ea n) (hs : AllPerformed s) (upd : Word → Option Word)
    (host : Nat × Word × Word) : ∃ quick, atomAt l ea n upd host s =
      (.ok (s.oldAt l n), (s.updated s.c.ctx l n (upd (s.oldAt l n))).atomWait quick) := by
  refine ⟨homeOf l.key == .core s.cur && s.c.sq == [], ?_⟩
  unfold atomAt
  simp only [bind_get, hp.stack, Bool.false_eq_true, if_false]
  rw [bind_ok (inOrder_ok hs _), bind_get]
  simp only [hp.host, Bool.false_eq_true, if_false]
  rw [bind_raiseIf hp.good, arriveBytes_of_empty hs.loads]
  simp only [State.oldAt]
  cases upd (BitVec.ofNat 64 (leNat (readBytes s.mem l.key n))) <;> rfl

/-- A word whose effect ends as an atomic does: the old value to gD, then its acquire part. -/
theorem completes_atom {i : Instr} {m : M Unit} {s s' : State} {d : GReg} {l : Loc} {ea n : Nat} {ctx : Nat} {y : Option Word} {quick : Bool}
    {acq : Option Scope} (he : exec i s = run m s) (hcaches : Safety.OnlyCaches s s') (hp : Claim.Plain s' l ea n) (hs : AllPerformed s')
    (hm : m s = (do setI d (s'.oldAt l n); acquireOpt acq : M Unit) ((s'.updated ctx l n y).atomWait quick)) :
    CompletesTo i s (s'.updated ctx l n y) (putI (s'.updated ctx l n y).c d (s'.oldAt l n)) (s.c.pc + 1) := by
  obtain ⟨x, hx⟩ := c_updated hp ctx y
  obtain ⟨r, hr⟩ := atomWait_eq (s'.updated ctx l n y) quick
  rw [hr] at hm
  generalize s'.updated ctx l n y = v at hx hm
  have hissue : SameIssue s.c (v.upd fun c => { c with readyAt := r }).c := by
    rw [c_upd, hx]
    exact (issue_caches hcaches).trans ⟨rfl, rfl, rfl, rfl, rfl, rfl⟩
  refine completes_wr_of_became (lat := 1) he ?_ (became_of_bare (became_upd v _) rfl) hissue
  rw [hm, bind_ok (setI_run d _ 1 _), acquireOpt_ok]
  · rfl
  · have hwr : (State.wrI (v.upd fun c => { c with readyAt := r }) d (s'.oldAt l n) 1).c.loads = v.c.loads := by
      rw [State.wrI, State.wrG, c_upd, c_upd, Core.writeG]
      split <;> rfl
    rw [hwr, hx]
    exact hs.loads

/-! ## The new values (R214, R215) -/

/-- The bits of a size. -/
abbrev atBits (size : AtSize) : Nat := match size with | .z32 => 32 | .z64 => 64

/-- The integer atomics of R214 on naturals. -/
def amoNat (op : AmoOp) (w o x : Nat) : Nat :=
  match op with
  | .add => (o + x) % 2 ^ w
  | .swap => x
  | .and => o &&& x
  | .or => o ||| x
  | .xor => o ^^^ x
  | .mins => if sextInt o w ≤ sextInt x w then o else x
  | .maxs => if sextInt o w ≥ sextInt x w then o else x
  | .maxz => if o ≥ x then o else x

theorem amoNat_toNat {w : Nat} (hw : 0 < w) (op : AmoOp) (o x : BitVec w) : amoNat op w o.toNat x.toNat = (Claim.amo op w o x).toNat := by
  cases op with
  | add => exact (BitVec.toNat_add ..).symm
  | swap => rfl
  | and => exact (BitVec.toNat_and ..).symm
  | or => exact (BitVec.toNat_or ..).symm
  | xor => exact (BitVec.toNat_xor ..).symm
  | mins | maxs =>
    simp only [amoNat, Claim.amo, sextInt_toNat hw, ge_iff_le]
    split <;> rfl
  | maxz =>
    simp only [amoNat, Claim.amo, ge_iff_le]
    split <;> rfl

/-- An integer atomic works at its width, and what it gives is extended with zeros. -/
theorem amoNew_eq (op : AmoOp) (size : AtSize) (old x : Word) :
    amoNew op size old x = (Claim.amo op (atBits size) (old.setWidth _) (x.setWidth _)).setWidth 64 := by
  have hpos : 0 < atBits size := by cases size <;> decide
  have hmod (y : Word) : y.toNat % 2 ^ atBits size = (y.setWidth (atBits size)).toNat := (BitVec.toNat_setWidth ..).symm
  have hext (y : BitVec (atBits size)) : y.setWidth 64 = BitVec.ofNat 64 y.toNat := BitVec.eq_of_toNat_eq (by
    rw [BitVec.toNat_ofNat, BitVec.toNat_setWidth])
  rw [hext]
  have hnew : amoNew op size old x = BitVec.ofNat 64 (amoNat op (atBits size) (old.toNat % 2 ^ atBits size) (x.toNat % 2 ^ atBits size)) := by
    cases op <;> rfl
  rw [hnew, hmod, hmod, amoNat_toNat hpos]

/-- A number is a NaN when its magnitude is above infinity's. -/
theorem isNan_iff (x : Lane) : (f32Val x).isNan = decide (0x7F800000 < x.toNat % 2 ^ 31) := by
  have hfin (neg : Bool) (ef f : Nat) : (finOf 23 (-126) neg ef f).isNan = false := by
    unfold finOf
    split <;> rfl
  have hx := x.isLt
  unfold f32Val ieeeVal
  dsimp only
  split
  · split
    · exact (decide_eq_false (by omega)).symm
    · exact (decide_eq_true (by omega)).symm
  · exact (hfin ..).trans (decide_eq_false (by omega)).symm

/-- The place of a number among the numbers (R255), as `Claim.amof` has it. -/
theorem key32_eq (x : Lane) : key32 x = if x.msb then -(x.toNat % 2 ^ 31 : Int) - 1 else (x.toNat % 2 ^ 31 : Int) := by
  have hmsb : x.getLsbD 31 = x.msb := rfl
  unfold key32
  rw [hmsb]
  split
  · push_cast
    rfl
  · next h =>
    have hlt := BitVec.msb_eq_false_iff_two_mul_lt.1 (Bool.not_eq_true _ ▸ h)
    omega

/-- The smaller or larger of two numbers; NaN beside a NaN (R255). -/
theorem fMinMax_fst (mx : Bool) (x y : Lane) : (fMinMax mx false x y).1 =
    if (f32Val x).isNan || (f32Val y).isNan then nan32 else if (if mx then key32 y ≤ key32 x else key32 x ≤ key32 y) then x else y := by
  unfold fMinMax
  dsimp only
  cases (f32Val x).isNan <;> cases (f32Val y).isNan
  · cases mx <;> simp only [Bool.and_self, Bool.or_self, Bool.false_eq_true, if_false, if_true, decide_eq_true_eq]
  all_goals rfl

theorem amofNew_eq (op : AmofOp) (o x : Lane) : amofNew op o x = Claim.amof op o x := by
  cases op with
  | add => rfl
  | min | max =>
    simp only [amofNew, fMinMax_fst, isNan_iff, key32_eq]
    rfl

/-! ## Atomics (O15) -/

theorem oldAt_caches {s s' : State} (h : Safety.OnlyCaches s s') (l : Loc) (n : Nat) : s'.oldAt l n = s.oldAt l n := by
  rw [State.oldAt, mem_caches h, State.oldAt]

/-- An atomic at a plain home: the update there, the old value to gD. -/
theorem completes_atomTo {s s' : State} {d b : GReg} {order : Order} {l : Loc} {i : Instr} {size : AtSize} {upd : Word → Option Word}
    {hostOk : Bool} {host : Nat × Word × Word} {y : Option Word} (he : exec i s = run (atomTo d b size order hostOk upd host) s)
    (hs : AllPerformed s) (hat : Claim.atomic (capAddr (s.rdG b)) = true)
    (h : Reaches s (s.rdG b) (capAddr (s.rdG b)) (atBytes size) (permR ||| permW ||| permA) .atomic l s')
    (hp : Claim.Plain s' l (capAddr (s.rdG b)) (atBytes size)) (hy : upd (s.oldAt l (atBytes size)) = y) :
    CompletesTo i s (s'.updated s.c.ctx l (atBytes size) y)
      (putI (s'.updated s.c.ctx l (atBytes size) y).c d (s.oldAt l (atBytes size))) (s.c.pc + 1) := by
  have hcaches := reaches_caches h
  have hs' := allPerformed_reaches h hs
  obtain ⟨quick, hatom⟩ := atomAt_plain hp hs' upd host
  rw [oldAt_caches hcaches, hy, ctx_caches hcaches] at hatom
  rw [← oldAt_caches hcaches]
  refine completes_atom he hcaches hp hs' (quick := quick) (acq := acqPart order) ?_
  unfold atomTo
  rw [bind_get, bind_ok (atomCheck_ok hat h hp.host hostOk), bind_ok (releaseOpt_ok hs' _), bind_ok hatom, oldAt_caches hcaches]

/-- Settles O15: an atomic at a plain home is one read and one update there (`completes_atomTo`), with the values of R214 and R215
(`amoNew_eq`, `amofNew_eq`). -/
theorem atomics : Obligations.Atomics := by
  intro s s' d a b op fop order l c ea x e need old put gives hsq hloads hsent hat
  have hs : AllPerformed s := ⟨hsq, hloads, hsent⟩
  refine ⟨fun h hp => ⟨?_, ?_⟩, fun h hp => ⟨?_, ?_, ?_⟩⟩
  · refine completes_atomTo (i := .amo op .z64 order d a b) (y := some _) rfl hs hat h hp (congrArg some ?_)
    rw [amoNew_eq, BitVec.setWidth_eq, BitVec.setWidth_eq, BitVec.setWidth_eq]
    rfl
  · have hcas := completes_atomTo (i := .cas .z64 order d a b) rfl hs hat h hp rfl
    rwa [updated_ite] at hcas
  · exact completes_atomTo (i := .amo op .z32 order d a b) (y := some _) rfl hs hat h hp (congrArg some (amoNew_eq ..))
  · refine completes_atomTo (i := .amof fop order d a b) (y := some _) rfl hs hat h hp (congrArg some ?_)
    rw [amofNew_eq]
    rfl
  · have hcas := completes_atomTo (i := .cas .z32 order d a b) rfl hs hat h hp rfl
    rwa [updated_ite] at hcas

/-! ## LDAQ, STRL and AMONR (R217, R218) -/

/-- A store to a home reads nothing of what the queue holds: `storeBytes_plain` without the last two fields of `Claim.Plain`. -/
theorem storeBytes_home {s : State} {l : Loc} {ea : Nat} {bs : List Byte} {tag : Bool} (hstack : s.c.inStack ea = false)
    (hhost : l.host = false) (hfree : s.tileBusy l.key = false) (hq : s.c.sq.length < 32) : storeBytes l ea bs tag s =
      (.ok (), s.upd fun c => Claim.queued c [(.write (cellsAt l.key bs) (if l.tagless then [] else [(l.key / 16, tag)]), homeOf l.key)]) := by
  unfold storeBytes
  simp only [bind_get, hstack, hhost, Bool.false_eq_true, if_false]
  rw [bind_holdIf hfree, bind_ok (roomFor_free hq), modify_run, enqueue_free hq]

/-- Two entries that join the queue one after the other. -/
theorem queued_queued (c : Core) (p q : SqOp × Home) : Claim.queued (Claim.queued c [p]) [q] = Claim.queued c [p, q] := by
  simp only [Claim.queued, List.append_assoc]
  rfl

/-- The marker that holds a queued write back until what comes before it is performed (R205). -/
def marksOf : Option Scope → List (SqOp × Home)
  | some sc => [(.release sc, .hub)]
  | none => []

theorem marksOf_order (order : Order) : marksOf (relPart order) =
    match order with | .rel q | .ar q => [(SqOp.release q, Home.hub)] | _ => [] := by
  cases order <;> rfl

/-- A write that joins the queue after its marker, where there is room for both. -/
theorem enqueue_marked {s : State} {rel : Option Scope} {op : SqOp} {home : Home} (h : s.c.sq.length + 2 ≤ 32) :
    (do roomFor (markerRoom rel); markerOpt rel; modify (·.enqueue op home) : M Unit) s =
      (.ok (), s.upd fun c => Claim.queued c (marksOf rel ++ [(op, home)])) := by
  have hfree : roomFor (markerRoom rel) s = (.ok (), s) := roomFor_free (by cases rel <;> simp only [markerRoom] <;> omega)
  rw [bind_ok hfree]
  cases rel with
  | none =>
    rw [markerOpt, bind_pure_run, modify_run, enqueue_free (by omega)]
    rfl
  | some sc =>
    have hroom : (s.upd fun c => Claim.queued c [(.release sc, .hub)]).c.sq.length < 32 := by
      rw [c_upd]
      simp only [Claim.queued, List.length_append, List.length_map, List.length_zipIdx, List.length_cons, List.length_nil]
      omega
    rw [markerOpt, bind_modify, enqueue_free (by omega), modify_run, enqueue_free hroom]
    simp only [upd_upd, queued_queued]
    rfl

theorem poisoned_caches {s s' : State} (h : Safety.OnlyCaches s s') (k n : Nat) : s'.poisoned k n = s.poisoned k n := by
  obtain ⟨-, hout, -⟩ := h
  have hpoison : s'.poison = s.poison :=
    (congrArg State.poison hout : (outside { s' with tlb := s.tlb, host := s.host }).poison = (outside s).poison)
  rw [State.poisoned, hpoison, State.poisoned]

section
variable {s s' : State} {d a b : GReg} {op : AmoOp} {size : AtSize} {sc : Scope} {order : Order} {l : Loc}
  (hat : Claim.atomic (capAddr (s.rdG b)) = true) (hp : Claim.Plain s' l (capAddr (s.rdG b)) (atBytes size))
include hat hp

theorem completes_ldaq (h : Reaches s (s.rdG b) (capAddr (s.rdG b)) (atBytes size) permR .load l s') (hs : AllPerformed s) :
    CompletesTo (.ldaq size sc d b) s s' (putI s'.c d (s.oldAt l (atBytes size))) (s.c.pc + 1) := by
  have hcaches := reaches_caches h
  have hs' := allPerformed_reaches h hs
  obtain ⟨quick, hatom⟩ := atomAt_plain hp hs' (fun _ => none) (0, 0, 0)
  rw [← oldAt_caches hcaches]
  refine completes_atom (ctx := s'.c.ctx) (y := none) (acq := some sc) rfl hcaches hp hs' (quick := quick) ?_
  rw [bind_get]
  dsimp only
  rw [bind_ok (atomCheck_ok hat h hp.host true), bind_get, hp.host, Bool.false_and, if_neg Bool.false_ne_true, bind_ok hatom]

theorem completes_strl (h : Reaches s (s.rdG b) (capAddr (s.rdG b)) (atBytes size) permW .store l s') (hroom : s.c.sq.length + 2 ≤ 32) :
    CompletesTo (.strl size sc a b) s s' (Claim.queued s'.c [(.release sc, .hub), (.write (cellsAt l.key (leBytes (s.rdI a).toNat (atBytes size)))
      (if l.tagless then [] else [(l.key / 16, false)]), homeOf l.key)]) (s.c.pc + 1) := by
  have hcaches := reaches_caches h
  have hroom' : s'.c.sq.length + 2 ≤ 32 := by rwa [sq_caches hcaches]
  refine completes_upd (f := fun c => Claim.queued c _) rfl ?_ ((issue_caches hcaches).trans ⟨rfl, rfl, rfl, rfl, rfl, rfl⟩)
  rw [bind_get, bind_ok (atomCheck_ok hat h hp.host true), ← inStack_caches hcaches, hp.stack, if_neg Bool.false_ne_true,
    bind_ok (roomFor_free hroom')]
  unfold markerOpt
  rw [bind_modify, enqueue_free (by omega), storeBytes_home]
  · simp only [upd_upd, queued_queued]
  · rw [c_upd]
    exact hp.stack
  · exact hp.host
  · exact hp.free
  · rw [c_upd]
    simp only [Claim.queued, List.length_append, List.length_map, List.length_zipIdx, List.length_cons, List.length_nil]
    omega

theorem completes_amonr (h : Reaches s (s.rdG b) (capAddr (s.rdG b)) (atBytes size) (permR ||| permW ||| permA) .atomic l s')
    (hroom : s.c.sq.length + 2 ≤ 32) : CompletesTo (.amonr op size order a b) s s' (Claim.queued s'.c
      ((match order with | .rel q | .ar q => [(SqOp.release q, Home.hub)] | _ => []) ++ [(.amo op size l.key (s.rdI a), homeOf l.key)]))
      (s.c.pc + 1) := by
  have hcaches := reaches_caches h
  have hroom' : s'.c.sq.length + 2 ≤ 32 := by rwa [sq_caches hcaches]
  refine completes_upd (f := fun c => Claim.queued c _) rfl ?_ ((issue_caches hcaches).trans ⟨rfl, rfl, rfl, rfl, rfl, rfl⟩)
  rw [bind_get, bind_ok (atomCheck_ok hat h hp.host _), ← inStack_caches hcaches, hp.stack, if_neg Bool.false_ne_true, hp.host,
    if_neg Bool.false_ne_true, bind_raiseIf (by rw [← poisoned_caches hcaches, hp.good]), enqueue_marked hroom', marksOf_order]
end

theorem acquireRelease : Claim.AcquireRelease := by
  intro s s' d a b op size sc order l c ea n hat hp
  exact ⟨fun h hsq hloads hsent => completes_ldaq hat hp h ⟨hsq, hloads, hsent⟩, completes_strl hat hp, completes_amonr hat hp⟩

/-! ## FENCE (R205, R210) -/

theorem flushStack_clean {s : State} (h : ∀ e ∈ s.c.stack, e.2.dirty = false) : s.flushStack s.cur = s := by
  have hany : (s.getC s.cur).stack.any (fun e => e.2.dirty) = false := List.any_eq_false.2 fun e he => Bool.eq_false_iff.1 (h e he)
  exact if_neg (Bool.eq_false_iff.1 hany)

theorem fences : Claim.Fences := by
  intro s sc hsq hloads hclean
  have hflush := flushStack_clean hclean
  have hroom : s.c.sq.length + 1 ≤ 32 := by simp [hsq]
  have hmark : markerOpt (some sc) s = (.ok (), s.upd fun c => Claim.queued c [(.release sc, .hub)]) := by
    rw [markerOpt, modify_run, enqueue_free (by omega)]
  have hissue : SameIssue s.c (Claim.queued s.c [(.release sc, .hub)]) := ⟨rfl, rfl, rfl, rfl, rfl, rfl⟩
  refine ⟨completes_run rfl ?_ (became_refl s) (.rfl _), fun hsent => completes_run rfl ?_ (became_refl s) (.rfl _),
    completes_upd (f := fun c => Claim.queued c _) rfl ?_ hissue, completes_upd (f := fun c => Claim.queued c _) rfl ?_ hissue⟩
  all_goals rw [bind_modify, hflush]
  · exact acquireOpt_ok hloads _
  · exact (bind_ok (performM_ok ⟨hsq, hloads, hsent⟩ sc)).trans (acquireOpt_ok hloads _)
  · exact (bind_ok (roomFor_free hroom)).trans hmark
  · refine (bind_ok (roomFor_free hroom)).trans ((bind_ok hmark).trans (acquireOpt_ok ?_ _))
    rw [c_upd]
    exact hloads

/-- Settles O16: at a plain home LDAQ is an atomic that updates nothing (`atomAt_plain`), STRL and AMONR only join the queue; FENCE with
nothing under way has nothing to wait for (`performM_ok`, `acquireOpt_ok`). -/
theorem ordering : Obligations.Ordering := ⟨acquireRelease, fences⟩

end Sys2Proof.Machine
end

section
/-!
Barriers (R219 to R226): where their words complete, where they raise BOUNDS, and where they wait (O17).
-/
namespace Sys2Proof.Machine

open Safety (bare outside Became putG putI Traps Completes CompletesTo Leaves)

/-! ## How a word ends -/

section
variable {i : Instr} {m : M Unit} {s u v : State} {c : Core}

theorem traps_run {k : Cause} {x : Nat} (he : exec i s = run m s) (h : m s = (.error (k.stop x), u)) :
    Traps i s u k (BitVec.ofNat 64 x) := by
  rw [Traps, he]
  simp only [run, finishWith, h]

theorem run_congr {m' : M Unit} (h : m s = m' s) : run m s = run m' s := by rw [run, run, h]
end

theorem wokenFrom_run (w : Wait) (s : State) : wokenFrom w s = (.ok (if s.c.wait = some w then s.c.woken else none), s) := rfl

/-- A core that waits at its word. -/
def Core.asleep (c : Core) (now : Nat) (w : Wait) : Core :=
  { c with
    latch := {}, wait := some w, since := if c.wait = some w then c.since else now
    woken := if c.wait = some w then c.woken else none
    readyAt := max c.readyAt (now + 1) }

theorem holdAt_asleep {s : State} (hpend : s.c.tr.pend = false) (w : Wait) :
    s.holdAt w = (if w.issued && s.c.itemDue then s.publishOnce else s).upd (·.asleep s.cycle w) := by
  rw [State.holdAt, hpend]
  rfl

/-- A word that begins to wait changes its core's wait, and publishes itself at most. -/
theorem holdAt_sleeps {s : State} {w : Wait} (hpend : s.c.tr.pend = false) (hwait : s.c.wait = none) :
    outside (s.holdAt w) = outside s ∧ (s.holdAt w).c.wait = some w ∧ (s.holdAt w).c.woken = none ∧ (s.holdAt w).c.pc = s.c.pc ∧
      (s.holdAt w).c.g = s.c.g := by
  have hpub : ∃ x, outside (if w.issued && s.c.itemDue then s.publishOnce else s) = outside s ∧
      (if w.issued && s.c.itemDue then s.publishOnce else s).c = { s.c with w := x } := by
    split
    · obtain ⟨⟨hout, -, -⟩, x, hx, -⟩ := publishOnce_effect s id
      exact ⟨x, hout, hx⟩
    · exact ⟨s.c.w, rfl, rfl⟩
  obtain ⟨x, hout, hx⟩ := hpub
  rw [holdAt_asleep hpend, c_upd, hx, Core.asleep, hwait]
  exact ⟨hout, rfl, rfl, rfl, rfl⟩

/-! ## The barrier of a unit (R219, R220) -/

section
variable (s : State) (ctx u n : Nat) (q r : Bar)

@[simp] theorem getBar_setBar : (s.setBar ctx u n q).getBar ctx u n = q := by
  simp only [State.setBar, State.getBar, State.updX, State.getX, mget_mset_self, mget_mput_self]

@[simp] theorem setBar_setBar : (s.setBar ctx u n q).setBar ctx u n r = s.setBar ctx u n r := by
  simp only [State.setBar, State.updX, State.getX, mget_mset_self, mset_mset, mput_mput]

@[simp] theorem getC_setBar (m : Nat) : (s.setBar ctx u n q).getC m = s.getC m := rfl
end

/-- A core as a wake leaves it, whose wait may satisfy a condition. -/
def Core.wokenBy (c : Core) (p : Wait → Bool) (x : Word) : Core :=
  match c.wait with
  | some w => if p w && c.woken.isNone then { c with woken := some x } else c
  | none => c

theorem bare_wokenBy (c : Core) (p : Wait → Bool) (x : Word) : bare (c.wokenBy p x) = bare c := by
  unfold Core.wokenBy
  split
  · split <;> rfl
  · rfl

theorem wokenBy_of_awake {c : Core} (h : c.wait = none) (p : Wait → Bool) (x : Word) : c.wokenBy p x = c := by
  rw [Core.wokenBy, h]

theorem wokenBy_of_not {c : Core} {w : Wait} {p : Wait → Bool} (h : c.wait = some w) (hp : p w = false) (x : Word) : c.wokenBy p x = c := by
  rw [Core.wokenBy, h]
  dsimp only
  rw [hp]
  rfl

theorem getC_wakeWhere (s : State) (p : Nat → Wait → Bool) (x : Word) (n : Nat) :
    (s.wakeWhere p x).getC n = (s.getC n).wokenBy (p n) x := by
  have hmap : (s.wakeWhere p x).cores = s.cores.map (fun e => (e.1, e.2.wokenBy (p e.1) x)) := by
    refine List.map_congr_left fun ⟨j, c⟩ _ => ?_
    dsimp only
    cases hw : c.wait with
    | none => rw [wokenBy_of_awake hw]
    | some w =>
      simp only [Core.wokenBy, hw]
      split <;> rfl
  have hfind := mfind_mapVals s.cores (fun e => (e.1, e.2.wokenBy (p e.1) x)) (fun _ => rfl) n
  rw [← hmap] at hfind
  unfold State.getC mget
  rw [hfind]
  cases mfind s.cores n <;> rfl

@[simp] theorem wakeWhere_setBar (s : State) (p : Nat → Wait → Bool) (x : Word) (ctx u n : Nat) (q : Bar) :
    (s.setBar ctx u n q).wakeWhere p x = (s.wakeWhere p x).setBar ctx u n q := rfl

/-! ## The phase test (R220, R225) -/

theorem complete_iff (q : Bar) : q.complete = true ↔ q.arrived = q.count ∧ q.count ≠ 0 ∧ q.pending = 0 ∧ q.broken = false := by
  simp [Bar.complete, and_assoc]

/-- A barrier whose phase has just ended. -/
def Bar.toggle (q : Bar) (now : Nat) : Bar := { q with phase := !q.phase, arrived := 0, toggled := now }

section
variable {s : State} {ctx u n : Nat} {q : Bar}

theorem admitHeld_none (h : (s.getBar ctx u n).heldBy = []) : s.admitHeld ctx u n = s := if_pos h

theorem settleBar_open {k : Nat} (h : (s.getBar ctx u n).complete = false) : s.settleBar ctx u n k = s := by
  cases k with
  | zero => rfl
  | succ k => exact if_neg (Bool.eq_false_iff.1 h)

/-- A phase ends: the cores that wait there are woken, then held arrivals are counted. -/
theorem settleBar_complete {k : Nat} (h : (s.getBar ctx u n).complete = true) : s.settleBar ctx u n (k + 1) =
    (((s.wakeWhere (fun _ w => w == .barrier ctx u n) 1).setBar ctx u n ((s.getBar ctx u n).toggle s.cycle)).admitHeld ctx u n).settleBar
      ctx u n k := if_pos h

/-- The machine after the test of a barrier that has become `q` and holds no arrival. -/
def State.tested (s : State) (ctx u n : Nat) (q : Bar) : State :=
  if q.arrived = q.count ∧ q.count ≠ 0 ∧ q.pending = 0 ∧ q.broken = false then
    ((s.setBar ctx u n q).wakeWhere (fun _ w => w == .barrier ctx u n) 1).setBar ctx u n (q.toggle s.cycle)
  else s.setBar ctx u n q

theorem testBar_setBar (h : q.heldBy = []) : (s.setBar ctx u n q).testBar ctx u n = s.tested ctx u n q := by
  unfold State.testBar State.tested
  rw [getBar_setBar, h]
  split
  · next hc =>
    have hfull : ((s.setBar ctx u n q).getBar ctx u n).complete = true := by rw [getBar_setBar, complete_iff]; exact hc
    rw [List.length_nil, settleBar_complete hfull, getBar_setBar, admitHeld_none (by rw [getBar_setBar]; exact h)]
    rfl
  · next hc => exact settleBar_open (Bool.eq_false_iff.2 (by rwa [getBar_setBar, Ne, complete_iff]))

/-- A core that waits for nothing sees nothing of the test. -/
theorem c_tested (h : s.c.wait = none) : (s.tested ctx u n q).c = s.c := by
  unfold State.tested
  split
  · have hw := getC_wakeWhere (s.setBar ctx u n q) (fun _ w => w == .barrier ctx u n) 1 s.cur
    exact hw.trans (wokenBy_of_awake h _ _)
  · rfl

/-- Between BINIT and the first arrival no phase ends. -/
theorem testBar_started (h : q.heldBy = []) (hq : q.complete = false) :
    ((s.setBar ctx u n q).admitHeld ctx u n).testBar ctx u n = s.setBar ctx u n q := by
  rw [admitHeld_none (by rw [getBar_setBar, h])]
  exact settleBar_open (by rw [getBar_setBar, hq])
end

/-! ## BINIT and BEXP (R221 to R224) -/

section
variable {s v : State} {i : Instr} {m : M Unit} {salt : Nat} (he : exec i s = run m s) (hc : v.c = s.c)
include he hc

/-- A blocking word that has changed no core that is awake. -/
theorem leaves_block (h : m s = (.ok (), v.block salt)) : Leaves i s v := by
  have hi := issue_block v salt
  rw [hc] at hi
  exact completesTo_run he h (became_block v salt) hi.pc (congrArg Latch.src hi.latch) (congrArg Weave.brw hi.w)

/-- The same, of a word that gives an integer. -/
theorem completes_wrI_block {d : GReg} {x : Word} {lat : Nat} (h : m s = (.ok (), (v.wrI d x lat).block salt)) :
    CompletesTo i s v (putI v.c d x) (s.c.pc + 1) := by
  have hi := (issue_wrI v d x lat).trans (issue_block _ salt)
  rw [hc] at hi
  exact completesTo_run he h (became_trans (became_wrI v d x lat) (became_block _ salt)) hi.pc (congrArg Latch.src hi.latch)
    (congrArg Weave.brw hi.w)
end

/-- The barrier that a word names: its number, the context, the unit that holds it, and its state there (R219). -/
structure NamesBar (s : State) (bar : BitVec 8) (ctx u n : Nat) (b : Bar) : Prop where
  num : bar.toNat = n
  inCtx : s.c.ctx = ctx
  atUnit : s.barUnitOf n = u
  reads : s.getBar ctx u n = b

theorem namesBar (s : State) (bar : BitVec 8) : NamesBar s bar s.c.ctx (s.barUnitOf bar.toNat) bar.toNat
    (s.getBar s.c.ctx (s.barUnitOf bar.toNat) bar.toNat) := ⟨rfl, rfl, rfl, rfl⟩

section
variable {s : State} {d a : GReg} {bar : BitVec 8} {ctx u n : Nat} {b : Bar}

theorem binit_bounds (h : (s.rdI a).toNat = 0 ∨ 4608 < (s.rdI a).toNat) :
    Traps (.binit a bar) s s .bounds (BitVec.ofNat 64 (barInfo 1 bar.toNat)) := by
  have hout : (decide ((s.rdI a).toNat = 0) || decide (4608 < (s.rdI a).toNat)) = true := by simpa using h
  refine traps_run rfl ?_
  rw [bind_get, bind_raiseIf_true hout]

section
variable (hbar : NamesBar s bar ctx u n b)
include hbar

theorem leaves_binit (hheld : b.heldBy = []) (h1 : 1 ≤ (s.rdI a).toNat) (h2 : (s.rdI a).toNat ≤ 4608) :
    Leaves (.binit a bar) s (s.setBar ctx u n { b with count := (s.rdI a).toNat, arrived := 0, pending := 0, broken := false }) := by
  obtain ⟨rfl, rfl, rfl, rfl⟩ := hbar
  have hin : (decide ((s.rdI a).toNat = 0) || decide (4608 < (s.rdI a).toNat)) = false := by simp; omega
  refine leaves_block (salt := 0x170) rfl rfl ?_
  rw [bind_get, bind_raiseIf hin, set_run]
  refine congrArg (fun t : State => (Except.ok (), t.block 0x170)) (testBar_started hheld ?_)
  rw [Bool.eq_false_iff, Ne, complete_iff]
  dsimp only
  omega

theorem leaves_bexp (hs : AllPerformed s) (hheld : b.heldBy = []) (hwait : s.c.wait = none) (h1 : -(2 ^ 35) ≤ b.pending + (s.rdI a).toInt)
    (h2 : b.pending + (s.rdI a).toInt ≤ 2 ^ 35 - 1) :
    Leaves (.bexp a bar) s (s.tested ctx u n { b with pending := b.pending + (s.rdI a).toInt }) := by
  obtain ⟨rfl, rfl, rfl, rfl⟩ := hbar
  refine leaves_block (salt := 0x171) rfl (c_tested hwait) ?_
  rw [bind_get, bind_modify, drainAll_of_empty hs.sq, bind_get, bind_holdIf (unsent_of_performed hs)]
  refine (congrFun (if_pos (Bool.and_eq_true_iff.2 ⟨decide_eq_true h1, decide_eq_true h2⟩)) s).trans ?_
  exact congrArg (fun t : State => (Except.ok (), t.block 0x171)) (testBar_setBar hheld)

theorem bexp_bounds (hs : AllPerformed s) (h : b.pending + (s.rdI a).toInt < -(2 ^ 35) ∨ 2 ^ 35 - 1 < b.pending + (s.rdI a).toInt) :
    Traps (.bexp a bar) s (s.setBar ctx u n { b with broken := true }) .bounds (BitVec.ofNat 64 (barInfo 2 n)) := by
  obtain ⟨rfl, rfl, rfl, rfl⟩ := hbar
  refine traps_run rfl ?_
  rw [bind_get, bind_modify, drainAll_of_empty hs.sq, bind_get, bind_holdIf (unsent_of_performed hs)]
  refine (congrFun (if_neg ?_) s).trans rfl
  simp only [pendingOk, Bool.and_eq_true, decide_eq_true_eq]
  omega

/-! ## BWAIT (R226) -/

theorem completes_bwait (hloads : s.c.loads = []) (h : b.phase ≠ (s.rdI a).getLsbD 0) : Completes (.bwait a bar) s s.c := by
  obtain ⟨rfl, rfl, rfl, rfl⟩ := hbar
  refine completes_run (u := s) rfl ?_ (became_refl s) (.rfl _)
  rw [bind_get, bind_ok (wokenFrom_run _ s)]
  exact (congrFun (if_pos (.inr h)) s).trans (acquireOpt_ok hloads _)

/-- What BWAIT does while the phase is still the one it names and nothing has woken it. -/
theorem exec_bwait_same (hwait : s.c.wait = none) (h : b.phase = (s.rdI a).getLsbD 0) :
    exec (.bwait a bar) s = run (raiseIf b.broken .bounds (barInfo 3 n) >>= fun _ => holdOn (.barrier ctx u n)) s := by
  obtain ⟨rfl, rfl, rfl, rfl⟩ := hbar
  refine run_congr ?_
  rw [bind_get, bind_ok (wokenFrom_run _ s), hwait]
  refine congrFun (if_neg ?_) s
  simpa using h

/-! ## BARR (R225) -/

/-- BARR after its release. -/
def arriveM (d : GReg) (ctx u n : Nat) : M Unit := do
  let s ← get
  let b := s.getBar ctx u n
  raiseIf (decide (b.count = 0)) .bounds (barInfo 4 n)
  raiseIf b.broken .bounds (barInfo 3 n)
  if b.arrived < b.count then
    set ((s.setBar ctx u n { b with arrived := b.arrived + 1 }).testBar ctx u n)
    setI d (if b.phase then 1 else 0)
    modify (·.block 0x172)
  else
    set (s.setBar ctx u n { b with heldBy := b.heldBy.filter (fun m => m != s.cur) ++ [s.cur] })
    holdOn (.barArrive ctx u n)

theorem exec_barr_arrives (hs : AllPerformed s) (hwait : s.c.wait = none) : exec (.barr d bar) s = run (arriveM d ctx u n) s := by
  obtain ⟨rfl, rfl, rfl, rfl⟩ := hbar
  refine run_congr ?_
  rw [bind_get, bind_get, bind_ok (wokenFrom_run _ s), hwait]
  simp only [reduceCtorEq, if_false]
  rw [bind_get, hwait, bind_holdIf (decide_eq_false nofun), bind_ok (releaseM_ok hs _)]
  rfl
end

section
variable (hb : s.getBar ctx u n = b)
include hb

theorem arriveM_empty (h : b.count = 0) : arriveM d ctx u n s = (.error (Cause.bounds.stop (barInfo 4 n)), s) := by
  subst hb
  unfold arriveM
  rw [bind_get, bind_raiseIf_true (decide_eq_true h)]

theorem arriveM_broken (hcount : b.count ≠ 0) (h : b.broken = true) : arriveM d ctx u n s = (.error (Cause.bounds.stop (barInfo 3 n)), s) := by
  subst hb
  unfold arriveM
  rw [bind_get, bind_raiseIf (decide_eq_false hcount), bind_raiseIf_true h]

theorem arriveM_counted (hcount : b.count ≠ 0) (hbroken : b.broken = false) (h : b.arrived < b.count) : arriveM d ctx u n s =
    (.ok (), ((((s.setBar ctx u n { b with arrived := b.arrived + 1 }).testBar ctx u n).wrI d (if b.phase then 1 else 0) 1).block 0x172)) := by
  subst hb
  unfold arriveM
  rw [bind_get, bind_raiseIf (decide_eq_false hcount), bind_raiseIf hbroken, if_pos h]
  rfl

theorem arriveM_excess (hcount : b.count ≠ 0) (hbroken : b.broken = false) (h : b.count ≤ b.arrived) (hheld : b.heldBy = []) :
    arriveM d ctx u n s = (.error (.hold (.barArrive ctx u n)), s.setBar ctx u n { b with heldBy := [s.cur] }) := by
  subst hb
  unfold arriveM
  rw [bind_get, bind_raiseIf (decide_eq_false hcount), bind_raiseIf hbroken, if_neg (Nat.not_lt.2 h), hheld]
  rfl
end

section
variable {v : State} (hbar : NamesBar s bar ctx u n b) (hs : AllPerformed s) (hwait : s.c.wait = none)
  (hcount : b.count ≠ 0) (hbroken : b.broken = false) (hroom : b.arrived < b.count)
  (hv : (s.setBar ctx u n { b with arrived := b.arrived + 1 }).testBar ctx u n = v)
include hbar hs hwait hcount hbroken hroom hv

/-- BARR counts its arrival. -/
theorem exec_barr_counted : exec (.barr d bar) s = .next (((v.wrI d (if b.phase then 1 else 0) 1).block 0x172).finish none) := by
  rw [exec_barr_arrives hbar hs hwait, run_ok (arriveM_counted hbar.reads hcount hbroken hroom), hv]

theorem completes_barr (hc : v.c = s.c) : CompletesTo (.barr d bar) s v (putI v.c d (if b.phase then 1 else 0)) (s.c.pc + 1) :=
  completes_wrI_block (exec_barr_arrives hbar hs hwait) hc (hv ▸ arriveM_counted hbar.reads hcount hbroken hroom)
end

/-! ## Held arrivals (R225) -/

/-- The one held arrival is counted in the phase that begins. -/
theorem admitHeld_one {m : Nat} (hb : s.getBar ctx u n = b) (hheld : b.heldBy = [m]) (hm : m < nCores) (hroom : b.arrived < b.count)
    (hw : (s.getC m).wait = some (.barArrive ctx u n)) (hwoken : (s.getC m).woken = none) : s.admitHeld ctx u n =
      (s.setBar ctx u n { b with arrived := b.arrived + 1, heldBy := [] }).updC m
        (fun c => { c with woken := some (if b.phase then 1 else 0) }) := by
  have hlive : (decide (nCores ≤ m) || ((s.getC m).wait == some (.barArrive ctx u n) && (s.getC m).woken.isNone)) = true := by
    simp [hw, hwoken]
  obtain ⟨k, hk⟩ : ∃ k, b.count - b.arrived = k + 1 := ⟨b.count - b.arrived - 1, by omega⟩
  unfold State.admitHeld
  rw [hb]
  simp only [hheld, reduceCtorEq, if_false, List.filter_cons, hlive, if_true, List.filter_nil, hk, List.take_succ_cons, List.take_nil,
    List.length_cons, List.length_nil, List.drop_succ_cons, List.drop_nil, List.foldl_cons, List.foldl_nil, if_neg (Nat.not_le.2 hm)]

theorem woken_finish {m : Nat} (hm : m ≠ s.cur) : ((s.finish none).getC m).woken = (s.getC m).woken := by
  have hpub (it : Item) : ((s.publish s.cur it).getC m).woken = (s.getC m).woken := by
    rcases (publish_frame s s.cur it).2 m with h | ⟨k, h⟩ <;> rw [h]
  unfold State.finish
  dsimp only
  split
  · rw [getC_upd, if_neg (by rwa [cur_of_outside (publish_frame ..).1]), hpub]
  · rw [getC_upd, if_neg hm]

/-- The machine after the last arrival of a phase at a barrier that holds an arrival of core `m`: the waiters are woken, and `m`
is counted in the next phase and woken with it. -/
def State.turned (s : State) (ctx u n m : Nat) (q : Bar) : State :=
  ((s.wakeWhere (fun _ w => w == .barrier ctx u n) 1).setBar ctx u n { q.toggle s.cycle with arrived := 1, heldBy := [] }).updC m
    (fun c => { c with woken := some (if !q.phase then 1 else 0) })

section
variable {m : Nat} {q : Bar}

theorem testBar_held (hheld : q.heldBy = [m]) (hm : m < nCores) (hcount : 2 ≤ q.count) (hfull : q.complete = true)
    (hw : (s.getC m).wait = some (.barArrive ctx u n)) (hwoken : (s.getC m).woken = none) :
    (s.setBar ctx u n q).testBar ctx u n = s.turned ctx u n m q := by
  have hcore : (s.wakeWhere (fun _ w => w == .barrier ctx u n) 1).getC m = s.getC m :=
    (getC_wakeWhere ..).trans (wokenBy_of_not hw rfl 1)
  have hadmit : ((s.wakeWhere (fun _ w => w == .barrier ctx u n) 1).setBar ctx u n (q.toggle s.cycle)).admitHeld ctx u n =
      s.turned ctx u n m q := by
    rw [admitHeld_one (b := q.toggle s.cycle) (getBar_setBar ..) hheld hm (Nat.lt_of_lt_of_le Nat.two_pos hcount)
      (by rw [getC_setBar, hcore, hw]) (by rw [getC_setBar, hcore, hwoken]), setBar_setBar]
    rfl
  have hopen : ((s.turned ctx u n m q).getBar ctx u n).complete = false := by
    have hbar : (s.turned ctx u n m q).getBar ctx u n = { q.toggle s.cycle with arrived := 1, heldBy := [] } := getBar_setBar ..
    rw [hbar, Bool.eq_false_iff, Ne, complete_iff]
    exact fun ⟨h, _⟩ => Nat.ne_of_lt hcount h
  rw [State.testBar, settleBar_complete (by rw [getBar_setBar, hfull]), getBar_setBar, wakeWhere_setBar, setBar_setBar]
  exact (congrArg (fun t : State => t.settleBar ctx u n _) hadmit).trans (settleBar_open hopen)

theorem c_turned (hm : m ≠ s.cur) (hwait : s.c.wait = none) : (s.turned ctx u n m q).c = s.c := by
  have hw := getC_wakeWhere s (fun _ w => w == .barrier ctx u n) 1 s.cur
  exact (getC_updC ..).trans ((if_neg hm.symm).trans (hw.trans (wokenBy_of_awake hwait _ _)))

/-- A wake is the beginning of the next word. -/
theorem became_turned (hm : m ≠ s.cur) (hwait : s.c.wait = none) :
    Became (s.setBar ctx u n { q.toggle s.cycle with arrived := 1, heldBy := [] }) (s.turned ctx u n m q) s.c := by
  refine ⟨rfl, congrArg bare (c_turned hm hwait), fun k _ => ?_⟩
  have hwake : bare ((s.wakeWhere (fun _ w => w == .barrier ctx u n) 1).getC k) = bare (s.getC k) :=
    (congrArg bare (getC_wakeWhere ..)).trans (bare_wokenBy ..)
  rw [State.turned, getC_updC]
  split
  · next hk =>
    rw [hk] at hwake ⊢
    exact hwake
  · exact hwake

theorem woken_turned : ((s.turned ctx u n m q).getC m).woken = some (if !q.phase then 1 else 0) := by
  rw [State.turned, getC_updC, if_pos rfl]
end

section
variable {m : Nat} (hbar : NamesBar s bar ctx u n b) (hs : AllPerformed s) (hwait : s.c.wait = none)
include hbar hs hwait

/-- BARR of the last arrival of a phase, where the barrier holds another core's arrival. -/
theorem barr_turns (hcount : 2 ≤ b.count) (hbroken : b.broken = false) (hpend : b.pending = 0) (hlast : b.arrived + 1 = b.count)
    (hheld : b.heldBy = [m]) (hm : m ≠ s.cur) (hcores : m < nCores) (hw : (s.getC m).wait = some (.barArrive ctx u n))
    (hwoken : (s.getC m).woken = none) :
    CompletesTo (.barr d bar) s (s.setBar ctx u n { b with phase := !b.phase, arrived := 1, heldBy := [], toggled := s.cycle })
      (putI s.c d (if b.phase then 1 else 0)) (s.c.pc + 1) ∧
    ∃ t, exec (.barr d bar) s = .next t ∧ (t.getC m).woken = some (if !b.phase then 1 else 0) := by
  have hne : b.count ≠ 0 := by omega
  have hroom : b.arrived < b.count := by omega
  have htest : (s.setBar ctx u n { b with arrived := b.arrived + 1 }).testBar ctx u n =
      s.turned ctx u n m { b with arrived := b.arrived + 1 } :=
    testBar_held hheld hcores hcount ((complete_iff _).2 ⟨hlast, hne, hpend, hbroken⟩) hw hwoken
  have hc := c_turned (ctx := ctx) (u := u) (n := n) (q := { b with arrived := b.arrived + 1 }) hm hwait
  constructor
  · obtain ⟨t, ht, hbecame, hend⟩ := completes_barr (d := d) hbar hs hwait hne hbroken hroom htest hc
    exact ⟨t, ht, became_chain (became_turned hm hwait) hbecame (by rw [hc]), hend⟩
  · refine ⟨_, exec_barr_counted hbar hs hwait hne hbroken hroom htest, ?_⟩
    rw [woken_finish, State.block, getC_upd, if_neg, State.wrI, State.wrG, getC_upd, if_neg, woken_turned]
    all_goals exact hm

/-- An arrival beyond COUNT waits at the unit. -/
theorem barr_excess (hpend : s.c.tr.pend = false) (hcount : b.count ≠ 0) (hbroken : b.broken = false) (h : b.count ≤ b.arrived)
    (hheld : b.heldBy = []) : ∃ t, exec (.barr d bar) s = .next t ∧ outside t = outside (s.setBar ctx u n { b with heldBy := [s.cur] }) ∧
      t.c.wait = some (.barArrive ctx u n) ∧ t.c.woken = none ∧ t.c.pc = s.c.pc ∧ t.c.g = s.c.g :=
  ⟨_, (exec_barr_arrives hbar hs hwait).trans (run_hold (arriveM_excess hbar.reads hcount hbroken h hheld)),
    holdAt_sleeps (s := s.setBar ctx u n _) hpend hwait⟩
end

/-- A held arrival that has been counted goes on with its phase. -/
theorem completes_barr_woken {p : Word} (hbar : NamesBar s bar ctx u n b) (hwait : s.c.wait = some (.barArrive ctx u n))
    (hwoken : s.c.woken = some p) : Completes (.barr d bar) s (putI s.c d p) := by
  obtain ⟨rfl, rfl, rfl, rfl⟩ := hbar
  refine completes_run rfl ?_ (became_wrI s d p 1) (issue_wrI s d p 1)
  rw [bind_get, bind_get, bind_ok (wokenFrom_run _ s), if_pos hwait, hwoken]
  rfl

end

/-! ## The obligation -/

theorem barrierWords : Claim.BarrierWords := by
  intro s d a bar n ctx u b x set tested hsq hloads hsent hheld hwait
  have hs : AllPerformed s := ⟨hsq, hloads, hsent⟩
  exact ⟨leaves_binit (namesBar s bar) hheld, leaves_bexp (namesBar s bar) hs hheld hwait,
    fun hcount hbroken h => completes_barr (namesBar s bar) hs hwait hcount hbroken h (testBar_setBar hheld) (c_tested hwait),
    completes_bwait (namesBar s bar) hloads⟩

theorem barrierFaults : Claim.BarrierFaults := by
  intro s d a bar n u b x info barr hsq hloads hsent hwait
  have hs : AllPerformed s := ⟨hsq, hloads, hsent⟩
  have hexec := exec_barr_arrives (d := d) (namesBar s bar) hs hwait
  refine ⟨binit_bounds, fun h => ⟨_, bexp_bounds (namesBar s bar) hs h, rfl, fun _ => rfl⟩,
    fun h => ⟨s, traps_run hexec (arriveM_empty rfl h), rfl, fun _ => rfl⟩,
    fun hcount h => ⟨s, traps_run hexec (arriveM_broken rfl hcount h), rfl, fun _ => rfl⟩, fun hphase h => ?_⟩
  exact traps_run (exec_bwait_same (namesBar s bar) hwait hphase) (bind_raiseIf_true h _ _ _ s)

theorem heldArrivals : Claim.HeldArrivals := by
  intro s d a bar m p n ctx u b bit sleeps
  refine ⟨completes_barr_woken (namesBar s bar), fun hsq hloads hsent hwait hpend => ?_⟩
  have hs : AllPerformed s := ⟨hsq, hloads, hsent⟩
  refine ⟨barr_excess (namesBar s bar) hs hwait hpend, barr_turns (namesBar s bar) hs hwait, fun hphase hbroken => ?_⟩
  obtain ⟨hout, hw, hwoken, hpc, -⟩ := holdAt_sleeps (w := .barrier ctx u n) hpend hwait
  exact ⟨_, (exec_bwait_same (namesBar s bar) hwait hphase).trans (run_hold (bind_raiseIf hbroken _ _ _ s)), hout, hw, hwoken, hpc⟩

/-- Settles O17: the phase test where no arrival is held (`testBar_setBar`) and where one is (`testBar_held`), what BARR does after its
release (`exec_barr_arrives`), and the words that stop (`bexp_bounds`, `exec_bwait_same`, `holdAt_sleeps`). -/
theorem barriers : Obligations.Barriers := ⟨barrierWords, barrierFaults, heldArrivals⟩

end Sys2Proof.Machine
end

section
/-!
PGET reads its port's register as any word that issues in that cycle does (R46, R233): O18 says more.
-/
namespace Sys2Proof.Machine

open Safety (bare outside Became putG putI Completes)

/-- Where no `.a` deposit waits, freeing a port applies none. -/
theorem applyAsync_none {s : State} {n : Nat} (h : (s.getC n).asyncs = []) (port : Nat) : s.applyAsync n port = s := by
  unfold State.applyAsync
  simp only [h, List.filter_nil, List.foldl_nil, ite_self]

/-- The core after PGET has taken port `n`: FULL is clear and OVERRUN stands. -/
def Core.portTaken (c : Core) (n : Nat) : Core := { c with portfull := c.portfull &&& ~~~((1 : BitVec 16) <<< n) }

@[simp] theorem asyncs_writeG (c : Core) (now r : Nat) (x : TReg) (lat : Nat) : (c.writeG now r x lat).asyncs = c.asyncs := by
  unfold Core.writeG
  split <;> rfl

theorem bare_writeG_portTaken (c : Core) (now : Nat) (d : GReg) (x : TReg) (lat n : Nat) :
    bare ((c.writeG now d.val x lat).portTaken n) = bare (putG (c.portTaken n) d x) := by
  unfold Core.writeG putG
  split <;> rfl

/-- PGET of a full port: the port's register as it is read in the issue cycle goes to gD, FULL clears (R233). -/
theorem completes_pget {s : State} {d : GReg} {port : BitVec 3} (hfull : s.c.portfull.getLsbD port.toNat = true) (hasync : s.c.asyncs = []) :
    Completes (.pget d port) s (putI (s.c.portTaken port.toNat) d (s.c.readG s.cycle (48 + port.toNat)).int) := by
  have hbit : BitVec.ofNat 16 (2 ^ port.toNat) = (1 : BitVec 16) <<< port.toNat :=
    BitVec.eq_of_toNat_eq (by simp [Nat.shiftLeft_eq])
  let x := TReg.ofInt (s.c.readG s.cycle (48 + port.toNat)).int
  have hissue : SameIssue s.c ((s.c.writeG s.cycle d.val x 1).portTaken port.toNat) :=
    (sameIssue_writeG ..).trans ⟨rfl, rfl, rfl, rfl, rfl, rfl⟩
  have hnone : ((s.upd (fun c => (c.writeG s.cycle d.val x 1).portTaken port.toNat)).getC s.cur).asyncs = [] := by
    rw [getC_upd, if_pos rfl]
    exact (asyncs_writeG ..).trans hasync
  obtain ⟨t, ht, hb, hend⟩ := completes_upd (i := .pget d port) (s' := s)
    (f := fun c => (c.writeG s.cycle d.val x 1).portTaken port.toNat) rfl (by
      rw [bind_get, bind_holdIf (by rw [hfull]; rfl), bind_ok (setI_run ..), modify_run, hbit, State.wrI, State.wrG, upd_upd]
      exact congrArg (Prod.mk _) (applyAsync_none hnone _)) hissue
  exact ⟨t, ht, became_of_bare hb (bare_writeG_portTaken ..), hend⟩

/-- Core 0 at a PGET of port 0: the port is full, and a fixed-latency result for g48, which is 0, is due at cycle 9; till then g48 reads 1. -/
def portInFlight : State :=
  Test.put { portfull := 1, prods := [{ file := .g, reg := 48, old := .g (TReg.ofInt 1), due := 9, spos := 0, lat := 9, token := 0 }] }

/-- Refutes O18, by its clause on PGET: while a fixed-latency result for the port's register is on its way (`portInFlight`) PGET gives what
the register still reads as (`completes_pget`), 1, and the statement the result, 0. -/
theorem not_waitsAndPorts : ¬ Obligations.WaitsAndPorts := by
  intro h
  obtain ⟨-, -, hpget⟩ := h portInFlight portInFlight 1 0 0 .z32 .core false false 0 { key := 0 }
  obtain ⟨t, ht, ⟨-, hc, -⟩, -⟩ := hpget (by decide) (by decide)
  obtain ⟨u, hu, ⟨-, hd, -⟩, -⟩ := completes_pget (s := portInFlight) (d := 1) (port := 0) (by decide) (by decide)
  have htu : t = u := Host.Outcome.next.inj (ht.symm.trans hu)
  have hg := congrArg Core.g (hc.symm.trans (htu ▸ hd))
  exact absurd hg (by decide)

end Sys2Proof.Machine
end

section
/-!
Words that take a fault-ring entry and the integer vector words (O19, R236, R237, R250 to R252, R455).
-/
namespace Sys2Proof.Machine

open Safety (putK)

/-! ## Lanes and elements (R236, R237) -/

theorem maskOf_eq_ofFnLE (m : Mask) (p : Nat → Bool) : maskOf m p = BitVec.ofFnLE (fun l : Fin 16 => m.getLsbD l && p l) := by
  have hsum := foldl_pow_of_bits 16 0 0 (fun l => laneOn m l && p l)
  simp only [Nat.zero_add, Nat.pow_zero, Nat.mul_one] at hsum
  refine BitVec.eq_of_toNat_eq ?_
  rw [maskOf, hsum, BitVec.toNat_ofNat, BitVec.toNat_ofFnLE, Nat.mod_eq_of_lt (Nat.ofBits_lt_two_pow _)]
  rfl

theorem maskOf_eq (s : State) (k : KReg) (p : Nat → Bool) : maskOf (s.rdK k) p = Claim.mask s k p := maskOf_eq_ofFnLE _ _

theorem laneAt_fin (v : Vec) (l : Fin 16) : laneAt v l = v[l] := by simp [laneAt, Vector.getD]

/-- A merge under a guard, lane by lane. -/
theorem mergeVec_eq (m : Mask) (old : Vec) (f : Nat → Lane) :
    mergeVec m old f = Vector.ofFn (fun l : Fin 16 => if m.getLsbD l then f l else old[l]) := by
  simp only [mergeVec, vecOf, laneOn, laneAt_fin]
theorem mergeVec_laneAt (m : Mask) (old v : Vec) :
    mergeVec m old (laneAt v) = Vector.ofFn (fun l : Fin 16 => if m.getLsbD l then v[l] else old[l]) := by
  simp only [mergeVec, vecOf, laneOn, laneAt_fin]
theorem mergeVec_eq_lanes (s : State) (k : KReg) (d : VReg) (f : Nat → Lane) : mergeVec (s.rdK k) (s.rdV d) f = Claim.lanes s k d f :=
  mergeVec_eq _ _ _

/-- A lane keeps of each element its residue. -/
theorem laneOf_congr {w : Nat} {f g : Nat → Nat} (h : ∀ j, f j % 2 ^ w = g j % 2 ^ w) : laneOf w f = laneOf w g := by
  simp only [laneOf, h]
theorem vtBits_pos (ty : VType) : 0 < vtBits ty := by cases ty <;> decide
theorem elemAt_lt (w : Nat) (x : Lane) (j : Nat) : elemAt w x j < 2 ^ w := Nat.mod_lt _ (Nat.two_pow_pos w)

theorem foldl_elements (x w n : Nat) :
    (List.range n).foldl (fun m j => m + x / 2 ^ (w * j) % 2 ^ w % 2 ^ w * 2 ^ (w * j)) 0 = x % 2 ^ (w * n) := by
  induction n with
  | zero => simp [Nat.mod_one]
  | succ n ih =>
    rw [List.range_succ, List.foldl_append, ih, List.foldl_cons, List.foldl_nil, Nat.mod_mod, Nat.mul_succ, Nat.pow_add, Nat.mod_mul,
      Nat.mul_comm (2 ^ (w * n))]
/-- A lane is built of its elements. -/
theorem laneOf_elemAt (ty : VType) (x : Lane) : laneOf (vtBits ty) (elemAt (vtBits ty) x) = x := by
  have hwhole : vtBits ty * (32 / vtBits ty) = 32 := by cases ty <;> rfl
  unfold laneOf elemAt
  rw [foldl_elements, hwhole, Nat.mod_eq_of_lt x.isLt, BitVec.ofNat_toNat, BitVec.setWidth_eq]

theorem elemAt_and (w : Nat) (x y : Lane) (j : Nat) : elemAt w (x &&& y) j = Nat.land (elemAt w x j) (elemAt w y j) := by
  simp only [elemAt, BitVec.toNat_and, Nat.and_div_two_pow, Nat.and_mod_two_pow]
  rfl
theorem elemAt_or (w : Nat) (x y : Lane) (j : Nat) : elemAt w (x ||| y) j = Nat.lor (elemAt w x j) (elemAt w y j) := by
  simp only [elemAt, BitVec.toNat_or, Nat.or_div_two_pow, Nat.or_mod_two_pow]
  rfl
theorem elemAt_xor (w : Nat) (x y : Lane) (j : Nat) : elemAt w (x ^^^ y) j = Nat.xor (elemAt w x j) (elemAt w y j) := by
  simp only [elemAt, BitVec.toNat_xor, Nat.xor_div_two_pow, Nat.xor_mod_two_pow]
  rfl

/-! ## Ring words that cannot fault (R455) -/

section
variable {s : State} {i : Instr} {f : State → State} {lat : Nat}

theorem writesV_runVec {d : VReg} {x : Vec} (hr : Claim.Ready s) (hx : exec i s = runVec f s) (hf : f s = s.wrV d x lat) : Claim.writesV i s d x :=
  completes_ring (u := s.wrV d x lat) hx hr (hf ▸ rfl) (became_upd_c s _) (c_upd s _) (sameIssue_writeV ..)
theorem writesK_runVec {e : KReg} {x : Mask} (hr : Claim.Ready s) (hx : exec i s = runVec f s) (hf : f s = s.wrK e x lat) : Claim.writesK i s e x :=
  completes_ring (u := s.wrK e x lat) hx hr (hf ▸ rfl) (became_upd_c s _) (c_upd s _) (sameIssue_writeK ..) (by
    unfold Core.writeK putK
    split <;> rfl)
end

/-! ## Integer vector words -/

section
variable {s : State} {i : Instr} {k : KReg} {d a : VReg} {b : VSrc} {ty : VType} {f : Nat → Nat → Nat → Nat}

/-- An element-wise word gives each element modulo its width (R251). -/
theorem writesV_vint {g : Int → Int → Int → Int} (hr : Claim.Ready s) (hx : exec i s = vintWord k d a b (vtBits ty) f s)
    (hg : ∀ x y z, x < 2 ^ vtBits ty → y < 2 ^ vtBits ty → z < 2 ^ vtBits ty → (f x y z : Int) ≡ g x y z [ZMOD 2 ^ vtBits ty]) :
    Claim.writesV i s d (Claim.elems s k d (vtBits ty) (fun l j => g (elemAt (vtBits ty) (laneAt (s.rdV a) l) j : Nat)
      (elemAt (vtBits ty) (laneAt (s.rdElems b (vtBits ty)) l) j : Nat) (elemAt (vtBits ty) (laneAt (s.rdV d) l) j : Nat))) := by
  refine writesV_runVec (lat := 2) hr hx ?_
  refine congrArg (fun x => s.wrV d x 2) ((mergeVec_eq_lanes ..).trans (congrArg (Claim.lanes s k d) (funext fun l => laneOf_congr fun j => ?_)))
  have h := hg _ _ _ (elemAt_lt _ (laneAt (s.rdV a) l) j) (elemAt_lt _ (laneAt (s.rdElems b (vtBits ty)) l) j) (elemAt_lt _ (laneAt (s.rdV d) l) j)
  have hpos : (0 : Int) < 2 ^ vtBits ty := by positivity
  refine Int.natCast_inj.1 ?_
  push_cast
  rw [Int.toNat_of_nonneg (Int.emod_nonneg _ hpos.ne'), Int.emod_emod_of_dvd _ dvd_rfl]
  exact h

/-- One with a single source. -/
theorem writesV_vunary {f : Nat → Nat} {g : Int → Int} (hr : Claim.Ready s) (hx : exec i s = vintUnary k d a (vtBits ty) f s)
    (hg : ∀ x, x < 2 ^ vtBits ty → (f x : Int) ≡ g x [ZMOD 2 ^ vtBits ty]) :
    Claim.writesV i s d (Claim.elems s k d (vtBits ty) (fun l j => g (elemAt (vtBits ty) (laneAt (s.rdV a) l) j : Nat))) :=
  writesV_vint (g := fun x _ _ => g x) hr hx fun x _ _ h _ _ => hg x h

/-- A bitwise word works on whole lanes (R251). -/
theorem writesV_vbits {op : Nat → Nat → Nat} {g : Lane → Lane → Lane} (hr : Claim.Ready s)
    (hx : exec i s = vintWord k d a b (vtBits ty) (fun x y _ => op x y) s)
    (hg : ∀ x y j, elemAt (vtBits ty) (g x y) j = op (elemAt (vtBits ty) x j) (elemAt (vtBits ty) y j)) :
    Claim.writesV i s d (Claim.lanes s k d (fun l => g (laneAt (s.rdV a) l) (laneAt (s.rdElems b (vtBits ty)) l))) := by
  refine writesV_runVec (lat := 2) hr hx ?_
  refine congrArg (fun x => s.wrV d x 2) ((mergeVec_eq_lanes ..).trans (congrArg (Claim.lanes s k d) (funext fun l => ?_)))
  rw [← laneOf_elemAt ty (g _ _)]
  exact congrArg (laneOf _) (funext fun j => (hg _ _ j).symm)

/-- A word on whole lanes. -/
theorem writesV_vlane {g h : Lane → Lane} (hr : Claim.Ready s) (hx : exec i s = vlaneUnary k d a g s) (hg : ∀ x, g x = h x) :
    Claim.writesV i s d (Claim.lanes s k d (fun l => h (laneAt (s.rdV a) l))) := by
  obtain rfl : g = h := funext hg
  exact writesV_runVec (lat := 2) hr hx (congrArg (fun x => s.wrV d x 2) (mergeVec_eq_lanes ..))

end

/-! ## Values of elements (R251) -/

theorem sextInt_of_lt {w x : Nat} (hw : 0 < w) (hx : x < 2 ^ w) : sextInt x w = if 2 ^ (w - 1) ≤ (x : Int) then (x : Int) - 2 ^ w else x := by
  have hle : (2 : Int) ^ (w - 1) ≤ x ↔ 2 ^ (w - 1) ≤ x := by exact_mod_cast Iff.rfl
  simp only [sextInt, Nat.mod_eq_of_lt hx, if_neg hw.ne', hle]
  by_cases h : 2 ^ (w - 1) ≤ x
  · rw [if_neg (not_lt.2 h), if_pos h]
  · rw [if_pos (not_le.1 h), if_neg h]

/-- s(v) of R251 on an element. -/
theorem vtVal_of_lt {ty : VType} {x : Nat} (hx : x < 2 ^ vtBits ty) :
    vtVal ty x = if vtS ty && decide (2 ^ (vtBits ty - 1) ≤ (x : Int)) then (x : Int) - 2 ^ vtBits ty else x := by
  unfold vtVal
  cases vtS ty with
  | true => rw [if_pos rfl, sextInt_of_lt (vtBits_pos ty) hx]; simp
  | false => simp [Nat.mod_eq_of_lt hx]

theorem satInt_eq {lo hi : Int} (h : lo ≤ hi) (x : Int) : satInt x lo hi = max lo (min hi x) := by
  unfold satInt
  split
  · omega
  · split <;> omega
theorem vtLo_le_vtHi (ty : VType) : vtLo ty ≤ vtHi ty := by cases ty <;> decide

/-- A result reduced to an element is the result modulo its width. -/
theorem toElem_modEq (w : Nat) (x : Int) : (toElem w x : Int) ≡ x [ZMOD 2 ^ w] := by
  have hpos : (0 : Int) < 2 ^ w := by positivity
  rw [toElem, Int.toNat_of_nonneg (Int.emod_nonneg _ hpos.ne')]
  exact Int.mod_modEq ..

theorem bitOf_eq_testBit (x i : Nat) : bitOf x i = x.testBit i := by
  rw [bitOf, Nat.testBit_eq_decide_div_mod_eq]

/-- The count of leading zeros of an element. -/
theorem vclz_eq {w x : Nat} (hx : x < 2 ^ w) :
    (if x = 0 then w else w - 1 - x.log2) = ((List.range w).takeWhile (fun i => !bitOf x (w - 1 - i))).length := by
  simp only [bitOf_eq_testBit]
  split
  case isTrue h => rw [length_takeWhile_range (k := w) le_rfl (by simp [h]) (by omega)]
  case isFalse h =>
    have hlog : x.log2 < w := (Nat.log2_lt h).2 hx
    rw [length_takeWhile_range (k := w - 1 - x.log2) (by omega)]
    · intro i hi
      rw [Nat.testBit_lt_two_pow ((Nat.log2_lt h).1 (by omega))]
      rfl
    · intro _
      rw [show w - 1 - (w - 1 - x.log2) = x.log2 by omega, Nat.testBit_log2 h]
      rfl

/-- Settles O19: element by element (`writesV_vint`), bit by bit (`writesV_vbits`), lane by lane (`writesV_vlane`). -/
theorem vectorInteger : Obligations.VectorInteger := by
  intro s k e d a b ty cond sg n hr w src el sx lo hi sat bin bits
  have hv : ∀ {x : Nat}, x < 2 ^ vtBits ty → vtVal ty x = sx x := vtVal_of_lt
  have hsat : ∀ x : Int, satInt x (vtLo ty) (vtHi ty) = sat x := satInt_eq (vtLo_le_vtHi ty)
  refine ⟨?vadd, ?vsub, ?vmul, ?vmulh, ?vmad, ?vand, ?vor, ?vxor, ?vshl, ?vshr, ?vsar, ?vmin, ?vmax, ?vabs, ?vpopc, ?vclz, ?vadds, ?vsubs,
    ?vmovs, ?vext, ?vsel, ?vcmp⟩
  case vadd => exact writesV_vint (g := fun x y _ => x + y) hr exec_vadd fun x y z _ _ _ => by push_cast; rfl
  case vsub =>
    refine writesV_vint (g := fun x y _ => x - y) hr exec_vsub fun x y z _ hy _ => ?_
    rw [Nat.cast_add, Nat.cast_sub hy.le]
    push_cast
    exact Int.modEq_iff_dvd.2 ⟨-1, by ring⟩
  case vmul => exact writesV_vint (g := fun x y _ => x * y) hr exec_vmul fun x y z _ _ _ => by push_cast; rfl
  case vmulh =>
    refine writesV_vint (g := fun x y _ => sx x * sx y / 2 ^ w) hr exec_vmulh fun x y z hx hy _ => ?_
    rw [hv hx, hv hy]
    exact toElem_modEq ..
  case vmad => exact writesV_vint (g := fun x y z => z + x * y) hr exec_vmad fun x y z _ _ _ => by push_cast; rfl
  case vand => exact writesV_vbits (g := (· &&& ·)) hr exec_vand (elemAt_and _)
  case vor => exact writesV_vbits (g := (· ||| ·)) hr exec_vor (elemAt_or _)
  case vxor => exact writesV_vbits (g := (· ^^^ ·)) hr exec_vxor (elemAt_xor _)
  case vshl =>
    exact writesV_vint (g := fun x y _ => x * 2 ^ (y.toNat % w)) hr exec_vshl fun x y z _ _ _ => by push_cast; rfl
  case vshr =>
    exact writesV_vint (g := fun x y _ => x / 2 ^ (y.toNat % w)) hr exec_vshr fun x y z _ _ _ => by push_cast; rfl
  case vsar =>
    refine writesV_vint (g := fun x y _ => (if 2 ^ (w - 1) ≤ x then x - 2 ^ w else x) / 2 ^ (y.toNat % w)) hr exec_vsar fun x y z hx _ _ => ?_
    rw [sextInt_of_lt (vtBits_pos ty) hx]
    exact toElem_modEq ..
  case vmin =>
    refine writesV_vint (g := fun x y _ => if sx x ≤ sx y then x else y) hr exec_vmin fun x y z hx hy _ => ?_
    rw [hv hx, hv hy]
    push_cast
    rfl
  case vmax =>
    refine writesV_vint (g := fun x y _ => if sx x ≥ sx y then x else y) hr exec_vmax fun x y z hx hy _ => ?_
    rw [hv hx, hv hy]
    push_cast
    rfl
  case vabs =>
    refine writesV_vunary (g := fun x => |sx x|) hr exec_vabs fun x hx => ?_
    rw [hv hx, Int.natCast_natAbs]
  case vpopc =>
    refine writesV_vunary (g := fun x => (((List.range w).filter (fun i => bitOf x.toNat i)).length : Nat)) hr exec_vpopc fun x _ => ?_
    simp only [popcountNat_eq, bitOf_eq_testBit, Int.toNat_natCast]
    rfl
  case vclz =>
    refine writesV_vunary (g := fun x => (((List.range w).takeWhile (fun i => !bitOf x.toNat (w - 1 - i))).length : Nat)) hr exec_vclz
      fun x hx => ?_
    rw [vclz_eq hx]
    rfl
  case vadds =>
    refine writesV_vint (g := fun x y _ => sat (sx x + sx y)) hr exec_vadds fun x y z hx hy _ => ?_
    rw [hv hx, hv hy, hsat]
    exact toElem_modEq ..
  case vsubs =>
    refine writesV_vint (g := fun x y _ => sat (sx x - sx y)) hr exec_vsubs fun x y z hx hy _ => ?_
    rw [hv hx, hv hy, hsat]
    exact toElem_modEq ..
  case vmovs => exact writesV_vlane (h := fun x => BitVec.ofInt 32 (sat x.toInt)) hr exec_vmovs fun x => congrArg (BitVec.ofInt 32) (hsat _)
  case vext =>
    exact writesV_vlane (h := fun x => BitVec.ofInt 32 (sx (elemAt w x n.toNat : Nat))) hr exec_vext
      fun x => congrArg (BitVec.ofInt 32) (hv (elemAt_lt ..))
  case vsel => exact writesV_runVec (lat := 2) hr exec_vsel (congrArg (fun x => s.wrV d x 2) (mergeVec_laneAt ..))
  case vcmp =>
    refine writesK_runVec (lat := 2) hr exec_vcmp (congrArg (fun x => s.wrK e x 2)
      ((maskOf_eq ..).trans (congrArg (Claim.mask s k) (funext fun l => ?_))))
    cases cond <;> rfl

end Sys2Proof.Machine
end

section
/-!
The floating-point vector words and those of the SFU (O20, R237, R242 to R246, R253 to R261): what they leave, for any results and flags of
their lanes.
-/
namespace Sys2Proof.Machine

open Safety (bare Became putV putK CompletesTo)

/-! ## Ring words that execute in a later state -/

section
variable {i : Instr} {s u t : State} {body : Nat → M (Option VFault)} {c : Core}

/-- An effect that keeps the word in issue completes it. -/
theorem completesTo_issue {m : M Unit} (hx : exec i s = run m s) (h : m s = (.ok (), t)) (hb : Became u t c) (hi : SameIssue s.c t.c) :
    CompletesTo i s u c (s.c.pc + 1) :=
  completesTo_run hx h hb hi.pc (congrArg Latch.src hi.latch) (congrArg Weave.brw hi.w)

/-- A ring word whose effect leaves `t` completes; its entry is done. -/
theorem completesTo_ring (hx : exec i s = runRing body s) (hr : Claim.Ready s) (hbody : body 0 s = (.ok none, t)) (hb : Became u t t.c)
    (hi : SameIssue s.c t.c) (he : bare (t.c.takeEntry 0) = bare (Claim.entered c)) : CompletesTo i s u (Claim.entered c) (s.c.pc + 1) := by
  refine completesTo_issue (t := t.upd (·.takeEntry 0)) hx ?_ (became_chain hb (became_upd t _) he) ?_
  · rw [ringWordM_ready hr, bind_ok hbody]
    rfl
  · rw [c_upd]
    exact hi.trans ⟨rfl, rfl, rfl, rfl, rfl, rfl⟩
/-- One whose effect faults completes too; its entry holds the fault. -/
theorem completesTo_ringFault {v : VFault} (hx : exec i s = runRing body s) (hr : Claim.Ready s) (hbody : body 0 s = (.ok (some v), t))
    (hb : Became u t t.c) (hi : SameIssue s.c t.c) (he : bare (t.c.ringFault v) = bare (Claim.faulted c v)) :
    CompletesTo i s u (Claim.faulted c v) (s.c.pc + 1) := by
  refine completesTo_issue (t := t.upd (·.ringFault v)) hx ?_ (became_chain hb (became_upd t _) he) ?_
  · rw [ringWordM_ready hr, bind_ok hbody]
    rfl
  · rw [c_upd]
    exact hi.trans ⟨rfl, rfl, rfl, rfl, rfl, rfl⟩
end

/-! ## Flags (R243, R245) -/

/-- Only the flags of active lanes count. -/
theorem raiseFlags_congr {m : Mask} {f g : Nat → FFlags} (h : ∀ l ∈ lanesOf m, f l = g l) : raiseFlags m f = raiseFlags m g := by
  have hor : orFlags (lanesOf m) f = orFlags (lanesOf m) g := List.foldl_ext _ _ _ fun x l hl => by rw [h l hl]
  have hhot : ∀ en : FFlags, (lanesOf m).filter (fun l => f l &&& en != 0) = (lanesOf m).filter (fun l => g l &&& en != 0) :=
    fun en => List.filter_congr fun l hl => by rw [h l hl]
  simp only [raiseFlags, fpxRecord, hor, hhot]

/-- A core with flags collected. -/
def Core.flagged (c : Core) (fl : FFlags) : Core := { c with fpflags := c.fpflags ||| fl }

theorem raiseFlags_run (m : Mask) (f : Nat → FFlags) (t : State) : raiseFlags m f t =
    (.ok (fpxRecord t.c.fpEnable (lanesOf m).length (lanesOf m) f), t.upd (·.flagged (orFlags (lanesOf m) f))) := rfl

section
variable {i : Instr} {s u t : State} {body : Nat → M (Option VFault)} {k : KReg} {f : Nat → FFlags} {w : Core → Core}

/-- A word that writes its results and then raises its lanes' flags: `t` is `u` after the write, which `w` describes. -/
theorem fpWord_of_raise (hx : exec i s = runRing body s) (hr : Claim.Ready s) (hbody : body 0 s = raiseFlags (u.rdK k) f t) (hb : Became u t t.c)
    (hi : SameIssue s.c t.c) (hen : t.c.fpEnable = u.c.fpEnable)
    (hdone : ∀ fl, bare ((t.c.flagged fl).takeEntry 0) = bare (Claim.entered (w (u.c.flagged fl))))
    (hfault : ∀ fl v, bare ((t.c.flagged fl).ringFault v) = bare (Claim.faulted (w (u.c.flagged fl)) v)) : Claim.fpWord i s u k w f := by
  rw [raiseFlags_run, hen] at hbody
  have hflag : Became u (t.upd (·.flagged (orFlags (lanesOf (u.rdK k)) f))) (t.upd (·.flagged (orFlags (lanesOf (u.rdK k)) f))).c :=
    became_chain hb (became_upd_c t _) rfl
  have hissue : SameIssue s.c (t.upd (·.flagged (orFlags (lanesOf (u.rdK k)) f))).c := by
    rw [c_upd]
    exact hi.trans ⟨rfl, rfl, rfl, rfl, rfl, rfl⟩
  constructor
  · intro h
    rw [fpxRecord_of_none (show orFlags (lanesOf (u.rdK k)) f &&& u.c.fpEnable = 0 from h)] at hbody
    exact completesTo_ring hx hr hbody hflag hissue (by rw [c_upd]; exact hdone _)
  · intro h
    rw [fpxRecord_of_hot (show orFlags (lanesOf (u.rdK k)) f &&& u.c.fpEnable ≠ 0 from h)] at hbody
    exact completesTo_ringFault hx hr hbody hflag hissue (by rw [c_upd]; exact hfault _ _)
end

/-! ## Guarded floating-point words -/

section
variable (c : Core) (now lat : Nat) (d : VReg) (e : KReg) (x : Vec) (m : Mask) (fl : FFlags) (v : VFault)

theorem bare_writeV_done :
    bare (((c.writeV now d.val x lat).flagged fl).takeEntry 0) = bare (Claim.entered (putV (c.flagged fl) d x)) := rfl
theorem bare_writeV_fault :
    bare (((c.writeV now d.val x lat).flagged fl).ringFault v) = bare (Claim.faulted (putV (c.flagged fl) d x) v) := rfl
theorem bare_writeK_done :
    bare (((c.writeK now e.val m lat).flagged fl).takeEntry 0) = bare (Claim.entered (putK (c.flagged fl) e m)) := by
  unfold Core.writeK putK
  split <;> rfl
theorem bare_writeK_fault :
    bare (((c.writeK now e.val m lat).flagged fl).ringFault v) = bare (Claim.faulted (putK (c.flagged fl) e m) v) := by
  unfold Core.writeK putK
  split <;> rfl
theorem fpEnable_writeK : (c.writeK now e.val m lat).fpEnable = c.fpEnable := by
  unfold Core.writeK
  split <;> rfl
end

section
variable {i : Instr} {s u : State} {body : Nat → M (Option VFault)} {k e : KReg} {d : VReg} {lat : Nat}

theorem mem_lanesOf {m : Mask} {l : Nat} : l ∈ lanesOf m ↔ l < 16 ∧ m.getLsbD l = true := by simp [lanesOf]

/-- Of a lane-wise result only the active lanes count. -/
theorem lanes_congr {f g : Nat → Lane} (h : ∀ l ∈ lanesOf (u.rdK k), f l = g l) : Claim.lanes u k d f = Claim.lanes u k d g := by
  refine congrArg Vector.ofFn (funext fun l => ?_)
  split
  case isTrue hl => exact h l (mem_lanesOf.2 ⟨l.isLt, hl⟩)
  case isFalse => rfl

/-- A guarded word writes the active lanes' results and raises their flags. -/
theorem fpVec_run (k : KReg) (d : VReg) (lat : Nat) (f : State → Nat → FRes) (u : State) :
    fpVec k d lat f u = raiseFlags (u.rdK k) (fun l => (f u l).2) (u.wrV d (Claim.lanes u k d (fun l => (f u l).1)) lat) := by
  have hres : ∀ l ∈ lanesOf (u.rdK k), laneAt (vecOf fun l => if laneOn (u.rdK k) l then (f u l).1 else 0) l = (f u l).1 := by
    intro l hl
    obtain ⟨hlt, hon⟩ := mem_lanesOf.1 hl
    simp [laneAt, vecOf, Vector.getD, hlt, laneOn, hon]
  have hflags : ∀ l ∈ lanesOf (u.rdK k), ((List.range 16).map fun l => if laneOn (u.rdK k) l then (f u l).2 else 0).getD l 0 = (f u l).2 := by
    intro l hl
    obtain ⟨hlt, hon⟩ := mem_lanesOf.1 hl
    simp [hlt, laneOn, hon]
  rw [← lanes_congr hres, ← raiseFlags_congr hflags, ← mergeVec_eq_lanes]
  simp only [fpVec, bind_get, bind_set]

/-- A guarded word that executes in `u`. -/
theorem fpVec_of_run {f : State → Nat → FRes} {r : Nat → FRes} (hr : Claim.Ready s) (hx : exec i s = runRing body s)
    (hbody : body 0 s = fpVec k d lat f u) (hf : f u = r) (hi : SameIssue s.c u.c) : Claim.fpVec i s u k d r := by
  subst hf
  refine fpWord_of_raise hx hr (hbody.trans (fpVec_run ..)) (became_upd_c u _) (hi.trans (issue_wrV ..)) (fpEnable_wrV ..) ?_ ?_
  · exact fun fl => by rw [State.wrV, c_upd, bare_writeV_done]
  · exact fun fl v => by rw [State.wrV, c_upd, bare_writeV_fault]

theorem fpVec_fpBin {a : VReg} {b : VSrc} {f : Bool → Lane → Lane → FRes} {r : Nat → FRes} (hr : Claim.Ready s)
    (hx : exec i s = fpBin k d a b lat f s)
    (hf : (fun l => f s.c.ftz (laneAt (s.rdV a) l) (laneAt (s.rdSrc b) l)) = r) : Claim.fpVec i s s k d r :=
  fpVec_of_run hr hx rfl hf (.rfl _)
theorem fpVec_fpTern {a : VReg} {b : VSrc} {f : Bool → Lane → Lane → Lane → FRes} {r : Nat → FRes} (hr : Claim.Ready s)
    (hx : exec i s = fpTern k d a b lat f s)
    (hf : (fun l => f s.c.ftz (laneAt (s.rdV a) l) (laneAt (s.rdSrc b) l) (laneAt (s.rdV d) l)) = r) : Claim.fpVec i s s k d r :=
  fpVec_of_run hr hx rfl hf (.rfl _)

/-- VFCMP writes a mask and raises its lanes' flags (R256). -/
theorem fpWord_vfcmp {a : VReg} {b : VSrc} {cond : FCond} (hr : Claim.Ready s) :
    Claim.fpWord (.vfcmp k e a b cond) s s k
      (fun c => putK c e (Claim.mask s k (fun l => (fCmp cond (laneAt (s.rdV a) l) (laneAt (s.rdSrc b) l)).1)))
      (fun l => (fCmp cond (laneAt (s.rdV a) l) (laneAt (s.rdSrc b) l)).2) := by
  rw [← maskOf_eq]
  refine fpWord_of_raise (t := s.wrK e (maskOf (s.rdK k) (fun l => (fCmp cond (laneAt (s.rdV a) l) (laneAt (s.rdSrc b) l)).1)) 4) exec_vfcmp hr
    (by simp only [bind_get, bind_set]) (became_upd_c s _) (issue_wrK ..) ?_ ?_ ?_
  · rw [State.wrK, c_upd, fpEnable_writeK]
  · exact fun fl => by rw [State.wrK, c_upd, bare_writeK_done]
  · exact fun fl v => by rw [State.wrK, c_upd, bare_writeK_fault]
end

/-! ## The SFU (R246) -/

theorem sfuTake_run (s : State) : sfuTake s = (.ok (), Claim.sfuAt s) := rfl

theorem issue_sfuAt (s : State) : SameIssue s.c (Claim.sfuAt s).c := by
  unfold Claim.sfuAt State.advance
  simp only [c_upd]
  exact (sameIssue_settle s.c _).trans ⟨rfl, rfl, rfl, rfl, rfl, rfl⟩

/-- A guarded word of the SFU executes once the SFU is free. -/
theorem fpVec_sfu {i : Instr} {s : State} {k : KReg} {d : VReg} {lat : Nat} {f : State → Nat → FRes} {r : Nat → FRes} (hr : Claim.Ready s)
    (hx : exec i s = runRing (fun _ => do sfuTake; fpVec k d lat f) s) (hf : f (Claim.sfuAt s) = r) : Claim.fpVec i s (Claim.sfuAt s) k d r :=
  fpVec_of_run hr hx (bind_ok (sfuTake_run s)) hf (issue_sfuAt s)

/-- VRNG's results written one after the other, the last with the word's token (R47, R260). -/
def State.putFour (u : State) (d : VReg) (x : Nat → Vec) : State :=
  let write := fun (i : Nat) (last : Bool) (t : State) => t.upd (·.writeV t.cycle (vregAdd d i).val (x i) 12 last)
  write 3 true (write 2 false (write 1 false (write 0 false u)))

/-- The registers alone of VRNG's results. -/
def Core.putFour (c : Core) (now : Nat) (d : VReg) (x : Nat → Vec) : Core :=
  (((c.writeV now (vregAdd d 0).val (x 0) 12 false).writeV now (vregAdd d 1).val (x 1) 12 false).writeV now (vregAdd d 2).val (x 2) 12 false).writeV
    now (vregAdd d 3).val (x 3) 12 true

theorem c_putFour (u : State) (d : VReg) (x : Nat → Vec) : (u.putFour d x).c = u.c.putFour u.cycle d x := by
  simp only [State.putFour, Core.putFour, c_upd, cycle_upd]
theorem became_putFour (u : State) (d : VReg) (x : Nat → Vec) : Became u (u.putFour d x) (u.putFour d x).c := by
  unfold State.putFour
  exact became_chain (became_chain (became_chain (became_upd_c u _) (became_upd_c _ _) rfl) (became_upd_c _ _) rfl) (became_upd_c _ _) rfl
theorem issue_putFour (u : State) (d : VReg) (x : Nat → Vec) : SameIssue u.c (u.putFour d x).c := by
  rw [c_putFour]
  exact ⟨rfl, rfl, rfl, rfl, rfl, rfl⟩
theorem bare_putFour_done (c : Core) (now : Nat) (d : VReg) (x : Nat → Vec) : bare ((c.putFour now d x).takeEntry 0) =
    bare (Claim.entered (putV (putV (putV (putV c (vregAdd d 0) (x 0)) (vregAdd d 1) (x 1)) (vregAdd d 2) (x 2)) (vregAdd d 3) (x 3))) := rfl

/-- A ring word that writes four registers once the SFU is free. -/
theorem completesTo_putFour {i : Instr} {s : State} {d : VReg} {x : Nat → Vec} {body : Nat → M (Option VFault)} (hr : Claim.Ready s)
    (hx : exec i s = runRing body s) (hbody : body 0 s = (.ok none, (Claim.sfuAt s).putFour d x)) :
    CompletesTo i s (Claim.sfuAt s) (Claim.entered (putV (putV (putV (putV (Claim.sfuAt s).c (vregAdd d 0) (x 0)) (vregAdd d 1) (x 1))
      (vregAdd d 2) (x 2)) (vregAdd d 3) (x 3))) (s.c.pc + 1) :=
  completesTo_ring hx hr hbody (became_putFour ..) ((issue_sfuAt s).trans (issue_putFour ..)) (by rw [c_putFour, bare_putFour_done])

/-- The word that VRNG gives register `i` of its results. -/
def sesameWord (o : Lane × Lane × Lane × Lane) : Nat → Lane
  | 0 => o.1 | 1 => o.2.1 | 2 => o.2.2.1 | _ => o.2.2.2

/-- VRNG writes its four registers (R260). -/
theorem completesTo_vrng {s : State} {k : KReg} {d a : VReg} {g : GReg} (hr : Claim.Ready s) :
    let u := Claim.sfuAt s
    let q := fun (i l : Nat) => laneAt (u.rdV (vregAdd a i)) l
    let o := fun (l : Nat) => sesame (q 0 l) (q 1 l) (q 2 l) (q 3 l) ((u.rdI g).setWidth 32) ((u.rdI g >>> 32).setWidth 32)
    let x := fun (i : Nat) => Claim.lanes u k (vregAdd d i) (fun l => sesameWord (o l) i)
    CompletesTo (.vrng k d a g) s u (Claim.entered (putV (putV (putV (putV u.c (vregAdd d 0) (x 0)) (vregAdd d 1) (x 1)) (vregAdd d 2) (x 2))
      (vregAdd d 3) (x 3))) (s.c.pc + 1) := by
  intro u q o x
  refine completesTo_putFour (x := x) hr exec_vrng ?_
  rw [bind_ok (sfuTake_run s), bind_get, bind_modify, pure_run]
  simp only [State.putFour, mergeVec_eq_lanes, cycle_upd, x, sesameWord, o, q, u]

end Sys2Proof.Machine
end

section
/-!
Rounding onto a floating-point grid, over the reals (R238, R243, R264, R270, R271): what `roundTo` gives for a value that lies within one unit
of a magnitude, at every floating format.
-/
namespace Sys2Proof.Machine

/-! ## Powers of two -/

theorem two_zpow_pos (k : Int) : (0 : ℝ) < 2 ^ k := zpow_pos two_pos k
theorem two_zpow_le {a b : Int} : (2 : ℝ) ^ a ≤ 2 ^ b ↔ a ≤ b := zpow_le_zpow_iff_right₀ one_lt_two
theorem two_zpow_lt {a b : Int} : (2 : ℝ) ^ a < 2 ^ b ↔ a < b := zpow_lt_zpow_iff_right₀ one_lt_two
theorem two_zpow_add (a b : Int) : (2 : ℝ) ^ (a + b) = 2 ^ a * 2 ^ b := zpow_add₀ two_ne_zero a b
/-- A difference of exponents that is no less than zero. -/
theorem two_zpow_toNat {a b : Int} (h : a ≤ b) : (2 : ℝ) ^ b = 2 ^ (b - a).toNat * 2 ^ a := by
  rw [← zpow_natCast, Int.toNat_of_nonneg (by omega), ← two_zpow_add]
  congr 1
  omega

theorem pow_log2_le {m : Nat} (h : m ≠ 0) (e : Int) : (2 : ℝ) ^ ((m.log2 : Int) + e) ≤ m * 2 ^ e := by
  rw [two_zpow_add, zpow_natCast]
  exact mul_le_mul_of_nonneg_right (by exact_mod_cast Nat.log2_self_le h) (two_zpow_pos e).le
theorem lt_pow_log2 (m : Nat) (e : Int) : ((m : ℝ) + 1) * 2 ^ e ≤ 2 ^ ((m.log2 : Int) + 1 + e) := by
  rw [two_zpow_add]
  refine mul_le_mul_of_nonneg_right ?_ (two_zpow_pos e).le
  have h : m + 1 ≤ 2 ^ (m.log2 + 1) := Nat.lt_log2_self
  exact_mod_cast h
theorem log2_add_lt {m : Nat} (h : m ≠ 0) {u k : Int} : (m.log2 : Int) + u < k ↔ (m : ℝ) * 2 ^ u < 2 ^ k := by
  constructor
  · intro hlt
    have hle : (2 : ℝ) ^ ((m.log2 : Int) + 1 + u) ≤ 2 ^ k := two_zpow_le.2 (by omega)
    have := lt_pow_log2 m u
    have := two_zpow_pos u
    nlinarith
  · exact fun hlt => two_zpow_lt.1 ((pow_log2_le h u).trans_lt hlt)

/-! ## Codes and their values (R264) -/

/-- The value of a code without its sign, with `m` fraction bits and smallest normal exponent `emin`. -/
noncomputable def codeMag (m : Nat) (emin : Int) (c : Nat) : ℝ :=
  if c / 2 ^ m = 0 then (c % 2 ^ m : Nat) * 2 ^ (emin - m) else (2 ^ m + c % 2 ^ m : Nat) * 2 ^ (emin - m + (c / 2 ^ m - 1 : Nat))

/-- A significand past the codes of its binade counts on into the next. -/
theorem codeMag_add {m j q : Nat} {emin : Int} (hq : q ≤ 2 ^ (m + 1)) (hj : j = 0 ∨ 2 ^ m ≤ q) :
    codeMag m emin (j * 2 ^ m + q) = q * 2 ^ (emin - m + j) := by
  have hpos := Nat.two_pow_pos m
  have hdiv : (j * 2 ^ m + q) / 2 ^ m = j + q / 2 ^ m := by rw [Nat.add_comm, Nat.add_mul_div_right _ _ hpos, Nat.add_comm]
  have hmod : (j * 2 ^ m + q) % 2 ^ m = q % 2 ^ m := by rw [Nat.add_comm, Nat.add_mul_mod_self_right]
  rw [Nat.pow_succ] at hq
  unfold codeMag
  rw [hdiv, hmod]
  rcases Nat.lt_or_ge q (2 ^ m) with hlt | hge
  · have hj0 : j = 0 := by omega
    subst hj0
    simp [Nat.div_eq_of_lt hlt, Nat.mod_eq_of_lt hlt]
  · obtain ⟨t, rfl⟩ := Nat.exists_eq_add_of_le hge
    have h1 : (2 ^ m + t) / 2 ^ m = 1 + t / 2 ^ m := by rw [Nat.add_div_left _ hpos, Nat.add_comm]
    have h2 : (2 ^ m + t) % 2 ^ m = t % 2 ^ m := Nat.add_mod_left ..
    rw [h1, h2, if_neg (by simp)]
    rcases Nat.lt_or_ge t (2 ^ m) with ht | ht
    · simp [Nat.div_eq_of_lt ht, Nat.mod_eq_of_lt ht]
    · obtain rfl : t = 2 ^ m := by omega
      have h3 : (j + (1 + 2 ^ m / 2 ^ m) - 1 : Nat) = j + 1 := by rw [Nat.div_self hpos]; omega
      rw [h3, Nat.mod_self]
      push_cast
      rw [← add_assoc, two_zpow_add _ 1, zpow_one]
      ring

theorem codeMag_lt_succ (m : Nat) (emin : Int) (c : Nat) : codeMag m emin c < codeMag m emin (c + 1) := by
  have hpos := Nat.two_pow_pos m
  have hc := Nat.div_add_mod c (2 ^ m)
  have hlt := Nat.mod_lt c hpos
  obtain ⟨j, q, hjq, hq, hj⟩ : ∃ j q, c = j * 2 ^ m + q ∧ q + 1 ≤ 2 ^ (m + 1) ∧ (j = 0 ∨ 2 ^ m ≤ q) := by
    rw [Nat.pow_succ]
    rcases Nat.eq_zero_or_pos (c / 2 ^ m) with h0 | h0
    · rw [h0] at hc
      exact ⟨0, c, by omega, by omega, .inl rfl⟩
    · obtain ⟨j, hj⟩ := Nat.exists_eq_add_of_lt h0
      rw [hj] at hc
      refine ⟨j, 2 ^ m + c % 2 ^ m, ?_, by omega, .inr (by omega)⟩
      calc c = 2 ^ m * (0 + j + 1) + c % 2 ^ m := hc.symm
        _ = j * 2 ^ m + (2 ^ m + c % 2 ^ m) := by ring
  rw [hjq, Nat.add_assoc, codeMag_add (by omega) hj, codeMag_add hq (by omega)]
  push_cast
  exact mul_lt_mul_of_pos_right (by linarith) (two_zpow_pos _)
theorem codeMag_strictMono (m : Nat) (emin : Int) : StrictMono (codeMag m emin) := strictMono_nat_of_lt_succ (codeMag_lt_succ m emin)

/-- A code's value is that of its magnitude, with its sign. -/
theorem codeReal_eq {w m : Nat} (hm : m ≤ w - 1) (bias : Int) (x : Nat) :
    Claim.codeReal w m bias x = (if x / 2 ^ (w - 1) % 2 = 1 then -1 else 1) * codeMag m (1 - bias) (x % 2 ^ (w - 1)) := by
  have hpow : 2 ^ (w - 1) = 2 ^ m * 2 ^ (w - 1 - m) := by rw [← Nat.pow_add]; congr 1; omega
  have hexp : x % 2 ^ (w - 1) / 2 ^ m = x / 2 ^ m % 2 ^ (w - 1 - m) := by rw [hpow, Nat.mod_mul_right_div_self]
  have hfrac : x % 2 ^ (w - 1) % 2 ^ m = x % 2 ^ m := by rw [hpow, Nat.mod_mul_right_mod]
  unfold Claim.codeReal codeMag
  rw [hexp, hfrac]
  generalize x / 2 ^ m % 2 ^ (w - 1 - m) = e
  generalize x % 2 ^ m = f
  dsimp only
  refine congrArg ((if x / 2 ^ (w - 1) % 2 = 1 then (-1 : ℝ) else 1) * ·) ?_
  have hm0 : (2 : ℝ) ^ m ≠ 0 := by positivity
  split
  case isTrue =>
    rw [zpow_sub₀ two_ne_zero (1 - bias), zpow_natCast]
    ring
  case isFalse he =>
    have hsum : (e : Int) - bias = 1 - bias - m + (e - 1 : Nat) + m := by omega
    rw [hsum, two_zpow_add _ m, zpow_natCast]
    push_cast
    field_simp

/-- The code of a significand at a spacing of the grid (R264). -/
theorem encode_eq {g : FGrid} {q : Nat} {u : Int} (hu : g.emin - g.fb ≤ u) (hq : q ≤ 2 ^ (g.fb + 1)) (hn : u = g.emin - g.fb ∨ 2 ^ g.fb ≤ q) :
    g.encode q u = (u - (g.emin - g.fb)).toNat * 2 ^ g.fb + q := by
  have hpos := Nat.two_pow_pos g.fb
  unfold FGrid.encode
  split
  case isTrue h0 =>
    rcases hn with hn | hn
    · simp [h0, hn]
    · omega
  case isFalse h0 =>
    simp only
    split
    case isTrue hlt =>
      have hu0 : u = g.emin - g.fb := by
        rcases hn with hn | hn
        · exact hn
        · have := (Nat.le_log2 h0).2 hn
          omega
      simp [hu0]
    case isFalse hge =>
      have hlog : g.fb ≤ q.log2 := by
        rcases hn with hn | hn
        · omega
        · exact (Nat.le_log2 h0).2 hn
      have hle : 2 ^ g.fb ≤ q := (Nat.le_log2 h0).1 hlog
      rcases Nat.lt_or_ge q (2 ^ (g.fb + 1)) with hlt | hge'
      · have hl : q.log2 = g.fb := by
          have := (Nat.log2_lt h0).2 hlt
          omega
        have hj : ((q.log2 : Int) + u - g.emin + 1).toNat = (u - (g.emin - g.fb)).toNat + 1 := by omega
        rw [hj, hl, Nat.mul_div_cancel _ hpos, Nat.add_one_mul]
        omega
      · obtain rfl : q = 2 ^ (g.fb + 1) := by omega
        have hj : (((2 ^ (g.fb + 1)).log2 : Int) + u - g.emin + 1).toNat = (u - (g.emin - g.fb)).toNat + 2 := by
          rw [Nat.log2_two_pow]
          omega
        rw [hj, Nat.log2_two_pow, Nat.mul_div_cancel_left _ (Nat.two_pow_pos _), Nat.sub_self, Nat.add_mul, Nat.pow_succ]
        omega

theorem codeMag_encode {g : FGrid} {q : Nat} {u : Int} (hu : g.emin - g.fb ≤ u) (hq : q ≤ 2 ^ (g.fb + 1))
    (hn : u = g.emin - g.fb ∨ 2 ^ g.fb ≤ q) :
    codeMag g.fb g.emin (g.encode q u) = q * 2 ^ u := by
  rw [encode_eq hu hq hn, codeMag_add hq (by omega), Int.toNat_of_nonneg (by omega)]
  congr 2
  omega

theorem over_iff (g : FGrid) (q : Nat) (u : Int) : g.over q u = true ↔ (g.maxM : ℝ) * 2 ^ g.maxE < q * 2 ^ u := by
  have hd := two_zpow_pos (min u g.maxE)
  rw [two_zpow_toNat (min_le_right u g.maxE), two_zpow_toNat (min_le_left u g.maxE), ← mul_assoc, ← mul_assoc, mul_lt_mul_iff_of_pos_right hd]
  unfold FGrid.over
  rw [decide_eq_true_eq]
  exact_mod_cast Iff.rfl

/-! ## Truncation and the last place (R238) -/

/-- `v` lies at `m` units of 2^e or strictly between `m` and `m + 1`, as `sticky` says. -/
structure Within (v : ℝ) (m : Nat) (e : Int) (sticky : Bool) : Prop where
  le : m * 2 ^ e ≤ v
  lt : v < (m + 1) * 2 ^ e
  exact_iff : sticky = false ↔ v = m * 2 ^ e

theorem Within.of_eq (m : Nat) (e : Int) : Within (m * 2 ^ e) m e false :=
  ⟨le_rfl, mul_lt_mul_of_pos_right (by linarith) (two_zpow_pos e), by simp⟩

/-- When `n + d` units are rounded up in magnitude (R238). -/
def Upward (rm : Rm) (neg : Bool) (n : Nat) (d : ℝ) : Prop :=
  match rm with
  | .rne => 1 < 2 * d ∨ (2 * d = 1 ∧ n % 2 = 1)
  | .rtz => False
  | .rdn => neg = true ∧ d ≠ 0
  | .rup => neg = false ∧ d ≠ 0

theorem not_upward_zero (rm : Rm) (neg : Bool) (n : Nat) : ¬Upward rm neg n 0 := by
  cases rm <;> simp [Upward]

/-- `k` of `n` and `n + 1` is what `n + d` units are rounded to, and `x` says whether that is inexact. -/
structure RoundedUnits (rm : Rm) (neg : Bool) (n : Nat) (d : ℝ) (k : Nat) (x : Bool) : Prop where
  nonneg : 0 ≤ d
  lt_one : d < 1
  inexact : x = true ↔ d ≠ 0
  unit : (Upward rm neg n d ∧ k = n + 1) ∨ (¬Upward rm neg n d ∧ k = n)

theorem RoundedUnits.exact_iff {rm : Rm} {neg x : Bool} {n k : Nat} {d : ℝ} (h : RoundedUnits rm neg n d k x) :
    (k : ℝ) = n + d ↔ x = false := by
  rw [← Bool.not_eq_true, h.inexact, not_not]
  obtain ⟨hup, rfl⟩ | ⟨-, rfl⟩ := h.unit
  · have hd : d ≠ 0 := fun h0 => not_upward_zero _ _ _ (h0 ▸ hup)
    have := h.lt_one
    push_cast
    exact ⟨fun h => by linarith, fun h => absurd h hd⟩
  · exact ⟨fun h => by linarith, fun h => by rw [h, add_zero]⟩

/-- What a value has beyond `m` units of 2^e, in such units. -/
theorem Within.remainder {v : ℝ} {m : Nat} {e : Int} {sticky : Bool} (h : Within v m e sticky) :
    ∃ t, v = (m + t) * 2 ^ e ∧ 0 ≤ t ∧ t < 1 ∧ (sticky = false ↔ t = 0) := by
  have he := two_zpow_pos e
  obtain ⟨hle, hlt, hex⟩ := h
  obtain ⟨t, rfl⟩ : ∃ t, v = (m + t) * 2 ^ e := ⟨v / 2 ^ e - m, by field_simp; ring⟩
  rw [mul_le_mul_iff_of_pos_right he] at hle
  rw [mul_lt_mul_iff_of_pos_right he] at hlt
  rw [mul_left_inj' he.ne'] at hex
  exact ⟨t, rfl, by linarith, by linarith, by rw [hex]; constructor <;> intro h <;> linarith⟩

section
variable {w r : Nat} {t : ℝ} {sticky : Bool} (h0 : 0 ≤ t) (hs : sticky = false ↔ t = 0)
include h0 hs

/-- The remainder is not zero where its integer part or its sticky bit is not. -/
theorem remainder_ne_zero : ((r : ℝ) + t) / 2 ^ w ≠ 0 ↔ r ≠ 0 ∨ sticky = true := by
  have hr : (0 : ℝ) ≤ r := Nat.cast_nonneg r
  have hw : (2 : ℝ) ^ w ≠ 0 := by positivity
  have hzero : (r : ℝ) + t = 0 ↔ r = 0 ∧ sticky = false := by rw [add_eq_zero_iff_of_nonneg hr h0, Nat.cast_eq_zero, hs]
  rw [ne_eq, div_eq_zero_iff, or_iff_left hw, hzero, not_and_or, Bool.not_eq_false]

/-- The two comparisons of the remainder with half a unit, on integers and on reals. -/
theorem half_iff {odd : Bool} (hw : 0 < w) (h1 : t < 1) :
    (2 ^ w < 2 * r ∨ (2 * r = 2 ^ w ∧ (sticky || odd) = true)) ↔ ((2 : ℝ) ^ w < 2 * (r + t) ∨ (2 * (r + t) = 2 ^ w ∧ odd = true)) := by
  obtain ⟨h, hh⟩ : ∃ h, 2 ^ w = 2 * h := ⟨2 ^ (w - 1), by rw [← Nat.pow_succ']; congr 1; omega⟩
  have hR : (2 : ℝ) ^ w = 2 * h := by exact_mod_cast hh
  rw [hh, hR]
  rcases Nat.lt_trichotomy r h with hlt | rfl | hgt
  · have hle : (r : ℝ) + 1 ≤ h := by exact_mod_cast hlt
    constructor
    · rintro (h | ⟨h, -⟩) <;> omega
    · rintro (h | ⟨h, -⟩) <;> linarith
  · cases sticky with
    | false =>
      obtain rfl := hs.1 rfl
      simp
    | true =>
      have ht : 0 < t := lt_of_le_of_ne h0 fun h => by simpa using hs.2 h.symm
      simp [ht]
  · have hge : (h : ℝ) + 1 ≤ r := by exact_mod_cast hgt
    constructor
    · exact fun _ => .inl (by linarith)
    · exact fun _ => .inl (by omega)

/-- The model rounds up where the remainder says so (R238). -/
theorem roundsUp_iff (rm : Rm) (neg : Bool) (n rbits : Nat) (hw : 0 < w) (h1 : t < 1) :
    roundsUp (roundOf rm) neg (decide (n % 2 = 1)) sticky r w rbits = true ↔ Upward rm neg n ((r + t) / 2 ^ w) := by
  have hwR : (0 : ℝ) < 2 ^ w := by positivity
  cases rm with
  | rne =>
    have hhalf := half_iff (r := r) h0 hs (odd := decide (n % 2 = 1)) hw h1
    have hlt : 1 < 2 * ((r + t) / 2 ^ w) ↔ (2 : ℝ) ^ w < 2 * (r + t) := by rw [← mul_div_assoc, one_lt_div hwR]
    have heq : 2 * ((r + t) / 2 ^ w) = 1 ↔ 2 * (r + t) = (2 : ℝ) ^ w := by rw [← mul_div_assoc, div_eq_one_iff_eq hwR.ne']
    simp only [Upward, hlt, heq]
    simpa [roundsUp, roundOf] using hhalf
  | rtz => simp [roundsUp, roundOf, Upward]
  | rdn | rup =>
    simp only [Upward, remainder_ne_zero h0 hs]
    simp [roundsUp, roundOf]
end

/-- What `roundAt` makes of a value: so many units and a remainder below one, rounded. -/
theorem roundAt_spec (rm : Rm) (neg : Bool) (rbits : Nat) {v : ℝ} {m : Nat} {e u : Int} {sticky : Bool} (h : Within v m e sticky)
    (hu : sticky = true → e < u) :
    ∃ (n : Nat) (d : ℝ), v = (n + d) * 2 ^ u ∧
      RoundedUnits rm neg n d (roundAt (roundOf rm) neg sticky rbits m e u).1 (roundAt (roundOf rm) neg sticky rbits m e u).2 := by
  unfold roundAt
  split
  case isTrue hle =>
    have hs : sticky = false := Bool.eq_false_iff.2 fun hs => absurd (hu hs) (not_lt.2 hle)
    refine ⟨m * 2 ^ (e - u).toNat, 0, ?_, le_rfl, one_pos, by simp [hs], .inr ⟨not_upward_zero _ _ _, rfl⟩⟩
    rw [h.exact_iff.1 hs, two_zpow_toNat hle]
    push_cast
    ring
  case isFalse hlt =>
    obtain ⟨t, rfl, h0, h1, hs⟩ := h.remainder
    obtain ⟨w, hw⟩ : ∃ w : Nat, (u - e).toNat = w := ⟨_, rfl⟩
    have hwpos : 0 < w := by omega
    have huw : (2 : ℝ) ^ u = 2 ^ w * 2 ^ e := hw ▸ two_zpow_toNat (by omega)
    have hdm : ((2 ^ w * (m / 2 ^ w) + m % 2 ^ w : Nat) : ℝ) = m := by exact_mod_cast Nat.div_add_mod m (2 ^ w)
    have hrlt : ((m % 2 ^ w : Nat) : ℝ) + 1 ≤ 2 ^ w := by exact_mod_cast Nat.mod_lt m (Nat.two_pow_pos w)
    simp only [hw]
    generalize m / 2 ^ w = n at hdm ⊢
    generalize m % 2 ^ w = r at hdm hrlt ⊢
    have hup := roundsUp_iff (r := r) h0 hs rm neg n rbits hwpos h1
    refine ⟨n, (r + t) / 2 ^ w, ?_, by positivity, ?_, by rw [remainder_ne_zero h0 hs]; simp, ?_⟩
    · rw [huw, ← hdm]
      push_cast
      field_simp
      ring
    · rw [div_lt_one (by positivity)]
      linarith
    · by_cases h : Upward rm neg n ((r + t) / 2 ^ w)
      · exact .inl ⟨h, if_pos (hup.2 h)⟩
      · exact .inr ⟨h, if_neg (mt hup.1 h)⟩

/-! ## The nearest points of a grid (R238, R270) -/

section
variable {m n : Nat} {bias u : Int} {d : ℝ}

/-- Multiples of a spacing of the grid lie on it. -/
theorem grid_mem {k : Nat} (hu : 1 - bias - m ≤ u) (hk : k ≤ 2 ^ (m + 1)) : Claim.Grid m bias (k * (2 : ℝ) ^ u) := by
  rcases Nat.lt_or_ge k (2 ^ (m + 1)) with hlt | hge
  · refine ⟨k, u + m, by omega, by rw [Nat.abs_cast]; exact_mod_cast hlt, ?_⟩
    rw [add_sub_cancel_right, Int.cast_natCast]
  · obtain rfl : k = 2 ^ (m + 1) := by omega
    refine ⟨2 ^ m, u + m + 1, by omega, ?_, ?_⟩
    · rw [abs_of_pos (by positivity), pow_succ]
      have : (0 : Int) < 2 ^ m := by positivity
      omega
    · rw [show u + m + 1 - m = u + 1 by ring, two_zpow_add, zpow_one]
      push_cast
      ring

theorem grid_abs {q : ℝ} (h : Claim.Grid m bias q) : Claim.Grid m bias |q| := by
  obtain ⟨k, e, he, hk, rfl⟩ := h
  exact ⟨|k|, e, he, by rwa [abs_abs], by rw [abs_mul, abs_of_pos (two_zpow_pos _), Int.cast_abs]⟩
theorem grid_neg {q : ℝ} (h : Claim.Grid m bias q) : Claim.Grid m bias (-q) := by
  obtain ⟨k, e, he, hk, rfl⟩ := h
  exact ⟨-k, e, he, by rwa [abs_neg], by push_cast; ring⟩

/-- Between two neighbouring multiples of the spacing at a magnitude there is no point of the grid. -/
theorem grid_gap {z : ℝ} (hz : Claim.Grid m bias z) (hn : u = 1 - bias - m ∨ 2 ^ m ≤ n) : z ≤ n * 2 ^ u ∨ (n + 1) * 2 ^ u ≤ z := by
  obtain ⟨k, e, he, hk, rfl⟩ := hz
  have hU := two_zpow_pos u
  rcases le_or_gt u (e - m) with hle | hlt
  · rw [two_zpow_toNat hle, ← mul_assoc]
    obtain ⟨t, ht⟩ : ∃ t : Int, k * 2 ^ (e - m - u).toNat = t := ⟨_, rfl⟩
    have hR : (k : ℝ) * 2 ^ (e - m - u).toNat = t := by exact_mod_cast ht
    rw [hR, mul_le_mul_iff_of_pos_right hU, mul_le_mul_iff_of_pos_right hU]
    rcases lt_or_ge (n : Int) t with h | h
    · exact .inr (by exact_mod_cast h)
    · exact .inl (by exact_mod_cast h)
  · have hn' : 2 ^ m ≤ n := by omega
    have hk' : (k : ℝ) ≤ 2 ^ (m + 1) := by exact_mod_cast ((le_abs_self k).trans hk.le)
    refine .inl ?_
    calc (k : ℝ) * 2 ^ (e - m) ≤ 2 ^ (m + 1) * 2 ^ (u - 1) :=
          mul_le_mul hk' (two_zpow_le.2 (by omega)) (two_zpow_pos _).le (by positivity)
      _ = 2 ^ m * 2 ^ u := by rw [two_zpow_toNat (show u - 1 ≤ u by omega), show u - (u - 1) = 1 by ring]; norm_num [pow_succ]; ring
      _ ≤ n * 2 ^ u := mul_le_mul_of_nonneg_right (by exact_mod_cast hn') hU.le

/-- The mode whose results are the negatives of a mode's at the negatives. -/
def mirror : Rm → Rm
  | .rdn => .rup | .rup => .rdn | r => r

theorem upward_mirror (rm : Rm) (n : Nat) (d : ℝ) : Upward (mirror rm) false n d ↔ Upward rm true n d := by
  cases rm <;> simp [Upward, mirror]

theorem nearest_mirror {rm : Rm} {v q : ℝ} (h : Claim.Nearest (Claim.Grid m bias) (mirror rm) v q) :
    Claim.Nearest (Claim.Grid m bias) rm (-v) (-q) := by
  obtain ⟨hq, h⟩ := h
  refine ⟨grid_neg hq, ?_⟩
  cases rm with
  | rne =>
    intro z hz
    obtain ⟨h1, h2⟩ := h (-z) (grid_neg hz)
    rw [show -v - -q = -(v - q) by ring, show -v - z = -(v - -z) by ring, abs_neg, abs_neg]
    refine ⟨h1, fun heq hne => ?_⟩
    obtain ⟨k, hk⟩ := h2 heq (fun hzq => hne (by rw [← hzq, neg_neg]))
    refine ⟨-k, ?_⟩
    rw [show z - -q = -(-z - q) by ring, abs_neg]
    push_cast
    linarith
  | rtz =>
    obtain ⟨h1, h2, h3⟩ := h
    exact ⟨by linarith, by rwa [abs_neg, abs_neg], fun z hz hle => by rw [abs_neg] at hle ⊢; exact h3 z hz hle⟩
  | rdn => exact ⟨by linarith [h.1], fun z hz hle => by linarith [h.2 (-z) (grid_neg hz) (by linarith)]⟩
  | rup => exact ⟨by linarith [h.1], fun z hz hle => by linarith [h.2 (-z) (grid_neg hz) (by linarith)]⟩

/-- Between two neighbours the nearer is the nearest, and of a tie the even one (R238). -/
theorem nearest_even {grid : ℝ → Prop} {U : ℝ} {k : Nat} (hU : 0 < U) (h0 : 0 ≤ d) (h1 : d ≤ 1)
    (hgap : ∀ z, grid z → z ≤ n * U ∨ (n + 1) * U ≤ z)
    (hk : (Upward .rne false n d ∧ k = n + 1) ∨ (¬Upward .rne false n d ∧ k = n)) :
    ∀ z, grid z → |(n + d) * U - k * U| ≤ |(n + d) * U - z| ∧
      (|(n + d) * U - z| = |(n + d) * U - k * U| → z ≠ k * U → ∃ j : Int, k * U = 2 * j * |z - k * U|) := by
  intro z hz
  obtain ⟨hup, rfl⟩ | ⟨hup, rfl⟩ := hk
  · have hd : 1 ≤ 2 * d := hup.elim le_of_lt fun h => h.1.ge
    push_cast
    rw [abs_of_nonpos (show (n + d) * U - (n + 1) * U ≤ 0 by nlinarith)]
    rcases hgap z hz with hle | hge
    · rw [abs_of_nonneg (show 0 ≤ (n + d) * U - z by nlinarith)]
      refine ⟨by nlinarith, fun heq _ => ?_⟩
      have hhalf : 2 * d = 1 := le_antisymm (by nlinarith) hd
      obtain ⟨j, hj⟩ : ∃ j, n + 1 = 2 * j := ⟨(n + 1) / 2, by have := (hup.resolve_left (by linarith)).2; omega⟩
      have hjR : (n : ℝ) + 1 = 2 * j := by exact_mod_cast hj
      refine ⟨j, ?_⟩
      rw [show z = n * U by nlinarith, show n * U - (n + 1) * U = -U by ring, abs_neg, abs_of_pos hU, hjR, Int.cast_natCast]
    · rw [abs_of_nonpos (show (n + d) * U - z ≤ 0 by nlinarith)]
      exact ⟨by nlinarith, fun heq hne => absurd (show z = (n + 1) * U by linarith) hne⟩
  · obtain ⟨hd, hodd⟩ := not_or.1 hup
    rw [abs_of_nonneg (show 0 ≤ (k + d) * U - k * U by nlinarith)]
    rcases hgap z hz with hle | hge
    · rw [abs_of_nonneg (show 0 ≤ (k + d) * U - z by nlinarith)]
      exact ⟨by nlinarith, fun heq hne => absurd (show z = k * U by linarith) hne⟩
    · rw [abs_of_nonpos (show (k + d) * U - z ≤ 0 by nlinarith)]
      refine ⟨by nlinarith, fun heq _ => ?_⟩
      have hhalf : 2 * d = 1 := le_antisymm (not_lt.1 hd) (by nlinarith)
      obtain ⟨j, hj⟩ : ∃ j, k = 2 * j := ⟨k / 2, by have := mt (And.intro hhalf) hodd; omega⟩
      have hjR : (k : ℝ) = 2 * j := by exact_mod_cast hj
      refine ⟨j, ?_⟩
      rw [show z = (k + 1) * U by nlinarith, show (k + 1) * U - k * U = U by ring, abs_of_pos hU, hjR, Int.cast_natCast]

variable (hu : 1 - bias - m ≤ u) (hn : u = 1 - bias - m ∨ 2 ^ m ≤ n) (hlt : n < 2 ^ (m + 1)) {rm : Rm} {k : Nat} {x : Bool}
include hu hn hlt

/-- The units chosen are the nearest point of the grid, for a value that is not negative. -/
theorem nearest_pos (h : RoundedUnits rm false n d k x) : Claim.Nearest (Claim.Grid m bias) rm ((n + d) * 2 ^ u) (k * 2 ^ u) := by
  obtain ⟨h0, h1, -, hk⟩ := h
  have hU := two_zpow_pos u
  have hk2 : k ≤ 2 ^ (m + 1) := by omega
  refine ⟨grid_mem hu hk2, ?_⟩
  have hgap : ∀ z, Claim.Grid m bias z → z ≤ n * 2 ^ u ∨ (n + 1) * 2 ^ u ≤ z := fun z hz => grid_gap hz hn
  generalize (2 : ℝ) ^ u = U at hU hgap
  have hdU : 0 ≤ d * U := by positivity
  have hdU1 : d * U < U := by nlinarith
  have hnU : 0 ≤ n * U := by positivity
  cases rm with
  | rne => exact nearest_even hU h0 h1.le hgap hk
  | rtz =>
    obtain ⟨hup, -⟩ | ⟨-, rfl⟩ := hk
    · exact hup.elim
    · refine ⟨by nlinarith, ?_, fun z hz hle => ?_⟩
      · rw [abs_of_nonneg hnU, abs_of_nonneg (by nlinarith)]
        nlinarith
      · rw [abs_of_nonneg (show 0 ≤ (k + d) * U by nlinarith)] at hle
        rw [abs_of_nonneg hnU]
        exact (hgap _ (grid_abs hz)).elim id fun h => by nlinarith
  | rdn =>
    obtain ⟨⟨hup, -⟩, -⟩ | ⟨-, rfl⟩ := hk
    · exact absurd hup (by decide)
    · exact ⟨by nlinarith, fun z hz hle => (hgap z hz).elim id fun h => by nlinarith⟩
  | rup =>
    obtain ⟨⟨-, hd⟩, rfl⟩ | ⟨hup, rfl⟩ := hk
    · have hd' : 0 < d := lt_of_le_of_ne h0 (Ne.symm hd)
      push_cast
      exact ⟨by nlinarith, fun z hz hle => (hgap z hz).elim (fun h => by nlinarith) id⟩
    · have hd : d = 0 := by simpa [Upward] using hup
      subst hd
      exact ⟨by linarith, fun z hz hle => by linarith⟩

/-- The same for a value that is not positive. -/
theorem nearest_neg (h : RoundedUnits rm true n d k x) : Claim.Nearest (Claim.Grid m bias) rm (-((n + d) * 2 ^ u)) (-(k * 2 ^ u)) := by
  refine nearest_mirror (nearest_pos hu hn hlt (x := x) ⟨h.nonneg, h.lt_one, h.inexact, ?_⟩)
  simpa only [upward_mirror] using h.unit
end

/-! ## Rounding to a format (R243, R270, R271) -/

/-- A format's grid in the model and its parameters in R264 and R265 say the same. -/
structure FormatShape (f : Fmt) (g : FGrid) (w m : Nat) (bias : Int) (top : Nat) (inf : Option Nat) : Prop where
  width : f.width = w
  fb : g.fb = m
  emin : g.emin = 1 - bias
  frac_le : m ≤ w - 1
  inf_eq : fmtInf f = inf
  top_eq : g.encode g.maxM g.maxE = top
  top_lt : top < 2 ^ (w - 1)
  top_mag : codeMag m (1 - bias) top = g.maxM * 2 ^ g.maxE

/-- The spacing at a magnitude leaves a significand of the grid, and is above the units of an inexact value. -/
theorem ulp_spec (g : FGrid) {y : ℝ} {m : Nat} {e : Int} {sticky : Bool} (h : Within y m e sticky) (hm : m ≠ 0)
    (hst : sticky = true → 2 ^ (g.fb + 1) ≤ m) :
    g.emin - g.fb ≤ g.ulp m e ∧ (sticky = true → e < g.ulp m e) ∧
      ∀ (n : Nat) (d : ℝ), y = (n + d) * 2 ^ g.ulp m e → 0 ≤ d → d < 1 →
      n < 2 ^ (g.fb + 1) ∧ (g.ulp m e = g.emin - g.fb ∨ 2 ^ g.fb ≤ n) := by
  have hu : g.ulp m e = max ((m.log2 : Int) + e) g.emin - g.fb := rfl
  refine ⟨by omega, fun hs => ?_, fun n d hy h0 h1 => ?_⟩
  · have := (Nat.le_log2 hm).2 (hst hs)
    omega
  have hU := two_zpow_pos (g.ulp m e)
  have hlow : (2 : ℝ) ^ ((m.log2 : Int) + e) ≤ y := (pow_log2_le hm e).trans h.le
  have hhigh : y < 2 ^ ((m.log2 : Int) + 1 + e) := h.lt.trans_le (lt_pow_log2 m e)
  constructor
  · have hle : (2 : ℝ) ^ ((m.log2 : Int) + 1 + e) ≤ 2 ^ (g.fb + 1) * 2 ^ g.ulp m e := by
      rw [← zpow_natCast, ← two_zpow_add, two_zpow_le]
      push_cast
      omega
    have hlt : (n : ℝ) * 2 ^ g.ulp m e < 2 ^ (g.fb + 1) * 2 ^ g.ulp m e := by nlinarith
    exact_mod_cast (mul_lt_mul_iff_of_pos_right hU).1 hlt
  · rcases le_or_gt ((m.log2 : Int) + e) g.emin with hle | hgt
    · exact .inl (by omega)
    · refine .inr ?_
      have heq : (m.log2 : Int) + e = g.fb + g.ulp m e := by omega
      rw [heq, two_zpow_add, zpow_natCast, hy] at hlow
      have hlt : (2 : ℝ) ^ g.fb < n + 1 := by
        have := (mul_le_mul_iff_of_pos_right hU).1 hlow
        linarith
      have hnat : 2 ^ g.fb < n + 1 := by exact_mod_cast hlt
      omega

/-- A real with a sign. -/
def signReal (neg : Bool) (y : ℝ) : ℝ := if neg then -y else y

theorem signReal_abs (v : ℝ) : signReal (decide (v < 0)) |v| = v := by
  unfold signReal
  split
  case isTrue h => rw [abs_of_neg (by simpa using h), neg_neg]
  case isFalse h => exact abs_of_nonneg (by simpa using h)
theorem abs_signReal (neg : Bool) {y : ℝ} (h : 0 ≤ y) : |signReal neg y| = y := by
  cases neg <;> simp [signReal, abs_of_nonneg h]
theorem signReal_eq_zero {neg : Bool} {y : ℝ} : signReal neg y = 0 ↔ y = 0 := by cases neg <;> simp [signReal]
theorem signReal_inj (neg : Bool) {x y : ℝ} : signReal neg x = signReal neg y ↔ x = y := by cases neg <;> simp [signReal]

theorem nearest_signed {m n k : Nat} {bias u : Int} {d : ℝ} {rm : Rm} {neg x : Bool} (hu : 1 - bias - m ≤ u)
    (hn : u = 1 - bias - m ∨ 2 ^ m ≤ n)
    (hlt : n < 2 ^ (m + 1)) (h : RoundedUnits rm neg n d k x) :
    Claim.Nearest (Claim.Grid m bias) rm (signReal neg ((n + d) * 2 ^ u)) (signReal neg (k * 2 ^ u)) := by
  cases neg
  · exact nearest_pos hu hn hlt h
  · exact nearest_neg hu hn hlt h

/-- A signed code by the sign of a nonzero value. -/
theorem signed_sgn (f : Fmt) (v : ℝ) (c : Nat) :
    (0 < v → signed f (decide (v < 0)) c = c) ∧ (v < 0 → signed f (decide (v < 0)) c = 2 ^ (f.width - 1) + c) :=
  ⟨fun h => by simp [signed, h.not_gt], fun h => by simp [signed, h, Nat.add_comm]⟩

/-- A signed code's value. -/
theorem codeReal_signed {f : Fmt} {m c : Nat} (hm : m ≤ f.width - 1) (hc : c < 2 ^ (f.width - 1)) (bias : Int) (neg : Bool) :
    Claim.codeReal f.width m bias (signed f neg c) = signReal neg (codeMag m (1 - bias) c) := by
  have hpos := Nat.two_pow_pos (f.width - 1)
  rw [codeReal_eq hm]
  cases neg
  · simp [signed, signReal, Nat.div_eq_of_lt hc, Nat.mod_eq_of_lt hc]
  · simp [signed, signReal, Nat.add_div_right _ hpos, Nat.div_eq_of_lt hc, Nat.mod_eq_of_lt hc]

/-- An inexact result is tiny where its magnitude, not zero, is below the smallest normal number (R243). -/
theorem tiny_iff (k : Nat) (u emin : Int) :
    (decide (k ≠ 0) && decide ((k.log2 : Int) + u < emin)) = true ↔ 0 < (k : ℝ) * 2 ^ u ∧ (k : ℝ) * 2 ^ u < 2 ^ emin := by
  have hU := two_zpow_pos u
  rcases Nat.eq_zero_or_pos k with rfl | hk
  · simp
  · have hkR : (0 : ℝ) < k := by exact_mod_cast hk
    simp [hk.ne', log2_add_lt hk.ne', mul_pos hkR hU]

/-- The flags of a result of `k` units: PE when it is inexact, and UF when it is tiny too (R243). -/
theorem inexact_flags (x : Bool) (k : Nat) (u emin : Int) :
    let fl := (if x then flPE else 0) ||| (if x && (decide (k ≠ 0) && decide ((k.log2 : Int) + u < emin)) then flUF else 0)
    (x = false → fl = 0) ∧ (x = true → 0 < (k : ℝ) * 2 ^ u → (k : ℝ) * 2 ^ u < 2 ^ emin → fl = flPE ||| flUF) ∧
      (x = true → ¬(0 < (k : ℝ) * 2 ^ u ∧ (k : ℝ) * 2 ^ u < 2 ^ emin) → fl = flPE) := by
  intro fl
  refine ⟨?_, ?_, ?_⟩
  · rintro rfl
    simp [fl]
  · rintro rfl h0 h1
    exact congrArg (flPE ||| ·) (if_pos ((tiny_iff k u emin).2 ⟨h0, h1⟩))
  · rintro rfl h
    exact congrArg (flPE ||| ·) (if_neg (mt (tiny_iff k u emin).1 h))

/-- An overflow to a format without infinity gives its largest value (R271). -/
theorem overflowCode_of_none {f : Fmt} (h : fmtInf f = none) (g : FGrid) (rm : Round) (sat neg : Bool) :
    overflowCode f g rm sat neg = signed f neg (g.encode g.maxM g.maxE) := by
  unfold overflowCode
  rw [h]
/-- An overflow to a format with infinity gives that or the largest finite value, by mode and SAT (R271). -/
theorem overflowCode_of_some {f : Fmt} {i : Nat} (h : fmtInf f = some i) (g : FGrid) (rm : Rm) (sat : Bool) {v : ℝ} (hv : v ≠ 0) :
    ∃ toMax : Bool, (toMax = true ↔ sat = true ∨ rm = .rtz ∨ (rm = .rdn ∧ 0 < v) ∨ (rm = .rup ∧ v < 0)) ∧
      overflowCode f g (roundOf rm) sat (decide (v < 0)) = signed f (decide (v < 0)) (if toMax then g.encode g.maxM g.maxE else i) := by
  have hpos : 0 < v ↔ ¬v < 0 := by rw [not_lt, hv.symm.le_iff_lt]
  unfold overflowCode
  rw [h]
  refine ⟨_, ?_, rfl⟩
  cases rm <;> simp [roundOf, hpos]

/-- A value that is not zero, rounded onto a format (R238, R243, R270, R271). -/
theorem rounded_roundTo {f : Fmt} {g : FGrid} {w m top : Nat} {bias : Int} {inf : Option Nat} (hs : FormatShape f g w m bias top inf) {v : ℝ}
    {M : Nat} {e : Int} {sticky : Bool} (hv : Within |v| M e sticky) (hM : M ≠ 0) (hst : sticky = true → 2 ^ (m + 1) ≤ M) (rm : Rm) (sat : Bool)
    (rbits : Nat) : Claim.Rounded w m bias top inf rm sat v (roundTo f g (roundOf rm) sat rbits (decide (v < 0)) sticky M e) := by
  obtain ⟨rfl, rfl, hemin, hfrac, rfl, rfl, htop, hmag⟩ := hs
  obtain ⟨hu, hsu, hsig⟩ := ulp_spec g hv hM hst
  obtain ⟨n, d, hnd, hr⟩ := roundAt_spec rm (decide (v < 0)) rbits hv hsu
  obtain ⟨hlt, hn⟩ := hsig n d hnd hr.nonneg hr.lt_one
  unfold roundTo
  dsimp only
  generalize g.ulp M e = u at *
  generalize roundAt (roundOf rm) (decide (v < 0)) sticky rbits M e u = r at *
  obtain ⟨k, x⟩ := r
  dsimp only at hr ⊢
  have hU := two_zpow_pos u
  have hk0 : (0 : ℝ) ≤ k * 2 ^ u := by positivity
  have hv0 : v ≠ 0 := by
    have hpos : (0 : ℝ) < M * 2 ^ e := mul_pos (by exact_mod_cast Nat.pos_of_ne_zero hM) (two_zpow_pos e)
    exact abs_pos.1 (hpos.trans_le hv.le)
  have hk : k ≤ 2 ^ (g.fb + 1) ∧ (u = g.emin - g.fb ∨ 2 ^ g.fb ≤ k) := by
    obtain ⟨-, h⟩ | ⟨-, h⟩ := hr.unit <;> omega
  have hnear := nearest_signed (hemin ▸ hu) (hemin ▸ hn) hlt hr
  rw [← hnd, signReal_abs] at hnear
  have hexact : signReal (decide (v < 0)) (k * 2 ^ u) = v ↔ x = false := by
    rw [← hr.exact_iff]
    calc signReal (decide (v < 0)) (k * 2 ^ u) = v ↔ signReal (decide (v < 0)) (k * 2 ^ u) = signReal (decide (v < 0)) |v| := by rw [signReal_abs]
      _ ↔ (k : ℝ) = n + d := by rw [signReal_inj, hnd, mul_left_inj' hU.ne']
  have hovers := over_iff g k u
  have htopReal : Claim.codeReal f.width g.fb bias (g.encode g.maxM g.maxE) = g.maxM * 2 ^ g.maxE :=
    (codeReal_signed hfrac htop bias false).trans hmag
  refine ⟨signReal (decide (v < 0)) (k * 2 ^ u), hnear, ?_⟩
  simp only [abs_signReal _ hk0, htopReal]
  split
  case isTrue hover =>
    refine ⟨fun h => absurd h (not_le.2 (hovers.1 hover)), fun _ => ⟨rfl, ?_⟩⟩
    cases hinf : fmtInf f with
    | none =>
      rw [overflowCode_of_none hinf]
      exact signed_sgn f v _
    | some i =>
      obtain ⟨toMax, hmax, hcode⟩ := overflowCode_of_some hinf g rm sat hv0
      rw [hcode]
      refine ⟨fun h => ?_, fun h => ?_⟩
      · rw [if_pos (hmax.2 h)]
        exact signed_sgn f v _
      · rw [if_neg (mt hmax.1 h)]
        exact signed_sgn f v _
  case isFalse hover =>
    have hle : (k : ℝ) * 2 ^ u ≤ g.maxM * 2 ^ g.maxE := not_lt.1 (mt hovers.2 hover)
    have hcode := codeMag_encode hu hk.1 hk.2
    obtain ⟨hfl0, hfl1, hfl2⟩ := inexact_flags x k u g.emin
    have hctop : g.encode k u ≤ g.encode g.maxM g.maxE :=
      (codeMag_strictMono g.fb g.emin).le_iff_le.1 (by rw [hcode, hemin, hmag]; exact hle)
    refine ⟨fun _ => ⟨⟨_, hctop, signed_sgn f v _⟩, ?_, ?_, ?_, ?_⟩, fun h => absurd hle (not_le.2 h)⟩
    · rw [codeReal_signed hfrac (hctop.trans_lt htop), ← hemin, hcode]
    · exact fun h => hfl0 (hexact.1 h)
    · exact fun h h0 h1 => hfl1 (by simpa using mt hexact.2 h) h0 (hemin ▸ h1)
    · refine fun h h0 => hfl2 (by simpa using mt hexact.2 h) fun ⟨hpos, hlt⟩ => ?_
      rcases h0 with h0 | h0
      · rw [signReal_eq_zero] at h0
        exact hpos.ne' h0
      · rw [hemin] at hlt
        exact absurd hlt (not_lt.2 h0)

end Sys2Proof.Machine
end

section
/-!
FP32 operands and results (R238 to R240, R254, R264): what a lane's value means over the reals, and the sums and products of VFADD, VFSUB, VFMUL,
VFMA and VFMS.
-/
open Claim (Ext extOf isNan isSig zeroOf infOf nvOf to32 withNan sumOf productOf minusOf infZero)

namespace Sys2Proof.Machine

/-! ## Operands (R239, R264) -/

theorem getLsbD_31 (x : Lane) : x.getLsbD 31 = decide (x.toNat / 2 ^ 31 % 2 = 1) := by
  rw [BitVec.getLsbD, Nat.testBit_eq_decide_div_mod_eq]

/-- The value of a lane by its code without the sign. -/
theorem f32Val_eq (x : Lane) : f32Val x =
    if 0x7F800000 < x.toNat % 2 ^ 31 then .nan (!x.getLsbD 22)
    else if x.toNat % 2 ^ 31 = 0x7F800000 then .inf (x.getLsbD 31)
    else finOf 23 (-126) (x.getLsbD 31) (x.toNat % 2 ^ 31 / 2 ^ 23) (x.toNat % 2 ^ 31 % 2 ^ 23) := by
  have hexp : x.toNat / 2 ^ 23 % 2 ^ 8 = x.toNat % 2 ^ 31 / 2 ^ 23 := by omega
  have hfrac : x.toNat % 2 ^ 23 = x.toNat % 2 ^ 31 % 2 ^ 23 := by omega
  have hbit : bitOf (x.toNat % 2 ^ 23) 22 = x.getLsbD 22 := by rw [bitOf_eq_testBit, Nat.testBit_mod_two_pow]; simp [BitVec.getLsbD]
  have hsign : bitOf x.toNat 31 = x.getLsbD 31 := bitOf_eq_testBit ..
  simp only [f32Val, ieeeVal, hexp, hbit, hsign, Bool.true_and]
  rw [hfrac]
  split
  case isTrue h =>
    split
    case isTrue h0 => rw [if_neg (by omega), if_pos (by omega)]
    case isFalse h0 => rw [if_pos (by omega)]
  case isFalse h => rw [if_neg (by omega), if_neg (by omega)]

theorem f32Val_of_nan {x : Lane} (h : isNan x) : f32Val x = .nan (!x.getLsbD 22) := by
  rw [f32Val_eq, if_pos (show 0x7F800000 < x.toNat % 2 ^ 31 from h)]
theorem f32Val_of_inf {x : Lane} (h : x.toNat % 2 ^ 31 = 0x7F800000) : f32Val x = .inf (x.getLsbD 31) := by
  rw [f32Val_eq, if_neg (by omega), if_pos h]

/-- The magnitude of a finite value is its code's. -/
theorem finOf_eq (fb : Nat) (emin : Int) (neg : Bool) (c : Nat) :
    ∃ m e, finOf fb emin neg (c / 2 ^ fb) (c % 2 ^ fb) = .fin neg m e ∧ (m : ℝ) * 2 ^ e = codeMag fb emin c := by
  unfold finOf codeMag
  split
  · exact ⟨_, _, rfl, rfl⟩
  · exact ⟨_, _, rfl, rfl⟩

theorem extOf_eq (x : Lane) : extOf x =
    (decide (x.toNat % 2 ^ 31 = 0x7F800000), x.getLsbD 31, signReal (x.getLsbD 31) (codeMag 23 (-126) (x.toNat % 2 ^ 31))) := by
  rw [extOf, codeReal_eq (by decide), getLsbD_31]
  refine Prod.ext rfl (Prod.ext rfl ?_)
  simp [signReal]

/-- A value that is no NaN is an operand's. -/
def FVal.Means (v : FVal) (a : Ext) : Prop :=
  match v with
  | .nan _ => False
  | .inf n => a.1 = true ∧ a.2.1 = n
  | .fin n m e => a.1 = false ∧ a.2.1 = n ∧ a.2.2 = signReal n (m * 2 ^ e)

theorem f32Val_means {x : Lane} (h : ¬isNan x) : (f32Val x).Means (extOf x) := by
  rw [extOf_eq]
  by_cases hi : x.toNat % 2 ^ 31 = 0x7F800000
  · rw [f32Val_of_inf hi]
    exact ⟨decide_eq_true hi, rfl⟩
  · rw [f32Val_eq, if_neg (show ¬0x7F800000 < x.toNat % 2 ^ 31 from h), if_neg hi]
    obtain ⟨m, e, hfin, hmag⟩ := finOf_eq 23 (-126) (x.getLsbD 31) (x.toNat % 2 ^ 31)
    rw [hfin]
    exact ⟨decide_eq_false hi, rfl, by rw [hmag]⟩

theorem mag_eq_zero {m : Nat} {e : Int} : (m : ℝ) * 2 ^ e = 0 ↔ m = 0 := by simp [(two_zpow_pos e).ne']

section
variable {v w : FVal} {a b : Ext}

theorem FVal.Means.not_nan (h : v.Means a) : v.isNan = false ∧ v.isSig = false := by
  cases v with
  | nan => exact h.elim
  | inf | fin => exact ⟨rfl, rfl⟩
theorem FVal.Means.isInf (h : v.Means a) : v.isInf = a.1 := by
  cases v with
  | nan => exact h.elim
  | inf | fin => exact h.1.symm
theorem FVal.Means.neg (h : v.Means a) : v.neg = a.2.1 := by
  cases v with
  | nan => exact h.elim
  | inf => exact h.2.symm
  | fin => exact h.2.1.symm
theorem FVal.Means.isZero (h : v.Means a) : v.isZero = true ↔ a.1 = false ∧ a.2.2 = 0 := by
  cases v with
  | nan => exact h.elim
  | inf => simp [FVal.isZero, h.1]
  | fin n m e =>
    obtain ⟨h1, -, h2⟩ := h
    rw [h2, signReal_eq_zero, mag_eq_zero]
    simp [FVal.isZero, h1]
/-- A finite operand's value. -/
theorem FVal.Means.finite (h : v.Means a) (hf : a.1 = false) : ∃ m e, v = .fin a.2.1 m e ∧ a.2.2 = signReal a.2.1 (m * 2 ^ e) := by
  cases v with
  | nan => exact h.elim
  | inf => exact absurd (h.1.symm.trans hf) (by decide)
  | fin n m e =>
    obtain ⟨-, rfl, h2⟩ := h
    exact ⟨m, e, rfl, h2⟩
/-- An infinite operand's value. -/
theorem FVal.Means.infinite (h : v.Means a) (hi : a.1 = true) : v = .inf a.2.1 := by
  cases v with
  | nan => exact h.elim
  | inf n => rw [h.2]
  | fin => exact absurd (h.1.symm.trans hi) (by decide)

/-- The exact product of two operands that are not infinity and zero. -/
theorem FVal.Means.times (h : v.Means a) (k : w.Means b) : (v.times w).Means (productOf a b) := by
  have hneg : (v.neg != w.neg) = (a.2.1 != b.2.1) := by rw [h.neg, k.neg]
  cases v with
  | nan => exact h.elim
  | inf n =>
    refine ⟨?_, hneg.symm⟩
    simp [productOf, h.1]
  | fin n m e =>
    cases w with
    | nan => exact k.elim
    | inf n' =>
      refine ⟨?_, hneg.symm⟩
      simp [productOf, k.1]
    | fin n' m' e' =>
      obtain ⟨h1, rfl, h2⟩ := h
      obtain ⟨k1, rfl, k2⟩ := k
      refine ⟨by simp [productOf, h1, k1], rfl, ?_⟩
      rw [productOf, h2, k2, two_zpow_add]
      cases a.2.1 <;> cases b.2.1 <;> simp [signReal] <;> ring
end

/-! ## The sign inverted (R254) -/

theorem flip32_toNat (x : Lane) : (flip32 x).toNat % 2 ^ 31 = x.toNat % 2 ^ 31 ∧ (flip32 x).getLsbD 31 = !x.getLsbD 31 ∧
    (flip32 x).getLsbD 22 = x.getLsbD 22 := by
  refine ⟨?_, ?_, ?_⟩
  · rw [flip32, BitVec.toNat_xor, Nat.xor_mod_two_pow]
    exact Nat.xor_zero _
  · rw [flip32, BitVec.getLsbD_xor]
    exact Bool.xor_true _
  · rw [flip32, BitVec.getLsbD_xor]
    exact Bool.xor_false _

theorem isNan_flip32 {x : Lane} : isNan (flip32 x) ↔ isNan x := by rw [isNan, isNan, (flip32_toNat x).1]
theorem isSig_flip32 {x : Lane} : isSig (flip32 x) ↔ isSig x := by rw [isSig, isSig, isNan_flip32, (flip32_toNat x).2.2]
theorem infZero_flip32 {x y : Lane} : infZero (flip32 x) y ↔ infZero x y := by simp only [infZero, (flip32_toNat x).1]
theorem extOf_flip32 (x : Lane) : extOf (flip32 x) = minusOf (extOf x) := by
  obtain ⟨hlow, hsign, -⟩ := flip32_toNat x
  rw [extOf_eq, extOf_eq, hlow, hsign, minusOf]
  refine Prod.ext rfl (Prod.ext rfl ?_)
  cases x.getLsbD 31 <;> simp [signReal]
theorem productOf_minusOf (a b : Ext) : productOf (minusOf a) b = minusOf (productOf a b) := by
  simp only [productOf, minusOf, Prod.mk.injEq, true_and]
  exact ⟨by cases a.2.1 <;> cases b.2.1 <;> rfl, by ring⟩

/-! ## Results (R238, R240, R243) -/

theorem f32Shape : FormatShape .f32 gF32 32 23 127 0x7F7FFFFF (some 0x7F800000) where
  width := rfl
  fb := rfl
  emin := rfl
  frac_le := by decide
  inf_eq := rfl
  top_eq := by decide
  top_lt := by decide
  top_mag := by
    have h := codeMag_encode (g := gF32) (q := 2 ^ 24 - 1) (u := 104) (by decide) (by decide) (.inr (by decide))
    have htop : gF32.encode (2 ^ 24 - 1) 104 = 0x7F7FFFFF := by decide
    rw [htop] at h
    exact h

/-- A rounded FP32 code has 32 bits. -/
theorem rounded_lt {rm : Rm} {v : ℝ} {r : Nat × FFlags} (h : Claim.Rounded 32 23 127 0x7F7FFFFF (some 0x7F800000) rm false v r) (hv : v ≠ 0) :
    r.1 < 2 ^ 32 := by
  have hsgn : ∀ {c}, c < 2 ^ 31 → (0 < v → r.1 = c) ∧ (v < 0 → r.1 = 2 ^ (32 - 1) + c) → r.1 < 2 ^ 32 := by
    rintro c hc ⟨hpos, hneg⟩
    rcases lt_or_gt_of_ne hv with h | h
    · have := hneg h
      omega
    · have := hpos h
      omega
  obtain ⟨q, -, hin, hover⟩ := h
  rcases le_or_gt |q| (Claim.codeReal 32 23 127 0x7F7FFFFF) with hle | hgt
  · obtain ⟨⟨c, hc, hr⟩, -⟩ := hin hle
    exact hsgn (by omega) hr
  · obtain ⟨-, hmax, hinf⟩ := hover hgt
    by_cases hto : false = true ∨ rm = .rtz ∨ (rm = .rdn ∧ 0 < v) ∨ (rm = .rup ∧ v < 0)
    · exact hsgn (by decide) (hmax hto)
    · exact hsgn (by decide) (hinf hto)

/-- A magnitude that is not zero, rounded to FP32 without FTZ. -/
theorem to32_round32 {v : ℝ} {m : Nat} {e : Int} {sticky : Bool} (hw : Within |v| m e sticky) (hm : m ≠ 0) (hst : sticky = true → 2 ^ 24 ≤ m)
    (rm : Rm) : to32 rm v (round32 false (roundOf rm) (decide (v < 0)) sticky m e) := by
  have hv : v ≠ 0 := by
    have hpos : (0 : ℝ) < m * 2 ^ e := mul_pos (by exact_mod_cast Nat.pos_of_ne_zero hm) (two_zpow_pos e)
    exact abs_pos.1 (hpos.trans_le hw.le)
  have h := rounded_roundTo f32Shape hw hm hst rm false 0
  have hlt := rounded_lt h hv
  unfold to32 round32
  rw [if_neg (fun h => hm h.1)]
  simp only [flush, Bool.false_and, Bool.false_eq_true, if_false, BitVec.toNat_ofNat, Nat.mod_eq_of_lt hlt]
  exact h

theorem decide_signReal (n : Bool) {y : ℝ} (h : 0 < y) : decide (signReal n y < 0) = n := by
  cases n <;> simp [signReal, h, h.le]
/-- A positive magnitude with a sign, rounded to FP32. -/
theorem to32_signed {n sticky : Bool} {y : ℝ} {m : Nat} {e : Int} (hy : 0 < y) (hw : Within y m e sticky) (hm : m ≠ 0)
    (hst : sticky = true → 2 ^ 24 ≤ m) (rm : Rm) : to32 rm (signReal n y) (round32 false (roundOf rm) n sticky m e) := by
  have h := to32_round32 (v := signReal n y) (by rwa [abs_signReal n hy.le]) hm hst rm
  rwa [decide_signReal n hy] at h

/-- An exact sum that is not zero, rounded once. -/
theorem to32_roundInt32 {v : ℝ} {x e : Int} (hv : (x : ℝ) * 2 ^ e = v) (h0 : v ≠ 0) (rm : Rm) (zneg : Bool) :
    to32 rm v (roundInt32 false (roundOf rm) zneg x e) := by
  subst hv
  have he := two_zpow_pos e
  have hx : x ≠ 0 := by rintro rfl; simp at h0
  have hneg : decide (x < 0) = decide ((x : ℝ) * 2 ^ e < 0) := by
    rw [decide_eq_decide, mul_neg_iff]
    simp [he, he.not_gt]
  have habs : |(x : ℝ) * 2 ^ e| = x.natAbs * 2 ^ e := by rw [abs_mul, abs_of_pos he, Nat.cast_natAbs, Int.cast_abs]
  rw [roundInt32, if_neg hx, hneg]
  exact to32_round32 (habs ▸ Within.of_eq ..) (Int.natAbs_ne_zero.2 hx) (fun h => absurd h (by decide)) rm

/-! ## Sums (R238) -/

/-- A finite value as a multiple of a smaller power of two. -/
theorem scaled_real (n : Bool) (m : Nat) {e e0 : Int} (h : e0 ≤ e) : ((FVal.fin n m e).scaled e0 : ℝ) * 2 ^ e0 = signReal n (m * 2 ^ e) := by
  rw [two_zpow_toNat h]
  cases n <;> simp [FVal.scaled, signReal] <;> ring

/-- Two finite values are added exactly, at a common scale, and rounded once. -/
theorem sum32_fin (ftz : Bool) (rm : Round) (zneg n n' : Bool) (m m' : Nat) (e e' : Int) : ∃ x e0,
    sum32 ftz rm zneg [.fin n m e, .fin n' m' e'] = roundInt32 ftz rm zneg x e0 ∧
      (x : ℝ) * 2 ^ e0 = signReal n (m * 2 ^ e) + signReal n' (m' * 2 ^ e') := by
  rcases Nat.eq_zero_or_pos m with rfl | hm <;> rcases Nat.eq_zero_or_pos m' with rfl | hm'
  · exact ⟨0, 0, rfl, by cases n <;> cases n' <;> simp [signReal]⟩
  · refine ⟨(FVal.fin n' m' e').scaled e', e', ?_, ?_⟩
    · simp [sum32, FVal.isInf, FVal.lowExp, FVal.isZero, hm'.ne']
    · rw [scaled_real _ _ le_rfl]
      cases n <;> simp [signReal]
  · refine ⟨(FVal.fin n m e).scaled e, e, ?_, ?_⟩
    · simp [sum32, FVal.isInf, FVal.lowExp, FVal.isZero, hm.ne']
    · rw [scaled_real _ _ le_rfl]
      cases n' <;> simp [signReal]
  · refine ⟨(FVal.fin n m e).scaled (min e' e) + (FVal.fin n' m' e').scaled (min e' e), min e' e, ?_, ?_⟩
    · simp [sum32, FVal.isInf, FVal.lowExp, FVal.isZero, hm.ne', hm'.ne']
    · push_cast
      rw [add_mul, scaled_real _ _ (min_le_right ..), scaled_real _ _ (min_le_left ..)]

theorem sum32_inf_left (ftz : Bool) (rm : Round) (zneg n : Bool) {w : FVal} {b : Ext} (hw : w.Means b) (h : b.1 = true → n = b.2.1) :
    sum32 ftz rm zneg [.inf n, w] = (infOf n, 0) := by
  cases w with
  | nan => exact hw.elim
  | inf n' =>
    obtain rfl : n = n' := (h hw.1).trans hw.2
    cases n <;> rfl
  | fin => cases n <;> rfl
theorem sum32_inf_right (ftz : Bool) (rm : Round) (zneg n n' : Bool) (m : Nat) (e : Int) :
    sum32 ftz rm zneg [.fin n m e, .inf n'] = (infOf n', 0) := by cases n' <;> rfl
theorem sum32_inf_unlike (ftz : Bool) (rm : Round) (zneg : Bool) {n n' : Bool} (h : n ≠ n') : sum32 ftz rm zneg [.inf n, .inf n'] = nvOf := by
  obtain rfl : n' = !n := Bool.eq_not.2 h.symm
  cases n <;> rfl

theorem roundOf_beq_rdn (rm : Rm) : (roundOf rm == .rdn) = decide (rm = .rdn) := by cases rm <;> rfl

theorem signReal_add_eq_zero {n : Bool} {x y : ℝ} (hx : 0 ≤ x) (hy : 0 ≤ y) (h : signReal n x + signReal n y = 0) : x = 0 ∧ y = 0 := by
  cases n <;> simp only [signReal, Bool.false_eq_true, if_false, if_true] at h <;> constructor <;> linarith

/-- The sum of two operands, rounded once (R238). -/
theorem sumOf_sum32 {v w : FVal} {a b : Ext} (hv : v.Means a) (hw : w.Means b) (rm : Rm) :
    sumOf rm a b (sum32 false (roundOf rm) (if v.isZero && w.isZero then zeroSign (roundOf rm) v w else roundOf rm == .rdn) [v, w]) := by
  refine ⟨fun ha hb hne => ?_, fun ha hb => ?_, fun ha hb => ?_, fun ha hb h0 => ?_, fun ha hb h0 => ?_⟩
  · rw [hv.infinite ha, hw.infinite hb]
    exact sum32_inf_unlike _ _ _ hne
  · rw [hv.infinite ha]
    exact sum32_inf_left _ _ _ _ hw hb
  · obtain ⟨m, e, rfl, -⟩ := hv.finite ha
    rw [hw.infinite hb]
    exact sum32_inf_right ..
  · have hzero : (if v.isZero && w.isZero then zeroSign (roundOf rm) v w else roundOf rm == .rdn) =
        if a.2.1 = b.2.1 then a.2.1 else decide (rm = .rdn) := by
      rw [zeroSign, hv.neg, hw.neg, roundOf_beq_rdn]
      split
      case isTrue => rfl
      case isFalse hz =>
        rw [if_neg]
        intro hsign
        obtain ⟨m, e, -, hx⟩ := hv.finite ha
        obtain ⟨m', e', -, hy⟩ := hw.finite hb
        rw [hx, hy, hsign] at h0
        obtain ⟨hx0, hy0⟩ := signReal_add_eq_zero (mul_nonneg m.cast_nonneg (two_zpow_pos e).le)
          (mul_nonneg m'.cast_nonneg (two_zpow_pos e').le) h0
        refine hz ?_
        rw [hv.isZero.2 ⟨ha, by rw [hx, hx0, signReal_eq_zero]⟩, hw.isZero.2 ⟨hb, by rw [hy, hy0, signReal_eq_zero]⟩]
        rfl
    rw [hzero]
    obtain ⟨m, e, hvf, hx⟩ := hv.finite ha
    obtain ⟨m', e', hwf, hy⟩ := hw.finite hb
    rw [hvf, hwf]
    obtain ⟨x, e0, hsum, hval⟩ := sum32_fin false (roundOf rm) (if a.2.1 = b.2.1 then a.2.1 else decide (rm = .rdn)) a.2.1 b.2.1 m m' e e'
    rw [← hx, ← hy, h0, mul_eq_zero, or_iff_left (two_zpow_pos e0).ne', Int.cast_eq_zero] at hval
    rw [hsum, roundInt32, if_pos hval]
    rfl
  · generalize (if v.isZero && w.isZero then zeroSign (roundOf rm) v w else roundOf rm == .rdn) = zneg
    obtain ⟨m, e, hvf, hx⟩ := hv.finite ha
    obtain ⟨m', e', hwf, hy⟩ := hw.finite hb
    rw [hvf, hwf]
    obtain ⟨x, e0, hsum, hval⟩ := sum32_fin false (roundOf rm) zneg a.2.1 b.2.1 m m' e e'
    rw [← hx, ← hy] at hval
    rw [hsum]
    exact to32_roundInt32 hval h0 rm zneg

/-! ## NaNs (R239) -/

theorem isNan_f32Val {x : Lane} : (f32Val x).isNan = true ↔ isNan x := by
  constructor
  · intro h
    by_contra hno
    exact absurd (h.symm.trans (f32Val_means hno).not_nan.1) (by decide)
  · intro h
    rw [f32Val_of_nan h]
    rfl
theorem isSig_f32Val {x : Lane} : (f32Val x).isSig = true ↔ isSig x := by
  constructor
  · intro h
    have hn : isNan x := by
      by_contra hno
      exact absurd (h.symm.trans (f32Val_means hno).not_nan.2) (by decide)
    rw [f32Val_of_nan hn] at h
    exact ⟨hn, by simpa [FVal.isSig] using h⟩
  · intro h
    rw [f32Val_of_nan h.1, h.2]
    rfl
theorem isInf_f32Val {x : Lane} : (f32Val x).isInf = true ↔ x.toNat % 2 ^ 31 = 0x7F800000 := by
  by_cases h : isNan x
  · have hne : x.toNat % 2 ^ 31 ≠ 0x7F800000 := (show 0x7F800000 < x.toNat % 2 ^ 31 from h).ne'
    rw [f32Val_of_nan h]
    exact ⟨fun h => absurd h Bool.false_ne_true, fun h => absurd h hne⟩
  · rw [(f32Val_means h).isInf, extOf_eq, decide_eq_true_eq]
theorem codeMag_eq_zero {m c : Nat} {emin : Int} : codeMag m emin c = 0 ↔ c = 0 := by
  have h0 : codeMag m emin 0 = 0 := by simp [codeMag]
  rw [← h0, (codeMag_strictMono m emin).injective.eq_iff]
theorem isZero_f32Val {x : Lane} : (f32Val x).isZero = true ↔ x.toNat % 2 ^ 31 = 0 := by
  by_cases h : isNan x
  · have hne : x.toNat % 2 ^ 31 ≠ 0 := by
      have : 0x7F800000 < x.toNat % 2 ^ 31 := h
      omega
    rw [f32Val_of_nan h]
    exact ⟨fun h => absurd h Bool.false_ne_true, fun h => absurd h hne⟩
  · rw [(f32Val_means h).isZero, extOf_eq, decide_eq_false_iff_not, signReal_eq_zero, codeMag_eq_zero]
    omega

theorem infZero_f32Val {x y : Lane} :
    ((f32Val x).isInf && (f32Val y).isZero || (f32Val x).isZero && (f32Val y).isInf) = true ↔ infZero x y := by
  simp only [Bool.or_eq_true, Bool.and_eq_true, isInf_f32Val, isZero_f32Val, infZero]
/-- Infinity times zero has no NaN among its operands. -/
theorem not_nan_of_infZero {x y : Lane} (h : infZero x y) : ¬isNan x ∧ ¬isNan y := by
  unfold isNan
  rcases h with ⟨hx, hy⟩ | ⟨hx, hy⟩ <;> omega

section
variable {x y z : Lane}

theorem sig_or : ((f32Val x).isSig || (f32Val y).isSig) = true ↔ isSig x ∨ isSig y := by rw [Bool.or_eq_true, isSig_f32Val, isSig_f32Val]
theorem nan_or : ((f32Val x).isNan || (f32Val y).isNan) = true ↔ isNan x ∨ isNan y := by rw [Bool.or_eq_true, isNan_f32Val, isNan_f32Val]
theorem sig_or_or : ((f32Val x).isSig || (f32Val y).isSig || (f32Val z).isSig) = true ↔ isSig x ∨ isSig y ∨ isSig z := by
  rw [Bool.or_eq_true, sig_or, isSig_f32Val, or_assoc]
theorem nan_or_or : ((f32Val x).isNan || (f32Val y).isNan || (f32Val z).isNan) = true ↔ isNan x ∨ isNan y ∨ isNan z := by
  rw [Bool.or_eq_true, nan_or, isNan_f32Val, or_assoc]
theorem not_sig_or (h : ¬(isNan x ∨ isNan y)) : ¬(isSig x ∨ isSig y) := fun hs => h (hs.imp And.left And.left)
theorem not_sig_or_or (h : ¬(isNan x ∨ isNan y ∨ isNan z)) : ¬(isSig x ∨ isSig y ∨ isSig z) :=
  fun hs => h (hs.imp And.left (Or.imp And.left And.left))

theorem exists_pair {p : Lane → Prop} : (∃ t ∈ [x, y], p t) ↔ p x ∨ p y := by simp
theorem forall_not_pair {p : Lane → Prop} : (∀ t ∈ [x, y], ¬p t) ↔ ¬(p x ∨ p y) := by simp
theorem exists_triple {p : Lane → Prop} : (∃ t ∈ [x, y, z], p t) ↔ p x ∨ p y ∨ p z := by simp
theorem forall_not_triple {p : Lane → Prop} : (∀ t ∈ [x, y, z], ¬p t) ↔ ¬(p x ∨ p y ∨ p z) := by simp

/-! ## Addition and subtraction (R254) -/

theorem fAdd_number (ftz : Bool) (rm : Round) (h : ¬(isNan x ∨ isNan y)) :
    fAdd ftz rm x y = sum32 ftz rm (if (f32Val x).isZero && (f32Val y).isZero then zeroSign rm (f32Val x) (f32Val y) else rm == .rdn)
      [f32Val x, f32Val y] := by
  unfold fAdd
  exact (if_neg (mt sig_or.1 (not_sig_or h))).trans (if_neg (mt nan_or.1 h))

theorem withNan_fAdd (rm : Round) (x y : Lane) : withNan [x, y] False (fAdd false rm x y) := by
  unfold fAdd
  refine ⟨fun h => if_pos (sig_or.2 (exists_pair.1 h)), False.elim, fun h hs _ => ?_⟩
  exact (if_neg (mt sig_or.1 (forall_not_pair.1 hs))).trans (if_pos (nan_or.2 (exists_pair.1 h)))
theorem sumOf_fAdd (rm : Rm) (h : ∀ t ∈ [x, y], ¬isNan t) : sumOf rm (extOf x) (extOf y) (fAdd false (roundOf rm) x y) := by
  have hn := forall_not_pair.1 h
  obtain ⟨hx, hy⟩ := not_or.1 hn
  rw [fAdd_number _ _ hn]
  exact sumOf_sum32 (f32Val_means hx) (f32Val_means hy) rm

/-- Inverting a sign in a list of operands leaves its NaNs. -/
theorem withNan_congr {xs ys : List Lane} {early early' : Prop} {r : FRes} (hsig : (∃ x ∈ ys, isSig x) ↔ ∃ x ∈ xs, isSig x)
    (hnan : (∃ x ∈ ys, isNan x) ↔ ∃ x ∈ xs, isNan x) (hearly : early' ↔ early) (h : withNan xs early r) : withNan ys early' r := by
  obtain ⟨h1, h2, h3⟩ := h
  refine ⟨fun hs => h1 (hsig.1 hs), fun he => h2 (hearly.1 he), fun hn hs he => h3 (hnan.1 hn) ?_ (mt hearly.2 he)⟩
  intro t ht hst
  obtain ⟨u, hu, hsu⟩ := hsig.2 ⟨t, ht, hst⟩
  exact hs u hu hsu

theorem withNan_fSub (rm : Round) (x y : Lane) : withNan [x, y] False (fSub false rm x y) :=
  withNan_congr (by simp [isSig_flip32]) (by simp [isNan_flip32]) Iff.rfl (withNan_fAdd rm x (flip32 y))
theorem sumOf_fSub (rm : Rm) (h : ∀ t ∈ [x, y], ¬isNan t) : sumOf rm (extOf x) (minusOf (extOf y)) (fSub false (roundOf rm) x y) := by
  rw [← extOf_flip32]
  exact sumOf_fAdd rm (by simpa [isNan_flip32] using h)

/-! ## Multiplication (R254) -/

theorem fMul_infinite {p : Ext} {ftz : Bool} {rm : Round} (h : ¬(isNan x ∨ isNan y)) (hz : ¬infZero x y)
    (hp : ((f32Val x).times (f32Val y)).Means p) (hi : p.1 = true) : fMul ftz rm x y = (infOf p.2.1, 0) := by
  unfold fMul
  refine (if_neg (mt sig_or.1 (not_sig_or h))).trans ((if_neg (mt nan_or.1 h)).trans ((if_neg (mt infZero_f32Val.1 hz)).trans ?_))
  rw [hp.infinite hi]
  rfl
theorem fMul_finite {p : Ext} (ftz : Bool) (rm : Round) (h : ¬(isNan x ∨ isNan y)) (hz : ¬infZero x y)
    (hp : ((f32Val x).times (f32Val y)).Means p) (hf : p.1 = false) :
    ∃ m e, fMul ftz rm x y = round32 ftz rm p.2.1 false m e ∧ p.2.2 = signReal p.2.1 (m * 2 ^ e) := by
  obtain ⟨m, e, hv, hval⟩ := hp.finite hf
  refine ⟨m, e, ?_, hval⟩
  unfold fMul
  refine (if_neg (mt sig_or.1 (not_sig_or h))).trans ((if_neg (mt nan_or.1 h)).trans ((if_neg (mt infZero_f32Val.1 hz)).trans ?_))
  rw [hv]
  rfl

theorem withNan_fMul (rm : Round) (x y : Lane) : withNan [x, y] (infZero x y) (fMul false rm x y) := by
  unfold fMul
  refine ⟨fun h => if_pos (sig_or.2 (exists_pair.1 h)), fun h => ?_, fun h hs _ => ?_⟩
  · have hn := not_or.2 (not_nan_of_infZero h)
    exact (if_neg (mt sig_or.1 (not_sig_or hn))).trans ((if_neg (mt nan_or.1 hn)).trans (if_pos (infZero_f32Val.2 h)))
  · exact (if_neg (mt sig_or.1 (forall_not_pair.1 hs))).trans (if_pos (nan_or.2 (exists_pair.1 h)))

/-! ## Fused products (R254) -/

theorem fFma_number (ftz : Bool) (rm : Round) (h : ¬(isNan x ∨ isNan y ∨ isNan z)) (hz : ¬infZero x y) :
    fFma ftz rm x y z = sum32 ftz rm (if ((f32Val x).times (f32Val y)).isZero && (f32Val z).isZero then zeroSign rm ((f32Val x).times (f32Val y))
      (f32Val z) else rm == .rdn) [(f32Val x).times (f32Val y), f32Val z] := by
  unfold fFma
  exact (if_neg (mt sig_or_or.1 (not_sig_or_or h))).trans ((if_neg (mt infZero_f32Val.1 hz)).trans (if_neg (mt nan_or_or.1 h)))

theorem withNan_fFma (rm : Round) (x y z : Lane) : withNan [x, y, z] (infZero x y) (fFma false rm x y z) := by
  unfold fFma
  refine ⟨fun h => if_pos (sig_or_or.2 (exists_triple.1 h)), fun h => ?_, fun h hs hz => ?_⟩
  · by_cases hs : isSig x ∨ isSig y ∨ isSig z
    · exact if_pos (sig_or_or.2 hs)
    · exact (if_neg (mt sig_or_or.1 hs)).trans (if_pos (infZero_f32Val.2 h))
  · exact (if_neg (mt sig_or_or.1 (forall_not_triple.1 hs))).trans
      ((if_neg (mt infZero_f32Val.1 hz)).trans (if_pos (nan_or_or.2 (exists_triple.1 h))))
theorem sumOf_fFma (rm : Rm) (h : ∀ t ∈ [x, y, z], ¬isNan t) (hz : ¬infZero x y) :
    sumOf rm (productOf (extOf x) (extOf y)) (extOf z) (fFma false (roundOf rm) x y z) := by
  have hn := forall_not_triple.1 h
  obtain ⟨hx, hyz⟩ := not_or.1 hn
  obtain ⟨hy, hz'⟩ := not_or.1 hyz
  rw [fFma_number _ _ hn hz]
  exact sumOf_sum32 ((f32Val_means hx).times (f32Val_means hy)) (f32Val_means hz') rm

theorem withNan_fFms (rm : Round) (x y z : Lane) : withNan [x, y, z] (infZero x y) (fFms false rm x y z) :=
  withNan_congr (by simp [isSig_flip32]) (by simp [isNan_flip32]) infZero_flip32.symm (withNan_fFma rm (flip32 x) y z)
theorem sumOf_fFms (rm : Rm) (h : ∀ t ∈ [x, y, z], ¬isNan t) (hz : ¬infZero x y) :
    sumOf rm (minusOf (productOf (extOf x) (extOf y))) (extOf z) (fFms false (roundOf rm) x y z) := by
  rw [← productOf_minusOf, ← extOf_flip32]
  exact sumOf_fFma rm (by simpa [isNan_flip32] using h) (mt infZero_flip32.1 hz)

end

theorem round32_zero (ftz : Bool) (rm : Round) (neg : Bool) (e : Int) : round32 ftz rm neg false 0 e = (zeroOf neg, 0) := rfl

theorem roundedArith : Claim.RoundedArith := by
  intro rm x y z a b c p m nn
  have hpair : nn [x, y] → ¬infZero x y → ¬(isNan x ∨ isNan y) ∧ ((f32Val x).times (f32Val y)).Means p := by
    intro h _
    have hn := forall_not_pair.1 h
    obtain ⟨hx, hy⟩ := not_or.1 hn
    exact ⟨hn, (f32Val_means hx).times (f32Val_means hy)⟩
  have hfinite : p.1 = false → ¬infZero x y := by
    intro hp hz
    have hinf : x.toNat % 2 ^ 31 = 0x7F800000 ∨ y.toNat % 2 ^ 31 = 0x7F800000 := hz.imp And.left And.right
    have hor : (a.1 || b.1) = true := by simpa [a, b, extOf_eq] using hinf
    exact absurd (hor.symm.trans hp) (by decide)
  refine ⟨withNan_fAdd _ _ _, sumOf_fAdd rm, withNan_fSub _ _ _, sumOf_fSub rm, withNan_fMul _ _ _, fun h hz hi => ?_, fun h hf h0 => ?_,
    fun h hf h0 => ?_, withNan_fFma _ _ _ _, sumOf_fFma rm, withNan_fFms _ _ _ _, sumOf_fFms rm⟩
  · obtain ⟨hn, hp⟩ := hpair h hz
    exact fMul_infinite hn hz hp hi
  · obtain ⟨hn, hp⟩ := hpair h (hfinite hf)
    obtain ⟨k, e, hmul, hval⟩ := fMul_finite false m hn (hfinite hf) hp hf
    rw [h0, eq_comm, signReal_eq_zero, mag_eq_zero] at hval
    rw [hmul, hval, round32_zero]
  · obtain ⟨hn, hp⟩ := hpair h (hfinite hf)
    obtain ⟨k, e, hmul, hval⟩ := fMul_finite false m hn (hfinite hf) hp hf
    have hk : k ≠ 0 := fun hk => h0 (by rw [hval, signReal_eq_zero, mag_eq_zero, hk])
    rw [hmul, hval]
    exact to32_signed (mul_pos (by exact_mod_cast Nat.pos_of_ne_zero hk) (two_zpow_pos e)) (Within.of_eq k e) hk (fun h => absurd h (by decide)) rm

end Sys2Proof.Machine
end

section
/-!
Quotients, roots and reciprocals (R247, R258): the magnitudes of VFDIV, VFSQRT, VRCP and VRSQ are the exact ones truncated to 24 bits or more with
a sticky bit, and are rounded once.
-/
open Claim (Ext extOf isNan isSig zeroOf infOf nvOf to32 withNan)

namespace Sys2Proof.Machine

/-! ## Truncated quotients and roots -/

theorem isqrtGo_spec {x n r : Nat} (hle : r * r ≤ x) (hlt : x < (r + 2 ^ n) * (r + 2 ^ n)) :
    isqrtGo x n r * isqrtGo x n r ≤ x ∧ x < (isqrtGo x n r + 1) * (isqrtGo x n r + 1) := by
  induction n generalizing r with
  | zero => exact ⟨hle, hlt⟩
  | succ n ih =>
    unfold isqrtGo
    split
    case isTrue h =>
      refine ih h ?_
      rwa [Nat.add_assoc, ← Nat.two_mul, ← Nat.pow_succ']
    case isFalse h => exact ih hle (not_le.1 h)
theorem isqrt_eq_sqrt (x : Nat) : isqrt x = Nat.sqrt x := by
  refine Nat.eq_sqrt.2 (isqrtGo_spec (Nat.zero_le _) ?_)
  have hx : x < 2 ^ (x.log2 + 1) := Nat.lt_log2_self
  have hle : 2 ^ (x.log2 + 1) ≤ 2 ^ (x.log2 / 2 + 1) * 2 ^ (x.log2 / 2 + 1) := by
    rw [← Nat.pow_add]
    exact Nat.pow_le_pow_right two_pos (by omega)
  rw [Nat.zero_add]
  omega

/-- Units of another size. -/
theorem Within.scale {y : ℝ} {m : Nat} {s : Bool} (h : Within y m 0 s) (k : Int) : Within (y * 2 ^ k) m k s := by
  obtain ⟨hle, hlt, hex⟩ := h
  have hk := two_zpow_pos k
  rw [zpow_zero, mul_one] at hle hlt hex
  exact ⟨mul_le_mul_of_nonneg_right hle hk.le, mul_lt_mul_of_pos_right hlt hk, by rw [hex, mul_left_inj' hk.ne']⟩

theorem within_div (n : Nat) {d : Nat} (hd : 0 < d) : Within ((n : ℝ) / d) (n / d) 0 (decide (n % d ≠ 0)) := by
  have hdR : (0 : ℝ) < d := by exact_mod_cast hd
  have hdm : ((d * (n / d) + n % d : Nat) : ℝ) = n := by exact_mod_cast Nat.div_add_mod n d
  have hlt : ((n % d : Nat) : ℝ) < d := by exact_mod_cast Nat.mod_lt n hd
  push_cast at hdm
  have h0 : (0 : ℝ) ≤ (n % d : Nat) := Nat.cast_nonneg _
  refine ⟨?_, ?_, ?_⟩
  · rw [zpow_zero, mul_one, le_div_iff₀ hdR]
    linarith
  · rw [zpow_zero, mul_one, div_lt_iff₀ hdR]
    linarith
  · rw [zpow_zero, mul_one, div_eq_iff hdR.ne', decide_eq_false_iff_not, not_not, ← Nat.cast_eq_zero (R := ℝ)]
    constructor <;> intro h <;> linarith

theorem within_sqrt (n : Nat) {d : Nat} (hd : 0 < d) :
    Within (Real.sqrt ((n : ℝ) / d)) (Nat.sqrt (n / d)) 0 (decide (Nat.sqrt (n / d) * Nat.sqrt (n / d) * d ≠ n)) := by
  have hdR : (0 : ℝ) < d := by exact_mod_cast hd
  obtain ⟨hle, hlt⟩ := Nat.eq_sqrt.1 (rfl : Nat.sqrt (n / d) = Nat.sqrt (n / d))
  generalize Nat.sqrt (n / d) = r at *
  have hr : (0 : ℝ) ≤ r := Nat.cast_nonneg r
  have hleR : (r : ℝ) * r * d ≤ n := by exact_mod_cast (Nat.le_div_iff_mul_le hd).1 hle
  have hltR : (n : ℝ) < (r + 1) * (r + 1) * d := by exact_mod_cast (Nat.div_lt_iff_lt_mul hd).1 hlt
  refine ⟨?_, ?_, ?_⟩
  · rw [zpow_zero, mul_one]
    refine Real.le_sqrt_of_sq_le ?_
    rw [le_div_iff₀ hdR, sq]
    exact hleR
  · rw [zpow_zero, mul_one, Real.sqrt_lt' (by linarith), div_lt_iff₀ hdR, sq]
    exact hltR
  · rw [zpow_zero, mul_one, Real.sqrt_eq_iff_mul_self_eq (by positivity) hr, div_eq_iff hdR.ne', decide_eq_false_iff_not, not_not, eq_comm]
    exact_mod_cast Iff.rfl

/-- The quotient of two magnitudes (R258). -/
theorem divMag_within {a b : Nat × Int} (ha : a.1 ≠ 0) (hb : b.1 ≠ 0) :
    Within (((a.1 : ℝ) * 2 ^ a.2) / (b.1 * 2 ^ b.2)) (divMag a b).1 (divMag a b).2.1 (divMag a b).2.2 ∧ 2 ^ 24 ≤ (divMag a b).1 := by
  have hbpos := Nat.pos_of_ne_zero hb
  have hbR : (0 : ℝ) < b.1 := by exact_mod_cast hbpos
  constructor
  · have h := (within_div (a.1 * 2 ^ (64 + b.1.log2)) hbpos).scale (a.2 - b.2 - (64 + b.1.log2 : Nat))
    have heq : ((a.1 : ℝ) * 2 ^ a.2) / (b.1 * 2 ^ b.2) =
        ((a.1 * 2 ^ (64 + b.1.log2) : Nat) : ℝ) / b.1 * 2 ^ (a.2 - b.2 - (64 + b.1.log2 : Nat)) := by
      rw [zpow_sub₀ two_ne_zero, zpow_sub₀ two_ne_zero, zpow_natCast]
      push_cast
      field_simp
    rw [heq]
    exact h
  · refine (Nat.le_div_iff_mul_le hbpos).2 ?_
    have hlog : b.1 < 2 ^ (b.1.log2 + 1) := Nat.lt_log2_self
    calc 2 ^ 24 * b.1 ≤ 2 ^ 24 * 2 ^ (b.1.log2 + 1) := Nat.mul_le_mul_left _ hlog.le
      _ = 2 ^ (24 + (b.1.log2 + 1)) := (Nat.pow_add ..).symm
      _ ≤ 2 ^ (64 + b.1.log2) := Nat.pow_le_pow_right two_pos (by omega)
      _ ≤ a.1 * 2 ^ (64 + b.1.log2) := Nat.le_mul_of_pos_left _ (Nat.pos_of_ne_zero ha)

theorem sqrt_mul_even (x : ℝ) (j : Int) : Real.sqrt (x * 2 ^ (2 * j)) = Real.sqrt x * 2 ^ j := by
  rw [two_mul, two_zpow_add, ← sq, mul_comm, Real.sqrt_mul (by positivity), Real.sqrt_sq (two_zpow_pos j).le, mul_comm]

/-- The root of a magnitude (R258). -/
theorem sqrtMag_within {m : Nat} (hm : m ≠ 0) (e : Int) :
    Within (Real.sqrt (m * 2 ^ e)) (sqrtMag m e).1 (sqrtMag m e).2.1 (sqrtMag m e).2.2 ∧ 2 ^ 24 ≤ (sqrtMag m e).1 := by
  obtain ⟨k, hk⟩ : ∃ k : Nat, 128 + (e % 2).toNat = k := ⟨_, rfl⟩
  obtain ⟨j, hj⟩ : ∃ j : Int, e - k = 2 * j := ⟨(e - k) / 2, by omega⟩
  have hdef : sqrtMag m e = (Nat.sqrt (m * 2 ^ k), j, decide (Nat.sqrt (m * 2 ^ k) * Nat.sqrt (m * 2 ^ k) ≠ m * 2 ^ k)) := by
    unfold sqrtMag
    simp only [hk, isqrt_eq_sqrt, hj, Int.mul_ediv_cancel_left _ two_ne_zero]
  rw [hdef]
  constructor
  · have h := (within_sqrt (m * 2 ^ k) one_pos).scale j
    rw [← sqrt_mul_even, ← hj] at h
    have heq : ((m * 2 ^ k : Nat) : ℝ) / (1 : Nat) * 2 ^ (e - k) = m * 2 ^ e := by
      rw [zpow_sub₀ two_ne_zero, zpow_natCast]
      push_cast
      field_simp
    rw [heq, Nat.div_one, Nat.mul_one] at h
    exact h
  · refine Nat.le_sqrt.2 ?_
    calc 2 ^ 24 * 2 ^ 24 ≤ 2 ^ k := by rw [← Nat.pow_add]; exact Nat.pow_le_pow_right two_pos (by omega)
      _ ≤ m * 2 ^ k := Nat.le_mul_of_pos_left _ (Nat.pos_of_ne_zero hm)

/-- The reciprocal root of a magnitude of 24 bits (R247). -/
theorem rsqrtMag_within {m : Nat} (hm : m ≠ 0) (hlt : m < 2 ^ 24) (e : Int) :
    Within (1 / Real.sqrt (m * 2 ^ e)) (rsqrtMag m e).1 (rsqrtMag m e).2.1 (rsqrtMag m e).2.2 ∧ 2 ^ 24 ≤ (rsqrtMag m e).1 := by
  obtain ⟨k, hk⟩ : ∃ k : Nat, 200 + (e % 2).toNat = k := ⟨_, rfl⟩
  obtain ⟨j, hj⟩ : ∃ j : Int, e + k = 2 * j := ⟨(e + k) / 2, by omega⟩
  have hmpos := Nat.pos_of_ne_zero hm
  have hmR : (0 : ℝ) < m := by exact_mod_cast hmpos
  have hdef : rsqrtMag m e = (Nat.sqrt (2 ^ k / m), -j, decide (Nat.sqrt (2 ^ k / m) * Nat.sqrt (2 ^ k / m) * m ≠ 2 ^ k)) := by
    unfold rsqrtMag
    simp only [hk, isqrt_eq_sqrt, hj, Int.mul_ediv_cancel_left _ two_ne_zero]
  rw [hdef]
  constructor
  · have h := (within_sqrt (2 ^ k) hmpos).scale (-j)
    rw [← sqrt_mul_even, mul_neg, ← hj] at h
    have heq : ((2 ^ k : Nat) : ℝ) / m * 2 ^ (-(e + k)) = ((m : ℝ) * 2 ^ e)⁻¹ := by
      rw [zpow_neg, two_zpow_add, zpow_natCast]
      push_cast
      field_simp
    rw [heq, Real.sqrt_inv] at h
    rw [one_div]
    exact h
  · refine Nat.le_sqrt.2 ((Nat.le_div_iff_mul_le hmpos).2 ?_)
    calc 2 ^ 24 * 2 ^ 24 * m ≤ 2 ^ 24 * 2 ^ 24 * 2 ^ 24 := Nat.mul_le_mul_left _ hlt.le
      _ ≤ 2 ^ k := by rw [← Nat.pow_add, ← Nat.pow_add]; exact Nat.pow_le_pow_right two_pos (by omega)

/-! ## Operands -/

/-- A finite operand has at most 24 significant bits (R264). -/
theorem f32Val_fin_lt {x : Lane} {n : Bool} {m : Nat} {e : Int} (h : f32Val x = .fin n m e) : m < 2 ^ 24 := by
  rw [f32Val_eq] at h
  split at h
  · cases h
  · split at h
    · cases h
    · unfold finOf at h
      split at h <;> cases h <;> omega

theorem eq_zeroOf {x : Lane} (h : x.toNat % 2 ^ 31 = 0) : x = zeroOf (x.getLsbD 31) := by
  have hx := x.isLt
  rw [getLsbD_31]
  refine BitVec.eq_of_toNat_eq ?_
  by_cases hs : x.toNat / 2 ^ 31 % 2 = 1
  · rw [decide_eq_true hs, zeroOf, if_pos rfl]
    change x.toNat = 0x80000000
    omega
  · rw [decide_eq_false hs, zeroOf, if_neg (by decide)]
    change x.toNat = 0
    omega

/-- A finite operand that is not zero: its significand, exponent and value. -/
theorem FVal.Means.nonzero {v : FVal} {a : Ext} (h : v.Means a) (hf : a.1 = false) (h0 : a.2.2 ≠ 0) :
    ∃ m e, v = .fin a.2.1 m e ∧ m ≠ 0 ∧ (0 : ℝ) < m * 2 ^ e ∧ a.2.2 = signReal a.2.1 (m * 2 ^ e) := by
  obtain ⟨m, e, hv, hx⟩ := h.finite hf
  have hm : m ≠ 0 := fun hm => h0 (by rw [hx, signReal_eq_zero, mag_eq_zero, hm])
  exact ⟨m, e, hv, hm, mul_pos (by exact_mod_cast Nat.pos_of_ne_zero hm) (two_zpow_pos e), hx⟩
theorem FVal.Means.isZero_false {v : FVal} {a : Ext} (h : v.Means a) (h0 : ¬(a.1 = false ∧ a.2.2 = 0)) : v.isZero = false :=
  Bool.eq_false_iff.2 (mt h.isZero.1 h0)

theorem signReal_div (n n' : Bool) (x y : ℝ) : signReal n x / signReal n' y = signReal (n != n') (x / y) := by
  cases n <;> cases n' <;> simp [signReal, neg_div, div_neg]

/-! ## Division (R258) -/

section
variable {x y : Lane}

theorem withNan_fDiv (x y : Lane) : withNan [x, y] False (fDiv false x y) := by
  unfold fDiv
  refine ⟨fun h => if_pos (sig_or.2 (exists_pair.1 h)), False.elim, fun h hs _ => ?_⟩
  exact (if_neg (mt sig_or.1 (forall_not_pair.1 hs))).trans (if_pos (nan_or.2 (exists_pair.1 h)))

/-- VFDIV of two operands that are no NaN. -/
theorem fDiv_number (ftz : Bool) (hx : ¬isNan x) (hy : ¬isNan y) : fDiv ftz x y =
    let sg := (extOf x).2.1 != (extOf y).2.1
    let q := divMag (f32Val x).mag (f32Val y).mag
    if ((extOf x).1 && (extOf y).1) || ((f32Val x).isZero && (f32Val y).isZero) then nvOf
    else if (extOf x).1 then (infOf sg, 0)
    else if (extOf y).1 then (zeroOf sg, 0)
    else if (f32Val y).isZero then (infOf sg, flDZ)
    else if (f32Val x).isZero then (zeroOf sg, 0)
    else round32 ftz .rne sg q.2.2 q.1 q.2.1 := by
  have hn := not_or.2 ⟨hx, hy⟩
  rw [← (f32Val_means hx).isInf, ← (f32Val_means hy).isInf, ← (f32Val_means hx).neg, ← (f32Val_means hy).neg]
  unfold fDiv
  exact (if_neg (mt sig_or.1 (not_sig_or hn))).trans (if_neg (mt nan_or.1 hn))

end

/-! ## Roots and reciprocals (R247, R258) -/

section
variable {x : Lane}

theorem exists_single {p : Lane → Prop} : (∃ t ∈ [x], p t) ↔ p x := by simp
theorem forall_not_single {p : Lane → Prop} : (∀ t ∈ [x], ¬p t) ↔ ¬p x := by simp

theorem withNan_fSqrt (x : Lane) : withNan [x] False (fSqrt false x) := by
  unfold fSqrt
  refine ⟨fun h => if_pos (isSig_f32Val.2 (exists_single.1 h)), False.elim, fun h hs _ => ?_⟩
  exact (if_neg (mt isSig_f32Val.1 (forall_not_single.1 hs))).trans (if_pos (isNan_f32Val.2 (exists_single.1 h)))

/-- VFSQRT of an operand that is no NaN. -/
theorem fSqrt_number (ftz : Bool) (hx : ¬isNan x) : fSqrt ftz x =
    let q := sqrtMag (f32Val x).mag.1 (f32Val x).mag.2
    if (f32Val x).isZero then (x, 0)
    else if (extOf x).2.1 then nvOf
    else if (extOf x).1 then (infOf false, 0)
    else round32 ftz .rne false q.2.2 q.1 q.2.1 := by
  rw [← (f32Val_means hx).isInf, ← (f32Val_means hx).neg]
  unfold fSqrt
  exact (if_neg (mt isSig_f32Val.1 (fun h => hx h.1))).trans (if_neg (mt isNan_f32Val.1 hx))

theorem withNan_sfu (f : SfuFn) (x : Lane) : withNan [x] False (sfu f false x) := by
  unfold sfu
  refine ⟨fun h => ?_, False.elim, fun h hs _ => ?_⟩
  · obtain ⟨hn, hb⟩ := exists_single.1 h
    rw [f32Val_of_nan hn, hb]
    rfl
  · have hn := exists_single.1 h
    have hb : x.getLsbD 22 = true := by simpa [isSig, hn] using forall_not_single.1 hs
    rw [f32Val_of_nan hn, hb]
    rfl

variable {n : Bool} {m : Nat} {e : Int} (f : SfuFn) (ftz : Bool)

theorem sfu_inf (h : f32Val x = .inf n) : sfu f ftz x = sfuSpecial f n true := by
  unfold sfu
  rw [h]
theorem sfu_zero (h : f32Val x = .fin n 0 e) : sfu f ftz x = sfuSpecial f n false := by
  unfold sfu
  rw [h]
  rfl
theorem sfu_rcp (h : f32Val x = .fin n m e) (hm : m ≠ 0) :
    sfu .rcp ftz x = round32 ftz .rne n (divMag (1, 0) (m, e)).2.2 (divMag (1, 0) (m, e)).1 (divMag (1, 0) (m, e)).2.1 := by
  unfold sfu
  rw [h]
  exact if_neg hm
theorem sfu_rsq_neg (h : f32Val x = .fin true m e) (hm : m ≠ 0) : sfu .rsq ftz x = nvOf := by
  unfold sfu
  rw [h]
  exact if_neg hm
theorem sfu_rsq (h : f32Val x = .fin false m e) (hm : m ≠ 0) :
    sfu .rsq ftz x = round32 ftz .rne false (rsqrtMag m e).2.2 (rsqrtMag m e).1 (rsqrtMag m e).2.1 := by
  unfold sfu
  rw [h]
  exact if_neg hm
end

/-- A magnitude of 24 bits or more with a sticky bit and a sign, rounded by RNE. -/
theorem to32_sticky {n sticky : Bool} {y : ℝ} {m : Nat} {e : Int} (h : Within y m e sticky ∧ 2 ^ 24 ≤ m) :
    to32 .rne (signReal n y) (round32 false .rne n sticky m e) := by
  obtain ⟨hw, hm⟩ := h
  have hm0 : 0 < m := by omega
  have hpos : (0 : ℝ) < m * 2 ^ e := mul_pos (by exact_mod_cast hm0) (two_zpow_pos e)
  exact to32_signed (hpos.trans_le hw.le) hw hm0.ne' (fun _ => hm) .rne

theorem roundedQuotients : Claim.RoundedQuotients := by
  intro x y a b sg div neg fin nx nxy
  refine ⟨withNan_fDiv x y, ?both, ?inf, ?byInf, ?byZero, ?zero, ?quot, withNan_fSqrt x, withNan_sfu .rcp x,
    withNan_sfu .rsq x, ?infs, ?zeros, ?fins⟩
  case both =>
    rintro ⟨hx, hy⟩ h
    refine (fDiv_number false hx hy).trans (if_pos ?_)
    rcases h with ⟨ha, hb⟩ | ⟨ha, hb, ha0, hb0⟩
    · exact Bool.or_eq_true_iff.2 (.inl (Bool.and_eq_true_iff.2 ⟨ha, hb⟩))
    · exact Bool.or_eq_true_iff.2 (.inr (Bool.and_eq_true_iff.2 ⟨(f32Val_means hx).isZero.2 ⟨ha, ha0⟩, (f32Val_means hy).isZero.2 ⟨hb, hb0⟩⟩))
  case inf =>
    rintro ⟨hx, hy⟩ ha hb
    have hxz := (f32Val_means hx).isZero_false (fun h => Bool.false_ne_true (h.1.symm.trans ha))
    rw [show div = _ from fDiv_number false hx hy, hxz, show (extOf x).1 = true from ha, show (extOf y).1 = false from hb]
    rfl
  case byInf =>
    rintro ⟨hx, hy⟩ ha hb
    have hyz := (f32Val_means hy).isZero_false (fun h => Bool.false_ne_true (h.1.symm.trans hb))
    rw [show div = _ from fDiv_number false hx hy, hyz, show (extOf x).1 = false from ha, show (extOf y).1 = true from hb, Bool.and_false]
    rfl
  case byZero =>
    rintro ⟨hx, hy⟩ ⟨ha, ha0⟩ hb hb0
    have hxz := (f32Val_means hx).isZero_false (fun h => ha0 h.2)
    have hyz := (f32Val_means hy).isZero.2 ⟨hb, hb0⟩
    rw [show div = _ from fDiv_number false hx hy, hxz, hyz, show (extOf x).1 = false from ha, show (extOf y).1 = false from hb]
    rfl
  case zero =>
    rintro ⟨hx, hy⟩ ha ha0 hb hb0
    have hxz := (f32Val_means hx).isZero.2 ⟨ha, ha0⟩
    have hyz := (f32Val_means hy).isZero_false (fun h => hb0 h.2)
    rw [show div = _ from fDiv_number false hx hy, hxz, hyz, show (extOf x).1 = false from ha, show (extOf y).1 = false from hb]
    rfl
  case quot =>
    rintro ⟨hx, hy⟩ ⟨ha, ha0⟩ hb hb0
    have hxz := (f32Val_means hx).isZero_false (fun h => ha0 h.2)
    have hyz := (f32Val_means hy).isZero_false (fun h => hb0 h.2)
    obtain ⟨m, e, hxv, hm, -, hxr⟩ := (f32Val_means hx).nonzero ha ha0
    obtain ⟨m', e', hyv, hm', -, hyr⟩ := (f32Val_means hy).nonzero hb hb0
    rw [show div = _ from fDiv_number false hx hy, hxz, hyz, show (extOf x).1 = false from ha, show (extOf y).1 = false from hb, hxv, hyv,
      show a.2.2 = _ from hxr, show b.2.2 = _ from hyr, signReal_div]
    exact to32_sticky (divMag_within (a := (m, e)) (b := (m', e')) hm hm')
  case infs =>
    intro hx ha
    have hinf := (f32Val_means hx).infinite ha
    refine ⟨?_, sfu_inf .rcp false hinf, sfu_inf .rsq false hinf⟩
    have hxz := (f32Val_means hx).isZero_false (fun h => Bool.false_ne_true (h.1.symm.trans ha))
    rw [fSqrt_number false hx, hxz, show (extOf x).1 = true from ha]
    rfl
  case zeros =>
    intro hx ha ha0
    have hxz := (f32Val_means hx).isZero.2 ⟨ha, ha0⟩
    obtain ⟨m, e, hxv, hxr⟩ := (f32Val_means hx).finite ha
    rw [show (extOf x).2.2 = 0 from ha0, eq_comm, signReal_eq_zero, mag_eq_zero] at hxr
    subst hxr
    refine ⟨?_, sfu_zero .rcp false hxv, sfu_zero .rsq false hxv⟩
    rw [fSqrt_number false hx, hxz]
    exact congrArg (fun t => (t, 0)) ((eq_zeroOf (isZero_f32Val.1 hxz)).trans (by rw [show neg = (extOf x).2.1 from rfl, extOf_eq]))
  case fins =>
    rintro hx ⟨ha, ha0⟩
    have hxz := (f32Val_means hx).isZero_false (fun h => ha0 h.2)
    obtain ⟨m, e, hxv, hm, hpos, hxr⟩ := (f32Val_means hx).nonzero ha ha0
    rw [show a.2.2 = _ from hxr]
    refine ⟨?_, fun hneg => ⟨?_, ?_⟩, fun hneg => ?_⟩
    · rw [sfu_rcp false hxv hm]
      have hquot := divMag_within (a := (1, 0)) (b := (m, e)) one_ne_zero hm
      have hone : signReal false (((1 : Nat) : ℝ) * 2 ^ (0 : Int)) = 1 := by simp [signReal]
      rw [← hone, signReal_div, Bool.false_bne]
      exact to32_sticky hquot
    · rw [fSqrt_number false hx, hxz, show (extOf x).2.1 = true from hneg]
      rfl
    · exact sfu_rsq_neg false (by rw [hxv, show (extOf x).2.1 = true from hneg]) hm
    · rw [show (extOf x).2.1 = false from hneg] at hxv ⊢
      constructor
      · rw [fSqrt_number false hx, hxz, show (extOf x).1 = false from ha, show (extOf x).2.1 = false from hneg, hxv]
        exact to32_sticky (n := false) (sqrtMag_within hm e)
      · rw [sfu_rsq false hxv hm]
        exact to32_sticky (n := false) (rsqrtMag_within hm (f32Val_fin_lt hxv) e)

end Sys2Proof.Machine
end

section
/-!
Special values of the SFU (R239, R247), FTZ (R241), and the statement about the floating-point vector words (O20).
-/
open Claim (extOf isNan isSig zeroOf infOf nvOf)

namespace Sys2Proof.Machine

/-! ## Flushing to zero (R241) -/

/-- With FTZ a result is the one without it, flushed. -/
def Flushed (f : Bool → FRes) : Prop := f true = flush true (f false)

theorem flush_of_normal {r : FRes} (h : r.1.toNat % 2 ^ 31 = 0 ∨ 0x800000 ≤ r.1.toNat % 2 ^ 31) : flush true r = r := by
  unfold flush
  refine if_neg ?_
  simp only [Bool.true_and, Bool.and_eq_true, decide_eq_true_eq]
  omega
theorem flush_of_subnormal {r : FRes} (h0 : 0 < r.1.toNat % 2 ^ 31) (h1 : r.1.toNat % 2 ^ 31 < 0x800000) :
    flush true r = (zeroOf (r.1.getLsbD 31), r.2 ||| flUF ||| flPE) := by
  unfold flush
  rw [if_pos (by simp only [Bool.true_and, Bool.and_eq_true, decide_eq_true_eq]; omega)]
  refine Prod.ext ?_ rfl
  have hlow : (r.1 &&& 0x80000000).toNat % 2 ^ 31 = 0 := by
    rw [BitVec.toNat_and, Nat.and_mod_two_pow]
    exact Nat.and_zero _
  have hsign : (r.1 &&& 0x80000000).getLsbD 31 = r.1.getLsbD 31 := by
    rw [BitVec.getLsbD_and]
    exact Bool.and_true _
  exact (eq_zeroOf hlow).trans (by rw [hsign])

/-- What FTZ does, as R241 says it. -/
theorem Flushed.spec {f : Bool → FRes} (h : Flushed f) :
    (0 < (f false).1.toNat % 2 ^ 31 → (f false).1.toNat % 2 ^ 31 < 0x800000 →
      f true = (zeroOf ((f false).1.getLsbD 31), (f false).2 ||| flUF ||| flPE)) ∧
    ((f false).1.toNat % 2 ^ 31 = 0 ∨ 0x800000 ≤ (f false).1.toNat % 2 ^ 31 → f true = f false) :=
  ⟨fun h0 h1 => h.trans (flush_of_subnormal h0 h1), fun hn => h.trans (flush_of_normal hn)⟩

theorem flushed_const {r : FRes} (h : r.1.toNat % 2 ^ 31 = 0 ∨ 0x800000 ≤ r.1.toNat % 2 ^ 31) : Flushed (fun _ => r) := (flush_of_normal h).symm
theorem flushed_zero (n : Bool) (fl : FFlags) : Flushed (fun _ => (zero32 n, fl)) :=
  flushed_const (.inl (show (zero32 n).toNat % 2 ^ 31 = 0 by cases n <;> rfl))
theorem flushed_inf (n : Bool) (fl : FFlags) : Flushed (fun _ => (inf32 n, fl)) :=
  flushed_const (.inr (show 0x800000 ≤ (inf32 n).toNat % 2 ^ 31 by cases n <;> decide))
theorem flushed_invalid : Flushed (fun _ => invalid) := flushed_const (by decide)
theorem flushed_nan : Flushed (fun _ => (nan32, 0)) := flushed_const (by decide)
theorem Flushed.ite {p : Prop} [Decidable p] {f g : Bool → FRes} (hf : p → Flushed f) (hg : ¬p → Flushed g) :
    Flushed (fun z => if p then f z else g z) := by
  by_cases h : p
  · simpa only [h, if_true] using hf h
  · simpa only [h, if_false] using hg h

theorem flushed_round32 (rm : Round) (neg sticky : Bool) (m : Nat) (e : Int) : Flushed (fun z => round32 z rm neg sticky m e) :=
  Flushed.ite (fun _ => flushed_zero neg 0) (fun _ => rfl)
theorem flushed_roundInt32 (rm : Round) (zneg : Bool) (x e : Int) : Flushed (fun z => roundInt32 z rm zneg x e) :=
  Flushed.ite (fun _ => flushed_zero zneg 0) (fun _ => flushed_round32 ..)
theorem flushed_sum32 (rm : Round) (zneg : Bool) (vs : List FVal) : Flushed (fun z => sum32 z rm zneg vs) := by
  unfold sum32
  refine Flushed.ite (fun _ => flushed_invalid) fun _ => Flushed.ite (fun _ => flushed_inf false 0) fun _ => Flushed.ite (fun _ => flushed_inf true 0)
    fun _ => ?_
  dsimp only
  split
  · exact flushed_zero zneg 0
  · exact flushed_roundInt32 ..

theorem flushed_fAdd (rm : Round) (x y : Lane) : Flushed (fun z => fAdd z rm x y) :=
  Flushed.ite (fun _ => flushed_invalid) fun _ => Flushed.ite (fun _ => flushed_nan) fun _ => flushed_sum32 ..
theorem flushed_fMul (rm : Round) (x y : Lane) : Flushed (fun z => fMul z rm x y) := by
  refine Flushed.ite (fun _ => flushed_invalid) fun _ => Flushed.ite (fun _ => flushed_nan) fun _ => Flushed.ite (fun _ => flushed_invalid) fun _ => ?_
  cases (f32Val x).times (f32Val y) with
  | nan => exact flushed_round32 ..
  | inf n => exact flushed_inf n 0
  | fin => exact flushed_round32 ..
theorem flushed_fFma (rm : Round) (x y w : Lane) : Flushed (fun z => fFma z rm x y w) :=
  Flushed.ite (fun _ => flushed_invalid) fun _ => Flushed.ite (fun _ => flushed_invalid) fun _ => Flushed.ite (fun _ => flushed_nan)
    fun _ => flushed_sum32 ..
theorem flushed_fDiv (x y : Lane) : Flushed (fun z => fDiv z x y) :=
  Flushed.ite (fun _ => flushed_invalid) fun _ => Flushed.ite (fun _ => flushed_nan) fun _ => Flushed.ite (fun _ => flushed_invalid) fun _ =>
    Flushed.ite (fun _ => flushed_inf _ 0) fun _ => Flushed.ite (fun _ => flushed_zero _ 0) fun _ => Flushed.ite (fun _ => flushed_inf _ flDZ)
      fun _ => Flushed.ite (fun _ => flushed_zero _ 0) fun _ => flushed_round32 ..
theorem flushed_fSqrt (x : Lane) : Flushed (fun z => fSqrt z x) :=
  Flushed.ite (fun _ => flushed_invalid) fun _ => Flushed.ite (fun _ => flushed_nan) fun _ =>
    Flushed.ite (fun hz => flushed_const (.inl (isZero_f32Val.1 hz))) fun _ => Flushed.ite (fun _ => flushed_invalid) fun _ =>
      Flushed.ite (fun _ => flushed_inf false 0) fun _ => flushed_round32 ..

theorem flushed_special (f : SfuFn) (n i : Bool) : Flushed (fun _ => sfuSpecial f n i) :=
  flushed_const (by cases f <;> cases n <;> cases i <;> decide)
theorem flushed_fxSigned (y : Int) : Flushed (fun z => fxSigned z y) := flushed_round32 ..
theorem flushed_trig (cosine n : Bool) (m : Nat) (e : Int) : Flushed (fun z => sfuTrig z cosine n m e) := by
  unfold sfuTrig
  refine Flushed.ite (fun _ => Flushed.ite (fun _ => ?_) fun _ => ?_) fun _ => flushed_fxSigned _
  · exact Flushed.ite (fun _ => flushed_const (by decide)) fun _ => Flushed.ite (fun _ => flushed_const (by decide)) fun _ => flushed_zero false 0
  · exact Flushed.ite (fun _ => flushed_const (by decide)) fun _ => Flushed.ite (fun _ => flushed_const (by decide)) fun _ => flushed_zero n 0

theorem flushed_sfu (f : SfuFn) (x : Lane) : Flushed (fun z => sfu f z x) := by
  unfold sfu
  cases f32Val x with
  | nan sg => exact Flushed.ite (fun _ => flushed_invalid) fun _ => flushed_nan
  | inf n => exact flushed_special f n true
  | fin n m e =>
    refine Flushed.ite (fun _ => flushed_special f n false) fun _ => ?_
    cases f with
    | rcp => exact flushed_round32 ..
    | rsq => exact Flushed.ite (fun _ => flushed_invalid) fun _ => flushed_round32 ..
    | exp2 =>
      exact Flushed.ite (fun _ => Flushed.ite (fun _ => flushed_round32 ..) fun _ => flushed_round32 ..) fun _ =>
        Flushed.ite (fun _ => flushed_round32 ..) fun _ => flushed_round32 ..
    | exp => exact Flushed.ite (fun _ => Flushed.ite (fun _ => flushed_round32 ..) fun _ => flushed_round32 ..) fun _ => flushed_round32 ..
    | log2 =>
      exact Flushed.ite (fun _ => flushed_invalid) fun _ => Flushed.ite (fun _ => flushed_round32 ..) fun _ => flushed_fxSigned _
    | sinpi | cospi => exact flushed_trig ..
    | tanh | erf => exact Flushed.ite (fun _ => flushed_round32 ..) fun _ => flushed_round32 ..
    | sigm => exact Flushed.ite (fun _ => Flushed.ite (fun _ => flushed_round32 ..) fun _ => flushed_round32 ..) fun _ => flushed_round32 ..
theorem flushed_gumb (x : Lane) : Flushed (fun z => gumb z x) := flushed_fxSigned _

/-! ## Multiples of a half turn (R247) -/

/-- Twice an angle that is `t` halves of a turn, reduced to a period. -/
theorem two_mul_emod {x t : Int} {k : Nat} (h : 2 * x = t * 2 ^ k) : 2 * (x % 2 ^ (k + 1)).toNat = (t % 4).toNat * 2 ^ k := by
  have hpos : (0 : Int) < 2 ^ (k + 1) := by positivity
  have hmod : 2 * (x % 2 ^ (k + 1)) = t % 4 * 2 ^ k := by
    calc 2 * (x % 2 ^ (k + 1)) = 2 * x % (2 * 2 ^ (k + 1)) := (Int.mul_emod_mul_of_pos _ _ two_pos).symm
      _ = 2 ^ k * t % (2 ^ k * 4) := by rw [h]; ring_nf
      _ = t % 4 * 2 ^ k := by rw [Int.mul_emod_mul_of_pos _ _ (by positivity), mul_comm]
  have h1 := Int.emod_nonneg x hpos.ne'
  have h2 := Int.emod_nonneg t (show (4 : Int) ≠ 0 by decide)
  zify
  rw [Int.toNat_of_nonneg h1, Int.toNat_of_nonneg h2, hmod]

/-- The trigonometric functions at multiples of a half: by the quarter of the period. -/
theorem sfuTrig_of_half {n : Bool} {m : Nat} {e t : Int} (ftz cosine : Bool)
    (h : 2 * ((if n then -(m : Int) else m) * 2 ^ e.toNat) = t * 2 ^ (-e).toNat) : sfuTrig ftz cosine n m e =
      if cosine then (if (t % 4).toNat = 0 then (one32, 0) else if (t % 4).toNat = 2 then (0xBF800000, 0) else (0, 0))
      else (if (t % 4).toNat = 1 then (one32, 0) else if (t % 4).toNat = 3 then (0xBF800000, 0) else (zero32 n, 0)) := by
  have hr := two_mul_emod h
  unfold sfuTrig
  simp only [hr, Nat.mul_mod_left, if_true, Nat.mul_div_cancel _ (Nat.two_pow_pos _)]

/-- A finite operand's value times a power of two that makes it whole. -/
theorem signReal_whole (n : Bool) (m : Nat) (e : Int) :
    (((if n then -(m : Int) else m) * 2 ^ e.toNat : Int) : ℝ) = signReal n (m * 2 ^ e) * 2 ^ (-e).toNat := by
  have he : (2 : ℝ) ^ e * 2 ^ (-e).toNat = 2 ^ e.toNat := by
    rw [← zpow_natCast, ← zpow_natCast, ← two_zpow_add]
    congr 1
    omega
  cases n <;> simp only [signReal, if_true, Bool.false_eq_true, if_false] <;> push_cast <;> rw [← he] <;> ring

theorem halves_of_real {n : Bool} {m : Nat} {e t : Int} (h : 2 * signReal n (m * 2 ^ e) = t) :
    2 * ((if n then -(m : Int) else m) * 2 ^ e.toNat) = t * 2 ^ (-e).toNat := by
  have hw := signReal_whole n m e
  have hreal : (2 : ℝ) * (((if n then -(m : Int) else m) * 2 ^ e.toNat : Int) : ℝ) = t * 2 ^ (-e).toNat := by rw [hw, ← h]; ring
  exact_mod_cast hreal

section
variable {x : Lane} {n : Bool} {m : Nat} {e : Int} (ftz : Bool)

theorem sfu_log2_neg (h : f32Val x = .fin true m e) (hm : m ≠ 0) : sfu .log2 ftz x = nvOf := by
  unfold sfu
  rw [h]
  exact if_neg hm
theorem sfu_sinpi (h : f32Val x = .fin n m e) (hm : m ≠ 0) : sfu .sinpi ftz x = sfuTrig ftz false n m e := by
  unfold sfu
  rw [h]
  exact if_neg hm
theorem sfu_cospi (h : f32Val x = .fin n m e) (hm : m ≠ 0) : sfu .cospi ftz x = sfuTrig ftz true n m e := by
  unfold sfu
  rw [h]
  exact if_neg hm
end

theorem specialValues : Claim.SpecialValues := by
  refine ⟨withNan_sfu, by decide, fun x hx hf h0 => ?_, ?_⟩
  · obtain ⟨m, e, hxv, hm, hpos, hxr⟩ := (f32Val_means hx).nonzero hf h0
    have hsign := decide_signReal (extOf x).2.1 hpos
    rw [← hxr] at hsign
    refine ⟨fun hneg => ?_, fun t ht => ?_, fun t ht => ?_⟩
    · rw [← hsign, decide_eq_true hneg] at hxv
      exact sfu_log2_neg false hxv hm
    · have hhalf : 2 * signReal (extOf x).2.1 (m * 2 ^ e) = ((2 * t : Int) : ℝ) := by rw [← hxr, ht]; push_cast; ring
      have ht0 : decide (t < 0) = (extOf x).2.1 := by rw [← hsign, ht]; simp
      rw [sfu_sinpi false hxv hm, sfuTrig_of_half false false (halves_of_real hhalf), if_neg (by decide), if_neg (by omega), if_neg (by omega), ht0]
      rfl
    · have hhalf : 2 * signReal (extOf x).2.1 (m * 2 ^ e) = ((2 * t + 1 : Int) : ℝ) := by rw [← hxr, ht]; push_cast; ring
      rw [sfu_cospi false hxv hm, sfuTrig_of_half false true (halves_of_real hhalf), if_pos rfl, if_neg (by omega), if_neg (by omega)]
  · exact fun rm g x y z => ⟨(flushed_fAdd _ x y).spec, (flushed_fAdd _ x (flip32 y)).spec, (flushed_fMul _ x y).spec, (flushed_fFma _ x y z).spec,
      (flushed_fFma _ (flip32 x) y z).spec, (flushed_fDiv x y).spec, (flushed_fSqrt x).spec, (flushed_sfu g x).spec, (flushed_gumb x).spec⟩

/-! ## The words (R253 to R261) -/

theorem isNan_iff_and (x : Lane) : isNan x ↔ (x &&& 0x7FFFFFFF).toNat > 0x7F800000 := by
  have hlow : (x &&& 0x7FFFFFFF).toNat = x.toNat % 2 ^ 31 := by
    rw [BitVec.toNat_and]
    exact Nat.and_two_pow_sub_one_eq_mod x.toNat 31
  rw [isNan, hlow, gt_iff_lt]
/-- VFABS and VFNEG give the canonical NaN of a NaN, and raise nothing (R254). -/
theorem signTo_eq (f : Lane → Lane) (x : Lane) : signTo f x = (if (x &&& 0x7FFFFFFF).toNat > 0x7F800000 then 0x7FC00000 else f x, 0) := by
  simp only [signTo, isNan_f32Val, isNan_iff_and]
  rfl

theorem vectorFloat : Claim.VectorFloat := by
  intro s k e d a b rm num cond classes hr
  refine ⟨fpVec_fpBin hr exec_vfadd rfl, fpVec_fpBin hr exec_vfsub rfl, fpVec_fpBin hr exec_vfmul rfl, fpVec_fpTern hr exec_vfma rfl,
    fpVec_fpTern hr exec_vfms rfl, fpVec_fpBin hr exec_vfmin rfl, fpVec_fpBin hr exec_vfmax rfl, ?vfabs, ?vfneg, fpWord_vfcmp hr, ?vfclass⟩
  case vfabs => exact fpVec_fpBin (b := .v a) hr exec_vfabs (funext fun l => signTo_eq (fun x => x &&& 0x7FFFFFFF) _)
  case vfneg => exact fpVec_fpBin (b := .v a) hr exec_vfneg (funext fun l => signTo_eq (fun x => x ^^^ 0x80000000) _)
  case vfclass => exact writesK_runVec (lat := 4) hr exec_vfclass (congrArg (fun x => s.wrK e x 4) (maskOf_eq ..))

theorem vectorSpecial : Claim.VectorSpecial := by
  intro s k d a b g hr
  exact ⟨fpVec_sfu hr exec_vrcp rfl, fpVec_sfu hr exec_vrsq rfl, fpVec_sfu hr exec_vexp2 rfl, fpVec_sfu hr exec_vlog2 rfl,
    fpVec_sfu hr exec_vsinpi rfl, fpVec_sfu hr exec_vcospi rfl, fpVec_sfu hr exec_vtanh rfl, fpVec_sfu hr exec_vsigm rfl,
    fpVec_sfu hr exec_verf rfl, fpVec_sfu hr exec_vgumb rfl, fpVec_sfu hr exec_vfsqrt rfl, fpVec_sfu hr exec_vfdiv rfl, completesTo_vrng hr⟩

/-- Settles O20: the words (`vectorFloat`, `vectorSpecial`), the arithmetic over the reals (`roundedArith`, `roundedQuotients`), and the special
values with FTZ (`specialValues`). -/
theorem vectorReals : Obligations.VectorReals := ⟨vectorFloat, vectorSpecial, roundedArith, roundedQuotients, specialValues⟩

end Sys2Proof.Machine
end
